-- ==== Sys2Proof/Word.lean ====
section
/-!
DEFINITION. The words of the MXK-16P and their plainest arithmetic. Widths are those the manual fixes: 32-bit scalar
registers (R52), 64-bit beat time, addresses and double words (R29, R277), 8,192-bit vector registers (R129), 1,024-bit
predicates and tile rows (R129, R162).
-/

namespace Sys2Proof

/-- A scalar register or a 32-bit register of the module (R52). -/
abbrev Word := BitVec 32

/-- A 64-bit register, a beat time or an address (R29, R277). -/
abbrev DWord := BitVec 64

/-- The smallest addressable unit of every memory (R4). -/
abbrev Byte := BitVec 8

/-- One vector register (R129). -/
abbrev VReg := BitVec 8192

/-- One predicate register, and one 128-byte tile row (R129, R162). -/
abbrev Row := BitVec 1024

/-- A global core number, 0-511 (R17). -/
abbrev CoreId := BitVec 9

/-- A thread h0-h3 of a core (R52). -/
abbrev ThreadId := BitVec 2

/-- A binding, 0-63 (R326). -/
abbrev BindingId := BitVec 6

/-- A submission ring, 0-4,095 (R300). -/
abbrev RingId := BitVec 12

/-- A completion ring, 0-1,023 (R305). -/
abbrev CqId := BitVec 10

/-- A logical tile, 0-15 (R14). -/
abbrev TileId := BitVec 4

/-- A module id (R277). -/
abbrev ModuleId := BitVec 12

/-- A key slot, 0-255 (R331). -/
abbrev SlotId := BitVec 8

end Sys2Proof
end

