-- ==== Sys2Proof/Syntax.lean ====
section
/-!
DEFINITION. The commands of the module: one constructor of `Instr` per row of spec/opcode_table.json, in the table's order.
An instruction command carries the core and thread that issue it and the fields of its word (Tables 03-4, 05-3, 06-7, 07-2 to
07-4); `z` holds the bits that the format marks zero (R67). An event command carries what the event brings from outside.
-/

namespace Sys2Proof

/-- The thread that issues a scalar instruction. -/
structure At where
  core : CoreId
  th : ThreadId
deriving DecidableEq, Repr

/-- Register format: rd, ra, rb (Table 03-4). -/
structure RForm where
  core : CoreId
  th : ThreadId
  rd : BitVec 5
  ra : BitVec 5
  rb : BitVec 5
deriving DecidableEq, Repr

/-- Immediate format: rd, ra, imm16 (Table 03-4). -/
structure IForm where
  core : CoreId
  th : ThreadId
  rd : BitVec 5
  ra : BitVec 5
  imm : BitVec 16
deriving DecidableEq, Repr

/-- Memory format: rd, ra, sz, disp13 (Table 03-4). -/
structure MForm where
  core : CoreId
  th : ThreadId
  rd : BitVec 5
  ra : BitVec 5
  sz : BitVec 3
  disp : BitVec 13
deriving DecidableEq, Repr

/-- Span memory format: rd, ra, sp, sz and the bits [8:0] marked zero (Table 03-4). -/
structure XForm where
  core : CoreId
  th : ThreadId
  rd : BitVec 5
  ra : BitVec 5
  sp : BitVec 4
  sz : BitVec 3
  z : BitVec 9
deriving DecidableEq, Repr

/-- SPAN: span number, base halves in g[ra] and g[rb], scale fn[2:0]; `z` is rd[25] and fn[10:3] (Table 03-7). -/
structure SpanForm where
  core : CoreId
  th : ThreadId
  span : BitVec 4
  ra : BitVec 5
  rb : BitVec 5
  scale : BitVec 3
  z : BitVec 9
deriving DecidableEq, Repr

/-- SPANR: rd, span number, part fn[1:0]; `z` is ra[20], rb and fn[10:2] (Table 03-7). -/
structure SpanrForm where
  core : CoreId
  th : ThreadId
  rd : BitVec 5
  span : BitVec 4
  sel : BitVec 2
  z : BitVec 15
deriving DecidableEq, Repr

/-- Branch format (Table 03-4). -/
structure BForm where
  core : CoreId
  th : ThreadId
  ra : BitVec 5
  rb : BitVec 5
  disp : BitVec 16
deriving DecidableEq, Repr

/-- JALR: rd, ra, fn; `z` is rb (Table 03-9). -/
structure JalrForm where
  core : CoreId
  th : ThreadId
  rd : BitVec 5
  ra : BitVec 5
  fn : BitVec 11
  z : BitVec 5
deriving DecidableEq, Repr

/-- Jump format (Table 03-4). -/
structure JForm where
  core : CoreId
  th : ThreadId
  disp : BitVec 26
deriving DecidableEq, Repr

/-- Scalar floating point: rd, ra, rb, and fn[10], 1 for FP64 (R76). -/
structure FForm where
  core : CoreId
  th : ThreadId
  rd : BitVec 5
  ra : BitVec 5
  rb : BitVec 5
  dbl : Bool
deriving DecidableEq, Repr

/-- Scalar fused multiply-add: the addend is f[rc], rc = fn[9:6] :: rb[15] (Table 03-10). -/
structure FmaForm where
  core : CoreId
  th : ThreadId
  rd : BitVec 5
  ra : BitVec 5
  rb : BitVec 5
  rc : BitVec 5
  dbl : Bool
deriving DecidableEq, Repr

/-- Loop format: lvl, ra, len16; `z` is [25:23] (Table 03-4). -/
structure LoopForm where
  core : CoreId
  th : ThreadId
  lvl : BitVec 2
  ra : BitVec 5
  len : BitVec 16
  z : BitVec 3
deriving DecidableEq, Repr

/-- LR/SC: rd, ra, rb; `sp` is fn[10:7], the span of the span forms and zero otherwise; `z` is fn[6:3] (R82). -/
structure LrForm where
  core : CoreId
  th : ThreadId
  rd : BitVec 5
  ra : BitVec 5
  rb : BitVec 5
  sp : BitVec 4
  z : BitVec 4
deriving DecidableEq, Repr

/-- System format: rd, ra, arg12 (Table 03-4). -/
structure SysForm where
  core : CoreId
  th : ThreadId
  rd : BitVec 5
  ra : BitVec 5
  arg : BitVec 12
deriving DecidableEq, Repr

/-- A core as a whole. -/
structure CoreForm where
  core : CoreId
deriving DecidableEq, Repr

/-- A word written to a register of a core's control page (Table 03-3). -/
structure PageWrite where
  core : CoreId
  val : Word
deriving DecidableEq, Repr

/-- Which queued instruction completes: the matrix queue or the vector queue, and its place among the started ones, oldest
first. -/
structure QueuedForm where
  core : CoreId
  matrix : Bool
  idx : BitVec 3
deriving DecidableEq, Repr

/-- Vector format: vd, va, vb, pm and the scalar bit fn[7] (Table 03-4, R138). -/
structure VForm where
  core : CoreId
  th : ThreadId
  vd : BitVec 5
  va : BitVec 5
  vb : BitVec 5
  pm : BitVec 3
  s : Bool
deriving DecidableEq, Repr

/-- Vector fused multiply-add: vc in fn[7:3]; `s` for major 0x2B, where vb names f[vb] (Table 05-5). -/
structure VFmaForm where
  core : CoreId
  th : ThreadId
  vd : BitVec 5
  va : BitVec 5
  vb : BitVec 5
  vc : BitVec 5
  pm : BitVec 3
  s : Bool
deriving DecidableEq, Repr

/-- Vector scan and sum reduction: carry-in CI, carry-out CO, and the fn bits marked zero (Table 05-8). -/
structure VScanForm where
  core : CoreId
  th : ThreadId
  vd : BitVec 5
  va : BitVec 5
  vb : BitVec 5
  pm : BitVec 3
  ci : Bool
  co : Bool
  z : BitVec 3
deriving DecidableEq, Repr

/-- Vector memory format (Table 05-3). -/
structure VMemForm where
  core : CoreId
  th : ThreadId
  vd : BitVec 5
  ra : BitVec 5
  sp : BitVec 4
  zs : Bool
  pm : BitVec 3
  z : BitVec 7
  h : Bool
deriving DecidableEq, Repr

/-- Major opcode 0x38 (Table 06-7) with its shape word (Table 06-3). -/
structure TileForm where
  core : CoreId
  th : ThreadId
  t : BitVec 3
  ra : BitVec 5
  rb : BitVec 5
  sp : BitVec 4
  z : BitVec 6
  shape : Word
deriving DecidableEq, Repr

/-- Major opcode 0x39 (Table 07-2) with its shape word. -/
structure MmaForm where
  core : CoreId
  th : ThreadId
  am : BitVec 4
  ta0 : BitVec 3
  ta1 : BitVec 3
  tb0 : BitVec 3
  tb1 : BitVec 3
  acc : BitVec 4
  zacc : Bool
  z : BitVec 5
  shape : Word
deriving DecidableEq, Repr

/-- Major opcode 0x3A (Table 07-3) with its shape word. -/
structure WeightForm where
  core : CoreId
  th : ThreadId
  am : BitVec 4
  t0 : BitVec 3
  t1 : BitVec 3
  acc : BitVec 4
  zacc : Bool
  z : BitVec 9
  shape : Word
deriving DecidableEq, Repr

/-- Major opcode 0x3B (Table 07-4) with its shape word. -/
structure AccForm where
  core : CoreId
  th : ThreadId
  a : BitVec 2
  acc : BitVec 4
  t : BitVec 3
  v : BitVec 5
  rel : Bool
  h : Bool
  z : BitVec 7
  shape : Word
deriving DecidableEq, Repr

/-- A failed row of an array of a core (R189). -/
structure RowForm where
  core : CoreId
  array : BitVec 2
  row : BitVec 6
deriving DecidableEq, Repr

/-- A waiting walk: of the hub walker or of a tile's walker, by its place in that walker's list (R272, R281). -/
structure WalkForm where
  hub : Bool
  tile : TileId
  idx : Nat
deriving DecidableEq, Repr

/-- A waiting fill of a tile's L2, by its place in the list, and the way the pseudo-LRU names when a set is full. -/
structure FillForm where
  tile : TileId
  idx : Nat
deriving DecidableEq, Repr

/-- What a read of a stack unit finds (R266). -/
inductive ScrubFinding where
  | clean
  | corrected (symbols : BitVec 3)
  | uncorrectable
deriving DecidableEq, Repr

/-- The unit that the patrol scrub reads: stack, unit number within the stack, finding (R266). -/
structure ScrubForm where
  stack : BitVec 5
  unit : BitVec 31
  found : ScrubFinding
deriving DecidableEq, Repr

/-- The requests that reached a stack since the last slot event, by source (tiles 0-15, the hub die 16), one sector each, and how many
the stack admitted from the slot's owner, or from the only source waiting (R268, R269). -/
structure AdmissionForm where
  stack : BitVec 5
  arrived : List (BitVec 5 × Nat)
  admitted : Nat
deriving DecidableEq, Repr

/-- A binding. -/
structure BindForm where
  binding : BindingId
deriving DecidableEq, Repr

/-- A word written to a register of a binding. -/
structure BindWrite where
  binding : BindingId
  val : Word
deriving DecidableEq, Repr

/-- A write to a binding's translation registers: offset in the 64-byte block, 8 bytes or 4, value (Table 10-9, R471). -/
structure XlatWriteForm where
  binding : BindingId
  off : BitVec 6
  wide : Bool
  val : DWord
deriving DecidableEq, Repr

/-- Whether the edge or message fell within the time that R491 asks. -/
structure QualForm where
  inTime : Bool
deriving DecidableEq, Repr

/-- One second edge of the time crossing: the TAI second its message names, and the counter's offset from that edge in ticks as
the facility side measures it (R417, R39). -/
structure CrossingForm where
  second : BitVec 48
  lateTicks : BitVec 34
deriving DecidableEq, Repr

/-- A 32-bit value written. -/
structure WriteForm where
  val : Word
deriving DecidableEq, Repr

/-- A link group of Table 15-5. -/
structure GroupForm where
  kind : BitVec 2
  group : BitVec 8
deriving DecidableEq, Repr

/-- What a sensor of Table 16-2 reads: its number, counted through the table's rows in order, and its value. -/
structure Reading where
  sensor : BitVec 9
  value : Word
deriving DecidableEq, Repr

/-- The opening of a breath: the link groups in which a calibration step may start (R412), what the sensors read (R44, R420), and the key
records that the host returns to the REKEYs that name the breath, in the order in which they start (R344). -/
structure BreathForm where
  steps : List GroupForm
  readings : List Reading
  records : List (Option (BitVec 640))
deriving DecidableEq, Repr

/-- The results of a calibration step (R414): eye width, eye height, signed phase change. -/
structure CalDoneForm where
  kind : BitVec 2
  group : BitVec 8
  hmargin : BitVec 8
  vmargin : BitVec 8
  phase : BitVec 8
deriving DecidableEq, Repr

/-- A doorbell write: ring, 8 bytes or 4, value (R303). -/
structure DoorbellForm where
  ring : RingId
  wide : Bool
  val : DWord
deriving DecidableEq, Repr

/-- A submission ring. -/
structure RingForm where
  ring : RingId
deriving DecidableEq, Repr

/-- A descriptor of a ring, by its place among those that the ring has accepted (notes/assumptions/44.md). -/
structure DescForm where
  ring : RingId
  index : Nat
deriving DecidableEq, Repr

/-- The 128 bytes of a descriptor that arrives for a ring, least significant byte first (R304, R4). -/
structure AcceptForm where
  ring : RingId
  raw : BitVec 1024
deriving DecidableEq, Repr

/-- A completion ring. -/
structure CqForm where
  cq : CqId
deriving DecidableEq, Repr

/-- A word written to a register of a submission ring. -/
structure RingWrite where
  ring : RingId
  val : Word
deriving DecidableEq, Repr

/-- A word written to a register of a completion ring. -/
structure CqWrite where
  cq : CqId
  val : Word
deriving DecidableEq, Repr

/-- The 80-byte key record that the host returns to a REKEY, or none when the read ends in a PCIe error (R344, R345). -/
structure RekeyForm where
  ring : RingId
  record : Option (BitVec 640)
deriving DecidableEq, Repr

/-- A resent COL_OPEN: the COLLECT, the contributor whose data is opened, the member it goes to (R393). -/
structure ResendForm where
  ring : RingId
  index : Nat
  contrib : BitVec 6
  member : BitVec 6
deriving DecidableEq, Repr

/-- A host request of the module, by its number. -/
structure ReqForm where
  id : Nat
deriving DecidableEq, Repr

/-- The packet types of Table 14-3. -/
inductive PacketType where
  | rd | wr | rdCpl | wrAck | errCpl | colOpen | colData | colNak | link | reserved (code : BitVec 4)
deriving DecidableEq, Repr

/-- A link packet: the header of Table 14-2, its payload, byte 0 first, and the link acknowledgement of its trailer (R379, R380). -/
structure Packet where
  type : PacketType
  size : BitVec 3
  psn : Bool
  hops : BitVec 3
  dst : ModuleId
  src : ModuleId
  key : BitVec 8
  tid : BitVec 16
  lseq : BitVec 12
  tag : Word
  addr : DWord
  mask : DWord
  payload : List Byte
  ack : BitVec 12
deriving DecidableEq, Repr

/-- A packet that arrives intact at a port, and the codewords that the FEC corrected in it (R378). -/
structure PacketForm where
  port : BitVec 5
  pkt : Packet
  fec : Nat
deriving DecidableEq, Repr

/-- A LINK packet: acknowledgement up to `ack`, a replay request from `replay` if any, the credits granted in packets of the request and of
the response channel (R380), the codewords that the FEC corrected in it (R378), and the lane on which the peer begins a calibration step if
it announces one (R411). -/
structure LinkForm where
  port : BitVec 5
  ack : BitVec 12
  replay : Option (BitVec 12)
  requests : Nat
  responses : Nat
  fec : Nat
  cal : Option (BitVec 4)
deriving DecidableEq, Repr

/-- A packet that fails its check at a port: the LSEQ it is asked again for (R380). -/
structure CrcForm where
  port : BitVec 5
  lseq : BitVec 12
deriving DecidableEq, Repr

/-- A port. -/
structure PortForm where
  port : BitVec 5
deriving DecidableEq, Repr

/-- A lane of a port. -/
structure LaneForm where
  port : BitVec 5
  lane : BitVec 4
deriving DecidableEq, Repr

/-- A training that completes, with the peer it found (R378). -/
structure TrainForm where
  port : BitVec 5
  peer : ModuleId
  peerPort : BitVec 5
deriving DecidableEq, Repr

/-- A word written to a register of a port. -/
structure PortWrite where
  port : BitVec 5
  val : Word
deriving DecidableEq, Repr

/-- A read of PORT_ERR: all 8 bytes, or the low or the high half (R471). -/
structure PortRead where
  port : BitVec 5
  low : Bool
  high : Bool
deriving DecidableEq, Repr

/-- A measured input voltage in units of 10 mV. -/
structure VoltForm where
  vin : BitVec 16
deriving DecidableEq, Repr

/-- A tile's measurements at an interval (R404, R409): tile, temperature. -/
structure TempForm where
  tile : TileId
  temp : BitVec 8
deriving DecidableEq, Repr

/-- The measured fields of an interval (R409): input voltage, current, and tile temperatures. -/
structure IntervalForm where
  vin : BitVec 16
  iin : BitVec 16
  temps : List TempForm
deriving DecidableEq, Repr

/-- A logical tile. -/
structure TileSel where
  tile : TileId
deriving DecidableEq, Repr

/-- Two neighbouring tiles, the hotter first (R407). -/
structure NeighbourForm where
  hot : TileId
  cool : TileId
deriving DecidableEq, Repr

/-- A message that the controller has for the driver: its bytes, and whether the controller starts it itself (R427). -/
structure MessageForm where
  event : Bool
  bytes : List Byte
deriving DecidableEq, Repr

/-- A firmware image: header bytes 0 to 95, SIG and the payload from byte 4,096 (R428); whether SIG is a signature over the former under the
vendor image key, and whether another update is in progress (R429). -/
structure ImageForm where
  header : BitVec 768
  sig : BitVec 10240
  payload : List Byte
  sigOk : Bool
  during : Bool
deriving DecidableEq, Repr

/-- The Pair action (R435): installation id, module id, epoch second. -/
structure PairForm where
  install : BitVec 128
  mid : ModuleId
  epoch : BitVec 48
deriving DecidableEq, Repr

/-- An LLDPDU on management port 0: chassis ID and port ID (R436). -/
structure LldpForm where
  chassis : Nat
  port : Nat
deriving DecidableEq, Repr

/-- SET_KEK: the 32 bytes of the key-encryption key (R434). -/
structure KekForm where
  kek : BitVec 256
deriving DecidableEq, Repr

/-- KEY_EXCHANGE: whether the request offers secp384r1 and AES-256-GCM (R434). -/
structure ExchangeForm where
  suiteOk : Bool
deriving DecidableEq, Repr

/-- The verification of components 2-4 (R430), bit 0 for component 2: which active banks fail the checks of signature and digest, and which
other banks would. -/
structure RisingForm where
  bankFails : BitVec 3
  otherFails : BitVec 3
deriving DecidableEq, Repr

/-- A start of the controller (R430): whether component 1's active bank and its other bank fail the checks of signature and digest, and
whether the firmware reaches STANDBY within 60 s. -/
structure StartForm where
  bankFails : Bool
  otherFails : Bool
  reached : Bool
deriving DecidableEq, Repr

/-- FAC_EN asserted: the measured input, and the start of the controller (R457, R430). -/
structure FacEnForm where
  vin : BitVec 16
  start : StartForm
deriving DecidableEq, Repr

/-- A unit that fails self-test (R463). -/
inductive FailedUnit where
  | core (core : CoreId)
  | row (core : CoreId) (array : BitVec 2) (row : BitVec 6)
  | channel (stack : BitVec 5) (channel : BitVec 6)
  | tile (tile : TileId)
deriving DecidableEq, Repr

/-- The end of SELFTEST: the units that failed, and in turn those that failed the self-test of sites just substituted (R463). -/
structure SelftestForm where
  failed : List FailedUnit
  again : List (List FailedUnit)
deriving DecidableEq, Repr

/-- The errors fatal to the module (Table 17-3, class 3): router of a site, tile over temperature, Bore channel with
the end that its record names where both are sites, hub die, input or converter limit. -/
inductive FatalKind where
  | router (site : BitVec 5)
  | overTemp (tile : TileId)
  | channel (channel : BitVec 8) (second : Bool)
  | hub
  | input
deriving DecidableEq, Repr

structure FatalForm where
  kind : FatalKind
deriving DecidableEq, Repr

/-- A request of a core to host memory that ends in a PCIe error (R492): a read by its number, with the bytes of a poisoned completion
if that is the error, or a store to a host address. -/
inductive HostErrWhat where
  | read (id : Nat) (poisoned : Option (List Byte))
  | write (core : CoreId) (addr : DWord)
deriving DecidableEq, Repr

structure HostErrorForm where
  what : HostErrWhat
deriving DecidableEq, Repr

/-- What a hardware error meets. Fatal to a binding (R442): a descriptor's work, or a core's state of a kind (code 0x0020). Corrected
or deferred (R441), which no other command brings: a single-bit error of an SRAM, with UNITKIND, UNIT, BINDING, ADDR and syndrome of its
record; a double-bit error of a 64-bit word of a data or instruction local store (R242) or of an L2 sector (R251); an ordinary read of
a stack unit (R266); an array's residue mismatch under a started instruction (R448). Also a lane of a Bore channel with more than
16 CRC failures in a second, and a fault of a tile's L2, arrays or local stores that its core and row spares cannot absorb (Table 17-5). -/
inductive HwWhat where
  | descriptor (ring : RingId) (index : Nat) (pa : DWord)
  | core (core : CoreId) (file : BitVec 2)
  | corrected (kind : Byte) (unit : BitVec 16) (binding : Option BindingId) (addr : DWord) (syndrome : DWord)
  | dataStore (core : CoreId) (word : BitVec 17)
  | instrStore (core : CoreId) (word : BitVec 14)
  | sector (tile : TileId) (line : Nat)
  | stackRead (stack : BitVec 5) (unit : BitVec 31) (binding : Option BindingId) (found : ScrubFinding)
  | residue (core : CoreId) (array : BitVec 2) (row : BitVec 5) (acc : BitVec 4)
  | boreLane (channel : BitVec 8) (lane : BitVec 6) (second : Bool)
  | site (tile : TileId)
deriving DecidableEq, Repr

structure HwErrorForm where
  what : HwWhat
deriving DecidableEq, Repr

/-- A stack, the channel that failed, and the units that its copy finds uncorrectable (R453), each by its number in the stack. -/
structure ChannelForm where
  stack : BitVec 5
  channel : BitVec 6
  bad : List (BitVec 31)
deriving DecidableEq, Repr

/-- A merge window, by its place in the list (R445). -/
structure IndexForm where
  idx : Nat
deriving DecidableEq, Repr

/-- A BAR4 read: offset and length in bytes. -/
structure Bar4Read where
  off : BitVec 38
  len : BitVec 13
deriving DecidableEq, Repr

/-- A BAR4 write: offset and bytes. -/
structure Bar4Write where
  off : BitVec 38
  bytes : List Byte
deriving DecidableEq, Repr

/-- A write to PERF_SEL n. -/
structure PerfSelForm where
  n : BitVec 6
  val : Word
deriving DecidableEq, Repr

/-- A write to PERF_CNT n: all 8 bytes, or the low or the high half, and the events counted in the same cycle (R480). -/
structure PerfCntForm where
  n : BitVec 6
  wide : Bool
  high : Bool
  val : DWord
  events : Nat
deriving DecidableEq, Repr

/-- Where a driver writes: BAR0, BAR2, or of configuration space the size of BAR4 or the power state (Table 11-1). -/
inductive RegSpace where
  | bar0 | bar2 | barSize | powerState
deriving DecidableEq, Repr

/-- A driver write to a register: its space, offset, size in bytes, value (R470); the offset counts in BAR0 and BAR2 alone. -/
structure RegWriteForm where
  space : RegSpace
  off : BitVec 26
  size : BitVec 4
  val : DWord
deriving DecidableEq, Repr

/-- A completion of a module read of host memory: the request and its bytes (R94). -/
structure HostDataForm where
  id : Nat
  bytes : List Byte
deriving DecidableEq, Repr

/-- The commands, in the order of spec/opcode_table.json. -/
inductive Instr where
  /-- ADD (R68). Writes ra plus rb to rd. -/
  | add (o : RForm)
  /-- SUB (R68). Writes ra minus rb to rd. -/
  | sub (o : RForm)
  /-- AND (R68). Writes the bitwise AND of ra and rb to rd. -/
  | and (o : RForm)
  /-- OR (R68). Writes the bitwise OR of ra and rb to rd. -/
  | or (o : RForm)
  /-- XOR (R68). Writes the bitwise XOR of ra and rb to rd. -/
  | xor (o : RForm)
  /-- SLL (R68). Shifts ra left by rb[4:0]. -/
  | sll (o : RForm)
  /-- SRL (R68). Shifts ra logically right by rb[4:0]. -/
  | srl (o : RForm)
  /-- SRA (R68). Shifts ra arithmetically right by rb[4:0]. -/
  | sra (o : RForm)
  /-- SLT (R68). Writes 1 to rd if ra is less than rb, signed, and 0 otherwise. -/
  | slt (o : RForm)
  /-- SLTU (R68). Writes 1 to rd if ra is less than rb, unsigned, and 0 otherwise. -/
  | sltu (o : RForm)
  /-- MUL (R68). Writes the low 32 bits of the product to rd. -/
  | mul (o : RForm)
  /-- MULH (R68). Writes the upper 32 bits of the signed product to rd. -/
  | mulh (o : RForm)
  /-- MULHU (R68). Writes the upper 32 bits of the unsigned product to rd. -/
  | mulhu (o : RForm)
  /-- DIV (R69). Signed division as a 34-cycle long operation; it never traps. -/
  | div (o : RForm)
  /-- DIVU (R69). Unsigned division as a 34-cycle long operation. -/
  | divu (o : RForm)
  /-- REM (R69). Signed remainder, with the sign of the dividend. -/
  | rem (o : RForm)
  /-- REMU (R69). Unsigned remainder. -/
  | remu (o : RForm)
  /-- ADDI (R68). Adds the sign-extended immediate to ra. -/
  | addi (o : IForm)
  /-- ANDI (R68). ANDs ra with the zero-extended immediate. -/
  | andi (o : IForm)
  /-- ORI (R68). ORs ra with the zero-extended immediate. -/
  | ori (o : IForm)
  /-- XORI (R68). XORs ra with the zero-extended immediate. -/
  | xori (o : IForm)
  /-- SLTI (R68). Signed compare of ra against the sign-extended immediate. -/
  | slti (o : IForm)
  /-- SLTIU (R68). Unsigned compare of ra against the sign-extended immediate. -/
  | sltiu (o : IForm)
  /-- SLLI (R68). Shifts ra left by imm16[4:0]. -/
  | slli (o : IForm)
  /-- SRLI (R68). Shifts ra logically right by imm16[4:0]. -/
  | srli (o : IForm)
  /-- SRAI (R68). Shifts ra arithmetically right by imm16[4:0]. -/
  | srai (o : IForm)
  /-- LUI (R68). Writes imm16 shifted left by 16 to rd. -/
  | lui (o : IForm)
  /-- LD (R70). Loads from the core address space at g[ra] plus disp13. -/
  | ld (o : MForm)
  /-- ST (R70). Stores to the core address space at g[ra] plus disp13. -/
  | st (o : MForm)
  /-- LDX (R70). Loads from bulk memory at the span-relative va, through the merging buffer, L1D and L2. -/
  | ldx (o : XForm)
  /-- STX (R70). Stores to bulk memory at the span-relative va through the merging buffer. -/
  | stx (o : XForm)
  /-- SPAN (R70). Sets the base and scale of a span register at issue. -/
  | span (o : SpanForm)
  /-- SPANR (R70). Reads the base low half, base high half or scale of a span into rd. -/
  | spanr (o : SpanrForm)
  /-- BEQ (R73). Branches when g[ra] equals g[rb]. -/
  | beq (o : BForm)
  /-- BNE (R73). Branches when g[ra] differs from g[rb]. -/
  | bne (o : BForm)
  /-- JALR (R74). Jumps to a register target and links; a bad target is illegal. -/
  | jalr (o : JalrForm)
  /-- JAL (R73). Jumps by disp26 and writes the link to g31. -/
  | jal (o : JForm)
  /-- FADD (R76). Scalar FP add under fcsr. -/
  | fadd (o : FForm)
  /-- FSUB (R76). Scalar FP subtract. -/
  | fsub (o : FForm)
  /-- FMUL (R76). Scalar FP multiply. -/
  | fmul (o : FForm)
  /-- FDIV (R76). Scalar FP divide as a long operation. -/
  | fdiv (o : FForm)
  /-- FSQRT (R76). Scalar FP square root as a long operation. -/
  | fsqrt (o : FForm)
  /-- FMIN (R76). Scalar minimumNumber. -/
  | fmin (o : FForm)
  /-- FMAX (R76). Scalar maximumNumber. -/
  | fmax (o : FForm)
  /-- FSGNJ (R76). Takes the magnitude of f[ra] with the sign of f[rb]. -/
  | fsgnj (o : FForm)
  /-- FEQ (R221). Quiet equality compare into g[rd]. -/
  | feq (o : FForm)
  /-- FLT (R221). Signalling less-than compare into g[rd]. -/
  | flt (o : FForm)
  /-- FLE (R221). Signalling less-or-equal compare into g[rd]. -/
  | fle (o : FForm)
  /-- FCLASS (R221). Writes the class mask of f[ra] to g[rd]. -/
  | fclass (o : FForm)
  /-- FMADD (R76). Fused multiply-add with one rounding. -/
  | fmadd (o : FmaForm)
  /-- FMSUB (R76). Fused multiply-subtract. -/
  | fmsub (o : FmaForm)
  /-- FNMADD (R76). Negated fused multiply-add. -/
  | fnmadd (o : FmaForm)
  /-- FNMSUB (R76). Negated fused multiply-subtract. -/
  | fnmsub (o : FmaForm)
  /-- FCVT_D_S (R76). Converts FP32 to FP64. -/
  | fcvtDS (o : FForm)
  /-- FCVT_S_D (R76). Converts FP64 to FP32. -/
  | fcvtSD (o : FForm)
  /-- FCVT_W (R223). Converts f[ra] to a signed 32-bit integer in g[rd]. -/
  | fcvtW (o : FForm)
  /-- FCVT_WU (R223). Converts f[ra] to an unsigned 32-bit integer in g[rd]. -/
  | fcvtWu (o : FForm)
  /-- FCVT_FW (R76). Converts signed g[ra] to FP in f[rd]. -/
  | fcvtFw (o : FForm)
  /-- FCVT_FWU (R76). Converts unsigned g[ra] to FP in f[rd]. -/
  | fcvtFwu (o : FForm)
  /-- FMV_GF (R76). Copies the bits of f[ra][31:0] into g[rd]. -/
  | fmvGf (o : FForm)
  /-- FMV_FG (R76). Copies the bits of g[ra] into f[rd] under R53. -/
  | fmvFg (o : FForm)
  /-- LOOP (R77). Opens a hardware loop at level lvl, or skips the body when the count is zero. -/
  | loop (o : LoopForm)
  /-- LR_W (R82). Loads a word from the data local store and reserves its granule. -/
  | lrW (o : LrForm)
  /-- SC_W (R86). Stores a word conditionally on the reservation and clears the reservation. -/
  | scW (o : LrForm)
  /-- LRX_W (R85). Load-reserved at the tile L2 on local Palvan memory. -/
  | lrxW (o : LrForm)
  /-- SCX_W (R85). Store-conditional at the tile L2. -/
  | scxW (o : LrForm)
  /-- TRAP (R87). Completes and then takes vector 11 with arg12. -/
  | trap (o : SysForm)
  /-- ERET (R113). Restores pc and estat from the frame and applies the QSW on h0. -/
  | eret (o : At)
  /-- FENCE (R258). Waits until the thread's earlier memory operations and the merging buffer have drained. -/
  | fence (o : At)
  /-- FENCE_G (R258). Acts as FENCE and also waits for queued vector and tile stores. -/
  | fenceG (o : At)
  /-- IFENCE (R99). Applies the thread's patch queue and discards fetched instructions. -/
  | ifence (o : At)
  /-- PATCH (R98). Queues a word for an instruction-store offset. -/
  | patch (o : SysForm)
  /-- CSRR (R55). Reads a control register. -/
  | csrr (o : SysForm)
  /-- CSRW (R56). Swaps a control register with g[ra]. -/
  | csrw (o : SysForm)
  /-- CSRS (R56). Sets control register bits from g[ra] and returns the old value. -/
  | csrs (o : SysForm)
  /-- CSRC (R56). Clears control register bits from g[ra] and returns the old value. -/
  | csrc (o : SysForm)
  /-- WAIT (R88). Stops issue until an NMI or an enabled source pends; on h0 this may finish a launched core. -/
  | wait (o : At)
  /-- WAIT_WAKE (R88). A thread in WAIT resumes when an enabled source or an NMI pends. -/
  | waitWake (o : At)
  /-- THREAD_RUN (R62). A write of 1 starts a stopped thread h1–h3 at vector 0. -/
  | threadRun (o : PageWrite)
  /-- THREAD_STOP (R61). Stops a thread after its current instruction and discards its patch queue. -/
  | threadStop (o : PageWrite)
  /-- SWI (R102). A write sets SWI.PEND bits and pends vector 17 on those threads. -/
  | swi (o : PageWrite)
  /-- SWI_CLR (R61). Clears SWI.PEND bits. -/
  | swiClr (o : PageWrite)
  /-- INTERRUPT_ENTRY (R114). At a boundary, an enabled pending interrupt is taken with a frame. -/
  | interruptEntry (o : At)
  /-- NMI_ENTRY (R116). The asserted NMI is taken on every running thread, or latched as NMIPEND. -/
  | nmiEntry (o : CoreForm)
  /-- QUEUED_CAUSE_ENTRY (R124). A cause from a queued or held instruction is taken on h0 at its next boundary. -/
  | queuedCauseEntry (o : CoreForm)
  /-- VECTOR_START (R140). The vector queue starts its head in its unit once the unit, chaining and hazard conditions allow. -/
  | vectorStart (o : CoreForm)
  /-- MATRIX_START (R179). The matrix queue starts its head once the tile-register and loader waits are met. -/
  | matrixStart (o : CoreForm)
  /-- QUEUED_COMPLETE (R216). A queued instruction completes, accrues its flags into h0's fcsr and may raise a trap. -/
  | queuedComplete (o : QueuedForm)
  /-- VFADD (R139). Vector FP add. -/
  | vfadd (o : VForm)
  /-- VFSUB (R139). Vector FP subtract. -/
  | vfsub (o : VForm)
  /-- VFMUL (R139). Vector FP multiply. -/
  | vfmul (o : VForm)
  /-- VFMIN (R139). Vector minimumNumber. -/
  | vfmin (o : VForm)
  /-- VFMAX (R139). Vector maximumNumber. -/
  | vfmax (o : VForm)
  /-- VFSGNJ (R139). Vector sign injection. -/
  | vfsgnj (o : VForm)
  /-- VADD2 (R159). Compensated add into vd and vd+1. -/
  | vadd2 (o : VForm)
  /-- VFEXP (R237). Vector exponential within its error bound. -/
  | vfexp (o : VForm)
  /-- VFLOG (R237). Vector logarithm. -/
  | vflog (o : VForm)
  /-- VFSIN (R237). Vector sine. -/
  | vfsin (o : VForm)
  /-- VFCOS (R237). Vector cosine. -/
  | vfcos (o : VForm)
  /-- VFRSQRT (R237). Vector reciprocal square root. -/
  | vfrsqrt (o : VForm)
  /-- VFRCP (R237). Vector reciprocal. -/
  | vfrcp (o : VForm)
  /-- VCVT (R160). Converts active elements from FMT to CFMT. -/
  | vcvt (o : VForm)
  /-- VFMA (R139). Vector fused multiply-add. -/
  | vfma (o : VFmaForm)
  /-- VFMS (R139). Vector fused multiply-subtract. -/
  | vfms (o : VFmaForm)
  /-- VFNMA (R139). Vector negated fused multiply-add. -/
  | vfnma (o : VFmaForm)
  /-- VFNMS (R139). Vector negated fused multiply-subtract. -/
  | vfnms (o : VFmaForm)
  /-- VFMA2 (R159). Compensated fused multiply-add. -/
  | vfma2 (o : VFmaForm)
  /-- VADD (R139). Vector integer add, wrapping. -/
  | vadd (o : VForm)
  /-- VSUB (R139). Vector integer subtract. -/
  | vsub (o : VForm)
  /-- VMUL (R139). Low w bits of the vector product. -/
  | vmul (o : VForm)
  /-- VMULH (R139). High w bits of the signed vector product. -/
  | vmulh (o : VForm)
  /-- VMULHU (R139). High w bits of the unsigned vector product. -/
  | vmulhu (o : VForm)
  /-- VAND (R139). Vector bitwise AND. -/
  | vand (o : VForm)
  /-- VOR (R139). Vector bitwise OR. -/
  | vor (o : VForm)
  /-- VXOR (R139). Vector bitwise XOR. -/
  | vxor (o : VForm)
  /-- VSLL (R139). Vector shift left. -/
  | vsll (o : VForm)
  /-- VSRL (R139). Vector logical shift right. -/
  | vsrl (o : VForm)
  /-- VSRA (R139). Vector arithmetic shift right. -/
  | vsra (o : VForm)
  /-- VMIN (R139). Vector signed minimum. -/
  | vmin (o : VForm)
  /-- VMAX (R139). Vector signed maximum. -/
  | vmax (o : VForm)
  /-- VMINU (R139). Vector unsigned minimum. -/
  | vminu (o : VForm)
  /-- VMAXU (R139). Vector unsigned maximum. -/
  | vmaxu (o : VForm)
  /-- VMERGE (R139). Selects va or vb per predicate bit for every element below vl. -/
  | vmerge (o : VForm)
  /-- VSADD (R152). Saturating signed add. -/
  | vsadd (o : VForm)
  /-- VSADDU (R152). Saturating unsigned add. -/
  | vsaddu (o : VForm)
  /-- VSSUB (R152). Saturating signed subtract. -/
  | vssub (o : VForm)
  /-- VSSUBU (R152). Saturating unsigned subtract. -/
  | vssubu (o : VForm)
  /-- VAADD (R152). Averaging signed add. -/
  | vaadd (o : VForm)
  /-- VAADDU (R152). Averaging unsigned add. -/
  | vaaddu (o : VForm)
  /-- VASUB (R152). Averaging subtract. -/
  | vasub (o : VForm)
  /-- VSMUL (R152). Fractional multiply with rounding and saturation. -/
  | vsmul (o : VForm)
  /-- VSSRL (R152). Logical shift right with rounding. -/
  | vssrl (o : VForm)
  /-- VSSRA (R152). Arithmetic shift right with rounding. -/
  | vssra (o : VForm)
  /-- VNCLIP (R152). Narrowing signed clip. -/
  | vnclip (o : VForm)
  /-- VNCLIPU (R152). Narrowing unsigned clip. -/
  | vnclipu (o : VForm)
  /-- VCEQ (R139). Integer compare for equality into a predicate. -/
  | vceq (o : VForm)
  /-- VCNE (R139). Integer compare for inequality into a predicate. -/
  | vcne (o : VForm)
  /-- VCLT (R139). Signed less-than compare into a predicate. -/
  | vclt (o : VForm)
  /-- VCLE (R139). Signed less-or-equal compare into a predicate. -/
  | vcle (o : VForm)
  /-- VCLTU (R139). Unsigned less-than compare into a predicate. -/
  | vcltu (o : VForm)
  /-- VCLEU (R139). Unsigned less-or-equal compare into a predicate. -/
  | vcleu (o : VForm)
  /-- VFCEQ (R221). FP equality compare into a predicate. -/
  | vfceq (o : VForm)
  /-- VFCLT (R221). FP less-than compare into a predicate. -/
  | vfclt (o : VForm)
  /-- VFCLE (R221). FP less-or-equal compare into a predicate. -/
  | vfcle (o : VForm)
  /-- VFCUN (R221). FP unordered compare into a predicate. -/
  | vfcun (o : VForm)
  /-- VSLIDEUP (R157). Slides up by g[vb]. -/
  | vslideup (o : VForm)
  /-- VSLIDEDN (R157). Slides down by g[vb]. -/
  | vslidedn (o : VForm)
  /-- VSLIDEUPI (R157). Slides up by an immediate. -/
  | vslideupi (o : VForm)
  /-- VSLIDEDNI (R157). Slides down by an immediate. -/
  | vslidedni (o : VForm)
  /-- VCOMPRESS (R157). Packs the selected elements to the bottom of vd. -/
  | vcompress (o : VForm)
  /-- VBCAST (R139). Broadcasts g[va] into the active elements. -/
  | vbcast (o : VForm)
  /-- VBCASTF (R139). Broadcasts f[va] into the active elements. -/
  | vbcastf (o : VForm)
  /-- VINSERT (R139). Inserts g[va] at index g[vb]. -/
  | vinsert (o : VForm)
  /-- VINSERTF (R139). Inserts f[va] at index g[vb]. -/
  | vinsertf (o : VForm)
  /-- VSCANI (R154). Inclusive prefix sum. -/
  | vscani (o : VScanForm)
  /-- VSCANX (R154). Exclusive prefix sum. -/
  | vscanx (o : VScanForm)
  /-- VSSCANI (R154). Segmented inclusive prefix sum. -/
  | vsscani (o : VScanForm)
  /-- VSSCANX (R154). Segmented exclusive prefix sum. -/
  | vsscanx (o : VScanForm)
  /-- VSCAN2 (R159). Compensated inclusive scan. -/
  | vscan2 (o : VScanForm)
  /-- VRSUM (R156). Sum reduction in fixed order into a scalar. -/
  | vrsum (o : VScanForm)
  /-- PAND (R139). Predicate AND. -/
  | pand (o : VForm)
  /-- POR (R139). Predicate OR. -/
  | por (o : VForm)
  /-- PXOR (R139). Predicate XOR. -/
  | pxor (o : VForm)
  /-- PANDN (R139). Predicate AND NOT. -/
  | pandn (o : VForm)
  /-- PNOT (R139). Predicate NOT. -/
  | pnot (o : VForm)
  /-- VPCOUNT (R158). Counts set predicate bits into g[vd]. -/
  | vpcount (o : VForm)
  /-- VPANY (R158). Writes whether any predicate bit is set. -/
  | vpany (o : VForm)
  /-- VPALL (R158). Writes whether all selected predicate bits are set. -/
  | vpall (o : VForm)
  /-- VPFIRST (R158). Writes the index of the first set predicate bit. -/
  | vpfirst (o : VForm)
  /-- VEXTRACT (R158). Extracts an element into g[vd]. -/
  | vextract (o : VForm)
  /-- VEXTRACTF (R158). Extracts an element into f[vd]. -/
  | vextractf (o : VForm)
  /-- VLD (R147). Vector load, unit stride or stride zero. -/
  | vld (o : VMemForm)
  /-- VST (R147). Vector store, counting into the histogram when H = 1. -/
  | vst (o : VMemForm)
  /-- TLD (R174). Loads rows into a tile register. -/
  | tld (o : TileForm)
  /-- TST (R174). Stores tile register rows to memory. -/
  | tst (o : TileForm)
  /-- TLDG (R177). Gathers rows from addresses held in a vector register. -/
  | tldg (o : TileForm)
  /-- TLDS (R176). Loads the MX scale plane. -/
  | tlds (o : TileForm)
  /-- TSTS (R176). Stores the MX scale plane. -/
  | tsts (o : TileForm)
  /-- TZERO (R178). Zeroes a tile register and sets its tag. -/
  | tzero (o : TileForm)
  /-- TTAG (R178). Writes a tile register's tag to a g register. -/
  | ttag (o : TileForm)
  /-- MMA (R192). Outer-product accumulate into an accumulator tile in each array of AM. -/
  | mma (o : MmaForm)
  /-- WLOAD (R195). Loads a 32 × 32 stationary weight block. -/
  | wload (o : WeightForm)
  /-- MVM (R196). Multiplies x by the transposed stored block and accumulates. -/
  | mvm (o : WeightForm)
  /-- MVMT (R196). Multiplies x by the stored block and accumulates. -/
  | mvmt (o : WeightForm)
  /-- ACCRD (R204). Reads an accumulator tile into a tile register with conversion. -/
  | accrd (o : AccForm)
  /-- ACCRD_VECTOR (R203). Reads an accumulator tile into vector registers. -/
  | accrdVector (o : AccForm)
  /-- ACCWR (R206). Preloads an accumulator tile from vector registers. -/
  | accwr (o : AccForm)
  /-- ACCFREE (R200). Releases an accumulator id. -/
  | accfree (o : AccForm)
  /-- ACCTAG (R200). Writes an accumulator tag to g[V]. -/
  | acctag (o : AccForm)
  /-- ROW_SUBSTITUTION (R189). A spare array row replaces a failed row between two array instructions. -/
  | rowSubstitution (o : RowForm)
  /-- WALK (R272). A walker's table walk ends with a leaf or a translation fault that parks the engine. -/
  | walk (o : WalkForm)
  /-- L2_FILL (R253). A Cached miss fill returns after any eviction and is installed in the own slice. -/
  | l2Fill (o : FillForm)
  /-- MERGE_DRAIN (R249). The merging buffer drains its oldest entry to its target. -/
  | mergeDrain (o : CoreForm)
  /-- MERGE_IDLE_TIMEOUT (R249). After 64 cycles with no store entering, the merging buffer drains every entry. -/
  | mergeIdleTimeout (o : CoreForm)
  /-- L2WB (R261). The OP write starts a write-back of the window's range. -/
  | l2wb (o : CoreForm)
  /-- L2INV (R261). The OP write starts an invalidation of the window's range. -/
  | l2inv (o : CoreForm)
  /-- L2WB_L2INV (R261). The OP write starts a write-back and then an invalidation of the range. -/
  | l2wbL2inv (o : CoreForm)
  /-- L2_OP_COMPLETE (R261). The range operation completes when its write-backs are performed, and BUSY clears. -/
  | l2OpComplete (o : CoreForm)
  /-- PATROL_SCRUB (R266). The patrol scrub reads a stack unit, corrects it or poisons it. -/
  | patrolScrub (o : ScrubForm)
  /-- ADMISSION_SLOT (R269). A stack slot ends after 2,048 sectors or when its source is idle, and passes round-robin. -/
  | admissionSlot (o : AdmissionForm)
  /-- FAULT_COLLECT (R289). A held fault enters the binding's collector and receives its SEQ when room appears. -/
  | faultCollect (o : BindForm)
  /-- FAULT_BATCH (R290). The collector writes a batch of records when it is full or after 20 µs, and FQ_TAIL advances. -/
  | faultBatch (o : BindForm)
  /-- FAULT_BATCH_WR_ERR (R290). A failed batch write sets WR_ERR and holds the batch. -/
  | faultBatchWrErr (o : BindForm)
  /-- FQ_WR_ERR_CLEAR (R290). A write of 1 to FQ_STATUS.WR_ERR clears it and retries the batch. -/
  | fqWrErrClear (o : BindForm)
  /-- FQ_HEAD (R295). A driver write advances the fault queue head, or is rejected. -/
  | fqHead (o : BindWrite)
  /-- XLAT_WRITE (R295). A write to translation registers takes effect only while the binding is FREE. -/
  | xlatWrite (o : XlatWriteForm)
  /-- BEAT_PPS_EDGE (R491). A rising BEAT_PPS edge counts toward qualification. -/
  | beatPpsEdge (o : QualForm)
  /-- PPS_LOSS (R37). BEAT_PPS missing for 1.5 s enters HOLDOVER and sets LOST. -/
  | ppsLoss
  /-- BEAT_10M_QUALIFY (R491). BEAT_10M qualifies after 10 ms of continuous presence. -/
  | beat10mQualify
  /-- BEAT_10M_LOSS (R37). BEAT_10M absent for 10 µs enters HOLDOVER. -/
  | beat10mLoss
  /-- PTP_MESSAGE (R491). A PTP time message arrives and counts toward qualification. -/
  | ptpMessage (o : QualForm)
  /-- PTP_LOSS (R37). No PTP message for 8 s enters HOLDOVER. -/
  | ptpLoss
  /-- TIME_CROSSING (R39). A disciplined second edge arrives with its time message, and acquisition, return or a jump is applied. -/
  | timeCrossing (o : CrossingForm)
  /-- JUMP_ACCEPT (R40). A write of 1 accepts the pending jump. -/
  | jumpAccept
  /-- SLEW_LOCK (R38). A slewed difference falls below the state bound, and LOCKED or PTP is entered. -/
  | slewLock
  /-- HOLDOVER_TO_PTP (R37). The HOLDOVER bound reaches 50 ns with PTP current, and the PTP state is entered. -/
  | holdoverToPtp
  /-- COUNTER_EXPIRED (R31). The counter reaches all ones, stops, and EXPIRED is set. -/
  | counterExpired
  /-- BREATH_PERIOD (R43). A write is checked and accepted as pending, or rejected with CFG_REJ. -/
  | breathPeriod (o : WriteForm)
  /-- BREATH_LEN (R43). A write is checked and accepted as pending, or rejected with CFG_REJ. -/
  | breathLen (o : WriteForm)
  /-- BREATH_SCHEDULE_CHANGE (R43). Accepted breath values take effect at the first second boundary at least 1 ms after the write. -/
  | breathScheduleChange
  /-- BREATH_OPEN (R42). A breath opens and starts its work in table order. -/
  | breathOpen (o : BreathForm)
  /-- CAL_REVERT (R45). A step unfinished 2 µs before the breath closes is reverted. -/
  | calRevert (o : GroupForm)
  /-- CAL_STEP_DONE (R414). A step completes and records its margins. -/
  | calStepDone (o : CalDoneForm)
  /-- CAL_CTL (R414). A write sets the margin thresholds and enables or disables calibration kinds. -/
  | calCtl (o : WriteForm)
  /-- DOORBELL (R303). A BAR2 doorbell write sets the producer index or is rejected. -/
  | doorbell (o : DoorbellForm)
  /-- DESCRIPTOR_FETCH (R304). The front end issues a read of up to 32 descriptors in round-robin ring order. -/
  | descriptorFetch
  /-- DESCRIPTOR_ACCEPT (R307). A fetched descriptor arrives, passes its format checks and is accepted, or completes REJECT_FORMAT. -/
  | descriptorAccept (o : AcceptForm)
  /-- FETCH_ERR (R304). A descriptor read ends in a PCIe error, sets FETCH_ERR and clears EN. -/
  | fetchErr (o : RingForm)
  /-- NOT_BEFORE (R46). The counter reaches a descriptor's not-before and the descriptor becomes eligible. -/
  | notBefore (o : RingForm)
  /-- DEADLINE_MISSED (R48). An unstarted descriptor's deadline passes and it completes without effect. -/
  | deadlineMissed (o : DescForm)
  /-- BARRIER_ABORT (R310). An ORDERED descriptor meets its condition under BARRIER and completes ABORTED. -/
  | barrierAbort (o : RingForm)
  /-- COMPLETION_WRITE (R306). A completion entry is written when room exists, and TAIL advances. -/
  | completionWrite (o : CqForm)
  /-- COMPLETION_WR_ERR (R306). A completion write ends in a PCIe error and the completion ring disables itself. -/
  | completionWrErr (o : CqForm)
  /-- SQ_CFG (R301). A write enables, disables or reconfigures a submission ring. -/
  | sqCfg (o : RingWrite)
  /-- SQ_RESUME (R310). A write of 1 ends the ring's barrier. -/
  | sqResume (o : RingWrite)
  /-- CQ_CFG (R305). A write enables, disables or reconfigures a completion ring. -/
  | cqCfg (o : CqWrite)
  /-- CQ_HEAD (R305). A write frees completion entries or is rejected. -/
  | cqHead (o : CqWrite)
  /-- NOP (R312). The descriptor completes OK at start. -/
  | nop (o : RingForm)
  /-- DESCRIPTOR_FENCE (R308). A FENCE descriptor starts after all earlier descriptors complete, and completes OK. -/
  | descriptorFence (o : RingForm)
  /-- PROBE (R314). Returns the module state, the binding state, a token counter and the ring occupancy. -/
  | probe (o : RingForm)
  /-- LAUNCH (R316). Copies code, sets PM and per-core state, and starts h0 in the named sections. -/
  | launch (o : RingForm)
  /-- LAUNCH_FINISH (R317). All launched cores have finished and the LAUNCH's final completion follows. -/
  | launchFinish (o : DescForm)
  /-- MOVE (R319). Copies LEN bytes on a hub engine. -/
  | move (o : RingForm)
  /-- FILL (R319). Writes a repeated pattern on a hub engine. -/
  | fill (o : RingForm)
  /-- COLLECT (R392). Starts a collective: reads the group table and sends its contribution under the pattern. -/
  | collect (o : RingForm)
  /-- COLLECT_DEADLINE (R369). At the deadline plus 20 µs, uncounted contributions are dropped and the set becomes final. -/
  | collectDeadline (o : DescForm)
  /-- COLLECT_SUM (R395). Once the set is final, the vector engines add the counted contributions in contributor order and scale. -/
  | collectSum (o : DescForm)
  /-- COL_OPEN_RESEND (R393). A COL_OPEN answered by COL_NAK is sent again every 2 µs. -/
  | colOpenResend (o : ResendForm)
  /-- UPDATE (R360). Checks and reads the layer table, then applies update rules on the tile engines. -/
  | update (o : RingForm)
  /-- UPDATE_FINISH (R362). The engines finish their layers and the UPDATE completes with the highest applicable status. -/
  | updateFinish (o : DescForm)
  /-- DRAIN (R363). Copies one step's buffers to DST_VA after zeroing the commit record. -/
  | drain (o : RingForm)
  /-- LOGMARK (R367). With AUTO = 0, writes one log record. -/
  | logmark (o : RingForm)
  /-- LOGMARK_AUTO (R368). With AUTO = 1, arms the log. -/
  | logmarkAuto (o : RingForm)
  /-- INV (R285). The XSYNC INV flag drops the TLB and walk-cache entries of the range. -/
  | inv (o : RingForm)
  /-- L2F (R285). The XSYNC L2F flag writes back and invalidates the binding's L2 sectors of OLD_PA. -/
  | l2f (o : RingForm)
  /-- XSYNC_RETIREMENT (R286). The XSYNC proceeds once no engine holds a dropped translation. -/
  | xsyncRetirement (o : RingForm)
  /-- RESUME (R293). The XSYNC RESUME flag restarts the engines parked on the named sequence numbers. -/
  | resume (o : RingForm)
  /-- DECLINE (R293). The XSYNC DECLINE flag declines the faults of the named sequence numbers. -/
  | decline (o : RingForm)
  /-- BIND (R336). Checks and claims resources, sets xcfg and copies the stub. -/
  | bind (o : RingForm)
  /-- BIND_FINISH (R337). The stub copy ends and the binding becomes BOUND, or scrubs on HW_ERROR. -/
  | bindFinish (o : DescForm)
  /-- UNBIND (R339). Enters QUIESCING, stops the binding's cores and ends its parked engines. -/
  | unbind (o : RingForm)
  /-- UNBIND_TIMEOUT (R341). At 800 µs, the descriptors still running are cut and complete ABORTED. -/
  | unbindTimeout (o : BindForm)
  /-- HOST_RETIRE_TIMEOUT (R341). A host request unretired 50 µs after the cut retires as an error. -/
  | hostRetireTimeout (o : ReqForm)
  /-- SCRUB (R342). After retirement, the sections are reset, the keys retired and the resources released. -/
  | scrub (o : BindForm)
  /-- REKEY (R345). Unwraps and installs a key in a slot of the binding. -/
  | rekey (o : RekeyForm)
  /-- RETIRE_ONLY (R332). Retires a slot with a fresh random key. -/
  | retireOnly (o : RingForm)
  /-- RESTORE (R374). Derives the generator position, compares it with the supplied one, and installs it or reports SEED_SKEW. -/
  | restore (o : RingForm)
  /-- RD (R387). A remote read request arrives and is performed or forwarded. -/
  | rd (o : PacketForm)
  /-- WR (R387). A remote write arrives and is performed and acknowledged, or forwarded. -/
  | wr (o : PacketForm)
  /-- RD_CPL (R382). Read data returns to the requester. -/
  | rdCpl (o : PacketForm)
  /-- WR_ACK (R387). A write or COL_OPEN acknowledgement arrives. -/
  | wrAck (o : PacketForm)
  /-- ERR_CPL (R386). A refusal arrives and the request retires as an error. -/
  | errCpl (o : PacketForm)
  /-- COL_OPEN (R393). A contribution opening arrives and is matched or answered COL_NAK. -/
  | colOpen (o : PacketForm)
  /-- COL_DATA (R394). Contribution bytes arrive, are staged and forwarded under the pattern. -/
  | colData (o : PacketForm)
  /-- COL_NAK (R393). No matching COLLECT exists at the receiver. -/
  | colNak (o : PacketForm)
  /-- LINK (R380). A link packet carries acknowledgements, replay requests and credit. -/
  | link (o : LinkForm)
  /-- CRC_FAILURE (R380). A packet fails its CRC or FEC, and a replay is requested. -/
  | crcFailure (o : CrcForm)
  /-- REQUEST_TIMEOUT (R386). A request with no response for 100 µs retires as an error. -/
  | requestTimeout (o : ReqForm)
  /-- LANE_FAILURE (R377). A data lane fails and moves to the spare, or the port fails. -/
  | laneFailure (o : LaneForm)
  /-- PORT_TRAINING_DONE (R378). A port completes training and enters UP. -/
  | portTrainingDone (o : TrainForm)
  /-- TRAINING_FAILURE (R378). A training fails; after three in a row, the port enters FAILED. -/
  | trainingFailure (o : PortForm)
  /-- PORT_CTL (R378). An EN write takes a port out of service or restarts its training. -/
  | portCtl (o : PortWrite)
  /-- PORT_ERR (R378). A read returns and clears the read-clear error counters. -/
  | portErr (o : PortRead)
  /-- ROUTE_DATA (R383). A write changes a route entry and starts the route hold. -/
  | routeData (o : WriteForm)
  /-- ROUTE_HOLD_RELEASE (R383). New requests flow on the new port set once the old ones are acknowledged. -/
  | routeHoldRelease
  /-- UNDER_VOLTAGE (R397). Input below 40 V for 50 µs asserts the NMI, enters DRAINING and sets level 7. -/
  | underVoltage (o : VoltForm)
  /-- OVER_VOLTAGE (R397). Input above 60 V for 50 µs acts as under-voltage does. -/
  | overVoltage (o : VoltForm)
  /-- VOLTAGE_RECOVERY (R397). Input within range for 1 s clears UV or OV and releases level 7. -/
  | voltageRecovery (o : VoltForm)
  /-- INPUT_LIMIT (R396). Input below 36 V or above 63 V switches the compute side off and enters FAULTED. -/
  | inputLimit (o : VoltForm)
  /-- REQUEST_SAMPLE (R398). Each tile's activity request is sampled 16,000 ticks before an interval opens. -/
  | requestSample
  /-- THROTTLE_MESSAGE (R417). The grants and levels of an interval cross to the compute side. -/
  | throttleMessage (o : IntervalForm)
  /-- BELLOWS_INTERVAL (R401). An interval opens and the new grants and levels take effect. -/
  | bellowsInterval (o : IntervalForm)
  /-- THROTTLE_SILENCE (R419). After three intervals with no throttle message, tiles fall to grant 2 and the clock cap of level 7. -/
  | throttleSilence
  /-- POWER_OVER (R402). Over the limit by 5 % for 50 intervals, OVER is set and the power contribution rises. -/
  | powerOver
  /-- POWER_RELIEF (R402). Every 10 ms below 95 % of the limit, the power contribution falls by one. -/
  | powerRelief
  /-- THERMAL_RISE (R404). Each 1 ms at or above 100 °C raises the thermal contribution. -/
  | thermalRise (o : TileSel)
  /-- THERMAL_FALL (R404). Each 10 ms at or below 95 °C lowers the thermal contribution. -/
  | thermalFall (o : TileSel)
  /-- TILE_OVERTEMP (R404). A tile at 110 °C for 1 ms raises an error fatal to the module. -/
  | tileOvertemp (o : TileSel)
  /-- NEIGHBOUR_RISE (R407). Each 1 ms of excess neighbour difference raises the neighbour contribution. -/
  | neighbourRise (o : NeighbourForm)
  /-- NEIGHBOUR_FALL (R407). Each 10 ms at 15 K or less lowers the neighbour contribution. -/
  | neighbourFall (o : NeighbourForm)
  /-- PWR_LIMIT (R409). A write sets the driver limit, or is ignored with CFG_REJ. -/
  | pwrLimit (o : WriteForm)
  /-- WATCHDOG (R422). No heartbeat for 100 ms asserts the NMI and enters DRAINING. -/
  | watchdog
  /-- WATCHDOG_SWITCH_OFF (R422). No heartbeat for a further 100 ms switches the compute side off and enters FAULTED. -/
  | watchdogSwitchOff
  /-- STOP (R422). The Redfish Stop action starts an orderly stop. -/
  | stop
  /-- LEAK (R421). A leak detector asserted for 10 ms starts an orderly stop. -/
  | leak
  /-- COOLANT_FLOW_LOW (R421). Flow below 10 L/min for 1 s starts an orderly stop. -/
  | coolantFlowLow
  /-- COOLANT_WARNING (R421). Low flow or high inlet temperature for 10 s logs an event and drives FAC_ALERT# low. -/
  | coolantWarning
  /-- CONVERTER_OVERTEMP (R421). A converter phase at 125 °C switches the compute side off. -/
  | converterOvertemp
  /-- LOCKSTEP_MISMATCH (R423). The controller's lockstep cores disagree and the controller restarts. -/
  | lockstepMismatch
  /-- CONTROLLER_RESTART (R423). The ControllerRestart action restarts the controller. -/
  | controllerRestart
  /-- MCTP_AUTH_FAIL (R418). A kind 1 message fails authentication and is discarded and logged. -/
  | mctpAuthFail
  /-- MCTP_SILENCE (R419). Silence on the kind 1 channel clears MB_STATUS.LINK. -/
  | mctpSilence
  /-- GO (R427). Hands MB_IN to the controller, or is rejected. -/
  | go (o : WriteForm)
  /-- ACK (R427). Releases MB_OUT. -/
  | ack
  /-- MB_TAKE (R427). The controller takes MB_IN while LINK = 1 and clears IN_BUSY. -/
  | mbTake
  /-- MB_RESPONSE (R427). A response or event message enters MB_OUT, sets OUT_VALID and sends MSI-X. -/
  | mbResponse (o : MessageForm)
  /-- FIRMWARE_IMAGE (R429). An image arrives and is checked, then written to the inactive bank or rejected. -/
  | firmwareImage (o : ImageForm)
  /-- PAIR (R435). The Pair action writes the pairing record. -/
  | pair (o : PairForm)
  /-- UNPAIR (R437). Erases pairing, resets the id, regenerates the attestation key and destroys the KEK. -/
  | unpair
  /-- LLDPDU (R436). The first LLDPDU in CHECKING decides PAIRED or UNPAIRED. -/
  | lldpdu (o : LldpForm)
  /-- PAIRING_TIMEOUT (R436). No LLDPDU within 60 s gives UNPAIRED. -/
  | pairingTimeout
  /-- SET_KEK (R434). Sets the KEK inside an SPDM session and increments KEK_GEN. -/
  | setKek (o : KekForm)
  /-- GET_VERSION (R433). SPDM version request. -/
  | getVersion
  /-- GET_CAPABILITIES (R433). SPDM capabilities request. -/
  | getCapabilities
  /-- NEGOTIATE_ALGORITHMS (R433). SPDM algorithm negotiation. -/
  | negotiateAlgorithms
  /-- GET_DIGESTS (R433). SPDM certificate digests request. -/
  | getDigests
  /-- GET_CERTIFICATE (R433). SPDM certificate request. -/
  | getCertificate
  /-- CHALLENGE (R433). SPDM challenge signed with the attestation key. -/
  | challenge
  /-- GET_MEASUREMENTS (R433). Returns signed measurements. -/
  | getMeasurements
  /-- KEY_EXCHANGE (R434). Opens an SPDM secure session. -/
  | keyExchange (o : ExchangeForm)
  /-- FINISH (R433). Completes SPDM session establishment. -/
  | finish
  /-- END_SESSION (R433). Ends an SPDM session. -/
  | endSession
  /-- FAC_EN_ASSERT (R457). FAC_EN is asserted with sufficient input and the module enters STANDBY. -/
  | facEnAssert (o : FacEnForm)
  /-- FAC_EN_DEASSERT (R457). FAC_EN deasserted, PRESENT broken or input below 30 V enters OFF. -/
  | facEnDeassert
  /-- POWERON (R457). The PowerOn action, or AutoOn, moves STANDBY to RISING when the conditions hold. -/
  | poweron
  /-- RISING_COMPLETE (R462). The power ramp and firmware verification end and SELFTEST is entered. -/
  | risingComplete (o : RisingForm)
  /-- SELFTEST_COMPLETE (R462). The self-test, spare mapping and training steps end, and SERVING or SERVICE is entered. -/
  | selftestComplete (o : SelftestForm)
  /-- ENTER_SERVICE (R459). MOD_CMD command 1 enters SERVICE. -/
  | enterService
  /-- ENTER_SERVING (R459). MOD_CMD command 2 enters SERVING. -/
  | enterServing
  /-- CMD_DRAIN (R459). MOD_CMD command 3 enters DRAINING. -/
  | cmdDrain
  /-- WARM_RESET (R466). MOD_CMD command 4 performs a warm reset. -/
  | warmReset
  /-- REDFISH_WARM_RESET (R465). The Redfish WarmReset action performs a warm reset. -/
  | redfishWarmReset
  /-- PERST (R465). PERST# assertion performs a warm reset. -/
  | perst
  /-- HOT_RESET (R465). A PCIe hot reset performs a warm reset. -/
  | hotReset
  /-- FLR (R465). A function-level reset performs a warm reset. -/
  | flr
  /-- POWERCYCLE (R465). The Redfish PowerCycle action performs a cold reset. -/
  | powercycle
  /-- ORDERLY_STOP_END (R460). All bindings are FREE, or the timeout expires, and the compute side switches off into STANDBY. -/
  | orderlyStopEnd
  /-- FATAL_ERROR (R443). An error fatal to the module stops every core and enters FAULTED. -/
  | fatalError (o : FatalForm)
  /-- HOST_REQUEST_ERROR (R492). A core's host request ends in a PCIe error, poisons the load data and writes code 0x0017. -/
  | hostRequestError (o : HostErrorForm)
  /-- HW_ERROR (R442). An error fatal to a binding completes the descriptor HW_ERROR and sets ERR_BIND. -/
  | hwError (o : HwErrorForm)
  /-- CORE_SUBSTITUTION (R451). A failed core is mapped onto the spare position when its section is FREE. -/
  | coreSubstitution (o : CoreForm)
  /-- TILE_SUBSTITUTION (R452). A pending tile moves to a spare site after its sections are FREE. -/
  | tileSubstitution (o : TileSel)
  /-- STACK_CHANNEL_COPY (R453). A stack channel's copy to a spare channel completes. -/
  | stackChannelCopy (o : ChannelForm)
  /-- ERROR_RECORD_WRITE (R446). A formed error record is written to the error ring, or held or dropped. -/
  | errorRecordWrite
  /-- CE_MERGE_WINDOW (R445). A 1 ms window of merged corrected errors ends and its record is formed. -/
  | ceMergeWindow (o : IndexForm)
  /-- ERROR_RING_WR_ERR (R446). A record write ends in a PCIe error and the error ring disables itself. -/
  | errorRingWrErr
  /-- ERR_CFG (R447). A write enables, disables or reconfigures the error ring. -/
  | errCfg (o : WriteForm)
  /-- ERR_HEAD (R447). A write frees error ring entries or is rejected. -/
  | errHead (o : WriteForm)
  /-- BAR4_READ (R299). A host read through the BAR4 window at the stacks. -/
  | bar4Read (o : Bar4Read)
  /-- BAR4_WRITE (R299). A host write through the BAR4 window at the stacks. -/
  | bar4Write (o : Bar4Write)
  /-- FREEZE (R480). Holds every performance counter at one instant. -/
  | freeze
  /-- CLEAR (R478). Zeroes every performance counter and stamps PERF_SNAP. -/
  | clear
  /-- PERF_SEL (R480). Selects a counter's event within 2 µs. -/
  | perfSel (o : PerfSelForm)
  /-- PERF_CNT (R480). Writes a counter value, with the same-cycle events added. -/
  | perfCnt (o : PerfCntForm)
  /-- REG_WRITE (R7). A write to any register without a row of its own, by its access type. -/
  | regWrite (o : RegWriteForm)
  /-- PERST_DEASSERT (R465). The host deasserts PERST#, which ends a warm reset held while PERST# is low and lets the PCIe link train. -/
  | perstDeassert
  /-- PEER_SIGNAL_LOSS (R378). A port loses its peer's signal, leaves UP for DOWN and triggers the route change of R383. -/
  | peerSignalLoss (o : PortForm)
  /-- PEER_SIGNAL_DETECT (R378). A port in DOWN with EN = 1 detects its peer's signal and begins training on its own. -/
  | peerSignalDetect (o : PortForm)
  /-- MCTP_CHANNEL_UP (R419). The kind 1 channel returns, MB_STATUS.LINK sets, and waiting mailbox messages can be taken. -/
  | mctpChannelUp
  /-- COOLANT_WARNING_CLEARED (R421). Once the low-flow or high-inlet condition has stayed clear for 10 s, FAC_ALERT# is released. -/
  | coolantWarningCleared
  /-- CONTROLLER_RESTART_DONE (R423). The Zarnyx controller finishes its restart: it logs the event, kind 1 messages flow again, the watchdog resumes and new controller firmware takes effect. -/
  | controllerRestartDone
  /-- PWR_OPLIM (R409). The operator sets the operator power limit through the Zarnyx controller, and the new limit applies from the next interval at least 4 µs later. -/
  | pwrOplim (o : WriteForm)
  /-- HOST_READ_COMPLETION (R94). A successful PCIe completion for a module read of host memory arrives and delivers its data to the waiting core or engine. -/
  | hostReadCompletion (o : HostDataForm)
deriving DecidableEq, Repr

end Sys2Proof
end

