-- ==== Sys2Proof/Decode.lean ====
section
/-!
DEFINITION. What words spell. spec/opcode_table.json gives no row any bits, so no word of the table's spells a command; the words of an
instruction local store spell instructions by Tables 03-4 to 03-13, 05-3 to 05-8, 05-11, 06-7 and 07-2 to 07-4 (R66 to R87, R138, R139, R173,
R191).
-/

namespace Sys2Proof

/-- No row of the table has bits: every word of every length spells no command. -/
def decodeTableWord (_nbits _w : Nat) : Option Instr := none

/-! ## Fields (Table 03-4) -/

/-- n bits of a word from bit `lo` up. -/
abbrev Word.field (w : Word) (lo n : Nat) : BitVec n := w.extractLsb' lo n

/-- The major opcode. -/
def Word.major (w : Word) : Nat := (w.field 26 6).toNat

/-- The instruction has a shape word (R66). -/
def Word.isLong (w : Word) : Bool := decide (0x38 ≤ w.major ∧ w.major ≤ 0x3B)

/-- The fn field of the register format. -/
def Word.fn (w : Word) : Nat := (w.field 0 11).toNat

/-- The fn field of the vector format. -/
def Word.vfn (w : Word) : Nat := (w.field 0 8).toNat

section Forms
variable (c : CoreId) (t : ThreadId) (w : Word)

def rForm : RForm := ⟨c, t, w.field 21 5, w.field 16 5, w.field 11 5⟩
def iForm : IForm := ⟨c, t, w.field 21 5, w.field 16 5, w.field 0 16⟩
def mForm : MForm := ⟨c, t, w.field 21 5, w.field 16 5, w.field 13 3, w.field 0 13⟩
def xForm : XForm := ⟨c, t, w.field 21 5, w.field 16 5, w.field 12 4, w.field 9 3, w.field 0 9⟩
def bForm : BForm := ⟨c, t, w.field 21 5, w.field 16 5, w.field 0 16⟩
def sysForm : SysForm := ⟨c, t, w.field 21 5, w.field 16 5, w.field 4 12⟩

/-- SPAN: the span in rd[24:21], the scale in fn[2:0] (Table 03-7). -/
def spanForm : SpanForm := ⟨c, t, w.field 21 4, w.field 16 5, w.field 11 5, w.field 0 3, w.field 25 1 ++ w.field 3 8⟩

/-- SPANR: the span in ra[19:16], the part in fn[1:0] (Table 03-7). -/
def spanrForm : SpanrForm := ⟨c, t, w.field 21 5, w.field 16 4, w.field 0 2, w.field 20 1 ++ w.field 11 5 ++ w.field 2 9⟩

/-- Scalar floating point; fn[10] selects FP64 (R76). -/
def fForm : FForm := ⟨c, t, w.field 21 5, w.field 16 5, w.field 11 5, w.getLsbD 10⟩

/-- Fused multiply-add: the addend's register is fn[9:6] :: rb[15] (R76). -/
def fmaForm : FmaForm := ⟨c, t, w.field 21 5, w.field 16 5, w.field 11 5, w.field 6 4 ++ w.field 15 1, w.getLsbD 10⟩

/-- LR/SC: the span in fn[10:7], fn[6:3] zero (R82). -/
def lrForm : LrForm := ⟨c, t, w.field 21 5, w.field 16 5, w.field 11 5, w.field 7 4, w.field 3 4⟩

/-- The vector format; `s` is fn[7] where the instruction's table has the scalar bit (R138). -/
def vForm (s : Bool) : VForm := ⟨c, t, w.field 21 5, w.field 16 5, w.field 11 5, w.field 8 3, s⟩

/-- The fused forms: vc in fn[7:3]; vb names f[vb] in major 0x2B (Table 05-4). -/
def vFmaForm (s : Bool) : VFmaForm := ⟨c, t, w.field 21 5, w.field 16 5, w.field 11 5, w.field 3 5, w.field 8 3, s⟩

/-- Scans and sum reduction: CI in fn[4], CO in fn[5], fn[3] and fn[7:6] zero (Table 05-8). -/
def vScanForm : VScanForm :=
  ⟨c, t, w.field 21 5, w.field 16 5, w.field 11 5, w.field 8 3, w.getLsbD 4, w.getLsbD 5, w.field 6 2 ++ w.field 3 1⟩

/-- Vector memory (Table 05-3). -/
def vMemForm : VMemForm :=
  ⟨c, t, w.field 21 5, w.field 16 5, w.field 12 4, w.getLsbD 11, w.field 8 3, w.field 1 7, w.getLsbD 0⟩

/-- Tile memory (Table 06-7) with its shape word. -/
def tileForm (shape : Word) : TileForm := ⟨c, t, w.field 20 3, w.field 15 5, w.field 10 5, w.field 6 4, w.field 0 6, shape⟩

/-- MMA (Table 07-2). -/
def mmaForm (shape : Word) : MmaForm :=
  ⟨c, t, w.field 22 4, w.field 19 3, w.field 16 3, w.field 13 3, w.field 10 3, w.field 6 4, w.getLsbD 5, w.field 0 5, shape⟩

/-- Stationary weights (Table 07-3). -/
def weightForm (shape : Word) : WeightForm :=
  ⟨c, t, w.field 22 4, w.field 17 3, w.field 14 3, w.field 10 4, w.getLsbD 9, w.field 0 9, shape⟩

/-- Accumulator access (Table 07-4). -/
def accForm (shape : Word) : AccForm :=
  ⟨c, t, w.field 24 2, w.field 17 4, w.field 14 3, w.field 9 5, w.getLsbD 8, w.getLsbD 7, w.field 0 7, shape⟩

/-! ## The opcode tables: none where an fn or sf value is not assigned -/

/-- Major opcode 0x01 (Table 03-6). -/
def decodeAlu : Option Instr :=
  let o := rForm c t w
  match w.fn with
  | 0x000 => some (.add o)
  | 0x001 => some (.sub o)
  | 0x002 => some (.and o)
  | 0x003 => some (.or o)
  | 0x004 => some (.xor o)
  | 0x005 => some (.sll o)
  | 0x006 => some (.srl o)
  | 0x007 => some (.sra o)
  | 0x008 => some (.slt o)
  | 0x009 => some (.sltu o)
  | 0x00A => some (.mul o)
  | 0x00B => some (.mulh o)
  | 0x00C => some (.mulhu o)
  | 0x00D => some (.div o)
  | 0x00E => some (.divu o)
  | 0x00F => some (.rem o)
  | 0x010 => some (.remu o)
  | _ => none

/-- Major opcode 0x1C (Table 03-12). -/
def decodeLr : Option Instr :=
  let o := lrForm c t w
  match (w.field 0 3).toNat with
  | 0 => some (.lrW o)
  | 1 => some (.scW o)
  | 2 => some (.lrxW o)
  | 3 => some (.scxW o)
  | _ => none

/-- Major opcode 0x1D (Table 03-13). -/
def decodeSystem : Option Instr :=
  let o := sysForm c t w
  match (w.field 0 4).toNat with
  | 0x0 => some (.trap o)
  | 0x1 => some (.eret ⟨c, t⟩)
  | 0x2 => some (.fence ⟨c, t⟩)
  | 0x3 => some (.fenceG ⟨c, t⟩)
  | 0x4 => some (.ifence ⟨c, t⟩)
  | 0x5 => some (.patch o)
  | 0x6 => some (.csrr o)
  | 0x7 => some (.csrw o)
  | 0x8 => some (.csrs o)
  | 0x9 => some (.csrc o)
  | 0xA => some (.wait ⟨c, t⟩)
  | _ => none

/-- Major opcode 0x20 (Table 03-10): the operation is fn[3:0], fn[9:4] names nothing else. -/
def decodeFp : Option Instr :=
  let o := fForm c t w
  match (w.field 0 10).toNat with
  | 0x0 => some (.fadd o)
  | 0x1 => some (.fsub o)
  | 0x2 => some (.fmul o)
  | 0x3 => some (.fdiv o)
  | 0x4 => some (.fsqrt o)
  | 0x5 => some (.fmin o)
  | 0x6 => some (.fmax o)
  | 0x7 => some (.fsgnj o)
  | 0x8 => some (.feq o)
  | 0x9 => some (.flt o)
  | 0xA => some (.fle o)
  | 0xB => some (.fclass o)
  | _ => none

/-- Major opcode 0x21 (Table 03-10): the operation is fn[5:4], fn[3:0] names nothing else. -/
def decodeFma : Option Instr :=
  let o := fmaForm c t w
  match (w.field 0 6).toNat with
  | 0x00 => some (.fmadd o)
  | 0x10 => some (.fmsub o)
  | 0x20 => some (.fnmadd o)
  | 0x30 => some (.fnmsub o)
  | _ => none

/-- Major opcode 0x22 (Table 03-10). -/
def decodeConvert : Option Instr :=
  let o := fForm c t w
  match (w.field 0 10).toNat with
  | 0x0 => some (.fcvtDS o)
  | 0x1 => some (.fcvtSD o)
  | 0x2 => some (.fcvtW o)
  | 0x3 => some (.fcvtWu o)
  | 0x4 => some (.fcvtFw o)
  | 0x5 => some (.fcvtFwu o)
  | 0x6 => some (.fmvGf o)
  | 0x7 => some (.fmvFg o)
  | _ => none

/-- Major opcode 0x28 (Table 05-5): fn[7] is the scalar bit. -/
def decodeVfp : Option Instr :=
  let o := vForm c t w (w.getLsbD 7)
  match (w.field 0 7).toNat with
  | 0x00 => some (.vfadd o)
  | 0x01 => some (.vfsub o)
  | 0x02 => some (.vfmul o)
  | 0x03 => some (.vfmin o)
  | 0x04 => some (.vfmax o)
  | 0x05 => some (.vfsgnj o)
  | 0x06 => some (.vadd2 o)
  | 0x08 => some (.vfexp o)
  | 0x09 => some (.vflog o)
  | 0x0A => some (.vfsin o)
  | 0x0B => some (.vfcos o)
  | 0x0C => some (.vfrsqrt o)
  | 0x0D => some (.vfrcp o)
  | 0x10 => some (.vcvt o)
  | _ => none

/-- Major opcodes 0x29 and 0x2B (Table 05-5). -/
def decodeVfma (s : Bool) : Option Instr :=
  let o := vFmaForm c t w s
  match (w.field 0 3).toNat with
  | 0 => some (.vfma o)
  | 1 => some (.vfms o)
  | 2 => some (.vfnma o)
  | 3 => some (.vfnms o)
  | 4 => some (.vfma2 o)
  | _ => none

/-- Major opcode 0x2A (Tables 05-6 and 05-11): fn[7] is the scalar bit. -/
def decodeValu : Option Instr :=
  let o := vForm c t w (w.getLsbD 7)
  match (w.field 0 7).toNat with
  | 0x00 => some (.vadd o)
  | 0x01 => some (.vsub o)
  | 0x02 => some (.vmul o)
  | 0x03 => some (.vmulh o)
  | 0x04 => some (.vmulhu o)
  | 0x05 => some (.vand o)
  | 0x06 => some (.vor o)
  | 0x07 => some (.vxor o)
  | 0x08 => some (.vsll o)
  | 0x09 => some (.vsrl o)
  | 0x0A => some (.vsra o)
  | 0x0B => some (.vmin o)
  | 0x0C => some (.vmax o)
  | 0x0D => some (.vminu o)
  | 0x0E => some (.vmaxu o)
  | 0x0F => some (.vmerge o)
  | 0x10 => some (.vsadd o)
  | 0x11 => some (.vsaddu o)
  | 0x12 => some (.vssub o)
  | 0x13 => some (.vssubu o)
  | 0x14 => some (.vaadd o)
  | 0x15 => some (.vaaddu o)
  | 0x16 => some (.vasub o)
  | 0x17 => some (.vsmul o)
  | 0x18 => some (.vssrl o)
  | 0x19 => some (.vssra o)
  | 0x1A => some (.vnclip o)
  | 0x1B => some (.vnclipu o)
  | 0x20 => some (.vceq o)
  | 0x21 => some (.vcne o)
  | 0x22 => some (.vclt o)
  | 0x23 => some (.vcle o)
  | 0x24 => some (.vcltu o)
  | 0x25 => some (.vcleu o)
  | 0x28 => some (.vfceq o)
  | 0x29 => some (.vfclt o)
  | 0x2A => some (.vfcle o)
  | 0x2B => some (.vfcun o)
  | _ => none

/-- Major opcode 0x2C (Table 05-7). -/
def decodeVperm : Option Instr :=
  let o := vForm c t w false
  match w.vfn with
  | 0 => some (.vslideup o)
  | 1 => some (.vslidedn o)
  | 2 => some (.vslideupi o)
  | 3 => some (.vslidedni o)
  | 4 => some (.vcompress o)
  | _ => none

/-- Major opcode 0x2D (Table 05-7). -/
def decodeVxfer : Option Instr :=
  let o := vForm c t w false
  match w.vfn with
  | 0 => some (.vbcast o)
  | 1 => some (.vbcastf o)
  | 2 => some (.vinsert o)
  | 3 => some (.vinsertf o)
  | _ => none

/-- Major opcode 0x34 (Table 05-8): the operation is fn[2:0]. -/
def decodeVscan : Option Instr :=
  let o := vScanForm c t w
  match (w.field 0 3).toNat with
  | 0 => some (.vscani o)
  | 1 => some (.vscanx o)
  | 2 => some (.vsscani o)
  | 3 => some (.vsscanx o)
  | 4 => some (.vscan2 o)
  | _ => none

/-- Major opcode 0x35 (Table 05-8): fn is 0x00, or 0x10 with CI. -/
def decodeVsum : Option Instr := if w.vfn = 0x00 ∨ w.vfn = 0x10 then some (.vrsum (vScanForm c t w)) else none

/-- Major opcode 0x36 (Table 05-8). -/
def decodePred : Option Instr :=
  let o := vForm c t w false
  match w.vfn with
  | 0 => some (.pand o)
  | 1 => some (.por o)
  | 2 => some (.pxor o)
  | 3 => some (.pandn o)
  | 4 => some (.pnot o)
  | _ => none

/-- Major opcode 0x37 (Table 05-8). -/
def decodeSummary : Option Instr :=
  let o := vForm c t w false
  match w.vfn with
  | 0 => some (.vpcount o)
  | 1 => some (.vpany o)
  | 2 => some (.vpall o)
  | 3 => some (.vpfirst o)
  | 4 => some (.vextract o)
  | 5 => some (.vextractf o)
  | _ => none

/-- Major opcode 0x38 (Table 06-7): fn is [25:23]. -/
def decodeTile (shape : Word) : Option Instr :=
  let o := tileForm c t w shape
  match (w.field 23 3).toNat with
  | 0 => some (.tld o)
  | 1 => some (.tst o)
  | 2 => some (.tldg o)
  | 3 => some (.tlds o)
  | 4 => some (.tsts o)
  | 5 => some (.tzero o)
  | 6 => some (.ttag o)
  | _ => none

/-- Major opcode 0x3A (Table 07-3): fn is [21:20]. -/
def decodeWeight (shape : Word) : Option Instr :=
  let o := weightForm c t w shape
  match (w.field 20 2).toNat with
  | 0 => some (.wload o)
  | 1 => some (.mvm o)
  | 2 => some (.mvmt o)
  | _ => none

/-- Major opcode 0x3B (Table 07-4): fn is [23:21]. -/
def decodeAcc (shape : Word) : Option Instr :=
  let o := accForm c t w shape
  match (w.field 21 3).toNat with
  | 0 => some (.accrd o)
  | 1 => some (.accrdVector o)
  | 2 => some (.accwr o)
  | 3 => some (.accfree o)
  | 4 => some (.acctag o)
  | _ => none

/-- The instruction that a word, with its shape word where it has one, spells on a thread (Table 03-5): none for a reserved major opcode and
for an fn or sf value that is not assigned. The sz values and the fields marked zero are the instruction's own checks. -/
def decodeWord (shape : Word) : Option Instr :=
  match w.major with
  | 0x01 => decodeAlu c t w
  | 0x02 => some (.addi (iForm c t w))
  | 0x03 => some (.andi (iForm c t w))
  | 0x04 => some (.ori (iForm c t w))
  | 0x05 => some (.xori (iForm c t w))
  | 0x06 => some (.slti (iForm c t w))
  | 0x07 => some (.sltiu (iForm c t w))
  | 0x08 => some (.slli (iForm c t w))
  | 0x09 => some (.srli (iForm c t w))
  | 0x0A => some (.srai (iForm c t w))
  | 0x0B => some (.lui (iForm c t w))
  | 0x10 => some (.ld (mForm c t w))
  | 0x11 => some (.st (mForm c t w))
  | 0x12 => some (.ldx (xForm c t w))
  | 0x13 => some (.stx (xForm c t w))
  | 0x14 => some (.span (spanForm c t w))
  | 0x15 => some (.spanr (spanrForm c t w))
  | 0x18 => some (.beq (bForm c t w))
  | 0x19 => some (.bne (bForm c t w))
  | 0x1A => some (.jalr ⟨c, t, w.field 21 5, w.field 16 5, w.field 0 11, w.field 11 5⟩)
  | 0x1B => some (.jal ⟨c, t, w.field 0 26⟩)
  | 0x1C => decodeLr c t w
  | 0x1D => decodeSystem c t w
  | 0x1E => some (.loop ⟨c, t, w.field 21 2, w.field 16 5, w.field 0 16, w.field 23 3⟩)
  | 0x20 => decodeFp c t w
  | 0x21 => decodeFma c t w
  | 0x22 => decodeConvert c t w
  | 0x28 => decodeVfp c t w
  | 0x29 => decodeVfma c t w false
  | 0x2A => decodeValu c t w
  | 0x2B => decodeVfma c t w true
  | 0x2C => decodeVperm c t w
  | 0x2D => decodeVxfer c t w
  | 0x30 => some (.vld (vMemForm c t w))
  | 0x31 => some (.vst (vMemForm c t w))
  | 0x34 => decodeVscan c t w
  | 0x35 => decodeVsum c t w
  | 0x36 => decodePred c t w
  | 0x37 => decodeSummary c t w
  | 0x38 => decodeTile c t w shape
  | 0x39 => some (.mma (mmaForm c t w shape))
  | 0x3A => decodeWeight c t w shape
  | 0x3B => decodeAcc c t w shape
  | _ => none

end Forms

/-- The subcode of vector 3 for a word that spells no instruction (R67): 0x03 for the all-zero word, 0x01 for every other. -/
def illegalSub (w : Word) : BitVec 8 := if w = 0 then 3 else 1

end Sys2Proof
end

