-- ==== Sys2Proof/Config.lean ====
section
/-!
DEFINITION. What one module fixes for itself and what the manual leaves open. Every constant here has NO BODY: no proof can
see its value, so every claim holds whatever it is. Each is named in notes/assumptions/4.md.
-/

namespace Sys2Proof.Config

/-- A value that the manual leaves open, the n-th one that the run draws (`State.free` counts them). -/
opaque freeNat : Nat → Nat

/-- The n-th fresh random key pair (R332). -/
opaque freshKey : Nat → BitVec 512

/-- The byte of ciphertext that the stacks hold at `addr` after the `era`-th loss of their contents, until something is written (R467
gives none). -/
opaque lostByte : (era addr : Nat) → BitVec 8

/-- Which of the two neighbours a faithful rounding returns where the bound admits both (R224): a function of the exact
significand and exponent. -/
opaque faithfulUp : Nat → Int → Bool

/-- Which of the results within the bound of Table 08-14 a transcendental returns (R237): operation, format code, operand. -/
opaque transcendentalPick : Nat → Nat → Nat → Nat

/-- The result of VFSIN or VFCOS beyond 2^20, before it is brought into [-1, 1] (R237). -/
opaque farAngle : Nat → Nat → Nat → Nat

/-- The set of the tile L2 that a 256-byte line falls in (R251 gives the counts, not the index). -/
opaque l2Set : Nat → Nat

/-- The set of the L1D that a 64-byte line falls in (R244 gives the counts, not the index). -/
opaque l1Set : Nat → Nat

/-- The set of the tile TLB or hub TLB that a page falls in (R278 gives the ways, not the index). -/
opaque tlbSet : Nat → Nat

/-- The packets that a port can take at first in its request channel (false) and its response channel (true): R380 names credits and gives
no number. -/
opaque portCredits : (response : Bool) → Nat

/-- Whether the slew removes a tick of the difference at a count of the counter (R38 gives the highest rate, not the rate). -/
opaque slewTakes : Nat → Bool

/-- The channel 0-31 of a stack that a 64-byte unit lies on (R450 gives the channels, not the mapping). -/
opaque channelOf : (unit : Nat) → Nat

/-- The first 64 bits of SHAKE256 of the n-th attestation public key (R438). -/
opaque attKeyId : Nat → BitVec 64

/-- The serial number, before R476's 'never zero' is applied. -/
opaque serialRaw : BitVec 64

/-- The panel revision, before R476's '1 or above' is applied. -/
opaque panelRaw : BitVec 8

/-- The highest clock in MHz that a voltage supports (R406 gives the ranges, not the curve). -/
opaque clockOfVoltage : (millivolt : Nat) → Nat

/-- The voltage in mV that the Bellows chooses for a tile (R406 gives the range): tile, throttle level. -/
opaque voltageChoice : (tile level : Nat) → Nat

/-- The code of a management event (R424 names the field and gives no codes): the event's number in this model. -/
opaque eventCode : Nat → BitVec 16

/-- The subcode of vector 3 that an array instruction with AM = 0 reports (R191 calls it illegal; Table 04-6 gives no subcode). -/
opaque emptyMaskSub : BitVec 8

/-- The SHAKE256 digest of an item of Table 16-8 whose bytes the manual does not lay out (5 to 8), of its index and of the numbers it holds. -/
opaque itemDigest : (index : Nat) → (content : List Nat) → BitVec 512

/-- What a facility-side sensor reads at a sample (Table 16-2, R420): its number, and the ticks that the facility side has been powered. -/
opaque facilitySensor : (sensor uptime : Nat) → BitVec 32

/-- SERIAL, never zero (R476). -/
def serial : BitVec 64 := if serialRaw = 0 then 1 else serialRaw

/-- REV.PANEL, 1 or above (R476). -/
def panel : BitVec 8 := if panelRaw = 0 then 1 else panelRaw

end Sys2Proof.Config
end

