-- ==== Sys2Proof/Machine/Table.lean ====
section
/-!
DEFINITION. Sparse tables: the plain data that holds memories, register files and the module's arrays of like units. A table
lists (key, value) pairs in one canonical form: keys strictly rising, and no entry equal to what an unlisted key reads as.
Every reader and writer names that default, so equal tables are equal data.
-/

namespace Sys2Proof.Machine

/-- Entries by rising key; `Table (BitVec 8)` lists `Host.Cell`s. -/
structure Table (α : Type) where
  entries : List (Nat × α)
deriving DecidableEq, Repr

/-- The table that lists nothing. -/
def Table.empty {α : Type} : Table α := ⟨[]⟩

/-- The value of key `k` in a list of entries, `d` where none is listed. -/
def lookupEntry {α : Type} (d : α) (k : Nat) : List (Nat × α) → α
  | [] => d
  | (j, v) :: r => if k = j then v else lookupEntry d k r

/-- Put (k, v) in its place by key; an entry of the same key is replaced. -/
def insertEntry {α : Type} (k : Nat) (v : α) : List (Nat × α) → List (Nat × α)
  | [] => [(k, v)]
  | (j, w) :: r =>
    if k < j then (k, v) :: (j, w) :: r
    else if k = j then (k, v) :: r
    else (j, w) :: insertEntry k v r

/-- Leave out every entry of key `k`. -/
def dropEntry {α : Type} (k : Nat) : List (Nat × α) → List (Nat × α)
  | [] => []
  | (j, w) :: r => if k = j then dropEntry k r else (j, w) :: dropEntry k r

/-- What key `k` reads as; `d` is what an unlisted key reads as. -/
def Table.get {α : Type} (d : α) (t : Table α) (k : Nat) : α := lookupEntry d k t.entries

/-- Write `v` at key `k`; writing the default removes the entry, so that the form stays canonical. -/
def Table.set {α : Type} [DecidableEq α] (d : α) (t : Table α) (k : Nat) (v : α) : Table α :=
  if v = d then ⟨dropEntry k t.entries⟩ else ⟨insertEntry k v t.entries⟩

/-- Change the value at key `k` by `f`. -/
def Table.modify {α : Type} [DecidableEq α] (d : α) (t : Table α) (k : Nat) (f : α → α) : Table α :=
  t.set d k (f (t.get d k))

/-- Keep only the keys that `p` admits; the others read as the default again. -/
def Table.keep {α : Type} (t : Table α) (p : Nat → Bool) : Table α := ⟨t.entries.filter fun e => p e.1⟩

/-- Apply `f` to every listed value, leaving out what becomes the default. -/
def Table.mapListed {α : Type} [DecidableEq α] (d : α) (t : Table α) (f : Nat → α → α) : Table α :=
  t.entries.foldr (fun e r => r.set d e.1 (f e.1 e.2)) .empty

/-- The canonical form: keys strictly rising, no entry equal to the default. -/
def Table.wf {α : Type} [DecidableEq α] (d : α) (t : Table α) : Bool :=
  decide (t.entries.Pairwise fun a b => a.1 < b.1) && t.entries.all fun e => decide (e.2 ≠ d)

/-- A byte memory; an unlisted address reads as zero (the reset contents of the stores, R270). -/
abbrev Memory := Table Byte

/-- The canonical form of a byte memory. -/
abbrev Memory.wf (m : Memory) : Bool := Table.wf (0 : Byte) m

/-- One byte of a memory. -/
def Memory.read (m : Memory) (a : Nat) : Byte := Table.get 0 m a

/-- Write one byte. -/
def Memory.write (m : Memory) (a : Nat) (b : Byte) : Memory := Table.set 0 m a b

/-- The bytes at `a`, `a + 1`, …, `n` of them. -/
def Memory.readBytes (m : Memory) (a : Nat) : Nat → List Byte
  | 0 => []
  | n + 1 => m.read a :: Memory.readBytes m (a + 1) n

/-- Write a list of bytes from `a` upward. -/
def Memory.writeBytes (m : Memory) (a : Nat) : List Byte → Memory
  | [] => m
  | b :: r => Memory.writeBytes (m.write a b) (a + 1) r

/-- A memory whose addresses `lo` to `lo + n - 1` read zero again. -/
def Memory.zero (m : Memory) (lo n : Nat) : Memory := m.keep fun a => a < lo || lo + n ≤ a

/-- The number that bytes hold, least significant byte first (R4). -/
def natOfBytes : List Byte → Nat
  | [] => 0
  | b :: r => b.toNat + 256 * natOfBytes r

/-- The `n` bytes of a number, least significant byte first (R4). -/
def bytesOfNat : Nat → Nat → List Byte
  | 0, _ => []
  | n + 1, v => BitVec.ofNat 8 v :: bytesOfNat n (v / 256)

/-- The little-endian value of `n` bytes at `a`. -/
def Memory.readNat (m : Memory) (a n : Nat) : Nat := natOfBytes (m.readBytes a n)

/-- Write `v` as `n` little-endian bytes at `a`. -/
def Memory.writeNat (m : Memory) (a n v : Nat) : Memory := m.writeBytes a (bytesOfNat n v)

end Sys2Proof.Machine
end

