-- ==== Sys2Proof/Machine/CoreState.lean ====
section
/-!
DEFINITION. What one core holds: its four threads, its vector engine, tile registers and matrix arrays, its stores, caches and
control page (03_control_core.md to 09_memory_hierarchy.md).
-/

namespace Sys2Proof.Machine

/-! ## Values that several units share -/

/-- One byte with its poison marking (R448). -/
abbrev PByte := Byte × Bool

/-- A mapping of a run of pages: first va, size in bytes, first physical address, attributes (R278, R280); `old` once an XSYNC has
withdrawn it while a request under way still used it (R286). -/
structure Leaf where
  va : Nat
  size : Nat
  pa : Nat
  attr : BitVec 2
  w : Bool
  key : SlotId
  old : Bool
deriving DecidableEq, Repr

/-- What a request goes by: the key slot, and the translation that it used, if it used one (R286). -/
structure Via where
  key : SlotId
  leaf : Option Leaf
deriving DecidableEq, Repr

/-- What a request under a translation goes by. -/
def Leaf.via (l : Leaf) : Via := ⟨l.key, some l⟩

/-- A TLB entry; it serves only its binding (R278). -/
structure TlbEntry where
  binding : BindingId
  leaf : Leaf
deriving DecidableEq, Repr

/-- Who makes a bulk request: a core's scalar thread h0, its vector or matrix queue, its merging buffer, a fill or write-back of
a tile's L2 by sector, a descriptor's hub engine, or an
UPDATE's engine of a tile. A write-back belongs to the eviction that made room for a sector, to a core's L2 operation, or to an XSYNC's L2F. `nobody` once
the maker of a read has abandoned it. -/
inductive Who where
  | scalar (core : CoreId)
  | vector (core : CoreId)
  | matrix (core : CoreId)
  | mbuf (core : CoreId)
  | fill (tile : TileId) (sector : Nat)
  | evict (tile : TileId) (sector : Nat)
  | writeback (core : CoreId)
  | flush (ring : RingId) (index : Nat) (tile : TileId)
  | job (ring : RingId) (index : Nat)
  | record (ring : RingId) (index : Nat)
  | update (ring : RingId) (index : Nat) (tile : TileId)
  | nobody
deriving DecidableEq, Repr

/-! ## Threads -/

/-- A cause as entry records it (Tables 04-4, 04-6). -/
structure Cause where
  vec : BitVec 5
  sub : BitVec 8
  eaddr : DWord
  arg : BitVec 12
  queue : Bool
  async : Bool
  src : Nat
deriving DecidableEq, Repr

/-- A scalar bulk access, or a fence, that has issued and not completed (R94, R117, R258). -/
inductive ScalarOp where
  | ldx (o : XForm)
  | stx (o : XForm)
  | lrx (o : LrForm)
  | scx (o : LrForm)
  | fence (o : At) (g : Bool)
deriving DecidableEq, Repr

/-- How the driver answered a park that an NMI has set aside (R117, R293). -/
inductive Answer where
  | open
  | resumed
  | declined
deriving DecidableEq, Repr

/-- A parked engine's fault: its sequence number once it has one, the faulting address, and the answer (R117, R292). `stalled`: the
fault waited in the engine's hold register, so the engine parks only once its record is written (R291, R292). -/
structure Park where
  seq : Option Word
  va : DWord
  write : Bool
  aside : Bool
  answer : Answer
  stalled : Bool
deriving DecidableEq, Repr

/-- An LR reservation: the granule, in the data local store or in the tile's L2, and the instructions since the LR: how many,
and whether each is one that R86 admits. -/
structure Reservation where
  granule : Nat
  l2 : Bool
  since : Nat
  clean : Bool
deriving DecidableEq, Repr

/-- One thread (R52, R105, R56, R83, R98, R102). `blocked` is a bulk access or fence that has issued and not completed, `aside` a
parked access that an NMI has set aside (R117), `stepOver` R104 for the next instruction, `owed` a cause of a completed instruction
whose entry waits under PM = 1 (R115, R119), `took` that a cause of rank 1 to 3 has been taken at the present boundary (R115). -/
structure Thread where
  g : Table Word
  f : Table DWord
  pc : BitVec 17
  lb : Table Word
  le : Table Word
  lc : Table Word
  estat : Word
  eien : Word
  epc : BitVec 17
  ecause : Word
  eaddr : DWord
  eprog : Word
  esp : Word
  esplo : Word
  esphi : Word
  fcsr : Word
  shadow : Word
  stagedEaddr : Option Word
  stagedRpos : Option Word
  resv : Option Reservation
  patchQ : List (BitVec 17 × Word)
  run : Bool
  waiting : Bool
  stepOver : Bool
  blocked : Option ScalarOp
  aside : Option ScalarOp
  owed : Option Cause
  took : Bool
  nmiReq : Bool
  nmiSrc : BitVec 3
  beatPend : Option DWord
  movPend : Option Word
  rsmPend : Option Word
  thrPend : Option (BitVec 3)
deriving DecidableEq, Repr

/-- A thread after binding reset (R52, R105, R342); `pc` holds the thread-start offset (R101). -/
def Thread.reset : Thread where
  g := .empty
  f := .empty
  pc := 0x100
  lb := .empty
  le := .empty
  lc := .empty
  estat := 0
  eien := 0
  epc := 0
  ecause := 0
  eaddr := 0
  eprog := 0
  esp := 0
  esplo := 0
  esphi := 0
  fcsr := 0
  shadow := 0
  stagedEaddr := none
  stagedRpos := none
  resv := none
  patchQ := []
  run := false
  waiting := false
  stepOver := false
  blocked := none
  aside := none
  owed := none
  took := false
  nmiReq := false
  nmiSrc := 0
  beatPend := none
  movPend := none
  rsmPend := none
  thrPend := none

/-! ## Vector engine -/

/-- The operations of the vector queue (Tables 05-5 to 05-8, 05-11). -/
inductive VOp where
  | fadd | fsub | fmul | fmin | fmax | fsgnj | add2 | fexp | flog | fsin | fcos | frsqrt | frcp | cvt
  | fma | fms | fnma | fnms | fma2
  | add | sub | mul | mulh | mulhu | and | or | xor | sll | srl | sra | min | max | minu | maxu | merge
  | sadd | saddu | ssub | ssubu | aadd | aaddu | asub | smul | ssrl | ssra | nclip | nclipu
  | ceq | cne | clt | cle | cltu | cleu | fceq | fclt | fcle | fcun
  | slideup | slidedn | compress | bcast | bcastf | insert | insertf
  | scani | scanx | sscani | sscanx | scan2 | rsum
  | pand | por | pxor | pandn | pnot | pcount | pany | pall | pfirst | extract | extractf
  | vld | vst
deriving DecidableEq, Repr

/-- A vector instruction as it enters the queue, with what it captures there (R65, R89, R229); `seq` orders the entries of both
queues by program order (R93). `cin` is the carry-in of a scan or a sum once it
has started, which in an FP format reads its f register then (R154, R161). -/
structure VInstr where
  op : VOp
  seq : Nat
  pc : BitVec 17
  vd : BitVec 5
  va : BitVec 5
  vb : BitVec 5
  vc : BitVec 5
  pm : BitVec 3
  s : Bool
  ci : Bool
  co : Bool
  zs : Bool
  h : Bool
  ga : Word
  gb : Word
  base : DWord
  fcsr : Word
  fmt : BitVec 4
  cfmt : BitVec 4
  vl : BitVec 11
  rm : BitVec 2
  rpos : DWord
  cin : Option DWord
deriving DecidableEq, Repr

/-- A started vector instruction: the next element group, and the state its unit keeps (R161): scan carry, reduction partials, source
buffer, the f operand of an S form, all held once `primed`; the flags, saturation and poison it has met; `probed` once the checks of
its start have passed; the translations probed under PM = 1 (R126); `sent` once a VLD has sent its last request (R140). -/
structure VRun where
  i : VInstr
  group : Nat
  primed : Bool
  carry : DWord
  parts : List DWord
  scalar : DWord
  buf : Option VReg
  flags : BitVec 5
  fl : Bool
  sat : Bool
  poison : Option DWord
  probed : Bool
  xl : List Leaf
  sent : Bool
deriving DecidableEq, Repr

/-! ## Tile registers and matrix arrays -/

/-- The operations of the matrix queue (Tables 06-7, 07-2 to 07-4). -/
inductive MOp where
  | tld | tst | tldg | tlds | tsts | tzero | ttag | mma | wload | mvm | mvmt | accrd | accrdV | accwr | accfree | acctag
deriving DecidableEq, Repr

/-- A matrix-queue instruction with what it captures at queue entry (R65, R89, R229); `seq` as in VInstr; `addrs` is listed once it
has started: the row addresses of a TLDG, which it keeps until it completes or is dropped (R177), and none for the others. -/
structure MInstr where
  op : MOp
  seq : Nat
  pc : BitVec 17
  shape : Word
  t : BitVec 3
  t1 : BitVec 3
  tb0 : BitVec 3
  tb1 : BitVec 3
  am : BitVec 4
  a : BitVec 2
  acc : BitVec 4
  v : BitVec 5
  zacc : Bool
  rel : Bool
  h : Bool
  base : DWord
  scale : BitVec 3
  stride : Word
  fcsr : Word
  rpos : DWord
  addrs : Option (List DWord)
deriving DecidableEq, Repr

/-- A started matrix-queue instruction: the first unit not done (R120), flags and poison met; `probed` once the checks of its start have passed and its tag is set. -/
structure MRun where
  i : MInstr
  pos : Nat
  flags : BitVec 5
  fl : Bool
  poison : Option DWord
  probed : Bool
  xl : List Leaf
deriving DecidableEq, Repr

/-- A cause that arose in a queued instruction and waits for h0's boundary (R124). -/
structure QCause where
  matrix : Bool
  vec : BitVec 5
  sub : BitVec 8
  eaddr : DWord
  fault : Bool
  pc : BitVec 17
deriving DecidableEq, Repr

/-- A tile register: 64 rows of 128 bytes, a poison bit a row, the scale plane, the tag (R162, R163); `psnVa` is the va from which a
poisoned row's poison came (Table 04-6). -/
structure TileReg where
  rows : Table Row
  psn : BitVec 64
  psnVa : Table DWord
  scale : Table (BitVec 512)
  tag : Word
deriving DecidableEq, Repr

def TileReg.reset : TileReg := ⟨.empty, 0, .empty, .empty, 0⟩

/-- An accumulator tile (R198, R200); the value of half h, row i, column j is at 1024·h + 32·i + j. `psnVa` is the va of its poison. -/
structure AccTile where
  active : Bool
  part : Bool
  fold : Bool
  psn : Bool
  psnVa : DWord
  m : Nat
  n : Nat
  fmt : BitVec 4
  vals : Table DWord
deriving DecidableEq, Repr

def AccTile.reset : AccTile := ⟨false, false, false, false, 0, 0, 0, 0, .empty⟩

/-- A stationary weight block: its format, its 32 rows of 64 bytes, its poison with the va it came from (R195, R449). -/
structure Weights where
  fmt : BitVec 4
  rows : Table Row
  psn : Bool
  psnVa : DWord
deriving DecidableEq, Repr

/-- What a reuse latch holds: the register and its tag (R186); the rows equal the register's while the latch is valid. -/
structure Latch where
  reg : BitVec 3
  tag : Word
deriving DecidableEq, Repr

/-- One matrix array (R186, R195, R198). -/
structure ArrayState where
  acc : Table AccTile
  weights : Option Weights
  latchA : Option Latch
  latchB : Option Latch
deriving DecidableEq, Repr

def ArrayState.reset : ArrayState := ⟨.empty, none, none, none⟩

/-! ## Stores, caches and the control page -/

/-- A line of the L1D: its physical line number, bytes and poison (R244, R448). -/
structure L1Line where
  line : Nat
  data : BitVec 512
  psn : Bool
deriving DecidableEq, Repr

/-- An entry of the merging buffer (R247): line number, attribute, key slot, byte mask, bytes; `drain` once it must drain,
`begun` once it has begun to (R248, R249), `awaited` while a load waits until it has been performed (R250); the translations that it holds
until then (R286). -/
structure MergeEntry where
  line : Nat
  attr : BitVec 2
  key : SlotId
  mask : BitVec 64
  data : BitVec 512
  drain : Bool
  begun : Bool
  awaited : Bool
  leaves : List Leaf
deriving DecidableEq, Repr

/-- The L2 operation window (Table 09-2), with the operation in progress and whether it wrote back. -/
structure L2Window where
  addr : BitVec 48
  len : Word
  skipped : Word
  rej : Bool
  busy : Bool
  op : BitVec 2
deriving DecidableEq, Repr

def L2Window.reset : L2Window := ⟨0, 0, 0, false, false, 0⟩

/-- A span register (R54). -/
structure Span where
  base : DWord
  scale : BitVec 3
deriving DecidableEq, Repr

def Span.reset : Span := ⟨0, 0⟩

/-- An instruction breakpoint (R103, Table 11-12). -/
structure Breakpoint where
  en : Bool
  threads : BitVec 4
  off : BitVec 17
deriving DecidableEq, Repr

/-- A watchpoint (R103, Table 11-12): `loads` and `stores` are SEL, `va` tells a va from a core address. -/
structure Watchpoint where
  en : Bool
  va : Bool
  loads : Bool
  stores : Bool
  threads : BitVec 4
  addr : DWord
  lenM1 : BitVec 16
deriving DecidableEq, Repr

/-- xcfg (Table 12-4). -/
structure Xcfg where
  bound : Bool
  binding : BindingId
  il : BitVec 2
  pm : Bool
deriving DecidableEq, Repr

/-- The vector engine of a core. -/
structure VecState where
  v : Table VReg
  p : Table Row
  vcfg : Word
  vl : Word
  vxrm : Word
  rpos : DWord
  queue : List VInstr
  started : List VRun
deriving DecidableEq, Repr

/-- The tile registers, loader and arrays of a core. -/
structure MatState where
  t : Table TileReg
  arrays : Table ArrayState
  queue : List MInstr
  started : List MRun
deriving DecidableEq, Repr

/-- The stores and caches of a core; `held` are withdrawn translations under which h0's access in hand completes (R286). -/
structure CoreMem where
  dls : Memory
  dlsPoison : Table Bool
  istore : Memory
  badParity : Table Bool
  l1d : List L1Line
  mbuf : List MergeEntry
  tlb : List TlbEntry
  held : List Leaf
  win : L2Window
deriving DecidableEq, Repr

/-- The rest of a core: spans, xcfg, control page, debug fields, histogram, the LAUNCH it runs under. `halted` counts the
threads that halted under that LAUNCH, `finished` says that the core has finished it, `failed` that an error fatal to the
binding stopped it (R442), `layer` names the UPDATE that started h0 (R353), `stopping` that the core is to stop when it is inside no
instruction (R339), `last` the thread that issued last (R90). -/
structure CoreCtl where
  spans : Table Span
  xcfg : Xcfg
  swi : BitVec 4
  bp0 : Breakpoint
  bp1 : Breakpoint
  wp0 : Watchpoint
  wp1 : Watchpoint
  hist : Table Word
  histBase : Option (BitVec 16)
  launch : Option (RingId × Nat)
  halted : Nat
  finished : Bool
  failed : Bool
  layer : Option (RingId × Nat)
  stopping : Bool
  last : ThreadId
deriving DecidableEq, Repr

/-- One core. -/
structure Core where
  threads : Table Thread
  vec : VecState
  mat : MatState
  mem : CoreMem
  ctl : CoreCtl
  causes : List QCause
deriving DecidableEq, Repr

def Breakpoint.reset : Breakpoint := ⟨false, 0, 0⟩
def Watchpoint.reset : Watchpoint := ⟨false, false, false, false, 0, 0, 0⟩
def Xcfg.reset : Xcfg := ⟨false, 0, 0, false⟩
def VecState.reset : VecState := ⟨.empty, .empty, 0, 0, 0, 0, [], []⟩
def MatState.reset : MatState := ⟨.empty, .empty, [], []⟩
def CoreMem.reset : CoreMem := ⟨.empty, .empty, .empty, .empty, [], [], [], [], .reset⟩
def CoreCtl.reset : CoreCtl :=
  ⟨.empty, .reset, 0, .reset, .reset, .reset, .reset, .empty, none, none, 0, false, false, none, false, 0⟩

/-- A core after module reset or binding reset (R270, R342). -/
def Core.reset : Core := ⟨.empty, .reset, .reset, .reset, .reset, []⟩

end Sys2Proof.Machine
end

