-- ==== Sys2Proof/Machine/HubState.lean ====
section
/-!
DEFINITION. What the module holds outside its cores: time, module state, PCIe function, rings, bindings, keys, tiles, stacks,
hub die, links, power, calibration, management, errors and counters (02, 09 to 19).
-/

namespace Sys2Proof.Machine

/-! ## Beat time (02_beat_time.md) -/

/-- Discipline states of Table 02-4. -/
inductive Discipline where
  | unset | free | ptp | locked | holdover
deriving DecidableEq, Repr

/-- STATE code of Table 02-4. -/
def Discipline.code : Discipline → BitVec 3
  | .unset => 0
  | .free => 1
  | .ptp => 2
  | .locked => 3
  | .holdover => 4

/-- The time block (R33) and what R34 to R43 and R491 keep beside it. `period` and `len` are the values in force, `periodPend`
and `lenPend` accepted values not yet in force; `openBreath` is the open breath's opening time and length in µs; `bound` is the
bound in force, at entry in HOLDOVER (`holdSince`); `diff` is the source time less the counter as the last second edge measured it and slews have shrunk it since; `goal` the
discipline state that the sources give as of that edge (R491); `slewing` that the counter's rate is changed to remove `diff` (R38). -/
structure TimeState where
  count : DWord
  epoch : BitVec 48
  skew : BitVec 24
  period : BitVec 14
  len : BitVec 8
  periodPend : Option (BitVec 14)
  lenPend : Option (BitVec 8)
  acceptedAt : DWord
  openBreath : Option (DWord × BitVec 8)
  disc : Discipline
  bound : Nat
  holdSince : DWord
  jumpDir : Bool
  expired : Bool
  lost : Bool
  cfgRej : Bool
  jumpPend : Bool
  jumpOk : Bool
  ptpOk : Bool
  tenOk : Bool
  ppsOk : Bool
  ppsEdges : Nat
  ptpMsgs : Nat
  diff : Option Int
  goal : Option Discipline
  slewing : Bool
  acquired : Bool
deriving DecidableEq, Repr

/-- The time block after cold reset, with an epoch of `e` (R33). -/
def TimeState.cold (e : BitVec 48) : TimeState where
  count := 0
  epoch := e
  skew := 0
  period := 1000
  len := 50
  periodPend := none
  lenPend := none
  acceptedAt := 0
  openBreath := none
  disc := if e = 0 then .unset else .free
  bound := 65535
  holdSince := 0
  jumpDir := false
  expired := false
  lost := false
  cfgRej := false
  jumpPend := false
  jumpOk := false
  ptpOk := false
  tenOk := false
  ppsOk := false
  ppsEdges := 0
  ptpMsgs := 0
  diff := none
  goal := none
  slewing := false
  acquired := false

/-! ## Module state (18_startup_and_states.md) -/

/-- Module states of Table 18-1. -/
inductive ModState where
  | off | standby | rising | selftest | service | serving | draining | faulted
deriving DecidableEq, Repr

/-- Code of Table 18-1. -/
def ModState.code : ModState → Nat
  | .off => 0
  | .standby => 1
  | .rising => 2
  | .selftest => 3
  | .service => 4
  | .serving => 5
  | .draining => 6
  | .faulted => 7

/-- The module control block (R458), the pins of R457 and R465, and what R460 and R464 keep: beat time of entry to DRAINING,
whether PERST# assertion caused the warm reset under way (R465), start-up sequence held by UV or OV (R464), heartbeat lost (R422), recorded site map written (R14), a start-up
sequence that UV or OV sent back to firmware verification (R464), xcfg.PM forced since SERVICE (R468). -/
structure ModBlock where
  state : ModState
  prev : ModState
  cause : BitVec 8
  cmdRej : Bool
  recovery : Bool
  lastReset : BitVec 2
  stamp : DWord
  bootSvc : Bool
  drainAt : DWord
  autoOn : Bool
  facEn : Bool
  perstLow : Bool
  perstHeld : Bool
  held : Bool
  heartbeatLost : Bool
  mapLoaded : Bool
  reverify : Bool
  pmForced : Bool
deriving DecidableEq, Repr

/-! ## The PCIe function (11_rings_and_descriptors.md) -/

/-- BAR4_WIN (Table 11-3), the MSI-X table and PBA (R297), the size of BAR4 as the exponent of 1 GiB (Resizable BAR, Tables 11-1 and
11-2), and whether the function is in power state D3hot (Table 11-1). -/
structure PcieState where
  key : SlotId
  il : BitVec 2
  base : BitVec 12
  en : Bool
  msixTable : Memory
  pba : Memory
  barSize : BitVec 4
  d3hot : Bool
deriving DecidableEq, Repr

/-! ## Rings (11_rings_and_descriptors.md) -/

/-- Status codes of Table 11-10. -/
inductive Status where
  | ok | rejectState | rejectFormat | faultUnresolved | deadlineMissed | partialSum | seedSkew | aborted | numericFallback
  | threadHalt | hwError
deriving DecidableEq, Repr

/-- A contribution of a COLLECT that this member sends or forwards to another: contributor, receiving member, transfer id of its
latest COL_OPEN, whether that was acknowledged or refused, and whether the sending stopped (R393). `sent` and `done` count the bytes
sent and acknowledged; `queue` holds received packets to forward, `waits` the data packets on their way with their bytes (R394). -/
structure Sending where
  contrib : Nat
  member : Nat
  tid : BitVec 16
  acked : Bool
  naked : Bool
  stopped : Bool
  sent : Nat
  done : Nat
  queue : List Packet
  waits : List (BitVec 16 × Nat)
deriving DecidableEq, Repr

/-- A COLLECT in execution: its group table by contributor, the contributions opened with their SENDSTAMP, the bytes staged of each,
the contributions wholly received that count (R369), the counted set once it is final, the sendings, the packets received and not yet
staged, the bytes summed, and the sending whose turn is next (R390 to R395). -/
structure Coll where
  group : List (Nat × ModuleId)
  opened : List (Nat × DWord)
  got : List (Nat × Nat)
  arrived : BitVec 64
  onTime : BitVec 64
  counted : Option (BitVec 64)
  sendings : List Sending
  inbox : List Packet
  summed : Nat
  turn : Nat
deriving DecidableEq, Repr

def Coll.reset : Coll := ⟨[], [], [], 0, 0, none, [], [], 0, 0⟩

/-- The work of an UPDATE in one tile's engine: the layers still to update, the stage of the first of them, the tensors read so far
(whole ones, and the bytes of the next), the units written, the core that runs a program-defined layer (R353, R361), and the translations
held for the access in hand (R286). -/
structure EngineWork where
  tile : TileId
  layers : List Nat
  stage : Nat
  bufs : List (List PByte)
  cur : List PByte
  pos : Nat
  core : Option CoreId
  failed : Bool
  xl : List Leaf
deriving DecidableEq, Repr

/-- A log record to be written (Table 13-6): `ticket` orders the records of a binding, `va` is its place, `input` what has been read of
the input descriptors. A record written beside a LAUNCH has an `engine` and translations `xl` of its own (R494). -/
structure LogRec where
  ticket : Nat
  va : DWord
  stamp : DWord
  step : DWord
  micro : Word
  contrib : BitVec 16
  seedKey : BitVec 16
  rpos : DWord
  count : Nat
  inputVa : DWord
  index : Nat
  size : Nat
  auto : Bool
  input : List PByte
  written : Bool
  performed : Bool
  engine : Option (BitVec 6)
  xl : List Leaf
deriving DecidableEq, Repr

/-- What a started descriptor's work has reached. `phase` counts the stages of its opcode, `pos` the bytes sent, `lost` those of them whose
write retired as an error, `xl` the translations held for the request in hand, `status` the status it will complete with, `seq` the
sequence number of a declined fault, `named` the opening of the breath whose commit record it writes. -/
structure Job where
  phase : Nat
  pos : Nat
  xl : List Leaf
  data : List PByte
  entries : List (List PByte)
  scheds : List (List PByte)
  bitmap : BitVec 128
  engines : List EngineWork
  coll : Option Coll
  counts : List Nat
  log : Option LogRec
  status : Status
  err : Bool
  declined : Bool
  seq : Word
  named : Option DWord
  lost : Nat
deriving DecidableEq, Repr

def Job.reset : Job where
  phase := 0
  pos := 0
  xl := []
  data := []
  entries := []
  scheds := []
  bitmap := 0
  engines := []
  coll := none
  counts := []
  log := none
  status := .ok
  err := false
  declined := false
  seq := 0
  named := none
  lost := 0

/-- An accepted descriptor that is not complete (R304, R308): its 128 bytes, byte 0 in bits [7:0]. `doomed` says that it met
its ORDERED condition under BARRIER, `settled` that it met it (R310), `named` that its not-before is the opening of the breath that
made it eligible (R47), `ended` that its final completion is queued. -/
structure Desc where
  index : Nat
  ringIndex : Word
  raw : BitVec 1024
  accepted : DWord
  eligible : Bool
  named : Bool
  settled : Bool
  doomed : Bool
  started : Option DWord
  engine : Option (BitVec 6)
  job : Job
  ended : Bool
deriving DecidableEq, Repr

/-- A submission ring (R300): `inFetch` descriptors are requested and have not arrived; `stale` has the host addresses of those that were
requested before the ring was last disabled and have not arrived; `named` is the first number that no descriptor of the ring has borne
(notes/assumptions/44.md). -/
structure SubRing where
  base : BitVec 52
  en : Bool
  mod : Bool
  binding : BindingId
  cq : CqId
  size : BitVec 5
  barrier : Bool
  fetchErr : Bool
  dbRej : Bool
  cfgRej : Bool
  pi : Word
  ci : Word
  inFetch : Nat
  stale : List DWord
  named : Nat
  descs : List Desc
deriving DecidableEq, Repr

def SubRing.reset : SubRing := ⟨0, false, false, 0, 0, 0, false, false, false, false, 0, 0, 0, [], 0, []⟩

/-- A completion that waits to be written: what Table 11-9 gives, its continuation bytes for an interim one, and what follows
the write (R309, R311). -/
structure Completion where
  ring : RingId
  index : Nat
  ringIndex : Word
  tag : Word
  status : Status
  opcode : Byte
  binding : BitVec 16
  accepted : DWord
  started : DWord
  finished : DWord
  final : Bool
  detail : List Byte
  slot : Option (List Byte)
  irq : Bool
  signal : Option (BitVec 12)
  notify : Option CoreId
deriving DecidableEq, Repr

/-- A completion ring (R305); `waiting` holds the completions not yet written, oldest first (R306). -/
structure CompRing where
  base : BitVec 52
  en : Bool
  msix : BitVec 11
  size : BitVec 5
  wrErr : Bool
  cfgRej : Bool
  headRej : Bool
  ovf : Bool
  head : Word
  tail : Word
  waiting : List Completion
deriving DecidableEq, Repr

def CompRing.reset : CompRing := ⟨0, false, 0, 0, false, false, false, false, 0, 0, []⟩

/-! ## Bindings, translation registers and keys (10_translation.md, 12_bindings.md) -/

/-- Binding states of Table 12-2. -/
inductive BindState where
  | free | binding | bound | quiescing | scrubbing
deriving DecidableEq, Repr

/-- Code of Table 12-2. -/
def BindState.code : BindState → Nat
  | .free => 0
  | .binding => 1
  | .bound => 2
  | .quiescing => 3
  | .scrubbing => 4

/-- A fault's cause (Table 10-7). -/
inductive FaultCause where
  | notValid | badEntry | badTarget | writeDenied | vaRange | tablePoison
deriving DecidableEq, Repr

/-- A fault record before it has its place in the queue (Table 10-6); `seq` once it has entered the collector, at beat time
`since`. -/
structure FaultRec where
  stamp : DWord
  va : DWord
  seq : Word
  since : DWord
  who : Who
  kind : BitVec 4
  unit : BitVec 12
  cause : FaultCause
  level : BitVec 2
  write : Bool
  probe : Bool
deriving DecidableEq, Repr

/-- An engine parked or stalled on a fault (R291, R292). -/
structure Parked where
  who : Who
  park : Park
deriving DecidableEq, Repr

/-- The arming LOGMARK's fields and the LAUNCHes counted since (R368). -/
structure Arming where
  step : DWord
  microbatch : Word
  contrib : BitVec 16
  seedKey : BitVec 16
  inputVa : DWord
  inputCount : Word
  k : Nat
deriving DecidableEq, Repr

/-- The log of a binding (R366 to R368): `n` counts its records, `ticket` all records since BIND. -/
structure BindLog where
  va : DWord
  size : BitVec 8
  n : Nat
  ticket : Nat
  arm : Option Arming
  lastRpos : DWord
deriving DecidableEq, Repr

def BindLog.reset : BindLog := ⟨0, 0, 0, 0, none, 0⟩

/-- The translation registers and fault queue of a binding (R294), its collector (R289) and hold registers (R291). -/
structure Xlat where
  root : BitVec 48
  tkey : SlotId
  fqBase : BitVec 52
  fqMsix : BitVec 11
  fqSize : BitVec 5
  fqHead : Word
  fqTail : Word
  wrErr : Bool
  cfgRej : Bool
  headRej : Bool
  ovf : Bool
  seq : Word
  coll : List FaultRec
  hold : List FaultRec
deriving DecidableEq, Repr

def Xlat.reset : Xlat := ⟨0, 0, 0, 0, 0, 0, 0, false, false, false, false, 0, [], []⟩

/-- A binding (R329): `keys` lists its slots; `unbind` names the UNBIND in progress, and `cutDone` says that its timeout has
passed (R341). -/
structure Binding where
  state : BindState
  stamp : DWord
  sections : BitVec 64
  ports : BitVec 18
  il : BitVec 2
  plots : BitVec 256
  keys : List SlotId
  seed : DWord
  faultsDropped : Word
  aborted : Word
  xlat : Xlat
  parks : List Parked
  log : BindLog
  unbind : Option (RingId × Nat)
  cutDone : Bool
  cutCount : Nat
deriving DecidableEq, Repr

def Binding.reset : Binding where
  state := .free
  stamp := 0
  sections := 0
  ports := 0
  il := 0
  plots := 0
  keys := []
  seed := 0
  faultsDropped := 0
  aborted := 0
  xlat := .reset
  parks := []
  log := .reset
  unbind := none
  cutDone := false
  cutCount := 0

/-- Which key a unit or a slot holds: the n-th fresh random key pair (R332), or an unwrapped key pair (R345). No key is ever
read; two keys are equal when these are. -/
inductive KeyId where
  | fresh (n : Nat)
  | unwrapped (k : BitVec 512)
deriving DecidableEq, Repr

/-- A key slot (R331); `key` is none while the slot holds the fresh key of the last reset. -/
structure KeySlot where
  owned : Bool
  binding : BindingId
  src : BitVec 2
  changes : BitVec 16
  stamp : DWord
  key : Option KeyId
deriving DecidableEq, Repr

/-- A key slot after cold reset and the retirement that follows it (R331, R332, R475): one change, no owner. -/
def KeySlot.reset : KeySlot := ⟨false, 0, 0, 1, 0, none⟩

/-! ## Tiles (01_panel_organisation.md, 09_memory_hierarchy.md, 10_translation.md, 15) -/

/-- A valid sector of a tile's L2 (R251): its slice, bytes, dirty and poison bits, the key slot of the access that allocated it
(R265), and the cores of the tile whose L1D may hold it (R246), and the binding on whose behalf it was allocated. -/
structure Sector where
  slice : BitVec 2
  data : BitVec 512
  dirty : Bool
  psn : Bool
  key : SlotId
  sharers : BitVec 32
  binding : Option BindingId
deriving DecidableEq, Repr

/-- A set of a slice: the line in each of 16 ways (0 where none, line number + 1 otherwise) and the 15 bits of the tree
pseudo-LRU (R251). -/
structure L2Set where
  ways : Table Nat
  tree : BitVec 15
deriving DecidableEq, Repr

def L2Set.reset : L2Set := ⟨.empty, 0⟩

/-- A missing sector that a tile waits for (R253): physical address of the sector's first byte, slice, key slot, the binding on
whose behalf it is filled, the engines that wait for it with the translations they used; `waits` is every maker of an access that missed it,
`stale` says that a write of the whole sector has come meanwhile, so that what arrives is not installed (R257). -/
structure Fill where
  pa : Nat
  slice : BitVec 2
  key : SlotId
  binding : Option BindingId
  users : List (Who × Leaf)
  waits : List Who
  stale : Bool
deriving DecidableEq, Repr

/-- A walk that waits for a walker (R272): the context, the va, whether the request writes, who asked, whether it is a
whole-instruction probe. -/
structure Walk where
  binding : BindingId
  va : DWord
  write : Bool
  who : Who
  probe : Bool
deriving DecidableEq, Repr

/-- An entry of a walk cache (R278): the non-leaf entry's level, the va bits it is indexed by, the next table, the home
entry. -/
structure WalkEntry where
  binding : BindingId
  level : BitVec 2
  prefixBits : Nat
  table : Nat
  home : BitVec 16
deriving DecidableEq, Repr

/-- A walker with its TLB (R278). -/
structure Walker where
  tlb : List TlbEntry
  cache : List WalkEntry
  walks : List Walk
deriving DecidableEq, Repr

def Walker.reset : Walker := ⟨[], [], []⟩

/-- A logical tile: its site (home where none is given, R14), whether it is pending or retired (R452), its L2 (`fresh`: sectors filled, each
with the maker of an access that missed it and has not used it yet), its walker, its
power region (Table 15-4), the thermal and neighbour contributions (R404, R407), and the state of its core map (R451). -/
structure Tile where
  site : Option (BitVec 5)
  pend : Bool
  retired : Bool
  sectors : Table (Option Sector)
  sets : Table L2Set
  fills : List Fill
  fresh : List (Nat × Who)
  walker : Walker
  temp : BitVec 8
  vdd : BitVec 10
  clk : BitVec 11
  level : BitVec 3
  grant : BitVec 5
  req : BitVec 5
  thermal : BitVec 3
  neighbour : BitVec 3
  spareCore : Option (BitVec 5)
  corePend : BitVec 32
deriving DecidableEq, Repr

def Tile.reset : Tile where
  site := none
  pend := false
  retired := false
  sectors := .empty
  sets := .empty
  fills := []
  fresh := []
  walker := .reset
  temp := 0
  vdd := 0
  clk := 0
  level := 0
  grant := 0
  req := 0
  thermal := 0
  neighbour := 0
  spareCore := none
  corePend := 0

/-! ## Stacks (09_memory_hierarchy.md) -/

/-- Admission at a stack (R268, R269): the source that owns the slot and the sectors it has had; of each source (tiles 0-15, the hub
die 16) the requests in its queue of 256, and those that its own Bore node holds because the queue is full; the failed channels that a spare
carries, each with its spare 32 or 33, and the channels and spares that failed with no spare left for what they carried (R450). -/
structure StackPort where
  owner : BitVec 5
  admitted : Nat
  queued : Table Nat
  atNode : Table Nat
  spared : List (BitVec 6 × BitVec 6)
  lost : List (BitVec 6)
deriving DecidableEq, Repr

def StackPort.reset : StackPort := ⟨0, 0, .empty, .empty, [], []⟩

/-- The 32 stacks. A byte is at plot · 2^34 + plot offset, a unit at the byte address div 64. `wrote` names the key under which
a unit was written, none for a unit never written since cold reset (R265, R333). -/
structure Stacks where
  mem : Memory
  wrote : Table (Option KeyId)
  psn : Table Bool
  ports : Table StackPort
  era : Nat
deriving DecidableEq, Repr

/-! ## The hub die -/

/-- A request that has left for a remote module or the host and has not retired (R286, R386): its number, who made it, the
physical address, the bytes asked or written; `data` once a read's bytes are here. `port` carried it, `tid` is its transfer
id, `leaf` the translation that it used. -/
structure Req where
  id : Nat
  who : Who
  binding : Option BindingId
  pa : DWord
  len : Nat
  write : Bool
  port : Option (BitVec 5)
  tid : BitVec 16
  data : Option (List PByte)
  leaf : Option Leaf
deriving DecidableEq, Repr

/-- The hub die: engine owners (R494), walker, requests, transfer ids (R379), transfers performed by source (R383), the
round-robin positions of fetch (R304) and of the start points (R308), and the token counters (R309). -/
structure Hub where
  engines : Table (Option (RingId × Nat))
  walker : Walker
  reqs : List Req
  nextReq : Nat
  nextTid : Table (BitVec 16)
  performed : Table (List (BitVec 16))
  rrFetch : RingId
  rrStart : RingId
  tokens : Table Word
deriving DecidableEq, Repr

def Hub.reset : Hub := ⟨.empty, .reset, [], 0, .empty, .empty, 0, 0, .empty⟩

/-! ## Links (14_peer_links_and_collectives.md) -/

/-- Port states of Table 14-1. -/
inductive PortState where
  | off | down | training | up | failed
deriving DecidableEq, Repr

/-- Code of Table 14-1. -/
def PortState.code : PortState → Nat
  | .off => 0
  | .down => 1
  | .training => 2
  | .up => 3
  | .failed => 4

/-- A class of packets that shares a port's slots (R385). -/
inductive SlotClass where
  | binding (b : BindingId)
  | forwarded
  | response
deriving DecidableEq, Repr

/-- A packet that waits for a slot of a port, and the binding that it counts for. -/
structure Slot where
  cls : SlotClass
  pkt : Packet
  binding : Option BindingId
deriving DecidableEq, Repr

/-- A port (R378). `waiting` holds the packets that wait for a slot, `rr` the class that had the last slot of the round robin, `share` the
slots that the port's holder has had of the present eight (R385), `reqCredit` and `rspCredit` the packets that the peer takes in each
virtual channel (R380); `replay` holds the packets sent and not acknowledged, oldest first (R380); `naks` is the LSEQ that the peer last asked for
again and how often in a row, `asks` the same for this side; `failedLane` the lane that lane 8 replaces, from the
spare map once the port has trained (R377, R378); `secCorr` and `secReplays` count the corrections and the replays
since `secStart`, for code 0x0004. -/
structure Port where
  state : PortState
  peerMid : ModuleId
  peerPort : BitVec 5
  failedLane : Option (BitVec 4)
  calLane : Option (BitVec 4)
  fecCorr : Word
  retries : BitVec 16
  retrains : BitVec 16
  en : Bool
  fails : Nat
  trained : Bool
  txSeq : BitVec 12
  rxSeq : BitVec 12
  replay : List Packet
  naks : Option (BitVec 12 × Nat)
  asks : Option (BitVec 12 × Nat)
  secStart : DWord
  secCorr : Nat
  secReplays : Nat
  waiting : List Slot
  rr : Nat
  share : Nat
  reqCredit : Nat
  rspCredit : Nat
deriving DecidableEq, Repr

def Port.reset : Port where
  state := .off
  peerMid := 0
  peerPort := 0
  failedLane := none
  calLane := none
  fecCorr := 0
  retries := 0
  retrains := 0
  en := true
  fails := 0
  trained := false
  txSeq := 0
  rxSeq := 0
  replay := []
  naks := none
  asks := none
  secStart := 0
  secCorr := 0
  secReplays := 0
  waiting := []
  rr := 64
  share := 0
  reqCredit := 0
  rspCredit := 0

/-- A route table entry (Table 14-4). -/
structure Route where
  v : Bool
  ports : BitVec 18
deriving DecidableEq, Repr

def Route.reset : Route := ⟨false, 0⟩

/-- The links: ports, route table and its selector (R381), and the route hold (R383): the module ids held, the packets sent under
the old set (module id, port, LSEQ), and the requests held meanwhile, oldest first. -/
structure Links where
  ports : Table Port
  sel : ModuleId
  routes : Table Route
  holdIds : List ModuleId
  oldSent : List (ModuleId × BitVec 5 × BitVec 12)
  held : List Packet
deriving DecidableEq, Repr

def Links.reset : Links := ⟨.empty, 0, .empty, [], [], []⟩

/-! ## Power and calibration (15_power_and_live_calibration.md) -/

/-- The power block (R409) and the Bellows (R397 to R405). `limit` and `oplim` read back at once; `limitNow` and `oplimNow` are the
limits in force, `limitPend` and `oplimPend` the writes not yet in force with their beat times, oldest first. `message` is the
throttle-level message that has crossed for the next interval: grant + 32 · level of each logical tile. `hold7` is R397's level 7, `silent` R419;
`clearAt` is the beat time at which UV and OV were last both clear (R464). -/
structure PowerState where
  limit : BitVec 13
  oplim : BitVec 13
  limitNow : BitVec 13
  oplimNow : BitVec 13
  limitPend : List (Nat × DWord)
  oplimPend : List (Nat × DWord)
  vin : BitVec 16
  iin : BitVec 16
  overLim : Bool
  cfgRej : Bool
  ovSeen : Bool
  uvSeen : Bool
  ov : Bool
  uv : Bool
  ptr : BitVec 4
  contrib : BitVec 3
  hold7 : Bool
  message : Option (List Nat)
  silent : Bool
  clearAt : DWord
deriving DecidableEq, Repr

def PowerState.reset : PowerState where
  limit := 7600
  oplim := 7600
  limitNow := 7600
  oplimNow := 7600
  limitPend := []
  oplimPend := []
  vin := 0
  iin := 0
  overLim := false
  cfgRej := false
  ovSeen := false
  uvSeen := false
  ov := false
  uv := false
  ptr := 0
  contrib := 0
  hold7 := false
  message := none
  silent := false
  clearAt := 0

/-- The results of a lane (Table 15-6); `low` counts its steps in a row below a minimum (R414). -/
structure CalLane where
  steps : BitVec 16
  hmargin : BitVec 8
  vmargin : BitVec 8
  phase : BitVec 8
  alarms : BitVec 8
  failed : Bool
  active : Bool
  stamp : DWord
  low : Nat
deriving DecidableEq, Repr

def CalLane.reset : CalLane := ⟨0, 0, 0, 0, 0, false, false, 0, 0⟩

/-- A link group of Table 15-5: the next lane of its rotation, and the lane whose step is in progress (R410, R412). -/
structure CalGroup where
  next : BitVec 6
  step : Option (BitVec 6)
deriving DecidableEq, Repr

def CalGroup.reset : CalGroup := ⟨0, none⟩

/-- The calibration registers (R415): a lane is at kind · 16,384 + group · 64 + lane, a group at kind · 256 + group. -/
structure CalState where
  selKind : BitVec 3
  selGroup : BitVec 8
  selLane : BitVec 6
  minV : BitVec 8
  minH : BitVec 8
  drift : BitVec 8
  en : BitVec 3
  lanes : Table CalLane
  groups : Table CalGroup
deriving DecidableEq, Repr

def CalState.reset : CalState := ⟨0, 0, 0, 20, 64, 16, 7, .empty, .empty⟩

/-! ## Management (16_management_and_trust.md) -/

/-- The mailbox (R426) and the messages that wait behind it (R427). -/
structure Mailbox where
  inData : Memory
  outData : Memory
  msix : BitVec 11
  len : BitVec 13
  olen : BitVec 13
  link : Bool
  rej : Bool
  outValid : Bool
  inBusy : Bool
  responses : List (List Byte)
  events : List (List Byte)
deriving DecidableEq, Repr

def Mailbox.reset : Mailbox := ⟨.empty, .empty, 0, 0, 0, false, false, false, false, [], []⟩

/-- A management event record (R424). -/
structure EventRec where
  stamp : DWord
  seq : Word
  source : Byte
  severity : Byte
  code : BitVec 16
  disc : BitVec 3
  uncert : BitVec 16
  data : List Byte
deriving DecidableEq, Repr

/-- A bank of a firmware component (R428): the image it holds, header bytes 0 to 95, SIG and payload; whether it is marked failed, and its
starts in a row that have not reached their target (R430). -/
structure Bank where
  header : BitVec 768
  sig : BitVec 10240
  payload : List Byte
  failed : Bool
  fails : Nat
deriving DecidableEq, Repr

/-- A firmware component: banks A and B, the active one, the rollback counter (R431), a bank that waits to become active. -/
structure Firmware where
  a : Bank
  b : Bank
  active : Bool
  pend : Bool
  counter : Byte
deriving DecidableEq, Repr

def Firmware.reset : Firmware := ⟨⟨0, 0, [], false, 0⟩, ⟨0, 0, [], true, 0⟩, false, false, 0⟩

/-- The pairing record (R435); the LLDP ids are those that port 0 had received. -/
structure PairRecord where
  install : BitVec 128
  mid : ModuleId
  epoch : BitVec 48
  lldp : Option (Nat × Nat)
deriving DecidableEq, Repr

/-- PAIRING.STATE (Table 16-9). -/
inductive Pairing where
  | unpaired | paired | checking
deriving DecidableEq, Repr

def Pairing.code : Pairing → Nat
  | .unpaired => 0
  | .paired => 1
  | .checking => 2

/-- An SPDM session (R434): KEY_EXCHANGE done, FINISH done; whether its suite is the one R434 names. -/
structure Spdm where
  opening : Bool
  open_ : Bool
  suiteOk : Bool
deriving DecidableEq, Repr

def Spdm.reset : Spdm := ⟨false, false, false⟩

/-- The facility side: mailbox, event log (newest first, at most 65,536) and its SEQ, firmware components 1-4, pairing and
identity (R438), the KEK (R432), SPDM, the controller's restart (R423) and whether a lockstep mismatch caused it, FAC_ALERT#, the
conditions of Table 16-3 in force, the measured input in 10 mV, the LLDP ids that port 0 has received, and the sensors, performance
counters and error counters of the latest telemetry sample with its stamp (R44, R420); a converter over-temperature; the ticks that the
facility side has been powered, for its own sampling (R420); the kind 1 channel key and the device identity key, by the model's own numbers
(R418, R432), the EID that the driver has assigned itself (R426), and the measurements (Table 16-8). -/
structure MgmtState where
  mb : Mailbox
  log : List EventRec
  logSeq : Word
  fw : Table Firmware
  pairRec : Option PairRecord
  mid : ModuleId
  pairing : Pairing
  kekGen : Word
  attKey : Nat
  install : BitVec 128
  kek : Option (BitVec 256)
  spdm : Spdm
  restarting : Bool
  mismatch : Bool
  alert : Bool
  leak : Bool
  flow : Bool
  warning : Bool
  input : BitVec 16
  lldp : Option (Nat × Nat)
  sensors : Table Word
  counters : Table DWord
  errorCounts : Table Word
  sampled : DWord
  hot : Bool
  uptime : Nat
  channelKey : Nat
  deviceKey : Nat
  hostEid : Byte
  measured : Table (BitVec 512)
deriving DecidableEq, Repr

/-! ## Errors and counters (17_errors_and_spares.md, 19_register_map.md) -/

/-- An error record (Table 17-2) without its PHASE. -/
structure ErrRec where
  stamp : DWord
  seq : Word
  cls : BitVec 3
  unitKind : Byte
  code : BitVec 16
  unit : BitVec 16
  binding : BitVec 16
  count : Word
  addr : DWord
  first : DWord
  detail : List Byte
  disc : BitVec 3
  uncert : BitVec 16
deriving DecidableEq, Repr

/-- The error summary block (R447): `formed` holds the records that have their SEQ and have met neither the ring nor the hold
buffer, oldest first; `hold` is the hold buffer (R446); `windows` the open merge windows (R445). -/
structure ErrState where
  base : BitVec 52
  en : Bool
  msix : BitVec 11
  size : BitVec 5
  fatal : Bool
  wrErr : Bool
  cfgRej : Bool
  headRej : Bool
  ovf : Bool
  head : Word
  tail : Word
  seq : Word
  cnt : Table Word
  ucDrop : BitVec 16
  ceDrop : BitVec 16
  bind : BitVec 64
  formed : List ErrRec
  hold : List ErrRec
  windows : List ErrRec
  degraded : Bool
deriving DecidableEq, Repr

def ErrState.reset : ErrState where
  base := 0
  en := false
  msix := 0
  size := 0
  fatal := false
  wrErr := false
  cfgRej := false
  headRej := false
  ovf := false
  head := 0
  tail := 0
  seq := 0
  cnt := .empty
  ucDrop := 0
  ceDrop := 0
  bind := 0
  formed := []
  hold := []
  windows := []
  degraded := false

/-- The spare map (R446, R454): sites retired, in order; sites whose spare core is in use; arrays (global core · 4 + array) whose
spare row is in use, with the row it replaces; Bore channels and ports whose spare lane is in use, with the lane it replaces. Stacks keep
their own. -/
structure SpareMap where
  sites : List (BitVec 5)
  cores : List (BitVec 5)
  rows : List (Nat × BitVec 6)
  bore : List (BitVec 8 × BitVec 6)
  lanes : List (BitVec 5 × BitVec 4)
deriving DecidableEq, Repr

def SpareMap.reset : SpareMap := ⟨[], [], [], [], []⟩

/-- The performance counters (R478). -/
structure PerfState where
  freeze : Bool
  snap : DWord
  sel : Table Word
  cnt : Table DWord
deriving DecidableEq, Repr

def PerfState.reset : PerfState := ⟨false, 0, .empty, .empty⟩

/-! ## What leaves the module -/

/-- What the module sends outward. -/
inductive Output where
  /-- Bytes performed in host memory; `psn` for a poisoned TLP (R449). -/
  | hostWrite (addr : DWord) (bytes : List Byte) (psn : Bool)
  /-- A read of host memory by request `id` (R94). -/
  | hostRead (id : Nat) (addr : DWord) (len : Nat)
  /-- A read of descriptors (R304). -/
  | fetch (ring : RingId) (addr : DWord) (count : Nat)
  /-- An MSI-X vector (R311, R290, R446, R426). -/
  | msix (vec : BitVec 11)
  /-- A packet on a port (R379). -/
  | packet (port : BitVec 5) (p : Packet)
  /-- A LINK packet on a port: acknowledgement, replay request (R380). -/
  | link (port : BitVec 5) (ack : BitVec 12) (replay : Option (BitVec 12)) (requests responses : Nat)
  /-- A LINK packet that announces a calibration step on a lane (R411). -/
  | calStep (port : BitVec 5) (lane : BitVec 4)
  /-- The completion of a BAR4 read, poisoned or not (R299, R449). -/
  | bar4 (bytes : List Byte) (psn : Bool)
  /-- The completion of a BAR0 read that clears (R471). -/
  | bar0 (value : DWord)
  /-- A Redfish answer by its HTTP status (R435). -/
  | redfish (status : Nat)
  /-- An SPDM response to the request of that name; `ok` false for an ERROR response (R433, R434). -/
  | spdm (request : String) (ok : Bool)
  /-- The certificate of an attestation key by a device identity key, each by the model's own number (R432). -/
  | certificate (device attestation : Nat)
  /-- The measurements of Table 16-8, index 1 first, signed with an attestation key (R433). -/
  | measurements (digests : List (BitVec 512)) (attestation : Nat)
  /-- A firmware image accepted into a bank, or rejected by the check of that number, 5 for a second update at a time (R429). -/
  | image (component : Nat) (rejectedBy : Nat)
deriving DecidableEq, Repr

end Sys2Proof.Machine
end

