-- ==== Sys2Proof/Machine/State.lean ====
section
/-!
DEFINITION. The state of the module as plain data, the two ways a command can stop, and the state right after cold reset.
-/

namespace Sys2Proof.Machine

/-- Why a command stops with a fault. -/
inductive Fault where
  /-- Raised by a command that names a unit the module does not have (port 18 and above, lane 9 and above, stack channel 34 and
  above, admission source 17 and above): Table 01-1, R268, R375, Table 15-5. Safe: no such command exists. -/
  | noSuchUnit
deriving DecidableEq, Repr

/-- Why a command has no meaning. -/
inductive Refusal where
  /-- Raised by an arm of `exec` whose meaning is not written yet. Safe. -/
  | notModelled (mnemonic : String)
deriving DecidableEq, Repr

/-- The module. `keyBase + k` is the fresh key that slot k received at the last reset, `nextKey` the next fresh key (R332); `out`
is what has left the module, newest first; `free` counts the free values drawn; `pending` is the queue of commands. -/
structure State where
  time : TimeState
  mod : ModBlock
  pcie : PcieState
  rings : Table SubRing
  cqs : Table CompRing
  binds : Table Binding
  slots : Table KeySlot
  keyBase : Nat
  nextKey : Nat
  cores : Table Core
  tiles : Table Tile
  stk : Stacks
  hub : Hub
  links : Links
  power : PowerState
  cal : CalState
  mgmt : MgmtState
  err : ErrState
  spares : SpareMap
  perf : PerfState
  out : List Output
  free : Nat
  pending : List Instr
deriving DecidableEq, Repr

/-- What the outcome of a meaning is. -/
abbrev Result := Host.Outcome State Fault Refusal

/-- The module control block right after cold reset (R458). -/
def ModBlock.reset : ModBlock where
  state := .rising
  prev := .standby
  cause := 0
  cmdRej := false
  recovery := false
  lastReset := 0
  stamp := 0
  bootSvc := false
  drainAt := 0
  autoOn := true
  facEn := true
  perstLow := true
  perstHeld := false
  held := false
  heartbeatLost := false
  mapLoaded := false
  reverify := false
  pmForced := false

/-- The PCIe function right after cold reset (R299). -/
def PcieState.reset : PcieState := ⟨0, 0, 0, false, .empty, .empty, 8, false⟩

/-- The stacks with their contents lost (R467). -/
def Stacks.reset : Stacks := ⟨.empty, .empty, .empty, .empty, 0⟩

/-- The facility side of a module that was never commissioned, right after cold reset (R438; log entry 3). -/
def MgmtState.reset : MgmtState where
  mb := .reset
  log := []
  logSeq := 0
  fw := .empty
  pairRec := none
  mid := 0xFFF
  pairing := .checking
  kekGen := 1
  attKey := 0
  install := 0
  kek := none
  spdm := .reset
  restarting := false
  mismatch := false
  alert := false
  leak := false
  flow := false
  warning := false
  input := 4800
  lldp := none
  sensors := .empty
  counters := .empty
  errorCounts := .empty
  sampled := 0
  hot := false
  uptime := 0
  channelKey := 0
  deviceKey := 0
  hostEid := 0
  measured := .empty

/-- The module right after cold reset (R458: in RISING, from STANDBY). -/
def State.reset : State where
  time := .cold 0
  mod := .reset
  pcie := .reset
  rings := .empty
  cqs := .empty
  binds := .empty
  slots := .empty
  keyBase := 0
  nextKey := 256
  cores := .empty
  tiles := .empty
  stk := .reset
  hub := .reset
  links := .reset
  power := .reset
  cal := .reset
  mgmt := .reset
  err := .reset
  spares := .reset
  perf := .reset
  out := []
  free := 0
  pending := []

end Sys2Proof.Machine
end

