-- ==== Sys2Proof/Machine/Access.lean ====
section
/-!
DEFINITION. The named reads and writes of the state's parts: one getter and one setter a kind of unit, the hard-wired registers,
free values, what leaves the module, and the performance counters (R478 to R480).
-/

namespace Sys2Proof.Machine

/-! ## Bytes and numbers -/

/-- The bits [lo + n - 1 : lo] of a number. -/
def bitsOf (v lo n : Nat) : Nat := v / 2 ^ lo % 2 ^ n

/-- 1 for true. -/
def bit (b : Bool) : Nat := if b then 1 else 0

/-- Add with saturation at 2^w - 1. -/
def satAdd {w : Nat} (a : BitVec w) (n : Nat) : BitVec w := BitVec.ofNat w (min (a.toNat + n) (2 ^ w - 1))

/-- The little-endian bytes of a bit vector of n bytes (R4). -/
def bytesOf {w : Nat} (n : Nat) (v : BitVec w) : List Byte := bytesOfNat n v.toNat

/-- Bytes without poison. -/
def clean (l : List Byte) : List PByte := l.map fun b => (b, false)

/-- Bytes with one marking. -/
def marked (p : Bool) (l : List Byte) : List PByte := l.map fun b => (b, p)

/-- The bytes of a marked list. -/
def plain (l : List PByte) : List Byte := l.map Prod.fst

/-- Whether a byte of the list is poisoned. -/
def anyPsn (l : List PByte) : Bool := l.any Prod.snd

/-- The n-th natural to the last: [0, 1, …, n - 1] as core numbers and the like. -/
def indices (n : Nat) : List Nat := List.range n

/-! ## Units -/

/-- Core c. -/
def State.core (s : State) (c : CoreId) : Core := s.cores.get .reset c.toNat

/-- Core c becomes k. -/
def State.setCore (s : State) (c : CoreId) (k : Core) : State := { s with cores := s.cores.set .reset c.toNat k }

/-- Change core c. -/
def State.modCore (s : State) (c : CoreId) (f : Core → Core) : State := s.setCore c (f (s.core c))

/-- Thread t of a core. -/
def Core.thread (k : Core) (t : ThreadId) : Thread := k.threads.get .reset t.toNat

/-- Thread t of a core becomes th. -/
def Core.setThread (k : Core) (t : ThreadId) (th : Thread) : Core :=
  { k with threads := k.threads.set .reset t.toNat th }

/-- Change thread t of a core. -/
def Core.modThread (k : Core) (t : ThreadId) (f : Thread → Thread) : Core := k.setThread t (f (k.thread t))

/-- Thread t of core c. -/
def State.thread (s : State) (c : CoreId) (t : ThreadId) : Thread := (s.core c).thread t

/-- Thread t of core c becomes th. -/
def State.setThread (s : State) (c : CoreId) (t : ThreadId) (th : Thread) : State :=
  s.setCore c ((s.core c).setThread t th)

/-- Change thread t of core c. -/
def State.modThread (s : State) (c : CoreId) (t : ThreadId) (f : Thread → Thread) : State :=
  s.setThread c t (f (s.thread c t))

/-- Logical tile L. -/
def State.tile (s : State) (t : TileId) : Tile := s.tiles.get .reset t.toNat

/-- Logical tile L becomes t. -/
def State.setTile (s : State) (n : TileId) (t : Tile) : State := { s with tiles := s.tiles.set .reset n.toNat t }

/-- Change logical tile L. -/
def State.modTile (s : State) (n : TileId) (f : Tile → Tile) : State := s.setTile n (f (s.tile n))

/-- Binding b. -/
def State.bnd (s : State) (b : BindingId) : Binding := s.binds.get .reset b.toNat

/-- Binding b becomes x. -/
def State.setBnd (s : State) (b : BindingId) (x : Binding) : State := { s with binds := s.binds.set .reset b.toNat x }

/-- Change binding b. -/
def State.modBnd (s : State) (b : BindingId) (f : Binding → Binding) : State := s.setBnd b (f (s.bnd b))

/-- Submission ring r. -/
def State.ring (s : State) (r : RingId) : SubRing := s.rings.get .reset r.toNat

/-- Submission ring r becomes x. -/
def State.setRing (s : State) (r : RingId) (x : SubRing) : State := { s with rings := s.rings.set .reset r.toNat x }

/-- Change submission ring r. -/
def State.modRing (s : State) (r : RingId) (f : SubRing → SubRing) : State := s.setRing r (f (s.ring r))

/-- Completion ring c. -/
def State.cq (s : State) (c : CqId) : CompRing := s.cqs.get .reset c.toNat

/-- Completion ring c becomes x. -/
def State.setCq (s : State) (c : CqId) (x : CompRing) : State := { s with cqs := s.cqs.set .reset c.toNat x }

/-- Change completion ring c. -/
def State.modCq (s : State) (c : CqId) (f : CompRing → CompRing) : State := s.setCq c (f (s.cq c))

/-- Key slot k. -/
def State.slot (s : State) (k : SlotId) : KeySlot := s.slots.get .reset k.toNat

/-- Key slot k becomes x. -/
def State.setSlot (s : State) (k : SlotId) (x : KeySlot) : State := { s with slots := s.slots.set .reset k.toNat x }

/-- The key that slot k holds (R332, R345). -/
def State.keyOf (s : State) (k : SlotId) : KeyId := (s.slot k).key.getD (.fresh (s.keyBase + k.toNat))

/-- Port i. -/
def State.port (s : State) (i : BitVec 5) : Port := s.links.ports.get .reset i.toNat

/-- Port i becomes p. -/
def State.setPort (s : State) (i : BitVec 5) (p : Port) : State :=
  { s with links := { s.links with ports := s.links.ports.set .reset i.toNat p } }

/-- Change port i. -/
def State.modPort (s : State) (i : BitVec 5) (f : Port → Port) : State := s.setPort i (f (s.port i))

/-- Array a of a core. -/
def Core.array (k : Core) (a : Nat) : ArrayState := k.mat.arrays.get .reset a

/-- Array a of a core becomes x. -/
def Core.setArray (k : Core) (a : Nat) (x : ArrayState) : Core :=
  { k with mat := { k.mat with arrays := k.mat.arrays.set .reset a x } }

/-- Tile register t of a core. -/
def Core.treg (k : Core) (t : BitVec 3) : TileReg := k.mat.t.get .reset t.toNat

/-- Tile register t of a core becomes x. -/
def Core.setTreg (k : Core) (t : BitVec 3) (x : TileReg) : Core :=
  { k with mat := { k.mat with t := k.mat.t.set .reset t.toNat x } }

/-! ## Numbers of units (R17) -/

/-- The logical tile of a core. -/
def tileOf (c : CoreId) : TileId := BitVec.ofNat 4 (c.toNat / 32)

/-- The section of a core. -/
def sectionOf (c : CoreId) : Nat := c.toNat / 8

/-- The slice of a tile's L2 that a core's section owns (R251). -/
def sliceOf (c : CoreId) : BitVec 2 := BitVec.ofNat 2 (c.toNat / 8)

/-- The cores of the sections named in a mask, ascending. -/
def coresOf (sections : BitVec 64) : List CoreId :=
  ((indices 512).filter fun c => sections.getLsbD (c / 8)).map (BitVec.ofNat 9)

/-- The site of a logical tile (R14). -/
def siteOf (s : State) (t : TileId) : BitVec 5 := (s.tile t).site.getD (t.setWidth 5)

/-- A logical tile that has a site and is not pending (R452). -/
def hasSite (s : State) (t : TileId) : Bool := !(s.tile t).pend && !(s.tile t).retired

/-! ## Registers -/

/-- Register g[r]; g0 reads zero (R52). -/
def Thread.rg (th : Thread) (r : BitVec 5) : Word := if r = 0 then 0 else th.g.get 0 r.toNat

/-- Write g[r]; a write to g0 is discarded (R52). -/
def Thread.wg (th : Thread) (r : BitVec 5) (v : Word) : Thread :=
  if r = 0 then th else { th with g := th.g.set 0 r.toNat v }

/-- Vector register v (R129). -/
def Core.rv (k : Core) (r : BitVec 5) : VReg := k.vec.v.get 0 r.toNat

/-- Write vector register v. -/
def Core.wv (k : Core) (r : BitVec 5) (x : VReg) : Core := { k with vec := { k.vec with v := k.vec.v.set 0 r.toNat x } }

/-- Predicate register p; p0 reads all ones (R129). -/
def Core.rp (k : Core) (r : BitVec 3) : Row := if r = 0 then BitVec.allOnes 1024 else k.vec.p.get 0 r.toNat

/-- Write predicate register p; a write to p0 is discarded (R129). -/
def Core.wp (k : Core) (r : BitVec 3) (x : Row) : Core :=
  if r = 0 then k else { k with vec := { k.vec with p := k.vec.p.set 0 r.toNat x } }

/-- Register f[r] of thread t: on h0 bits [63:0] of v[r], on h1 to h3 the thread's own file (R53). -/
def Core.rf (k : Core) (t : ThreadId) (r : BitVec 5) : DWord :=
  if t = 0 then (k.rv r).setWidth 64 else (k.thread t).f.get 0 r.toNat

/-- Write f[r] of thread t; on h0 bits [8191:64] of v[r] stay (R53). -/
def Core.wf (k : Core) (t : ThreadId) (r : BitVec 5) (x : DWord) : Core :=
  if t = 0 then k.wv r (BitVec.ofNat 8192 ((k.rv r).toNat / 2 ^ 64 * 2 ^ 64 + x.toNat))
  else k.modThread t fun th => { th with f := th.f.set 0 r.toNat x }

/-- A span register of a core (R54). -/
def Core.span (k : Core) (n : BitVec 4) : Span := k.ctl.spans.get .reset n.toNat

/-! ## Descriptors -/

/-- The n bytes of a descriptor from byte `lo`, as a number (R4). -/
def Desc.num (d : Desc) (lo n : Nat) : Nat := bitsOf d.raw.toNat (8 * lo) (8 * n)

/-- OPCODE (Table 11-6). -/
def Desc.opcode (d : Desc) : Nat := d.num 0 1

/-- Bit i of FLAGS (Table 11-6). -/
def Desc.flag (d : Desc) (i : Nat) : Bool := d.raw.getLsbD (8 + i)

/-- BINDING as the descriptor carries it. -/
def Desc.bindNum (d : Desc) : Nat := d.num 2 2

/-- The binding, none for a module-level descriptor. -/
def Desc.binding (d : Desc) : Option BindingId :=
  if d.bindNum < 64 then some (BitVec.ofNat 6 d.bindNum) else none

/-- TAG (Table 11-6). -/
def Desc.tag (d : Desc) : Word := BitVec.ofNat 32 (d.num 4 4)

/-- The accepted descriptor of a ring with an index, if it is not complete. -/
def State.desc (s : State) (r : RingId) (i : Nat) : Option Desc := (s.ring r).descs.find? fun d => decide (d.index = i)

/-- Change the first member of a list that satisfies p. -/
def updateFirst {α : Type} (p : α → Bool) (f : α → α) : List α → List α
  | [] => []
  | x :: r => if p x then f x :: r else x :: updateFirst p f r

/-- Change the descriptor of a ring with an index. -/
def State.modDesc (s : State) (r : RingId) (i : Nat) (f : Desc → Desc) : State :=
  s.modRing r fun x => { x with descs := updateFirst (fun d => decide (d.index = i)) f x.descs }

/-- Change the job of a descriptor. -/
def State.modJob (s : State) (r : RingId) (i : Nat) (f : Job → Job) : State :=
  s.modDesc r i fun d => { d with job := f d.job }

/-- A descriptor with its ring. -/
abbrev RingDesc := RingId × Desc

/-- Every accepted descriptor that is not complete, by ring and then by index order. -/
def State.allDescs (s : State) : List RingDesc :=
  s.rings.entries.flatMap fun e => e.2.descs.map fun d => (BitVec.ofNat 12 e.1, d)

/-- A descriptor whose work is under way. -/
def Desc.running (d : Desc) : Bool := d.started.isSome && !d.ended

/-! ## Free values and outputs -/

/-- The next free value, and the state that has drawn it. -/
def draw (s : State) : Nat × State := (Config.freeNat s.free, { s with free := s.free + 1 })

/-- Send something outward. -/
def emit (o : Output) (s : State) : State := { s with out := o :: s.out }

/-- Send an MSI-X vector. -/
def sendMsix (v : BitVec 11) (s : State) : State := emit (.msix v) s

/-! ## Performance counters (R478 to R480) -/

/-- The greatest UNIT of an event and whether Table 19-5 gives it a binding filter; none for an event not listed. -/
def perfEvent : Nat → Option (Nat × Bool)
  | 0x01 => some (15, false)
  | 0x02 => some (15, true)
  | 0x03 => some (15, true)
  | 0x04 => some (15, true)
  | 0x05 => some (15, true)
  | 0x06 => some (15, true)
  | 0x07 => some (15, true)
  | 0x08 => some (16, true)
  | 0x10 => some (31, true)
  | 0x11 => some (31, true)
  | 0x12 => some (31, false)
  | 0x20 => some (17, true)
  | 0x21 => some (17, false)
  | 0x22 => some (17, false)
  | 0x30 => some (0, true)
  | 0x31 => some (0, true)
  | 0x32 => some (0, true)
  | 0x33 => some (0, true)
  | _ => none

/-- Whether a PERF_SEL value counts event `ev` of unit `unit` for binding `b` (R479). Events 0x30 to 0x33 take 0xFF only. -/
def perfMatches (sel : Word) (ev unit : Nat) (b : Option BindingId) : Bool :=
  let u := bitsOf sel.toNat 16 8
  match perfEvent ev with
  | none => false
  | some (_, filt) =>
    sel.getLsbD 31 && decide (bitsOf sel.toNat 0 8 = ev)
      && (u == 255 || (decide (ev < 0x30) && u == unit))
      && (!sel.getLsbD 30 || (filt && decide (b = some (BitVec.ofNat 6 (bitsOf sel.toNat 24 6)))))

/-- Whether a PERF_SEL value counts anything: it is enabled, its event is listed, its UNIT in range, its binding filter one that the event has
(R479). -/
def perfCounts (sel : Word) : Bool :=
  let u := bitsOf sel.toNat 16 8
  match perfEvent (bitsOf sel.toNat 0 8) with
  | none => false
  | some (last, filt) =>
    sel.getLsbD 31 && (u == 255 || (decide (bitsOf sel.toNat 0 8 < 0x30) && decide (u ≤ last))) && (!sel.getLsbD 30 || filt)

/-- Count `n` occurrences of an event in every counter that selects it, unless the counters are frozen (R479, R480). -/
def perfCount (ev unit : Nat) (b : Option BindingId) (n : Nat) (s : State) : State :=
  if s.perf.freeze || n == 0 then s
  else { s with perf := { s.perf with cnt := s.perf.sel.entries.foldl (fun t e =>
      if perfMatches e.2 ev unit b then t.modify 0 e.1 (fun v => v + BitVec.ofNat 64 n) else t) s.perf.cnt } }

end Sys2Proof.Machine
end

