-- ==== Sys2Proof/Machine/Float.lean ====
section
/-!
DEFINITION. Formats, rounding, flags and exact floating-point arithmetic (R212 to R226, R230).
-/

namespace Sys2Proof.Machine

/-! ## Formats (Table 08-1) -/

/-- How a format encodes NaN and infinity: as IEEE 754 does, with one NaN magnitude of all ones, or not at all. -/
inductive Specials where
  | ieee | e4m3 | none
deriving DecidableEq, Repr

/-- A floating-point format: exponent bits, fraction bits, bias, specials. -/
structure Fmt where
  eb : Nat
  fb : Nat
  bias : Nat
  sp : Specials
deriving DecidableEq, Repr

def fp64 : Fmt := ⟨11, 52, 1023, .ieee⟩
def fp32 : Fmt := ⟨8, 23, 127, .ieee⟩
def bf16 : Fmt := ⟨8, 7, 127, .ieee⟩
def fp16 : Fmt := ⟨5, 10, 15, .ieee⟩
def e5m2 : Fmt := ⟨5, 2, 15, .ieee⟩
def e4m3 : Fmt := ⟨4, 3, 7, .e4m3⟩

/-- The floating-point format of a code. -/
def fmtOf : Nat → Option Fmt
  | 0 => some fp64
  | 1 => some fp32
  | 2 => some bf16
  | 3 => some fp16
  | 4 => some e5m2
  | 5 => some e4m3
  | 6 => some e4m3
  | 7 => some ⟨3, 2, 3, .none⟩
  | 8 => some ⟨2, 3, 1, .none⟩
  | 9 => some ⟨2, 1, 1, .none⟩
  | _ => none

/-- An integer format of a code: bits, signed. -/
def intOf : Nat → Option (Nat × Bool)
  | 0xA => some (8, true)
  | 0xB => some (16, true)
  | 0xC => some (32, true)
  | 0xD => some (8, false)
  | _ => none

/-- Bits of an element of a format code. -/
def widthOf (c : Nat) : Nat := match fmtOf c with
  | some f => f.eb + f.fb + 1
  | none => match intOf c with
    | some (w, _) => w
    | none => 0

/-- The sign bit's place. -/
def Fmt.signBit (f : Fmt) : Nat := f.eb + f.fb

/-- The exponent of the subnormal spacing. -/
def Fmt.qmin (f : Fmt) : Int := 1 - (f.bias : Int) - f.fb

/-- The significand and exponent of the largest finite value. -/
def Fmt.maxFinite (f : Fmt) : Nat × Int := match f.sp with
  | .ieee => (2 ^ (f.fb + 1) - 1, (2 ^ f.eb : Nat) - 2 - (f.bias : Int) - f.fb)
  | .e4m3 => (2 ^ (f.fb + 1) - 2, (2 ^ f.eb : Nat) - 1 - (f.bias : Int) - f.fb)
  | .none => (2 ^ (f.fb + 1) - 1, (2 ^ f.eb : Nat) - 1 - (f.bias : Int) - f.fb)

/-- A value: NaN, infinity, or (−1)^neg · m · 2^e; zero keeps its sign. -/
inductive FVal where
  | nan (signalling : Bool)
  | inf (neg : Bool)
  | fin (neg : Bool) (m : Nat) (e : Int)
deriving DecidableEq, Repr

/-- The value that an encoding stands for (R212, R214). -/
def Fmt.decode (f : Fmt) (v : Nat) : FVal :=
  let neg := bitsOf v f.signBit 1 == 1
  let e := bitsOf v f.fb f.eb
  let m := bitsOf v 0 f.fb
  let fin := if e = 0 then FVal.fin neg m f.qmin else FVal.fin neg (2 ^ f.fb + m) (f.qmin + e - 1)
  match f.sp with
  | .ieee => if e = 2 ^ f.eb - 1 then (if m = 0 then .inf neg else .nan (m < 2 ^ (f.fb - 1))) else fin
  | .e4m3 => if e = 2 ^ f.eb - 1 ∧ m = 2 ^ f.fb - 1 then .nan false else fin
  | .none => fin

/-- The canonical NaN (R214). -/
def Fmt.canonical (f : Fmt) : Nat := match f.sp with
  | .ieee => (2 ^ f.eb - 1) * 2 ^ f.fb + 2 ^ (f.fb - 1)
  | _ => 2 ^ (f.eb + f.fb) - 1

/-- Zero of a sign. -/
def Fmt.zero (f : Fmt) (neg : Bool) : Nat := bit neg * 2 ^ f.signBit

/-- Infinity of a sign, for a format that has it. -/
def Fmt.infinity (f : Fmt) (neg : Bool) : Nat := bit neg * 2 ^ f.signBit + (2 ^ f.eb - 1) * 2 ^ f.fb

/-- The encoding of (−1)^neg · r · 2^q, where r < 2^(fb+1) or r = 2^(fb+1), and q is a spacing of the format. -/
def Fmt.encode (f : Fmt) (neg : Bool) (r : Nat) (q : Int) : Nat :=
  let (r, q) := if 2 ^ (f.fb + 1) ≤ r then (r / 2, q + 1) else (r, q)
  bit neg * 2 ^ f.signBit + (if r < 2 ^ f.fb then r else (q - f.qmin + 1).toNat * 2 ^ f.fb + (r - 2 ^ f.fb))

/-- The largest finite value of a sign. -/
def Fmt.largest (f : Fmt) (neg : Bool) : Nat := f.encode neg f.maxFinite.1 f.maxFinite.2

/-! ## Flags and the environment -/

/-- The flags of Table 08-2: NV, DZ, OF, UF, NX in bits 4 to 0. -/
def nv : BitVec 5 := 16
def dz : BitVec 5 := 8
def ovf : BitVec 5 := 4
def unf : BitVec 5 := 2
def nx : BitVec 5 := 1

/-- A result: its bits, the flags raised, FL. -/
structure FRes where
  bits : Nat
  flags : BitVec 5
  fl : Bool
deriving DecidableEq, Repr

/-- What a rounding depends on: mode, FZ (with the flushing of FP8 and MX inputs, R220), CF, SATC, the stochastic slot bits, and
whether the unit is faithful only (R224). -/
structure FEnv where
  mode : Nat
  fz : Bool
  fz8 : Bool
  cf : Bool
  satc : Bool
  slot : Nat
  faithful : Bool
deriving DecidableEq, Repr

/-- The environment of a unit with nothing but a mode. -/
def FEnv.plain (mode : Nat) : FEnv := ⟨mode, false, false, false, false, 0, false⟩

/-- The rounding mode in an fcsr. -/
def fcsrRm (v : Word) : Nat := bitsOf v.toNat 12 3

/-- The environment of an fcsr (Table 08-2); `service` flushes everything (R220). -/
def envOf (fcsr : Word) (service : Bool) : FEnv :=
  ⟨fcsrRm fcsr, fcsr.getLsbD 15 || service, service, fcsr.getLsbD 16, fcsr.getLsbD 17, 0, false⟩

/-- Mode 6 rounds as mode 0 (R76, R199). -/
def FEnv.noDraw (v : FEnv) : FEnv := if v.mode = 6 then { v with mode := 0 } else v

/-- SERVICE, or the vendor recovery firmware runs (R220). -/
def flushAll (s : State) : Bool := decide (s.mod.state = .service) || s.mod.recovery

/-! ## Rounding (R218, R224, R230) -/

/-- Bits of a number. -/
def bitLength (n : Nat) : Nat := if n = 0 then 0 else Nat.log2 n + 1

/-- Whether a value t + rem / 2^s units, plus less than one unit of rem where `sticky`, is rounded away from zero. -/
def roundsAway (v : FEnv) (neg : Bool) (t rem s : Nat) (q : Int) (sticky : Bool) : Bool :=
  let half := 2 ^ (s - 1)
  let inexact := rem != 0 || sticky
  let even := decide (half < rem) || (rem == half && (sticky || t % 2 == 1))
  let away := decide (half ≤ rem)
  let near := v.faithful && decide (256 * (max rem half - min rem half) ≤ 2 ^ s)
  if s = 0 then false
  else match v.mode with
    | 0 => if near && inexact then Config.faithfulUp t q else even
    | 1 => false
    | 2 => neg && inexact
    | 3 => !neg && inexact
    | 4 => if near && inexact then Config.faithfulUp t q else away
    | 5 => inexact && t % 2 == 0
    | 6 => decide (65536 ≤ 65536 * rem / 2 ^ s + v.slot)
    | _ => even

/-- m · 2^e (and a little more where `sticky`) as a multiple of 2^q, and whether that is inexact. -/
def roundAt (v : FEnv) (neg : Bool) (m : Nat) (e : Int) (sticky : Bool) (q : Int) : Nat × Bool :=
  if q ≤ e then (m * 2 ^ (e - q).toNat, sticky)
  else
    let s := (q - e).toNat
    let t := m / 2 ^ s
    let rem := m % 2 ^ s
    (if roundsAway v neg t rem s q sticky then t + 1 else t, rem != 0 || sticky)

/-- a · 2^i exceeds b · 2^j. -/
def magGt (a : Nat) (i : Int) (b : Nat) (j : Int) : Bool :=
  if i ≤ j then decide (b * 2 ^ (j - i).toNat < a) else decide (b < a * 2 ^ (i - j).toNat)

/-- The overflow result of a mode (Table 08-3) with the flags of Table 08-5. -/
def overflowed (f : Fmt) (v : FEnv) (neg : Bool) : FRes :=
  match f.sp with
  | .ieee =>
    let toMax := (!v.cf && v.satc) || v.mode == 1 || v.mode == 5 || (v.mode == 2 && !neg) || (v.mode == 3 && neg)
    ⟨if toMax then f.largest neg else f.infinity neg, ovf ||| nx, false⟩
  | _ => if v.cf then ⟨f.canonical, ovf ||| nv, false⟩ else ⟨f.largest neg, ovf ||| nx, false⟩

/-- Round (−1)^neg · m · 2^e (plus a little where `sticky`; m ≠ 0 then) into a format (R218, R219, R222, R230). -/
def roundTo (f : Fmt) (v : FEnv) (neg : Bool) (m : Nat) (e : Int) (sticky : Bool) : FRes :=
  if m = 0 then ⟨f.zero neg, 0, false⟩
  else
    let top : Int := e + bitLength m - 1
    let qfree := top - f.fb
    let (rf, _) := roundAt v neg m e sticky qfree
    let tiny := magGt (2 ^ f.fb) f.qmin rf qfree
    let q := max qfree f.qmin
    let (r, inexact) := roundAt v neg m e sticky q
    let big (r : Nat) : Bool := magGt r q f.maxFinite.1 f.maxFinite.2
    let nearest : FEnv := { v with mode := 0, faithful := false }
    if tiny && v.fz then ⟨f.zero neg, unf ||| nx, true⟩
    else if v.mode = 6 ∧ big (roundAt nearest neg m e sticky q).1 then overflowed f nearest neg
    else if v.mode = 6 ∧ big r then ⟨f.largest neg, nx, false⟩
    else if big r then overflowed f v neg
    else ⟨f.encode neg r q, (if inexact then nx else 0) ||| (if tiny && inexact then unf else 0), false⟩

/-! ## Reading operands (R219, R220) -/

/-- Whether a format's subnormal inputs are flushed. -/
def flushes (f : Fmt) (v : FEnv) : Bool := v.fz8 || (v.fz && (f == fp64 || f == fp32 || f == fp16 || f == bf16))

/-- Read an operand: its value after flushing, and FL. -/
def readF (f : Fmt) (v : FEnv) (b : Nat) : FVal × Bool :=
  match f.decode b with
  | .fin neg m e =>
    if flushes f v && m != 0 && decide (m < 2 ^ f.fb) then (.fin neg 0 e, true) else (.fin neg m e, false)
  | x => (x, false)

/-- A signalling NaN. -/
def FVal.signals : FVal → Bool
  | .nan s => s
  | _ => false

/-- A NaN. -/
def FVal.isNan : FVal → Bool
  | .nan _ => true
  | _ => false

/-- Its sign. -/
def FVal.neg : FVal → Bool
  | .nan _ => false
  | .inf n => n
  | .fin n _ _ => n

/-- Negated. -/
def FVal.negate : FVal → FVal
  | .nan s => .nan s
  | .inf n => .inf !n
  | .fin n m e => .fin (!n) m e

/-- The canonical NaN, with NV where it is an invalid operation or an operand signals. -/
def nanResult (f : Fmt) (invalid : Bool) (ops : List FVal) : FRes :=
  ⟨f.canonical, if invalid || ops.any FVal.signals then nv else 0, false⟩

/-- The result with FL added. -/
def FRes.withFl (r : FRes) (fl : Bool) : FRes := { r with fl := r.fl || fl }

/-! ## Exact sums and products -/

/-- An exact value num · 2^exp. -/
structure Dy where
  num : Int
  exp : Int
deriving DecidableEq, Repr

/-- The exact sum. -/
def Dy.add (a b : Dy) : Dy :=
  let e := min a.exp b.exp
  ⟨a.num * 2 ^ (a.exp - e).toNat + b.num * 2 ^ (b.exp - e).toNat, e⟩

/-- The exact product. -/
def Dy.mul (a b : Dy) : Dy := ⟨a.num * b.num, a.exp + b.exp⟩

/-- The exact value of a finite operand; zero otherwise. -/
def FVal.dy : FVal → Dy
  | .fin n m e => ⟨if n then -(m : Int) else m, e⟩
  | _ => ⟨0, 0⟩

/-- Round an exact value; an exact zero takes the sign given. -/
def roundDy (f : Fmt) (v : FEnv) (x : Dy) (zeroNeg : Bool) : FRes :=
  if x.num = 0 then ⟨f.zero zeroNeg, 0, false⟩
  else roundTo f v (decide (x.num < 0)) x.num.natAbs x.exp false

/-- The sign of an exact zero sum of two terms (IEEE 754): theirs where they agree, negative only in mode 2. -/
def zeroSign (v : FEnv) (a b : Bool) : Bool := if a = b then a else v.mode == 2

/-- x + y on values read already. -/
def addVals (f : Fmt) (v : FEnv) (x y : FVal) : FRes :=
  match x, y with
  | .nan _, _ => nanResult f false [x, y]
  | _, .nan _ => nanResult f false [x, y]
  | .inf a, .inf b => if a = b then ⟨f.infinity a, 0, false⟩ else nanResult f true []
  | .inf a, .fin _ _ _ => ⟨f.infinity a, 0, false⟩
  | .fin _ _ _, .inf b => ⟨f.infinity b, 0, false⟩
  | .fin a m _, .fin b n _ =>
    roundDy f v (x.dy.add y.dy) (if m = 0 ∧ n = 0 then zeroSign v a b else v.mode == 2)

/-- x · y on values read already. -/
def mulVals (f : Fmt) (v : FEnv) (x y : FVal) : FRes :=
  let neg := x.neg != y.neg
  match x, y with
  | .nan _, _ => nanResult f false [x, y]
  | _, .nan _ => nanResult f false [x, y]
  | .inf _, .inf _ => ⟨f.infinity neg, 0, false⟩
  | .inf _, .fin _ m _ => if m = 0 then nanResult f true [] else ⟨f.infinity neg, 0, false⟩
  | .fin _ m _, .inf _ => if m = 0 then nanResult f true [] else ⟨f.infinity neg, 0, false⟩
  | .fin _ _ _, .fin _ _ _ => roundDy f v (x.dy.mul y.dy) neg

/-- x · y + z with one rounding, on values read already. 0 · ∞ raises NV beside a quiet NaN addend too (DESIGN CHOICE: R76 and R224 are silent,
notes/assumptions/10.md). -/
def fmaVals (f : Fmt) (v : FEnv) (x y z : FVal) : FRes :=
  let neg := x.neg != y.neg
  let zeroTimesInf := match x, y with
    | .inf _, .fin _ m _ => m == 0
    | .fin _ m _, .inf _ => m == 0
    | _, _ => false
  let isInf (a : FVal) := match a with
    | .inf _ => true
    | _ => false
  if zeroTimesInf then nanResult f true []
  else if x.isNan || y.isNan || z.isNan then nanResult f false [x, y, z]
  else if isInf x || isInf y then
    (match z with
    | .inf c => if c = neg then ⟨f.infinity neg, 0, false⟩ else nanResult f true []
    | _ => ⟨f.infinity neg, 0, false⟩)
  else match z with
    | .inf c => ⟨f.infinity c, 0, false⟩
    | _ =>
      let p := x.dy.mul y.dy
      roundDy f v (p.add z.dy) (if p.num = 0 ∧ z.dy.num = 0 then zeroSign v neg z.neg else v.mode == 2)

/-- An operation of two operands, with their flushing. -/
def onTwo (f : Fmt) (v : FEnv) (op : FVal → FVal → FRes) (a b : Nat) : FRes :=
  let x := readF f v a
  let y := readF f v b
  (op x.1 y.1).withFl (x.2 || y.2)

/-- FADD, FSUB, FMUL. -/
def fAdd (f : Fmt) (v : FEnv) (a b : Nat) : FRes := onTwo f v (addVals f v) a b
def fSub (f : Fmt) (v : FEnv) (a b : Nat) : FRes := onTwo f v (fun x y => addVals f v x y.negate) a b
def fMul (f : Fmt) (v : FEnv) (a b : Nat) : FRes := onTwo f v (mulVals f v) a b

/-- ± a · b ± c with one rounding (Table 03-10): `np` negates the product, `nc` the addend. -/
def fMadd (f : Fmt) (v : FEnv) (np nc : Bool) (a b c : Nat) : FRes :=
  let x := readF f v a
  let y := readF f v b
  let z := readF f v c
  let x' := if np then x.1.negate else x.1
  let z' := if nc then z.1.negate else z.1
  (fmaVals f v x' y.1 z').withFl (x.2 || y.2 || z.2)

/-- The integer square root, bit by bit from 2^n down. -/
def isqrtBits : Nat → Nat → Nat → Nat
  | 0, _, r => r
  | n + 1, x, r => isqrtBits n x (if (r + 2 ^ n) * (r + 2 ^ n) ≤ x then r + 2 ^ n else r)

/-- The integer square root. -/
def isqrt (x : Nat) : Nat := isqrtBits (bitLength x / 2 + 1) x 0

/-- x / y on values read already. -/
def divVals (f : Fmt) (v : FEnv) (x y : FVal) : FRes :=
  let neg := x.neg != y.neg
  match x, y with
  | .nan _, _ => nanResult f false [x, y]
  | _, .nan _ => nanResult f false [x, y]
  | .inf _, .inf _ => nanResult f true []
  | .inf _, .fin _ _ _ => ⟨f.infinity neg, 0, false⟩
  | .fin _ _ _, .inf _ => ⟨f.zero neg, 0, false⟩
  | .fin _ m e, .fin _ n k =>
    if n = 0 then (if m = 0 then nanResult f true [] else ⟨f.infinity neg, dz, false⟩)
    else
      let sh := f.fb + 8 + bitLength n
      roundTo f v neg (m * 2 ^ sh / n) (e - k - sh) (m * 2 ^ sh % n != 0)

/-- The square root of a value read already. -/
def sqrtVal (f : Fmt) (v : FEnv) (x : FVal) : FRes :=
  match x with
  | .nan _ => nanResult f false [x]
  | .inf n => if n then nanResult f true [] else ⟨f.infinity false, 0, false⟩
  | .fin n m e =>
    if m = 0 then ⟨f.zero n, 0, false⟩
    else if n then nanResult f true []
    else
      let sh := 2 * (f.fb + 8) + (e % 2).toNat
      let r := isqrt (m * 2 ^ sh)
      roundTo f v false r ((e - sh) / 2) (r * r != m * 2 ^ sh)

/-- FDIV, FSQRT. -/
def fDiv (f : Fmt) (v : FEnv) (a b : Nat) : FRes := onTwo f v (divVals f v) a b
def fSqrt (f : Fmt) (v : FEnv) (a : Nat) : FRes :=
  let x := readF f v a
  (sqrtVal f v x.1).withFl x.2

/-! ## Comparisons, minimum and maximum, classes (R221) -/

/-- x < y on values that are no NaN. -/
def ltVals (x y : FVal) : Bool :=
  match x, y with
  | .inf a, .inf b => a && !b
  | .inf a, .fin _ _ _ => a
  | .fin _ _ _, .inf b => !b
  | _, _ => decide ((x.dy.add ⟨-y.dy.num, y.dy.exp⟩).num < 0)

/-- x = y on values that are no NaN. -/
def eqVals (x y : FVal) : Bool := !ltVals x y && !ltVals y x

/-- The comparisons. -/
inductive FCmp where
  | eq | lt | le | un
deriving DecidableEq, Repr

/-- A comparison: its truth, its flags, FL. -/
def fCompare (f : Fmt) (v : FEnv) (c : FCmp) (a b : Nat) : Bool × BitVec 5 × Bool :=
  let x := readF f v a
  let y := readF f v b
  let nan := x.1.isNan || y.1.isNan
  let quiet := match c with
    | .eq => true
    | .un => true
    | _ => false
  let invalid := if quiet then x.1.signals || y.1.signals else nan
  let r := match c with
    | .eq => !nan && eqVals x.1 y.1
    | .lt => !nan && ltVals x.1 y.1
    | .le => !nan && (ltVals x.1 y.1 || eqVals x.1 y.1)
    | .un => nan
  (r, if invalid then nv else 0, x.2 || y.2)

/-- A value back in its own format. -/
def Fmt.ofVal (f : Fmt) : FVal → Nat
  | .nan _ => f.canonical
  | .inf n => f.infinity n
  | .fin n m e => (roundTo f (.plain 0) n m e false).bits

/-- minimumNumber or maximumNumber (R76): a number wins over a NaN, and −0 lies below +0. -/
def fMinMax (f : Fmt) (v : FEnv) (wantMax : Bool) (a b : Nat) : FRes :=
  let x := readF f v a
  let y := readF f v b
  let fl := x.2 || y.2
  let flags := if x.1.signals || y.1.signals then nv else 0
  let less := ltVals x.1 y.1 || (eqVals x.1 y.1 && x.1.neg && !y.1.neg)
  match x.1.isNan, y.1.isNan with
  | true, true => ⟨f.canonical, flags, fl⟩
  | true, false => ⟨f.ofVal y.1, flags, fl⟩
  | false, true => ⟨f.ofVal x.1, flags, fl⟩
  | false, false => ⟨f.ofVal (if less = wantMax then y.1 else x.1), flags, fl⟩

/-- FSGNJ: the magnitude of a with the sign of b, as bits (R214). -/
def fSgnj (f : Fmt) (a b : Nat) : Nat := a % 2 ^ f.signBit + bitsOf b f.signBit 1 * 2 ^ f.signBit

/-- FCLASS (Table 08-4). -/
def fClass (f : Fmt) (a : Nat) : Nat :=
  match f.decode a with
  | .nan s => if s then 2 ^ 8 else 2 ^ 9
  | .inf n => if n then 1 else 2 ^ 7
  | .fin n m _ =>
    if m = 0 then (if n then 2 ^ 3 else 2 ^ 4)
    else if m < 2 ^ f.fb then (if n then 2 ^ 2 else 2 ^ 5)
    else if n then 2 ^ 1 else 2 ^ 6

/-! ## Conversions (R222, R223) -/

/-- A value into a format with the specials of Table 08-6. -/
def convertVal (f : Fmt) (v : FEnv) (x : FVal) : FRes :=
  match x with
  | .nan s => ⟨f.canonical, if s then nv else 0, false⟩
  | .inf n => match f.sp with
    | .ieee => ⟨f.infinity n, 0, false⟩
    | _ => ⟨if v.cf then f.canonical else f.largest n, nv, false⟩
  | .fin n m e => roundTo f v n m e false

/-- From one format into another. -/
def fConvert (src dst : Fmt) (v : FEnv) (a : Nat) : FRes :=
  let x := readF src v a
  (convertVal dst v x.1).withFl x.2

/-- The smallest and largest value of an integer format. -/
def intRange (w : Nat) (signed : Bool) : Int × Int :=
  if signed then (-(2 ^ (w - 1) : Nat), (2 ^ (w - 1) : Nat) - 1) else (0, (2 ^ w : Nat) - 1)

/-- An integer saturated into a format of w bits, as bits, with the flags of Table 08-5. -/
def saturateInt (w : Nat) (signed : Bool) (cf : Bool) (x : Int) : Nat × BitVec 5 :=
  let (lo, hi) := intRange w signed
  let fl : BitVec 5 := if cf then nv else ovf ||| nv
  if x < lo then (lo.emod (2 ^ w) |>.toNat, fl)
  else if hi < x then (hi.toNat, fl)
  else ((x.emod (2 ^ w)).toNat, 0)

/-- A value rounded to an integer of w bits (R223). -/
def toInt (w : Nat) (signed : Bool) (v : FEnv) (x : FVal) : FRes :=
  let (lo, hi) := intRange w signed
  match x with
  | .nan _ => ⟨hi.toNat, nv, false⟩
  | .inf n => ⟨if n then (lo.emod (2 ^ w)).toNat else hi.toNat, nv, false⟩
  | .fin n m e =>
    let (r, inexact) := roundAt v n m e false 0
    let y : Int := if n then -(r : Int) else r
    let (b, fl) := saturateInt w signed v.cf y
    ⟨b, if fl = 0 then (if inexact then nx else 0) else fl, false⟩

/-- From a floating-point format to an integer format. -/
def fToInt (src : Fmt) (w : Nat) (signed : Bool) (v : FEnv) (a : Nat) : FRes :=
  let x := readF src v a
  (toInt w signed v x.1).withFl x.2

/-- The integer that w bits hold. -/
def intOfBits (w : Nat) (signed : Bool) (b : Nat) : Int :=
  if signed && bitsOf b (w - 1) 1 == 1 then (b : Int) - (2 ^ w : Nat) else b

/-- From an integer to a floating-point format. -/
def intToF (dst : Fmt) (v : FEnv) (x : Int) : FRes := roundTo dst v (decide (x < 0)) x.natAbs 0 false

/-! ## The exponent histogram (R239) -/

/-- The bin of a value in a floating-point format under a base; `flushed` says that this instruction's own rounding flushed it. -/
def histBin (f : Fmt) (base : Int) (flushed : Bool) (b : Nat) : Nat :=
  match f.decode b with
  | .nan _ => 63
  | .inf _ => 62
  | .fin _ m e =>
    if m = 0 then (if flushed then 1 else 0)
    else if m < 2 ^ f.fb then 1
    else
      let x : Int := e + f.fb - base + 2
      (max 2 (min 61 x)).toNat

end Sys2Proof.Machine
end

