-- ==== Sys2Proof/Machine/Elementary.lean ====
section
/-!
DEFINITION. The transcendentals of the vector engine (R237): the exact result to far more bits than any format, and one of the values
within the bound of Table 08-14 (free, Config.transcendentalPick).
-/

namespace Sys2Proof.Machine

/-- The transcendental operations. -/
inductive TOp where
  | exp | log | sin | cos | rsqrt | rcp
deriving DecidableEq, Repr

/-- Its number, for the free values. -/
def TOp.num : TOp → Nat
  | .exp => 0
  | .log => 1
  | .sin => 2
  | .cos => 3
  | .rsqrt => 4
  | .rcp => 5

/-- Bits of fixed-point fraction. -/
def elemW : Nat := 384

/-- π/2 and ln 2 in fixed point. -/
def halfPi : Nat := 0x1921fb54442d18469898cc51701b839a252049c1114cf98e804177d4c76273644a29410f31c6809bbdf2a33679a748636

def ln2 : Nat := 0xb17217f7d1cf79abc9e3b39803f2f6af40f343267298b62d8a0d175b8baafa2be7b876206debac98559552fb4afa1b10

/-- x · y in fixed point. -/
def fixMul (x y : Nat) : Nat := x * y / 2 ^ elemW

/-- Σ term, term · x / (n + 1), … : the exponential series; `fuel` bounds the terms. -/
def expSeries (x : Nat) : (fuel n term : Nat) → Nat
  | 0, _, term => term
  | f + 1, n, term => term + expSeries x f (n + 1) (fixMul term x / (n + 1))

/-- Σ (−1)^k term · x2^k / …: the sine (n = 1) and cosine (n = 0) series, each term divided by the next two integers. -/
def trigSeries (x2 : Nat) : (fuel n : Nat) → (term : Int) → Int
  | 0, _, term => term
  | f + 1, n, term => term + trigSeries x2 f (n + 2) (-(term * x2 / 2 ^ elemW / ((n + 1) * (n + 2))))

/-- Σ z^(2k+1) / (2k+1): the inverse hyperbolic tangent. -/
def atanhSeries (z2 : Nat) : (fuel n power : Nat) → Nat
  | 0, _, _ => 0
  | f + 1, n, power => power / n + atanhSeries z2 f (n + 2) (fixMul power z2)

/-- An exact result m · 2^e of a sign, m and e to the precision computed; m = 0 for one below every spacing. -/
structure Exact where
  neg : Bool
  m : Nat
  e : Int
deriving DecidableEq, Repr

/-- m · 2^e in fixed point. -/
def toFix (m : Nat) (e : Int) : Nat :=
  let k := e + elemW
  if 0 ≤ k then m * 2 ^ k.toNat else m / 2 ^ (-k).toNat

/-- exp of a finite nonzero value, |x| < 2^11. Below 2^-60 it lies so near 1 that only the side matters. -/
def expExact (neg : Bool) (m : Nat) (e : Int) : Exact :=
  if e + bitLength m < -60 then ⟨false, if neg then 2 ^ elemW - 1 else 2 ^ elemW + 1, -(elemW : Int)⟩
  else
  let x : Int := if neg then -(toFix m e : Int) else toFix m e
  let k := x / (ln2 : Int)
  let r := (x - k * ln2).toNat
  ⟨false, expSeries r 110 0 (2 ^ elemW), k - elemW⟩

/-- log of a positive finite value. -/
def logExact (m : Nat) (e : Int) : Exact :=
  let n := bitLength m - 1
  let y := toFix m (-(n : Int))
  let one := 2 ^ elemW
  let z := (y - one) * one / (y + one)
  let l : Int := (e + n) * ln2 + 2 * atanhSeries (fixMul z z) 130 1 z
  ⟨decide (l < 0), l.natAbs, -(elemW : Int)⟩

/-- sin or cos of a finite nonzero value, |x| ≤ 2^20. -/
def trigExact (cosine : Bool) (neg : Bool) (m : Nat) (e : Int) : Exact :=
  let one := 2 ^ elemW
  if e + bitLength m < -60 then
    (if cosine then ⟨false, one - 1, -(elemW : Int)⟩ else ⟨neg, m * 2 ^ 128 - 1, e - 128⟩)
  else
    let x := toFix m e
    let k := x / halfPi
    let r := x - k * halfPi
    let r2 := fixMul r r
    let quadrant := (k + if cosine then 1 else 0) % 4
    let v := if quadrant % 2 = 0 then trigSeries r2 50 1 r else trigSeries r2 50 0 (one : Nat)
    ⟨(if cosine then false else neg) != decide (2 ≤ quadrant), v.natAbs, -(elemW : Int)⟩

/-- The representable values within n ulp of an exact result that is not representable, as multiples of half a spacing. -/
def within (f : Fmt) (n : Nat) (x : Exact) : List (Nat × Int) :=
  let top : Int := x.e + bitLength x.m - 1
  let h := (if x.m = 0 then f.qmin else max (top - f.fb) f.qmin) - 1
  let (t, rem) := if h ≤ x.e then (x.m * 2 ^ (x.e - h).toNat, 0)
    else (x.m / 2 ^ (h - x.e).toNat, x.m % 2 ^ (h - x.e).toNat)
  let first := if rem = 0 ∧ x.m ≠ 0 then 0 else 1
  ((indices (4 * n + 1)).filterMap fun i =>
    let j : Int := (t : Int) - 2 * n + first + i
    if 0 ≤ j ∧ j ≤ t + 2 * n then some (j.toNat, h) else none).filter
      fun c => (roundTo f (.plain 1) false c.1 c.2 false).flags == 0

/-- One of the values within n ulp of an exact result (R237), with NX, and OF, UF and flushing as R219 and R222 give. -/
def pickNear (op : TOp) (code : Nat) (f : Fmt) (v : FEnv) (n operand : Nat) (x : Exact) : FRes :=
  let free : Int := x.e + bitLength x.m - 1 - f.fb
  let tiny := x.m == 0 || magGt (2 ^ f.fb) f.qmin (roundAt (.plain 0) x.neg x.m x.e false free).1 free
  if magGt x.m x.e f.maxFinite.1 f.maxFinite.2 then overflowed f { v with mode := 0 } x.neg
  else if tiny && v.fz then ⟨f.zero x.neg, unf ||| nx, true⟩
  else
    let l := (within f n x).filter fun c => tiny || !magGt (2 ^ f.fb) f.qmin c.1 c.2
    let c := l.getD (Config.transcendentalPick op.num code operand % max l.length 1) (0, 0)
    let r := roundTo f (.plain 1) x.neg c.1 c.2 false
    ⟨r.bits, nx ||| (if tiny then unf else 0), false⟩

/-- The bound in ulp (Table 08-14). -/
def boundUlp (op : TOp) (code : Nat) : Nat := match op with
  | .rsqrt => 1
  | .rcp => 1
  | _ => if code = 0 then 2 else 1

/-- A power of two: the odd part is 1. -/
def isPow2 (m : Nat) : Bool := m == 2 ^ (bitLength m - 1)

/-- Beyond 2^20: some value in [−1, 1] (R237), tiny or flushed as R219 gives. -/
def farTrig (op : TOp) (code : Nat) (f : Fmt) (v : FEnv) (operand : Nat) : FRes :=
  let r := Config.farAngle op.num code operand
  let neg := r % 2 == 1
  let x := r / 2 % (f.bias * 2 ^ f.fb + 1)
  let tiny := decide (x < 2 ^ f.fb)
  if tiny && v.fz then ⟨f.zero neg, unf ||| nx, true⟩
  else ⟨bit neg * 2 ^ f.signBit + x, nx ||| (if tiny then unf else 0), false⟩

/-- A result that is an exact power of two: the mode does not matter, and an overflow is mode 0's (R218, R237). -/
def exactPow2 (f : Fmt) (v : FEnv) (neg : Bool) (e : Int) : FRes := roundTo f { v with mode := 0, faithful := false } neg 1 e false

/-- A transcendental of an operand of format code `code` (Table 08-14). -/
def transcend (op : TOp) (code : Nat) (f : Fmt) (v : FEnv) (operand : Nat) : FRes :=
  let x := readF f v operand
  let one := f.bias * 2 ^ f.fb
  let n := boundUlp op code
  let near (y : Exact) : FRes := pickNear op code f v n operand y
  (match x.1 with
  | .nan s => nanResult f false [.nan s]
  | .inf neg => match op with
    | .exp => ⟨if neg then 0 else f.infinity false, 0, false⟩
    | .log => if neg then nanResult f true [] else ⟨f.infinity false, 0, false⟩
    | .sin => nanResult f true []
    | .cos => nanResult f true []
    | .rsqrt => if neg then nanResult f true [] else ⟨0, 0, false⟩
    | .rcp => ⟨f.zero neg, 0, false⟩
  | .fin neg m e =>
    let size := e + bitLength m
    match op with
    | .exp =>
      if m = 0 then ⟨one, 0, false⟩
      else if 11 < size then (if neg then near ⟨false, 0, 0⟩ else overflowed f { v with mode := 0 } false)
      else near (expExact neg m e)
    | .log =>
      if m = 0 then ⟨f.infinity true, dz, false⟩
      else if neg then nanResult f true []
      else if eqVals x.1 (.fin false 1 0) then ⟨0, 0, false⟩
      else near (logExact m e)
    | .sin =>
      if m = 0 then ⟨f.zero neg, 0, false⟩
      else if magGt m e 1 20 then farTrig op code f v operand
      else near (trigExact false neg m e)
    | .cos =>
      if m = 0 then ⟨one, 0, false⟩
      else if magGt m e 1 20 then farTrig op code f v operand
      else near (trigExact true neg m e)
    | .rsqrt =>
      if m = 0 then ⟨f.infinity neg, dz, false⟩
      else if neg then nanResult f true []
      else
        let (m, e) := if e % 2 = 0 then (m, e) else (2 * m, e - 1)
        if isPow2 m ∧ bitLength m % 2 = 1 then exactPow2 f v false (-(e / 2) - (bitLength m - 1 : Nat) / 2)
        else near ⟨false, isqrt (2 ^ 400 / m), -200 - e / 2⟩
    | .rcp =>
      if m = 0 then ⟨f.infinity neg, dz, false⟩
      else if isPow2 m then exactPow2 f v neg (-e - (bitLength m - 1 : Nat))
      else near ⟨neg, 2 ^ 200 / m, -200 - e⟩).withFl x.2

end Sys2Proof.Machine
end

