-- ==== Sys2Proof/Machine/VectorOps.lean ====
section
/-!
DEFINITION. The vector instructions one element at a time: units and registers named (R140 to R143), configuration checks (R134), the
operations of Tables 05-5 to 05-8 and 05-11, generators (R228, R229). Also the vector registers that a matrix-queue instruction names
(R93).
-/

namespace Sys2Proof.Machine

/-! ## Kinds and units -/

/-- How an operation goes through its groups. `whole` operations act in one piece. -/
inductive VKind where
  | lane | cmp | slide | compress | bcast | scan | rsum | whole | load | store
deriving DecidableEq, Repr

/-- The kind of an operation. -/
def VOp.kind : VOp → VKind
  | .ceq | .cne | .clt | .cle | .cltu | .cleu | .fceq | .fclt | .fcle | .fcun => .cmp
  | .slideup | .slidedn => .slide
  | .compress => .compress
  | .bcast | .bcastf => .bcast
  | .scani | .scanx | .sscani | .sscanx | .scan2 => .scan
  | .rsum => .rsum
  | .insert | .insertf | .pand | .por | .pxor | .pandn | .pnot | .pcount | .pany | .pall | .pfirst | .extract | .extractf => .whole
  | .vld => .load
  | .vst => .store
  | _ => .lane

/-- The function units (R140). -/
inductive VUnit where
  | vfma | valu | vscan | vperm | vmem | vxfer
deriving DecidableEq, Repr

/-- The unit of an operation (Table 05-4). -/
def VOp.unit (o : VOp) : VUnit :=
  match o.kind with
  | .slide => .vperm
  | .compress => .vperm
  | .scan => .vscan
  | .rsum => .vscan
  | .load => .vmem
  | .store => .vmem
  | .bcast => .vxfer
  | .cmp => .valu
  | .whole => match o with
    | .pand | .por | .pxor | .pandn | .pnot => .valu
    | _ => .vxfer
  | .lane => match o with
    | .fadd | .fsub | .fmul | .fmin | .fmax | .fsgnj | .add2 | .fexp | .flog | .fsin | .fcos | .frsqrt | .frcp | .cvt
    | .fma | .fms | .fnma | .fnms | .fma2 => .vfma
    | _ => .valu

/-- Fused multiply-adds. -/
def VOp.isFma : VOp → Bool
  | .fma | .fms | .fnma | .fnms | .fma2 => true
  | _ => false

/-- Operations of one vector source. -/
def VOp.unary : VOp → Bool
  | .fexp | .flog | .fsin | .fcos | .frsqrt | .frcp | .cvt => true
  | _ => false

/-- The compensated pairs (R159). -/
def VOp.pair : VOp → Bool
  | .add2 | .fma2 | .scan2 => true
  | _ => false

/-- Predicate logic. -/
def VOp.logic : VOp → Bool
  | .pand | .por | .pxor | .pandn | .pnot => true
  | _ => false

/-- The forms that treat every integer format as unsigned. -/
def VOp.unsigned : VOp → Bool
  | .mulhu | .minu | .maxu | .cltu | .cleu | .saddu | .ssubu | .aaddu | .nclipu => true
  | _ => false

/-- The narrowing clips, whose source elements are 2w wide. -/
def VOp.clip : VOp → Bool
  | .nclip | .nclipu => true
  | _ => false

/-- Segmented scans. -/
def VOp.segmented : VOp → Bool
  | .sscani | .sscanx => true
  | _ => false

/-- Exclusive scans. -/
def VOp.exclusive : VOp → Bool
  | .scanx | .sscanx => true
  | _ => false

/-! ## Widths -/

/-- FMT. -/
def VInstr.f (i : VInstr) : Nat := i.fmt.toNat

/-- FMT is a floating-point format. -/
def VInstr.fp (i : VInstr) : Bool := decide (i.f < 6)

/-- FMT is an integer format. -/
def VInstr.int (i : VInstr) : Bool := (intOf i.f).isSome

/-- Element width w. -/
def VInstr.w (i : VInstr) : Nat := widthOf i.f

/-- Width of the elements of va. -/
def VInstr.wa (i : VInstr) : Nat := if i.op.clip then 2 * i.w else i.w

/-- Width of the elements of vd. -/
def VInstr.wd (i : VInstr) : Nat := if i.op = .cvt then widthOf i.cfmt.toNat else i.w

/-- The widest format that the instruction reads or writes (R130). -/
def VInstr.wide (i : VInstr) : Nat := max i.wa i.wd

/-- Elements per group. -/
def VInstr.per (i : VInstr) : Nat := 1024 / max i.wide 1

/-- Element groups G (R130). -/
def VInstr.groups (i : VInstr) : Nat := (i.vl.toNat * i.wide + 1023) / 1024

/-- The elements of group j, below vl. -/
def VInstr.elems (i : VInstr) (j : Nat) : List Nat := (indices (min i.per (i.vl.toNat - j * i.per))).map fun e => j * i.per + e

/-- Element k of width w of a register. -/
def getE (w k : Nat) (v : VReg) : Nat := bitsOf v.toNat (w * k) w

/-- Replace element k of width w. -/
def putE (w k x : Nat) (v : VReg) : VReg :=
  let n := v.toNat
  BitVec.ofNat 8192 (n / 2 ^ (w * (k + 1)) * 2 ^ (w * (k + 1)) + x % 2 ^ w * 2 ^ (w * k) + n % 2 ^ (w * k))

/-- Replace bit k of a predicate. -/
def putP (k : Nat) (b : Bool) (p : Row) : Row :=
  if b then p ||| BitVec.ofNat 1024 (2 ^ k) else p &&& ~~~(BitVec.ofNat 1024 (2 ^ k))

/-! ## Registers named (R142, R143, R93, R92) -/

/-- Predicate register p as a resource: 32 + p; p0 is none. -/
def predName (p : Nat) : List Nat := if p = 0 then [] else [32 + p]

/-- Register g as a resource: 64 + g; g0 is none. -/
def gName (g : BitVec 5) : List Nat := if g = 0 then [] else [64 + g.toNat]

/-- The f register of a carry-in that is still to be captured (R131, R154). -/
def VInstr.carryReads (i : VInstr) : List Nat := if i.ci && i.fp && i.cin.isNone then [i.vb.toNat] else []

/-- The vector and predicate registers that an instruction reads, or has yet to read once it has started. -/
def VInstr.reads (i : VInstr) : List Nat :=
  let a := [i.va.toNat]
  let b := if i.s && i.int then [] else [i.vb.toNat]
  predName i.pm.toNat ++
  (match i.op.kind with
  | .lane => a ++ (if i.op.unary then [] else b) ++ (if i.op.isFma then [i.vc.toNat] else [])
  | .cmp => a ++ b
  | .slide => a
  | .compress => a
  | .bcast => if i.op = .bcastf then a else []
  | .scan => a ++ i.carryReads
  | .rsum => a ++ i.carryReads
  | .load => []
  | .store => [i.vd.toNat]
  | .whole => match i.op with
    | .insert => []
    | .insertf => a
    | .extract => a
    | .extractf => a
    | .pnot => predName (i.va.toNat % 8)
    | .pand | .por | .pxor | .pandn => predName (i.va.toNat % 8) ++ predName (i.vb.toNat % 8)
    | _ => predName (i.va.toNat % 8))

/-- The vector and predicate registers that an instruction writes, and its scalar result. -/
def VInstr.writes (i : VInstr) : List Nat :=
  match i.op.kind with
  | .cmp => predName (i.vd.toNat % 8)
  | .scan => i.vd.toNat :: (if i.op.pair then [i.vd.toNat + 1] else [])
      ++ (if i.co then (if i.fp then [i.vb.toNat] else gName i.vb) else [])
  | .rsum => if i.fp then [i.vb.toNat] else gName i.vb
  | .store => []
  | .whole => match i.op with
    | .insert => [i.vd.toNat]
    | .insertf => [i.vd.toNat]
    | .extractf => [i.vd.toNat]
    | .pand | .por | .pxor | .pandn | .pnot => predName (i.vd.toNat % 8)
    | _ => gName i.vd
  | _ => i.vd.toNat :: if i.op.pair then [i.vd.toNat + 1] else []

/-- Two lists share a member. -/
def meet (a b : List Nat) : Bool := a.any b.contains

/-- A later instruction and an earlier one name a register that one of them writes. -/
def VInstr.conflicts (i p : VInstr) : Bool :=
  meet p.writes (i.reads ++ i.writes) || meet p.reads i.writes

/-- An instruction whose destination overlaps a source of its own (R121, R142). -/
def VInstr.selfOverlap (i : VInstr) : Bool := meet i.writes i.reads

/-! ## The shape word (Table 06-3) and the vector registers of the matrix queue -/

/-- ROWS. -/
def shRows (w : Word) : Nat := bitsOf w.toNat 26 6 + 1

/-- Row bytes. -/
def shBytes (w : Word) : Nat := 16 * 2 ^ bitsOf w.toNat 24 2

/-- FMT_A. -/
def shA (w : Word) : Nat := bitsOf w.toNat 20 4

/-- FMT_B. -/
def shB (w : Word) : Nat := bitsOf w.toNat 16 4

/-- FMT_ACC. -/
def shAcc (w : Word) : Nat := bitsOf w.toNat 12 4

/-- TR. -/
def shTr (w : Word) : Bool := w.getLsbD 11

/-- PASS. -/
def shPass (w : Word) : Nat := bitsOf w.toNat 9 2

/-- RND. -/
def shRnd (w : Word) : Nat := bitsOf w.toNat 6 3

/-- N. -/
def shN (w : Word) : Nat := bitsOf w.toNat 0 6 + 1

/-- The registers that hold rows · n elements of FMT_A from v on (R203, R206). -/
def MInstr.span (m : MInstr) : List Nat :=
  (indices ((shRows m.shape * shN m.shape * widthOf (shA m.shape) + 8191) / 8192)).map fun k => m.v.toNat + k

/-- The vector registers that a matrix-queue instruction has yet to read or write; a TLDG reads its own at its start (R177). -/
def MInstr.vregs (m : MInstr) : List Nat :=
  match m.op with
  | .tldg => if m.addrs.isSome then [] else [m.v.toNat]
  | .accrdV => m.span
  | .accwr => m.span
  | _ => []

/-- The vector registers that a matrix-queue instruction writes. -/
def MInstr.vwrites (m : MInstr) : List Nat := if m.op = .accrdV then m.span else []

/-- The scalar result of a matrix-queue instruction. -/
def MInstr.gwrites (m : MInstr) : List Nat := if m.op = .ttag ∨ m.op = .acctag then gName m.v else []

/-! ## Configuration checks (R134) -/

/-- Formats that FP arithmetic accepts. -/
def fpArith (c : Nat) : Bool := decide (c ≤ 3)

/-- Table 05-1 lists the instruction for its FMT (and CFMT). Slides, compress, VMERGE, VEXTRACT, compares and summaries, which the table names
for no format from FP64 to FP16 nor for the integer ones (nor summaries for FP8), accept every format that is not reserved (DESIGN CHOICE,
notes/assumptions/20.md). -/
def VInstr.listed (i : VInstr) : Bool :=
  match i.op.kind with
  | .lane =>
    if i.op = .cvt then i.fp && decide (i.cfmt.toNat < 6)
    else if i.op.pair then decide (i.f ≤ 1)
    else if i.op = .merge then true
    else if i.op.unit = .vfma then fpArith i.f
    else if i.op.clip then i.int && decide (i.f ≠ 0xC)
    else i.int
  | .cmp => match i.op with
    | .fceq | .fclt | .fcle | .fcun => fpArith i.f
    | _ => i.int
  | .scan => if i.op.pair then decide (i.f ≤ 1) else fpArith i.f || i.int
  | .rsum => fpArith i.f || i.int
  | .store => !(i.h && i.int)
  | _ => true

/-- A reserved code of Table 05-1. -/
def reservedFmt (c : Nat) : Bool := !(decide (c < 6) || (intOf c).isSome)

/-- The configuration fault of an instruction, if it has one: the subcode of the first failing check (R134, R150). It is checked with vl = 0
too, although R137 has such an instruction raise nothing (DESIGN CHOICE, notes/assumptions/20.md). -/
def VInstr.check (i : VInstr) : Option (BitVec 8) :=
  if reservedFmt i.f || (i.op = .cvt && reservedFmt i.cfmt.toNat) then some 2
  else if !i.listed then some 3
  else if !i.op.logic && decide (8192 / i.wide < i.vl.toNat) then some 1
  else if i.op.pair && i.vd = 31 then some 4
  else none

/-! ## Generators (R228, R229) -/

/-- The constant that spreads keys. -/
def golden : DWord := 0x9E3779B97F4A7C15

def mix64 (z : DWord) : DWord :=
  let z := (z ^^^ (z >>> 30)) * 0xBF58476D1CE4E5B9
  let z := (z ^^^ (z >>> 27)) * 0x94D049BB133111EB
  z ^^^ (z >>> 31)

/-- One draw of a stream at a position. -/
def drawAt (seed : DWord) (stream : Word) (pos : DWord) : DWord :=
  ((indices 4).foldl (fun (a : DWord × DWord) _ => (mix64 (a.1 + a.2), a.2 + golden))
    (pos, mix64 (seed + stream.setWidth 64 * golden))).1

/-- The stream id of generator g of a core (Table 08-9). -/
def streamId (mid : ModuleId) (c : CoreId) (g : Nat) : Word :=
  BitVec.ofNat 32 (mid.toNat * 2 ^ 16 + c.toNat / 32 * 2 ^ 12 + c.toNat % 32 * 2 ^ 7 + g)

/-- Where an instruction's draws come from: seed, module, core, first step. -/
structure Draws where
  seed : DWord
  mid : ModuleId
  core : CoreId
  pos : DWord
deriving DecidableEq, Repr

/-- The 16 bits of element slot e (R229). -/
def Draws.slot (d : Draws) (e : Nat) : Nat :=
  bitsOf (drawAt d.seed (streamId d.mid d.core (e % 64 / 4)) (d.pos + BitVec.ofNat 64 (e / 64))).toNat (16 * (e % 4)) 16

/-- Where the draws of an instruction on a core come from. -/
def drawsOf (s : State) (c : CoreId) (pos : DWord) : Draws :=
  ⟨(s.bnd (s.core c).ctl.xcfg.binding).seed, s.mgmt.mid, c, pos⟩

/-- An environment with the slot bits of element e in mode 6. -/
def FEnv.drawn (v : FEnv) (d : Draws) (e : Nat) : FEnv := if v.mode = 6 then { v with slot := d.slot e } else v

/-- The vector instructions whose result's rounding draws, and those whose outputs do (Table 08-10). -/
def VInstr.draws (i : VInstr) : Bool :=
  match i.op with
  | .fadd | .fsub | .fmul | .fma | .fms | .fnma | .fnms | .cvt => true
  | .scani | .scanx | .sscani | .sscanx => i.fmt == 2 || i.fmt == 3
  | _ => false

/-- The arithmetic environment of an instruction: BF16 flushes and is fast (R219, R222). -/
def VInstr.env (i : VInstr) (service : Bool) : FEnv :=
  let v := envOf i.fcsr service
  if i.fmt == 2 || (i.op == .cvt && i.cfmt == 2) then { v with fz := true, cf := false } else v

/-! ## One element -/

/-- What one element gives: its bits, the second result of a pair, flags, FL, VSAT. -/
structure VOut where
  bits : Nat
  second : Nat
  flags : BitVec 5
  fl : Bool
  sat : Bool
deriving DecidableEq, Repr

def VOut.ofF (x : FRes) : VOut := ⟨x.bits, 0, x.flags, x.fl, false⟩

def VOut.plain (x : Nat) : VOut := ⟨x, 0, 0, false, false⟩

/-- A finite value's exact value; none for infinities and NaNs. -/
def FVal.exact : FVal → Option Dy
  | .fin n m e => some ⟨if n then -(m : Int) else m, e⟩
  | _ => none

/-- The second result of a pair: exact − vd rounded to nearest even, with FL where it is flushed (R159, R234). -/
def pairSecond (f : Fmt) (v : FEnv) (exact : Option Dy) (vd : Nat) : Nat × Bool :=
  match exact, f.decode vd with
  | some x, .fin n m e =>
    let r := roundDy f { v with mode := 0 } (x.add ⟨if n then m else -(m : Int), e⟩) false
    (r.bits, r.fl)
  | some _, .inf n => (f.infinity !n, false)
  | _, _ => (f.canonical, false)

/-- A pair from the rounded first result and the exact value. -/
def pairOut (f : Fmt) (v : FEnv) (r : FRes) (exact : Option Dy) : VOut :=
  let t := pairSecond f v exact r.bits
  ⟨r.bits, t.1, r.flags, r.fl || t.2, false⟩

/-- The sum of two exact values. -/
def exactSum (x y : Option Dy) : Option Dy :=
  match x, y with
  | some a, some b => some (a.add b)
  | _, _ => none

/-- The product of two exact values. -/
def exactProd (x y : Option Dy) : Option Dy :=
  match x, y with
  | some a, some b => some (a.mul b)
  | _, _ => none

/-- VADD2 (R159). -/
def add2 (f : Fmt) (v : FEnv) (a b : Nat) : VOut :=
  let v := { v with mode := 0 }
  let x := readF f v a
  let y := readF f v b
  pairOut f v ((addVals f v x.1 y.1).withFl (x.2 || y.2)) (exactSum x.1.exact y.1.exact)

/-- VFMA2 (R159). -/
def fma2 (f : Fmt) (v : FEnv) (a b c : Nat) : VOut :=
  let v := { v with mode := 0 }
  let x := readF f v a
  let y := readF f v b
  let z := readF f v c
  pairOut f v ((fmaVals f v x.1 y.1 z.1).withFl (x.2 || y.2 || z.2)) (exactSum (exactProd x.1.exact y.1.exact) z.1.exact)

/-- Fixed-point rounding of x by d bits (Table 05-10). -/
def fixRound (mode : Nat) (x : Int) (d : Nat) : Int :=
  let r := x / (2 ^ d : Nat)
  let rem := (x % (2 ^ d : Nat)).toNat
  let half := 2 ^ (d - 1)
  if d = 0 then x
  else match mode with
    | 0 => if half ≤ rem then r + 1 else r
    | 1 => if half < rem ∨ (rem = half ∧ r % 2 = 1) then r + 1 else r
    | 2 => r
    | _ => if rem ≠ 0 ∧ r % 2 = 0 then r + 1 else r

/-- Saturated into w bits, with VSAT (R152). -/
def saturated (w : Nat) (signed : Bool) (x : Int) : VOut :=
  let r := saturateInt w signed false x
  ⟨r.1, 0, 0, false, decide (r.2 ≠ 0)⟩

/-- Wrapped at w bits. -/
def wrapped (w : Nat) (x : Int) : VOut := .plain (x % (2 ^ w : Nat)).toNat

/-- Integer elements of an instruction are signed. -/
def VInstr.signed (i : VInstr) : Bool := !i.op.unsigned && decide (i.f ≠ 0xD)

/-- One element of an operation of kind `lane`, a and b of va and vb, c of vc (Tables 05-5, 05-6, 05-11). -/
def VInstr.lane (i : VInstr) (v : FEnv) (a b c : Nat) : VOut :=
  let f := (fmtOf i.f).getD fp32
  let w := i.w
  let sg := i.signed
  let x := intOfBits i.wa sg a
  let y := intOfBits w sg b
  let k := b % w
  let rm := i.rm.toNat
  let tr (op : TOp) : VOut := .ofF (transcend op i.f f v.noDraw a)
  match i.op with
  | .fadd => .ofF (fAdd f v a b)
  | .fsub => .ofF (fSub f v a b)
  | .fmul => .ofF (fMul f v a b)
  | .fmin => .ofF (fMinMax f v false a b)
  | .fmax => .ofF (fMinMax f v true a b)
  | .fsgnj => .plain (fSgnj f a b)
  | .add2 => add2 f v a b
  | .fexp => tr .exp
  | .flog => tr .log
  | .fsin => tr .sin
  | .fcos => tr .cos
  | .frsqrt => tr .rsqrt
  | .frcp => tr .rcp
  | .cvt => .ofF (fConvert f ((fmtOf i.cfmt.toNat).getD fp32) v a)
  | .fma => .ofF (fMadd f v false false a b c)
  | .fms => .ofF (fMadd f v false true a b c)
  | .fnma => .ofF (fMadd f v true false a b c)
  | .fnms => .ofF (fMadd f v true true a b c)
  | .fma2 => fma2 f v a b c
  | .add => wrapped w (x + y)
  | .sub => wrapped w (x - y)
  | .mul => wrapped w (x * y)
  | .mulh => wrapped w (x * y / (2 ^ w : Nat))
  | .mulhu => wrapped w (x * y / (2 ^ w : Nat))
  | .and => .plain (a &&& b)
  | .or => .plain (a ||| b)
  | .xor => .plain (a ^^^ b)
  | .sll => wrapped w (a * 2 ^ k : Nat)
  | .srl => .plain (a / 2 ^ k)
  | .sra => wrapped w (x / (2 ^ k : Nat))
  | .min => wrapped w (min x y)
  | .max => wrapped w (max x y)
  | .minu => wrapped w (min x y)
  | .maxu => wrapped w (max x y)
  | .sadd => saturated w sg (x + y)
  | .saddu => saturated w sg (x + y)
  | .ssub => saturated w sg (x - y)
  | .ssubu => saturated w sg (x - y)
  | .aadd => wrapped w (fixRound rm (x + y) 1)
  | .aaddu => wrapped w (fixRound rm (x + y) 1)
  | .asub => wrapped w (fixRound rm (x - y) 1)
  | .smul => saturated w sg (fixRound rm (x * y) (w - 1))
  | .ssrl => wrapped w (fixRound rm (a : Nat) k)
  | .ssra => wrapped w (fixRound rm x k)
  | .nclip => saturated w sg (fixRound rm x (i.gb.toNat % (2 * w)))
  | .nclipu => saturated w sg (fixRound rm x (i.gb.toNat % (2 * w)))
  | _ => .plain a

/-- One element of a compare: its truth, flags, FL (Table 05-6). -/
def VInstr.compare (i : VInstr) (v : FEnv) (a b : Nat) : Bool × BitVec 5 × Bool :=
  let f := (fmtOf i.f).getD fp32
  let x := intOfBits i.w i.signed a
  let y := intOfBits i.w i.signed b
  match i.op with
  | .fceq => fCompare f v .eq a b
  | .fclt => fCompare f v .lt a b
  | .fcle => fCompare f v .le a b
  | .fcun => fCompare f v .un a b
  | .ceq => (a == b, 0, false)
  | .cne => (a != b, 0, false)
  | .clt => (decide (x < y), 0, false)
  | .cltu => (decide (x < y), 0, false)
  | _ => (decide (x ≤ y), 0, false)

/-! ## Scans and sums (R154 to R156) -/

/-- The format that a scan or sum keeps: FP32 for the 16-bit formats. -/
def VInstr.accFmt (i : VInstr) : Fmt := if i.f = 0 then fp64 else fp32

/-- A scan or a sum. -/
def VInstr.sums (i : VInstr) : Bool := i.op.kind == .scan || i.op.kind == .rsum

/-- The carry that bits [63:0] of f[vb] or g[vb] hold. -/
def VInstr.carryOf (i : VInstr) (x : Nat) : Nat := if i.f = 0 then x else x % 2 ^ 32

/-- The running sum plus one element. -/
def VInstr.sumStep (i : VInstr) (v : FEnv) (c a : Nat) : VOut :=
  if i.int then .plain (((c : Int) + intOfBits i.w i.signed a) % (2 ^ 32 : Nat)).toNat
  else
    let g := i.accFmt
    let v := if i.op = .scan2 then { v with mode := 0 } else v.noDraw
    let x := readF g v c
    let y := readF ((fmtOf i.f).getD fp32) v a
    let r := (addVals g v x.1 y.1).withFl (x.2 || y.2)
    if i.op = .scan2 then pairOut g v r (exactSum x.1.exact y.1.exact) else .ofF r

/-- Two running sums added. -/
def VInstr.sumBoth (i : VInstr) (v : FEnv) (a b : Nat) : VOut :=
  if i.int then .plain ((a + b) % 2 ^ 32) else .ofF (fAdd i.accFmt v.noDraw a b)

/-- What a scan writes of its running sum: the low bits, the sum itself, or its rounding to a 16-bit format. -/
def VInstr.scanOut (i : VInstr) (v : FEnv) (c : Nat) : VOut :=
  if i.int then .plain (c % 2 ^ i.w)
  else if i.f = 2 ∨ i.f = 3 then .ofF (fConvert fp32 ((fmtOf i.f).getD fp32) v c)
  else .plain c

end Sys2Proof.Machine
end

