-- ==== Sys2Proof/Machine/MatrixOps.lean ====
section
/-!
DEFINITION. Tile registers and matrix arrays without memory: tags (R163, R164), geometry (R166, R167, R171), the checks of Tables 06-6
and 07-9, k-rows (R192 to R194, R202, R232), stationary weights (R196, R197), accumulator tiles (R198, R200).
-/

namespace Sys2Proof.Machine

/-! ## Formats of the tile registers (Table 06-2) -/

/-- Element width in registers and memory. -/
def tileW (c : Nat) : Nat := if c = 7 ∨ c = 8 then 8 else widthOf c

/-- Cell size P. -/
def cellP (c : Nat) : Nat := match c with
  | 4 | 5 | 6 | 0xA | 0xD => 2
  | 7 | 8 | 9 => 4
  | _ => 1

/-- MX formats. -/
def isMx (c : Nat) : Bool := decide (6 ≤ c ∧ c ≤ 9)

/-- Cells of a row of `bytes`. -/
def cellsOf (c bytes : Nat) : Nat := bytes * 8 / tileW c / cellP c

/-! ## Tags (Table 06-1) -/

/-- A tag with V = 1. -/
def mkTag (part sc : Bool) (shape : Word) : Word :=
  BitVec.ofNat 32 (2 ^ 31 + bit part * 2 ^ 30 + bit sc * 2 ^ 29 + bitsOf shape.toNat 26 6 * 2 ^ 22
    + bitsOf shape.toNat 24 2 * 2 ^ 20 + shA shape * 2 ^ 16)

def tagV (t : Word) : Bool := t.getLsbD 31
def tagPart (t : Word) : Bool := t.getLsbD 30
def tagSc (t : Word) : Bool := t.getLsbD 29

/-- ROWS of a tag, as a count. -/
def tagRows (t : Word) : Nat := bitsOf t.toNat 22 6 + 1

/-- Row bytes of a tag. -/
def tagBytes (t : Word) : Nat := 16 * 2 ^ bitsOf t.toNat 20 2

/-- FMT of a tag. -/
def tagFmt (t : Word) : Nat := bitsOf t.toNat 16 4

/-- PART set or cleared. -/
def setPart (b : Bool) (t : Word) : Word := if b then t ||| 0x40000000 else t &&& 0xBFFFFFFF

/-- SC := 1. -/
def setSc (t : Word) : Word := t ||| 0x20000000

/-- A tag's shape is (rows, bytes, format). -/
def tagIs (t : Word) (rows bytes fmt : Nat) : Bool :=
  tagV t && tagRows t == rows && tagBytes t == bytes && tagFmt t == fmt

/-! ## Rows -/

/-- Row r of a tile register. -/
def TileReg.row (t : TileReg) (r : Nat) : Row := t.rows.get 0 r

/-- Row r's poison bit. -/
def TileReg.rowPsn (t : TileReg) (r : Nat) : Bool := t.psn.getLsbD r

/-- The va from which row r's poison came, if the row is poisoned. -/
def TileReg.rowFrom (t : TileReg) (r : Nat) : Option DWord := if t.rowPsn r then some (t.psnVa.get 0 r) else none

/-- The va from which the poison of rows 0 to n − 1 came, the lowest row's first. -/
def TileReg.rowsFrom (t : TileReg) (n : Nat) : Option DWord := (indices n).findSome? t.rowFrom

/-- A latch of another register than t. -/
def keepLatch (t : BitVec 3) (l : Option Latch) : Option Latch := l.filter fun x => decide (x.reg ≠ t)

/-- A write of row r, poisoned from the va that `psn` gives or clean: the reuse latches of the register end (R162, R186). -/
def Core.writeRow (k : Core) (t : BitVec 3) (r : Nat) (x : Row) (psn : Option DWord) : Core :=
  let q := k.treg t
  let m : BitVec 64 := BitVec.ofNat 64 (2 ^ r)
  let k := k.setTreg t { q with
    rows := q.rows.set 0 r x
    psn := if psn.isSome then q.psn ||| m else q.psn &&& ~~~m
    psnVa := q.psnVa.set 0 r (psn.getD 0) }
  { k with mat := { k.mat with arrays := k.mat.arrays.mapListed .reset fun _ a =>
      { a with latchA := keepLatch t a.latchA, latchB := keepLatch t a.latchB } } }

/-- Replace the low n bytes of a row. -/
def rowLow (x : Row) (n v : Nat) : Row := BitVec.ofNat 1024 (x.toNat / 2 ^ (8 * n) * 2 ^ (8 * n) + v % 2 ^ (8 * n))

/-- Change the tag of a tile register. -/
def Core.modTag (k : Core) (t : BitVec 3) (f : Word → Word) : Core :=
  let q := k.treg t
  k.setTreg t { q with tag := f q.tag }

/-- Element e of width w of a row. -/
def rowE (w e : Nat) (x : Row) : Nat := bitsOf x.toNat (w * e) w

/-! ## Accumulator tiles (R198, R200) -/

/-- Accumulator tile id of an array. -/
def ArrayState.tile (a : ArrayState) (id : Nat) : AccTile := a.acc.get .reset id

/-- Tile id becomes t. -/
def ArrayState.setTile (a : ArrayState) (id : Nat) (t : AccTile) : ArrayState := { a with acc := a.acc.set .reset id t }

/-- The va from which a tile's poison came, if PSN is set. -/
def AccTile.poisonFrom (t : AccTile) : Option DWord := if t.psn then some t.psnVa else none

/-- Poison from a va enters a tile: PSN is set, and the first va stays (R205). -/
def AccTile.poisoned (t : AccTile) (va : Option DWord) : AccTile :=
  match va with
  | some a => if t.psn then t else { t with psn := true, psnVa := a }
  | none => t

/-- Change tile id of array a of a core. -/
def Core.modAcc (k : Core) (a id : Nat) (f : AccTile → AccTile) : Core :=
  k.setArray a ((k.array a).setTile id (f ((k.array a).tile id)))

/-- Bytes of an accumulator value. -/
def accBytes (fmt : Nat) : Nat := if fmt = 0 then 8 else 4

/-- Granules of a tile (R198). -/
def granules (m n fmt : Nat) (fold : Bool) : Nat := (m * n * accBytes fmt * (if fold then 2 else 1) + 2047) / 2048

/-- Granules that an id owns. -/
def AccTile.gran (t : AccTile) : Nat := if t.active then granules t.m t.n t.fmt.toNat t.fold else 0

/-- Free granules of an array, counting id `but` as released. -/
def ArrayState.freeG (a : ArrayState) (but : Option Nat) : Nat :=
  16 - (a.acc.entries.map fun e => if some e.1 = but then 0 else e.2.gran).sum

/-- Allocate an id anew, every value +0, PART = 1. -/
def newAcc (m n fmt : Nat) (fold : Bool) : AccTile := ⟨true, true, fold, false, 0, m, n, BitVec.ofNat 4 fmt, .empty⟩

/-- The tag that ACCTAG returns (Table 07-8). -/
def accTag (a : ArrayState) (id : Nat) : Word :=
  let t := a.tile id
  BitVec.ofNat 32 (a.freeG none * 2 ^ 4 + if t.active then
    2 ^ 31 + bit t.part * 2 ^ 30 + bit t.fold * 2 ^ 29 + bit t.psn * 2 ^ 28 + t.gran % 32 * 2 ^ 23 + (t.m - 1) % 32 * 2 ^ 18
      + (t.n - 1) % 32 * 2 ^ 13 + t.fmt.toNat * 2 ^ 9
    else 0)

/-- The value of half h, row i, column j. -/
def AccTile.val (t : AccTile) (h i j : Nat) : Nat := (t.vals.get 0 (1024 * h + 32 * i + j)).toNat

/-- Write the value of half h, row i, column j. -/
def AccTile.setVal (t : AccTile) (h i j v : Nat) : AccTile :=
  { t with vals := t.vals.set 0 (1024 * h + 32 * i + j) (BitVec.ofNat 64 v) }

/-! ## Paths (Tables 06-5 and 07-1) -/

/-- The paths of an MMA. -/
inductive Path where
  | fp64 | native | split | half | fp8 | mx2 | mx4 | int
deriving DecidableEq, Repr

/-- The path of a format combination; none where it is unsupported. -/
def pathOf (a b acc pass : Nat) : Option Path :=
  let p0 := pass == 0
  let fp8 (c : Nat) := c == 4 || c == 5
  let mx4 (c : Nat) := decide (7 ≤ c ∧ c ≤ 9)
  let int (c : Nat) := c == 0xA || c == 0xD
  if a = 0 ∧ b = 0 ∧ acc = 0 ∧ p0 then some .fp64
  else if a = 1 ∧ b = 1 ∧ acc = 0 ∧ p0 then some .native
  else if a = 1 ∧ b = 1 ∧ acc = 1 ∧ pass < 3 then some .split
  else if (a = 2 ∧ b = 2 ∨ a = 3 ∧ b = 3) ∧ acc = 1 ∧ p0 then some .half
  else if fp8 a && fp8 b && acc == 1 && p0 then some .fp8
  else if a = 6 ∧ b = 6 ∧ acc = 1 ∧ p0 then some .mx2
  else if mx4 a && mx4 b && acc == 1 && p0 then some .mx4
  else if int a && int b && acc == 0xC && p0 then some .int
  else none

/-- The largest m and n of a path. -/
def Path.side : Path → Nat
  | .fp64 => 8
  | .native => 16
  | _ => 32

/-- The most rows per instruction. -/
def Path.maxRows (p : Path) (bytes : Nat) : Nat := match p with
  | .fp64 => 16
  | .native => 32
  | .split => 32
  | .mx4 => if bytes = 128 then 32 else 64
  | _ => 64

/-- Whether the path folds when n ≤ 16 (R193). -/
def Path.folds (p : Path) (bytes : Nat) : Bool := match p with
  | .half => true
  | .fp8 => true
  | .int => true
  | .mx2 => true
  | .mx4 => decide (bytes ≤ 64)
  | _ => false

/-! ## What an instruction names -/

/-- The arrays of AM. -/
def MInstr.arrays (i : MInstr) : List Nat := (indices 4).filter fun a => i.am.getLsbD a

/-- The A register of array a. -/
def MInstr.ta (i : MInstr) (a : Nat) : BitVec 3 := if a < 2 then i.t else i.t1

/-- The B register of array a. -/
def MInstr.tb (i : MInstr) (a : Nat) : BitVec 3 := if a % 2 = 0 then i.tb0 else i.tb1

/-- Tile memory instructions, major 0x38. -/
def MOp.tileMem : MOp → Bool
  | .tld | .tst | .tldg | .tlds | .tsts | .tzero | .ttag => true
  | _ => false

/-- Instructions that deliver operand rows (R207). -/
def MOp.delivers : MOp → Bool
  | .mma | .mvm | .mvmt | .wload => true
  | _ => false

/-- Instructions of major 0x3B. -/
def MOp.port : MOp → Bool
  | .accrd | .accrdV | .accwr | .accfree | .acctag => true
  | _ => false

/-- The tile registers that an instruction reads. -/
def MInstr.tReads (i : MInstr) : List (BitVec 3) :=
  match i.op with
  | .tst => [i.t]
  | .tsts => [i.t]
  | .tlds => [i.t]
  | .ttag => [i.t]
  | .mma => i.arrays.flatMap fun a => [i.ta a, i.tb a]
  | .mvm => i.arrays.map i.ta
  | .mvmt => i.arrays.map i.ta
  | .wload => [i.t]
  | _ => []

/-- The tile registers that an instruction writes. -/
def MInstr.tWrites (i : MInstr) : List (BitVec 3) :=
  match i.op with
  | .tld => [i.t]
  | .tldg => [i.t]
  | .tlds => [i.t]
  | .tzero => [i.t]
  | .accrd => [i.t]
  | _ => []

/-- The (array, id) pairs that an instruction names. -/
def MInstr.accNames (i : MInstr) : List (Nat × Nat) :=
  match i.op with
  | .mma => i.arrays.map fun a => (a, i.acc.toNat)
  | .mvm => i.arrays.map fun a => (a, i.acc.toNat)
  | .mvmt => i.arrays.map fun a => (a, i.acc.toNat)
  | _ => if i.op.port then [(i.a.toNat, i.acc.toNat)] else []

/-! ## Shapes -/

/-- P of the instruction's A format. -/
def MInstr.p (i : MInstr) : Nat := cellP (shA i.shape)

/-- The path of an MMA. -/
def MInstr.path (i : MInstr) : Option Path := pathOf (shA i.shape) (shB i.shape) (shAcc i.shape) (shPass i.shape)

/-- m of an MMA: the cells of an A row (R171). -/
def MInstr.m (i : MInstr) : Nat := cellsOf (shA i.shape) (shBytes i.shape)

/-- Whether an MMA folds. -/
def MInstr.folded (i : MInstr) : Bool :=
  decide (shN i.shape ≤ 16) && match i.path with
    | some p => p.folds (shBytes i.shape)
    | none => false

/-- m, n, FMT_ACC and FOLD of the accumulator tile that an MMA, MVM, MVMT or ACCWR writes. -/
def MInstr.accShape (i : MInstr) : Nat × Nat × Nat × Bool :=
  match i.op with
  | .mma => (i.m, shN i.shape, shAcc i.shape, i.folded)
  | .accwr => (shRows i.shape, shN i.shape, shAcc i.shape, shTr i.shape)
  | _ => (shRows i.shape, 32, 1, false)

/-- m and n of the tile that an ACCRD reads. -/
def MInstr.readShape (i : MInstr) : Nat × Nat :=
  if shTr i.shape then (shN i.shape, shRows i.shape) else (shRows i.shape, shN i.shape)

/-! ## Checks (Tables 06-6 and 07-9) -/

/-- Codes 0xE and 0xF. -/
def noFmt (c : Nat) : Bool := decide (0xE ≤ c)

/-- ACCRD's output formats (Table 07-10). -/
def accOut (acc out : Nat) : Bool :=
  if acc = 0 ∨ acc = 1 then decide (out ≤ 5) else if acc = 0xC then decide (0xA ≤ out ∧ out ≤ 0xD) else false

/-- Check 2: formats. -/
def MInstr.check2 (i : MInstr) : Bool :=
  let a := shA i.shape
  let acc := shAcc i.shape
  match i.op with
  | .ttag => false
  | .accfree => false
  | .acctag => false
  | .mma => i.path.isNone
  | .tlds => !isMx a
  | .tsts => !isMx a
  | .wload => a != 2 && a != 3
  | .mvm => noFmt a || acc != 1
  | .mvmt => noFmt a || acc != 1
  | .accrd => !accOut acc a
  | .accrdV => !accOut acc a
  | .accwr => a != acc || (a != 0 && a != 1 && a != 0xC)
  | _ => noFmt a

/-- A format does not fill rows of RB bytes, or its scale blocks are not whole. -/
def badFill (c : Nat) (shape : Word) : Bool :=
  shBytes shape * 8 % (tileW c * cellP c) != 0 || (isMx c && shRows shape * cellP c % 32 != 0)

/-- Check 3: whole elements. -/
def MInstr.check3 (i : MInstr) : Bool :=
  match i.op with
  | .mma => badFill (shA i.shape) i.shape || badFill (shB i.shape) i.shape
  | .ttag => false
  | .accfree => false
  | .acctag => false
  | .accrdV => false
  | .accwr => false
  | _ => badFill (shA i.shape) i.shape

/-- The tile of (array, id) is active with exactly this shape. -/
def AccTile.is (t : AccTile) (s : Nat × Nat × Nat × Bool) : Bool :=
  t.active && t.m == s.1 && t.n == s.2.1 && t.fmt.toNat == s.2.2.1 && t.fold == s.2.2.2

/-- Check 4: source tags, weight blocks, accumulator tiles. ROWS-1 and RB of a WLOAD's shape word, and RB of an MVM's or MVMT's, are not
checked: Table 07-5 gives their values and no rule a fault for others (DESIGN CHOICE, notes/assumptions/20.md). -/
def MInstr.check4 (i : MInstr) (k : Core) : Bool :=
  let rows := shRows i.shape
  let bytes := shBytes i.shape
  let a := shA i.shape
  let tag (t : BitVec 3) : Word := (k.treg t).tag
  let accOk : Bool := i.zacc || i.arrays.all fun q => ((k.array q).tile i.acc.toNat).is i.accShape
  let mvm : Bool := !(i.arrays.all fun q => tagIs (tag (i.ta q)) rows 64 a
    && (k.array q).weights.any fun w => w.fmt.toNat == a) || !accOk
  let read : Bool :=
    let t := (k.array i.a.toNat).tile i.acc.toNat
    !(t.active && (t.m, t.n) == i.readShape && t.fmt.toNat == shAcc i.shape)
  match i.op with
  | .tst => !tagIs (tag i.t) rows bytes a
  | .tlds => !tagIs (tag i.t) rows bytes a
  | .tsts => !(tagIs (tag i.t) rows bytes a && tagSc (tag i.t))
  | .mma =>
    let b := shB i.shape
    !(i.arrays.all fun q =>
        let x := tag (i.ta q)
        let y := tag (i.tb q)
        tagIs x rows bytes a && tagIs y (tagRows y) bytes b && (!isMx a || tagSc x) && (!isMx b || tagSc y)) || !accOk
  | .wload => !tagIs (tag i.t) 32 64 a
  | .mvm => mvm
  | .mvmt => mvm
  | .accrd => read
  | .accrdV => read
  | _ => false

/-- Check 5: PART of a source register, or of the accumulator tile. A TLDS that starts again finds the PART that its own first start
set (R165). -/
def MInstr.check5 (i : MInstr) (k : Core) : Bool :=
  let again := i.op == .tlds && i.addrs.isSome
  let src := (i.op != .ttag) && !again && i.tReads.any fun t => tagPart (k.treg t).tag
  let delivering := (i.op == .mma || i.op == .mvm || i.op == .mvmt) && !i.zacc
  let names := delivering || i.op == .accrd || i.op == .accrdV
  src || (names && i.accNames.any fun n => ((k.array n.1).tile n.2).part)

/-- Check 6: A's k and B's k. -/
def MInstr.check6 (i : MInstr) (k : Core) : Bool :=
  i.op == .mma && i.arrays.any fun q => decide (shRows i.shape * i.p ≠ tagRows (k.treg (i.tb q)).tag * cellP (shB i.shape))

/-- Check 7: extents. -/
def MInstr.check7 (i : MInstr) (k : Core) : Bool :=
  let rows := shRows i.shape
  let n := shN i.shape
  let bytes := shBytes i.shape
  let a := shA i.shape
  let beyond := decide (32 < i.v.toNat + i.span.length)
  match i.op with
  | .mma => match i.path with
    | some p => decide (p.side < i.m) || decide (p.side < n) || decide (p.maxRows bytes < rows)
        || i.arrays.any fun q => decide (cellsOf (shB i.shape) (tagBytes (k.treg (i.tb q)).tag) < n)
    | none => false
  | .mvm => decide (n ≠ 32) || decide (32 < rows)
  | .mvmt => decide (n ≠ 32) || decide (32 < rows)
  | .accrd => decide (bytes * 8 < n * tileW a)
  | .accrdV => beyond
  | .accwr => beyond || decide (32 < rows) || decide (32 < n) || (shTr i.shape && (decide (16 < n) || shAcc i.shape == 0))
  | _ => false

/-- Check 8: free granules (R198, R200). -/
def MInstr.check8 (i : MInstr) (k : Core) : Bool :=
  let s := i.accShape
  let need := granules s.1 s.2.1 s.2.2.1 s.2.2.2
  let short (a : Nat) : Bool := decide ((k.array a).freeG (some i.acc.toNat) < need)
  match i.op with
  | .mma => i.zacc && i.arrays.any short
  | .mvm => i.zacc && i.arrays.any short
  | .mvmt => i.zacc && i.arrays.any short
  | .accwr => short i.a.toNat
  | _ => false

/-- The tile shape fault of an instruction, if it has one: the subcode of the first failing check. -/
def MInstr.check (i : MInstr) (k : Core) : Option (BitVec 8) :=
  if i.op = .mma ∧ shPass i.shape = 3 then some 7
  else if i.check2 then some 6
  else if i.check3 then some 2
  else if i.check4 k then some 1
  else if i.check5 k then some 8
  else if i.check6 k then some 4
  else if i.check7 k then some 3
  else if i.check8 k then some 5
  else none

/-! ## Products and sums -/

/-- An exact product; an invalid one is a NaN that signals. -/
def mulTerm (x y : FVal) : FVal :=
  match x, y with
  | .nan s, y => .nan (s || y.signals)
  | x, .nan s => .nan (s || x.signals)
  | .inf a, .inf b => .inf (a != b)
  | .inf a, .fin b m _ => if m = 0 then .nan true else .inf (a != b)
  | .fin a m _, .inf b => if m = 0 then .nan true else .inf (a != b)
  | .fin a m e, .fin b n k => .fin (a != b) (m * n) (e + k)

/-- The exact sum of terms; opposite infinities are invalid. -/
def sumTerms (l : List FVal) : FVal :=
  let infs := l.filterMap fun x => match x with
    | .inf n => some n
    | _ => none
  if l.any FVal.isNan then .nan (l.any FVal.signals)
  else if infs.contains true && infs.contains false then .nan true
  else match infs with
    | n :: _ => .inf n
    | [] =>
      let d := l.foldl (fun (a : Dy) x => a.add x.dy) ⟨0, 0⟩
      if d.num = 0 then .fin (l.all FVal.neg) 0 d.exp else .fin (decide (d.num < 0)) d.num.natAbs d.exp

/-- A finite value rounded to n significand bits, to nearest even; a part that reaches 2^128 keeps its exponent and raises nothing (DESIGN
CHOICE, notes/assumptions/20.md). -/
def roundSig (n : Nat) (x : FVal) : FVal :=
  match x with
  | .fin s m e =>
    if bitLength m ≤ n then x
    else
      let sh := bitLength m - n
      let t := m / 2 ^ sh
      let rem := m % 2 ^ sh
      let half := 2 ^ (sh - 1)
      .fin s (if half < rem ∨ (rem = half ∧ t % 2 = 1) then t + 1 else t) (e + sh)
  | _ => x

/-- x − y of finite values. -/
def subFin (x y : FVal) : FVal :=
  let d := x.dy.add ⟨-y.dy.num, y.dy.exp⟩
  .fin (decide (d.num < 0)) d.num.natAbs d.exp

/-- A part of a split that would be subnormal in FP32, under flushing: FL, UF and NX follow (R219, R232, R234). -/
def flushPart (v : FEnv) (x : FVal) : FVal × Bool :=
  match x with
  | .fin n m e => if v.fz && m != 0 && magGt 1 (-126) m e then (.fin n 0 0, true) else (x, false)
  | _ => (x, false)

/-- The products of a PASS mode on the split path (Table 08-11); infinities and NaNs enter unsplit. -/
def splitTerms (v : FEnv) (pass : Nat) (a b : FVal) : List FVal × Bool :=
  match a, b with
  | .fin _ _ _, .fin _ _ _ =>
    let ha := flushPart v (roundSig 17 a)
    let la := flushPart v (subFin a (roundSig 17 a))
    let hb := flushPart v (roundSig 8 b)
    let lb := flushPart v (roundSig 8 (subFin b (roundSig 8 b)))
    match pass with
    | 0 => ([mulTerm ha.1 hb.1], ha.2 || hb.2)
    | 1 => ([mulTerm ha.1 hb.1, mulTerm ha.1 lb.1], ha.2 || hb.2 || lb.2)
    | _ => ([mulTerm ha.1 hb.1, mulTerm ha.1 lb.1, mulTerm la.1 hb.1], ha.2 || hb.2 || lb.2 || la.2)
  | _, _ => ([mulTerm a b], false)

/-! ## Environments (R199, R224) -/

/-- The rounding mode that RND selects. -/
def MInstr.mode (i : MInstr) : Nat := if shRnd i.shape = 0 then fcsrRm i.fcsr else shRnd i.shape - 1

/-- The environment of MMA, MVM and MVMT: only the FP64 path knows conforming arithmetic; FP64 fast, FP8 and MX are faithful. -/
def MInstr.env (i : MInstr) (service : Bool) : FEnv :=
  let v := ({ envOf i.fcsr service with mode := i.mode } : FEnv).noDraw
  match i.op, i.path with
  | .mma, some .fp64 => { v with faithful := !v.cf }
  | .mma, some .fp8 => { v with cf := false, faithful := true }
  | .mma, some .mx2 => { v with cf := false, faithful := true }
  | .mma, some .mx4 => { v with cf := false, faithful := true }
  | _, _ => { v with cf := false }

/-- The accumulator's format for arithmetic. -/
def accFmt (c : Nat) : Fmt := if c = 0 then fp64 else fp32

/-! ## One k-row of an MMA (R192) -/

/-- The elements of cell c of a row, read as values, and FL. -/
def cellVals (fmt : Nat) (v : FEnv) (x : Row) (c : Nat) : List FVal × Bool :=
  let l := (indices (cellP fmt)).map fun p =>
    readF ((fmtOf fmt).getD fp32) v (rowE (tileW fmt) (c * cellP fmt + p) x % 2 ^ widthOf fmt)
  (l.map Prod.fst, l.any Prod.snd)

/-- The elements of cell c as integers. -/
def cellInts (fmt : Nat) (x : Row) (c : Nat) : List Int :=
  (indices (cellP fmt)).map fun p => intOfBits 8 (fmt == 0xA) (rowE 8 (c * 2 + p) x)

/-- The E8M0 scale byte of cell c for row r (R167, R194). -/
def scaleOf (t : TileReg) (fmt r c : Nat) : Nat := bitsOf (t.scale.get 0 (r * cellP fmt / 32)).toNat (8 * c) 8

/-- s of R192 for cells of A and B: the terms of one k-row, before scaling, and whether a part of a split was flushed. -/
def kTerms (i : MInstr) (v : FEnv) (x y : List FVal) : List FVal × Bool :=
  if i.path = some .split then splitTerms v (shPass i.shape) (x.headD (.fin false 0 0)) (y.headD (.fin false 0 0))
  else (List.zipWith mulTerm x y, false)

/-- A value times a power of two; a NaN scale makes it NaN (R213). -/
def scaled (ea eb : Nat) (x : FVal) : FVal :=
  if ea = 255 ∨ eb = 255 then .nan false
  else match x with
    | .fin n m e => .fin n m (e + ea + eb - 254)
    | _ => x

/-- Add k-row r into one accumulator tile. -/
def kRow (i : MInstr) (v : FEnv) (ta tb : TileReg) (r : Nat) (t : AccTile) : AccTile × BitVec 5 × Bool :=
  let fa := shA i.shape
  let fb := shB i.shape
  let x := ta.row r
  let y := tb.row r
  let h := if t.fold then r % 2 else 0
  let f := accFmt t.fmt.toNat
  let mx := isMx fa
  if i.path = some .int then
    ((indices t.m).foldl (fun (t : AccTile) p => (indices t.n).foldl (fun (t : AccTile) q =>
      let s := (List.zipWith (fun (a b : Int) => a * b) (cellInts fa x p) (cellInts fb y q)).sum
      t.setVal h p q ((((t.val h p q : Nat) : Int) + s) % (2 ^ 32 : Nat)).toNat) t) t, 0, false)
  else
    let as := (indices t.m).map (cellVals fa v x)
    let bs := (indices t.n).map (cellVals fb v y)
    let fl := as.any Prod.snd || bs.any Prod.snd
    (indices t.m).foldl (fun (acc : AccTile × BitVec 5 × Bool) p => (indices t.n).foldl (fun (acc : AccTile × BitVec 5 × Bool) q =>
      let k := kTerms i v (as.getD p ([], false)).1 (bs.getD q ([], false)).1
      let s := sumTerms k.1
      let s := if mx then scaled (scaleOf ta fa r p) (scaleOf tb fb r q) s else s
      let c := readF f v (acc.1.val h p q)
      let o := addVals f v c.1 s
      (acc.1.setVal h p q o.bits, acc.2.1 ||| o.flags ||| (if k.2 then unf ||| nx else 0), acc.2.2 || o.fl || c.2 || k.2)) acc) (t, 0, fl)

/-! ## Stationary weights (R196, R197) -/

/-- Five levels of pairwise sums, each rounded; the first adds exact products. `fuel` bounds the levels. -/
def treeSum (v : FEnv) : (fuel : Nat) → List FVal → BitVec 5 → Bool → FVal × BitVec 5 × Bool
  | 0, l, fl, z => (l.headD (.fin false 0 0), fl, z)
  | fuel + 1, l, fl, z =>
    if l.length ≤ 1 then (l.headD (.fin false 0 0), fl, z)
    else
      let o := (indices (l.length / 2)).map fun k =>
        addVals fp32 v (l.getD (2 * k) (.fin false 0 0)) (l.getD (2 * k + 1) (.fin false 0 0))
      treeSum v fuel (o.map fun r => fp32.decode r.bits) (o.foldl (fun a r => a ||| r.flags) fl) (o.foldl (fun a r => a || r.fl) z)

/-- Add x row r into one accumulator tile, by columns of W (MVM) or rows (MVMT). -/
def xRow (i : MInstr) (v : FEnv) (tx : TileReg) (w : Weights) (r : Nat) (t : AccTile) : AccTile × BitVec 5 × Bool :=
  let f := (fmtOf (shA i.shape)).getD bf16
  let x := (indices 32).map fun q => readF f v (rowE 16 q (tx.row r))
  let wRow (p q : Nat) : FVal × Bool := readF f v (rowE 16 q (w.rows.get 0 p))
  (indices 32).foldl (fun (acc : AccTile × BitVec 5 × Bool) c =>
    let ws := (indices 32).map fun q => if i.op = .mvmt then wRow c q else wRow q c
    let y := treeSum v 5 (List.zipWith (fun (a b : FVal × Bool) => mulTerm a.1 b.1) ws x) 0 false
    let p := readF fp32 v (acc.1.val 0 r c)
    let o := addVals fp32 v p.1 y.1
    (acc.1.setVal 0 r c o.bits, acc.2.1 ||| y.2.1 ||| o.flags,
      acc.2.2 || y.2.2 || o.fl || p.2 || ws.any Prod.snd || x.any Prod.snd)) (t, 0, false)

/-! ## ACCRD's elements (R204, Table 17-6) -/

/-- What an element gives: its bits, flags, FL, and whether flushing made it zero. -/
structure AccOut where
  bits : Nat
  flags : BitVec 5
  fl : Bool
  flushed : Bool
deriving DecidableEq, Repr

/-- The value written for a poisoned tile. -/
def poisonValue (fmt : Nat) : Nat := match fmtOf fmt with
  | some f => f.canonical
  | none => if fmt = 0xD then 255 else 2 ^ (widthOf fmt - 1)

/-- Output element (p, q) of an accumulator tile in a format; v carries the mode and, in mode 6, its slot. In mode 6 the draw rounds the exact
value, as R226 says of the result, and not the value rounded to odd of R204's listing (DESIGN CHOICE, notes/assumptions/20.md). -/
def accElem (t : AccTile) (out : Nat) (v : FEnv) (p q : Nat) : AccOut :=
  let x := t.val 0 p q
  let y := t.val 1 p q
  if t.psn then ⟨poisonValue out, 0, false, false⟩
  else match intOf out with
    | some (w, sg) =>
      let s := if t.fold then (x + y) % 2 ^ 32 else x
      let r := saturateInt w sg v.cf (intOfBits 32 true s)
      ⟨r.1, r.2, false, false⟩
    | none =>
      let f := accFmt t.fmt.toNat
      let o := (fmtOf out).getD fp32
      let a := readF f v x
      let b := readF f v y
      if !t.fold then
        let r := convertVal o v a.1
        ⟨r.bits, r.flags, r.fl || a.2, r.fl || a.2⟩
      else if widthOf out < tileW t.fmt.toNat then
        let s := sumTerms [a.1, b.1]
        let r := match s with
          | .fin n m e => if m = 0 then (⟨o.zero (zeroSign v a.1.neg b.1.neg), 0, false⟩ : FRes) else roundTo o v n m e false
          | s => convertVal o v s
        ⟨r.bits, r.flags, r.fl || a.2 || b.2, r.fl || a.2 || b.2⟩
      else
        let r := addVals f v a.1 b.1
        let c := convertVal o v (f.decode r.bits)
        ⟨c.bits, r.flags ||| c.flags, r.fl || c.fl || a.2 || b.2, r.fl || c.fl || a.2 || b.2⟩

end Sys2Proof.Machine
end

