-- ==== Sys2Proof/Machine/Crypto.lean ====
section
/-!
DEFINITION. The algorithms that the manual takes by name: SHAKE256 (R363, R366, R438), AES-256 with XTS for the stacks (R265) and the AES
key unwrap of REKEY (R344). They stand here as their own standards define them, which the manual does not repeat
(notes/assumptions/4.md).
-/

namespace Sys2Proof.Machine

/-! ## SHAKE256 -/

/-- Rotate a lane left. -/
def rotLane (x : BitVec 64) (n : Nat) : BitVec 64 := x.rotateLeft n

/-- Lane (x, y) of a Keccak state of 25 lanes. -/
def keccakLane (a : List (BitVec 64)) (x y : Nat) : BitVec 64 := a.getD (x % 5 + 5 * (y % 5)) 0

/-- 25 lanes by their coordinates. -/
def keccakBuild (f : Nat → Nat → BitVec 64) : List (BitVec 64) := (List.range 25).map fun i => f (i % 5) (i / 5)

/-- The rotation of lane (x, y) in the step rho, from the walk of FIPS 202: t steps from (1, 0). -/
def keccakRho : (fuel x y t : Nat) → (px py : Nat) → Nat
  | 0, _, _, _, _, _ => 0
  | fuel + 1, x, y, t, px, py =>
    if px = x ∧ py = y then (t + 1) * (t + 2) / 2 % 64 else keccakRho fuel x y (t + 1) py ((2 * px + 3 * py) % 5)

/-- One step of the 8-bit register that makes the round constants. -/
def keccakLfsr (r : Nat) : Nat := if r < 128 then 2 * r else (2 * r) ^^^ 0x171

/-- The register after n steps. -/
def keccakReg : Nat → Nat
  | 0 => 1
  | n + 1 => keccakLfsr (keccakReg n)

/-- The constant of round `round`: bit 2^j − 1 is the register's low bit after j + 7 · round steps. -/
def keccakConst (round : Nat) : BitVec 64 :=
  (List.range 7).foldl (fun (c : BitVec 64) j =>
    if keccakReg (j + 7 * round) % 2 = 1 then c ||| BitVec.ofNat 64 (2 ^ (2 ^ j - 1)) else c) 0

/-- One round of Keccak-f[1600]. -/
def keccakRound (a : List (BitVec 64)) (round : Nat) : List (BitVec 64) :=
  let c := (List.range 5).map fun x => (List.range 5).foldl (fun (v : BitVec 64) y => v ^^^ keccakLane a x y) 0
  let a := keccakBuild fun x y => keccakLane a x y ^^^ c.getD ((x + 4) % 5) 0 ^^^ rotLane (c.getD ((x + 1) % 5) 0) 1
  let b := keccakBuild fun x y =>
    let px := (x + 3 * y) % 5
    rotLane (keccakLane a px x) (keccakRho 24 px x 0 1 0)
  let a := keccakBuild fun x y => keccakLane b x y ^^^ (~~~(keccakLane b (x + 1) y) &&& keccakLane b (x + 2) y)
  keccakBuild fun x y => keccakLane a x y ^^^ (if x = 0 ∧ y = 0 then keccakConst round else 0)

/-- Keccak-f[1600]. -/
def keccakF (a : List (BitVec 64)) : List (BitVec 64) := (List.range 24).foldl keccakRound a

/-- Absorb a padded message in blocks of 136 bytes; `fuel` bounds the blocks. -/
def shakeAbsorb : (fuel : Nat) → List (BitVec 64) → List Byte → List (BitVec 64)
  | 0, a, _ => a
  | fuel + 1, a, m =>
    if m.isEmpty then a
    else
      let block := m.take 136
      let a := (List.range 25).map fun i =>
        a.getD i 0 ^^^ (if i < 17 then BitVec.ofNat 64 (natOfBytes ((block.drop (8 * i)).take 8)) else 0)
      shakeAbsorb fuel (keccakF a) (m.drop 136)

/-- The first n bytes of SHAKE256 of a message, n at most 136. -/
def shake256 (n : Nat) (m : List Byte) : List Byte :=
  let pad := 136 - m.length % 136
  let tail : List Byte := if pad = 1 then [0x9F] else [0x1F] ++ List.replicate (pad - 2) 0 ++ [0x80]
  let a := shakeAbsorb (m.length / 136 + 1) (List.replicate 25 0) (m ++ tail)
  (a.flatMap fun l => bytesOfNat 8 l.toNat).take n

/-! ## AES-256 -/

/-- Multiply by x in GF(2^8). -/
def gfDouble (a : Byte) : Byte := if a.getLsbD 7 then (a <<< 1) ^^^ 0x1B else a <<< 1

/-- Multiply in GF(2^8); `fuel` is 8, the bits of b. -/
def gfMulFrom : (fuel : Nat) → Byte → Byte → Byte
  | 0, _, _ => 0
  | fuel + 1, a, b => (if b.getLsbD 0 then a else 0) ^^^ gfMulFrom fuel (gfDouble a) (b >>> 1)

/-- Multiply in GF(2^8). -/
def gfMul (a b : Byte) : Byte := gfMulFrom 8 a b

/-- The inverse in GF(2^8), 0 for 0: the 254th power. -/
def gfInv (a : Byte) : Byte :=
  let a2 := gfMul a a
  let a4 := gfMul a2 a2
  let a8 := gfMul a4 a4
  let a16 := gfMul a8 a8
  let a32 := gfMul a16 a16
  let a64 := gfMul a32 a32
  let a128 := gfMul a64 a64
  gfMul a128 (gfMul a64 (gfMul a32 (gfMul a16 (gfMul a8 (gfMul a4 a2)))))

/-- The S-box. -/
def aesSub (a : Byte) : Byte :=
  let b := gfInv a
  b ^^^ b.rotateLeft 1 ^^^ b.rotateLeft 2 ^^^ b.rotateLeft 3 ^^^ b.rotateLeft 4 ^^^ 0x63

/-- The inverse S-box. -/
def aesUnsub (a : Byte) : Byte := gfInv (a.rotateLeft 1 ^^^ a.rotateLeft 3 ^^^ a.rotateLeft 6 ^^^ 0x05)

/-- The exclusive or of two byte lists. -/
def xorBytes (a b : List Byte) : List Byte := List.zipWith (fun (x y : Byte) => x ^^^ y) a b

/-- The round constant of the n-th use, n from 1. -/
def aesRcon : Nat → Byte
  | 0 => 0
  | 1 => 1
  | n + 1 => gfDouble (aesRcon n)

/-- Word i of the key schedule, from the words before it. -/
def aesNextWord (w : List (List Byte)) : List Byte :=
  let i := w.length
  let t := w.getD (i - 1) []
  let t := if i % 8 = 0 then xorBytes ((t.drop 1 ++ t.take 1).map aesSub) [aesRcon (i / 8), 0, 0, 0]
    else if i % 8 = 4 then t.map aesSub else t
  xorBytes (w.getD (i - 8) []) t

/-- The 15 round keys of a key of 32 bytes. -/
def aesKeys (key : List Byte) : List (List Byte) :=
  let first := (List.range 8).map fun i => (key.drop (4 * i)).take 4
  let w := (List.range 52).foldl (fun (w : List (List Byte)) _ => w ++ [aesNextWord w]) first
  (List.range 15).map fun r => ((w.drop (4 * r)).take 4).flatten

/-- Rotate row r of the state left by n · r places. -/
def aesShift (n : Nat) (s : List Byte) : List Byte :=
  (List.range 16).map fun i => s.getD ((i % 4) + 4 * ((i / 4 + n * (i % 4)) % 4)) 0

/-- Multiply each column by a circulant matrix of first row m. -/
def aesMix (m : List Byte) (s : List Byte) : List Byte :=
  (List.range 16).map fun i =>
    (List.range 4).foldl (fun (v : Byte) j => v ^^^ gfMul (m.getD ((j + 4 - i % 4) % 4) 0) (s.getD (4 * (i / 4) + j) 0)) 0

/-- Encrypt a block of 16 bytes. -/
def aesEncrypt (key block : List Byte) : List Byte :=
  let k := aesKeys key
  let s := (List.range 13).foldl (fun (s : List Byte) r =>
    xorBytes (aesMix [2, 3, 1, 1] (aesShift 1 (s.map aesSub))) (k.getD (r + 1) [])) (xorBytes block (k.getD 0 []))
  xorBytes (aesShift 1 (s.map aesSub)) (k.getD 14 [])

/-- Decrypt a block of 16 bytes. -/
def aesDecrypt (key block : List Byte) : List Byte :=
  let k := aesKeys key
  let s := (aesShift 3 (xorBytes block (k.getD 14 []))).map aesUnsub
  let s := (List.range 13).foldl (fun (s : List Byte) r =>
    (aesShift 3 (aesMix [14, 11, 13, 9] (xorBytes s (k.getD (13 - r) [])))).map aesUnsub) s
  xorBytes s (k.getD 0 [])

/-! ## XTS of a data unit of four blocks (R265) -/

/-- The tweak of the next block: times x in GF(2^128), least significant byte first. -/
def xtsNext (t : Nat) : Nat := if t < 2 ^ 127 then 2 * t else (2 * t % 2 ^ 128) ^^^ 0x87

/-- Apply `cipher` to the four blocks of a unit under a key pair of 64 bytes and a tweak. -/
def xtsUnit (cipher : List Byte → List Byte → List Byte) (key : List Byte) (tweak : Nat) (unit : List Byte) : List Byte :=
  let t := natOfBytes (aesEncrypt (key.drop 32) (bytesOfNat 16 tweak))
  ((List.range 4).foldl (fun (acc : List Byte × Nat) j =>
    let w := bytesOfNat 16 acc.2
    (acc.1 ++ xorBytes (cipher (key.take 32) (xorBytes ((unit.drop (16 * j)).take 16) w)) w, xtsNext acc.2)) ([], t)).1

/-- The ciphertext of a unit. -/
def xtsEncrypt (key : List Byte) (tweak : Nat) (unit : List Byte) : List Byte := xtsUnit aesEncrypt key tweak unit

/-- The plaintext of a unit. -/
def xtsDecrypt (key : List Byte) (tweak : Nat) (unit : List Byte) : List Byte := xtsUnit aesDecrypt key tweak unit

/-! ## The AES key unwrap (R344) -/

/-- The steps of an unwrap of n 64-bit blocks, t downward: the integrity register and the blocks. -/
def unwrapStep (kek : List Byte) (n : Nat) (a : List Byte × List (List Byte)) (t : Nat) : List Byte × List (List Byte) :=
  let i := (t - 1) % n
  let b := aesDecrypt kek (xorBytes a.1 (bytesOfNat 8 t).reverse ++ a.2.getD i [])
  (b.take 8, a.2.set i (b.drop 8))

/-- Unwrap 72 bytes: the key pair of 64 bytes, none where the integrity check fails. -/
def keyUnwrap (kek wrapped : List Byte) : Option (List Byte) :=
  let blocks := (List.range 8).map fun i => (wrapped.drop (8 * (i + 1))).take 8
  let (a, r) := (List.range 48).foldl (fun s j => unwrapStep kek 8 s (48 - j)) (wrapped.take 8, blocks)
  if a = List.replicate 8 0xA6 then some r.flatten else none

end Sys2Proof.Machine
end

