-- ==== Sys2Proof/Machine/Report.lean ====
section
/-!
DEFINITION. What every part reports: management events (R424), error records (R441 to R447), spare usage and DEGRADED (R454).
-/

namespace Sys2Proof.Machine

/-- The counter runs whenever the module is above STANDBY (R30). -/
def counterRuns (s : State) : Bool := decide (s.mod.state ≠ .off) && decide (s.mod.state ≠ .standby)

/-- UNCERT: the bound of the present discipline state; in HOLDOVER the bound at entry plus 50 a second, saturating (R34, R37). -/
def uncert (s : State) : Nat :=
  match s.time.disc with
  | .unset => 65535
  | .free => 65535
  | .ptp => min s.time.bound 65535
  | .locked => min s.time.bound 65535
  | .holdover => min (s.time.bound + 50 * ((s.time.count - s.time.holdSince).toNat) / 16000000000) 65535

/-- Write a management event record (R424): the log keeps the latest 65,536, newest first. In OFF nothing is powered. -/
def logEvent (source severity : Byte) (code : BitVec 16) (data : List Byte) (s : State) : State :=
  if s.mod.state = .off then s
  else
    let e : EventRec := ⟨if counterRuns s then s.time.count else 0, s.mgmt.logSeq, source, severity, code, s.time.disc.code,
      BitVec.ofNat 16 (uncert s), data⟩
    { s with mgmt := { s.mgmt with log := (e :: s.mgmt.log).take 65536, logSeq := s.mgmt.logSeq + 1 } }

/-- The events of the controller, by the model's own number (notes/assumptions/4.md). -/
def mgmtEvent (severity : Byte) (n : Nat) (s : State) : State := logEvent 0 severity (Config.eventCode n) [] s

/-- SOURCE and SEVERITY of a record's copy in the event log (R446). -/
def logSource (unitKind : Byte) : Byte := if unitKind = 5 then 2 else if unitKind = 2 then 5 else 4

def logSeverity (cls : BitVec 3) : Byte := if cls = 4 then 0 else if cls = 0 then 1 else if cls = 3 then 3 else 2

/-- The copy of a record in the event log (R446): STAMP, CODE and BEAT of the record, its bytes 8-31 and 40-59 as DATA. -/
def logRecord (r : ErrRec) (s : State) : State :=
  let data := bytesOf 4 r.seq ++ bytesOf 1 r.cls ++ [r.unitKind] ++ bytesOf 2 r.code ++ bytesOf 2 r.unit ++ bytesOf 2 r.binding
    ++ bytesOf 4 r.count ++ bytesOf 8 r.addr ++ (r.detail ++ List.replicate 20 0).take 20
  let e : EventRec := ⟨r.stamp, s.mgmt.logSeq, logSource r.unitKind, logSeverity r.cls, r.code, r.disc, r.uncert, data⟩
  { s with mgmt := { s.mgmt with log := (e :: s.mgmt.log).take 65536, logSeq := s.mgmt.logSeq + 1 } }

/-- Form a record: it takes ERR_SEQ, waits for delivery, and crosses to the event log (R446). -/
def formRecord (r : ErrRec) (s : State) : State :=
  let r := { r with seq := s.err.seq }
  logRecord r { s with err := { s.err with seq := s.err.seq + 1, formed := s.err.formed ++ [r] } }

/-- The binding field of a record (Table 17-2). -/
def bindField : Option BindingId → BitVec 16
  | some b => b.setWidth 16
  | none => 0xFFFF

/-- An occurrence falls into a merge window that is still open: the same CODE and UNIT, less than 1 ms after the first (R445). -/
def ErrRec.merges (w r : ErrRec) : Bool :=
  decide (w.code = r.code ∧ w.unit = r.unit) && decide ((r.stamp - w.first).toNat < 16000000)

/-- One occurrence of an error: counted in its class (R447); corrected errors merge in an open window by CODE and UNIT, or open one (R445);
every other forms its record at once. -/
def reportAt (stamp : DWord) (cls : BitVec 3) (unitKind : Byte) (code : BitVec 16) (unit : BitVec 16) (b : Option BindingId)
    (addr : DWord) (detail : List Byte) (s : State) : State :=
  let s := if cls.toNat < 4 then
      { s with err := { s.err with cnt := s.err.cnt.modify 0 cls.toNat (fun v => satAdd v 1) } } else s
  let r : ErrRec := ⟨stamp, 0, cls, unitKind, code, unit, bindField b, 1, addr, stamp, detail, s.time.disc.code,
    BitVec.ofNat 16 (uncert s)⟩
  if cls = 0 then
    if s.err.windows.any (fun w => w.merges r) then
      let absorb (w : ErrRec) : ErrRec := if w.merges r = true then { r with count := satAdd w.count 1, first := w.first } else w
      { s with err := { s.err with windows := s.err.windows.map absorb } }
    else { s with err := { s.err with windows := s.err.windows ++ [r] } }
  else formRecord r s

/-- One occurrence of an error now. -/
def report (cls : BitVec 3) (unitKind : Byte) (code : BitVec 16) (unit : BitVec 16) (b : Option BindingId) (addr : DWord)
    (detail : List Byte) (s : State) : State :=
  reportAt s.time.count cls unitKind code unit b addr detail s

/-- A record that the facility side detects itself: it goes only to the event log (R446, codes 0x0031 and 0x0034). Its class
is counted (R447). -/
def reportFacility (unitKind : Byte) (code : BitVec 16) (unit : BitVec 16) (detail : List Byte) (s : State) : State :=
  let s := { s with err := { s.err with cnt := s.err.cnt.modify 0 3 (fun v => satAdd v 1) } }
  logRecord ⟨s.time.count, 0, 3, unitKind, code, unit, 0xFFFF, 1, 0, s.time.count, detail, s.time.disc.code,
    BitVec.ofNat 16 (uncert s)⟩ s

/-! ## Spares (R454) -/

/-- A logical tile occupies a site. -/
def siteActive (s : State) (x : BitVec 5) : Bool := (indices 16).any fun t => decide (siteOf s (BitVec.ofNat 4 t) = x)

/-- A spare site that no tile has taken. -/
def siteFree (s : State) (x : BitVec 5) : Bool := !siteActive s x && !s.spares.sites.contains x

/-- Spare sites in use: taken by a tile, now or before it failed too. -/
def sparesSites (s : State) : Nat := 2 - bit (siteFree s 16) - bit (siteFree s 17)

/-- Ports whose lane 8 carries a failed lane. -/
def sparesPorts (s : State) : Nat := s.spares.lanes.length

/-- The spare channels of a stack that carry nothing and have not failed, ascending (R450). -/
def StackPort.freeSpares (p : StackPort) : List (BitVec 6) :=
  [32, 33].filter fun x => !p.lost.contains x && !(p.spared.any fun y => y.2 == x)

/-- Stack spare channels in use. -/
def sparesChannels (s : State) : Nat := (s.stk.ports.entries.map fun e => 2 - e.2.freeSpares.length).sum

/-- The arrays whose spare row carries a failed row: one that failed itself while idle carries none. -/
def sparesRows (s : State) : Nat := (s.spares.rows.filter fun r => r.2 != 32).length

/-- A site serves a logical tile that is not retired (R454, class 2). -/
def siteServes (s : State) (x : BitVec 5) : Bool :=
  (indices 16).any fun t => decide (siteOf s (BitVec.ofNat 4 t) = x) && !(s.tile (BitVec.ofNat 4 t)).retired

/-- EXH: bit k for spare class k + 1 exhausted (R454). -/
def exhausted (s : State) : BitVec 6 :=
  BitVec.ofNat 6 (bit (2 ≤ sparesSites s) + 2 * bit (s.spares.cores.any (siteServes s)) + 4 * bit (s.spares.rows ≠ [])
    + 8 * bit (sparesPorts s ≠ 0) + 16 * bit (s.spares.bore ≠ [])
    + 32 * bit (s.stk.ports.entries.any fun e => e.2.freeSpares.isEmpty))

/-- SPARE_USE (Table 17-4). -/
def spareUse (s : State) : Nat :=
  2 ^ 62 * min (sparesSites s) 3 + 2 ^ 56 * (s.spares.cores.length % 32) + 2 ^ 44 * (sparesRows s % 4096)
    + 2 ^ 39 * (sparesPorts s % 32) + 2 ^ 24 * (sparesChannels s % 128) + 2 ^ 16 * (s.spares.bore.length % 256)

/-- Each change of DEGRADED writes a code 0x0042 record (R454). -/
def refreshDegraded (s : State) : State :=
  let d := decide (exhausted s ≠ 0)
  if d = s.err.degraded then s
  else report 4 5 0x0042 0 none 0 [BitVec.ofNat 8 (bit d), (exhausted s).setWidth 8]
    { s with err := { s.err with degraded := d } }

/-- The record of a spare activated (0x0040) or a unit retired (0x0041), with the physical unit of Table 17-8. -/
def spareRecord (code : BitVec 16) (cls : Byte) (unitKind : Byte) (unit : BitVec 16) (b41 b42 b43 : Byte) (s : State) : State :=
  report 4 unitKind code unit none 0 [cls, b41, b42, b43] s

end Sys2Proof.Machine
end

