-- ==== Sys2Proof/Machine/Stack.lean ====
section
/-!
DEFINITION. The Palvan stacks: the decode of a region 0 offset (R262, R263), encryption by unit (R265, R333), poison (R266,
R267).
-/

namespace Sys2Proof.Machine

/-- Where a region 0 offset lies: stack, plot within it, plot offset (R262, R263); none where IL or [47:44] is invalid. -/
def palvanDecode (off : Nat) : Option (Nat × Nat × Nat) :=
  let m := off % 2 ^ 42
  let w := m % 4096
  let place (n first slot j : Nat) : Option (Nat × Nat × Nat) :=
    some (first + (j % n) ^^^ (j / n % n), slot, j / n * 4096 + w)
  if bitsOf off 44 4 ≠ 0 then none
  else match bitsOf off 42 2 with
    | 1 => match place 2 0 (bitsOf m 35 3) (bitsOf m 12 23) with
      | some (x, sl, o) => some (2 * bitsOf m 38 4 + x, sl, o)
      | none => none
    | 2 => match place 8 0 (bitsOf m 37 3) (bitsOf m 12 25) with
      | some (x, sl, o) => some (8 * bitsOf m 40 2 + x, sl, o)
      | none => none
    | 3 => place 32 0 (bitsOf m 39 3) (bitsOf m 12 27)
    | _ => none

/-- A valid region 0 offset (R262). -/
def palvanValid (off : Nat) : Bool := bitsOf off 44 4 == 0 && bitsOf off 42 2 != 0

/-- The byte address in the stacks of a region 0 offset: plot · 2^34 + plot offset, with plot = stack · 8 + slot. -/
def stackAddr (off : Nat) : Nat :=
  match palvanDecode off with
  | some (st, sl, o) => (st * 8 + sl) * 2 ^ 34 + o
  | none => 0

/-- The stack of a byte address in the stacks. -/
def stackOf (a : Nat) : Nat := a / 2 ^ 37

/-- The 64 bytes of a key pair, the key of the data first (IEEE 1619): a fresh key is random, so nothing constrains it (R332). -/
def KeyId.bytes : KeyId → List Byte
  | .fresh n => bytesOf 64 (Config.freshKey n)
  | .unwrapped k => bytesOf 64 k

/-- The ciphertext of unit `u`: the stored bytes under the key that wrote them, and what the memory holds after power-up in a unit
that nothing has written (R467). The tweak is the unit index (R265). -/
def unitCipher (s : State) (u : Nat) : List Byte :=
  match s.stk.wrote.get none u with
  | some k => xtsEncrypt k.bytes u (s.stk.mem.readBytes (64 * u) 64)
  | none => (indices 64).map fun i => Config.lostByte s.stk.era (64 * u + i)

/-- The 64 bytes of the unit at `a` (a multiple of 64) under a key (R265, R333): the stored bytes under the key that wrote them, else
what the ciphertext decrypts to. -/
def unitBytes (s : State) (key : KeyId) (a : Nat) : List Byte :=
  if s.stk.wrote.get none (a / 64) = some key then s.stk.mem.readBytes a 64
  else xtsDecrypt key.bytes (a / 64) (unitCipher s (a / 64))

/-- Where the units of a channel lie: on the spare that carries it, or on the channel itself (R450). -/
def StackPort.carrier (p : StackPort) (ch : BitVec 6) : BitVec 6 := ((p.spared.find? fun x => x.1 == ch).map Prod.snd).getD ch

/-- Whether a unit lies on a channel, or on a spare, that was lost (Table 17-5). -/
def channelLost (s : State) (a : Nat) : Bool :=
  let p := s.stk.ports.get .reset (stackOf a)
  p.lost.contains (p.carrier (BitVec.ofNat 6 (Config.channelOf (a / 64))))

/-! ## Admission (R268, R269) -/

/-- A source of a stack's requests: tiles 0 to 15, then the hub die. -/
abbrev Source := BitVec 5

/-- The hub die as a source: requests of its engines, of a remote module or of the host (R268). -/
def hubSource : Source := 16

/-- The requests that a source of a stack has waiting (R268). -/
def StackPort.waits (p : StackPort) (src : Nat) : Bool := p.queued.get 0 src != 0

/-- The sources of a stack with requests waiting. -/
def StackPort.sources (p : StackPort) : List Nat := (indices 17).filter p.waits

/-- `n` requests of source `src` reach a stack: the queue takes what it has room for, and the source's node holds the rest without
delay to its requests for other stacks (R268). -/
def StackPort.arrive (src n : Nat) (p : StackPort) : StackPort :=
  let all := p.queued.get 0 src + p.atNode.get 0 src + n
  { p with queued := p.queued.set 0 src (min all 256), atNode := p.atNode.set 0 src (all - 256) }

/-- A source's request for one sector at a byte address of the stacks: it joins the source's queue while requests wait there, and is admitted
without a slot else (R268, R269). The bytes come at once all the same (notes/assumptions/43.md). -/
def askStack (src : Source) (a : Nat) (s : State) : State :=
  let p := s.stk.ports.get .reset (stackOf a)
  if p.sources = [] then s
  else { s with stk := { s.stk with ports := s.stk.ports.set .reset (stackOf a) (p.arrive src.toNat 1) } }

/-- Set a unit's poison bit and report a deferred error, code 0x0010; `scrub` for the patrol scrub (R266). A unit already
poisoned reports nothing. -/
def poisonUnit (a : Nat) (pa : DWord) (b : Option BindingId) (scrub : Bool) (s : State) : State :=
  if s.stk.psn.get false (a / 64) then s
  else report 1 2 0x0010 (BitVec.ofNat 16 (stackOf a)) b pa [BitVec.ofNat 8 (bit scrub)]
    { s with stk := { s.stk with psn := s.stk.psn.set false (a / 64) true } }

/-- The physical address of a region 0 offset of this module (R277). -/
def localPa (s : State) (off : Nat) : DWord := BitVec.ofNat 64 (s.mgmt.mid.toNat * 2 ^ 52 + off % 2 ^ 48)

/-- The binding that holds a plot. -/
def plotHolder (s : State) (plot : Nat) : Option Binding :=
  (s.binds.entries.find? fun e => decide (e.2.state ≠ .free) && e.2.plots.getLsbD plot).map Prod.snd

/-- The region 0 offset of a byte address in the stacks under the interleave form of the binding that holds its plot, NEAR where none
does (R263). -/
def offsetOf (s : State) (a : Nat) : Nat :=
  let st := a / 2 ^ 37
  let sl := a / 2 ^ 34 % 8
  let o := a % 2 ^ 34
  let k := o / 4096
  let il := match plotHolder s (a / 2 ^ 34) with
    | some b => b.il.toNat
    | none => 1
  let j (n : Nat) : Nat := k * n + ((st % n) ^^^ (k % n))
  match il with
  | 2 => 2 * 2 ^ 42 + st / 8 * 2 ^ 40 + sl * 2 ^ 37 + j 8 * 4096 + o % 4096
  | 3 => 3 * 2 ^ 42 + sl * 2 ^ 39 + j 32 * 4096 + o % 4096
  | _ => 2 ^ 42 + st / 2 * 2 ^ 38 + sl * 2 ^ 35 + j 2 * 4096 + o % 4096

/-- Read the unit that holds region 0 offset `off` (a multiple of 64) under a key slot, for a source and for a binding or none. -/
def readUnit (src : Source) (off : Nat) (slot : SlotId) (b : Option BindingId) (s : State) : List PByte × State :=
  let a := stackAddr off
  let s := askStack src a s
  let s := if channelLost s a then poisonUnit a (localPa s off) b false s else s
  let s := perfCount 0x10 (stackOf a) b 1 s
  (marked (s.stk.psn.get false (a / 64)) (unitBytes s (s.keyOf slot) a), s)

/-- Store the masked bytes of a unit under a key: a whole unit replaces poison by its own marking, a part leaves a poisoned unit
poisoned and poisons it if it carries a marking (R267). -/
def storeUnit (a : Nat) (key : KeyId) (mask : BitVec 64) (data : List Byte) (psn : Bool) (s : State) : State :=
  let old := unitBytes s key a
  let full := decide (mask = BitVec.allOnes 64)
  let bytes := (indices 64).map fun i => if mask.getLsbD i then data.getD i 0 else old.getD i 0
  let p := if full then psn else s.stk.psn.get false (a / 64) || psn
  { s with stk := { s.stk with
      mem := s.stk.mem.writeBytes a bytes
      wrote := s.stk.wrote.set none (a / 64) (some key)
      psn := s.stk.psn.set false (a / 64) p } }

/-- Write masked bytes of the unit at region 0 offset `off` (a multiple of 64) under a key slot, for a source. A write with no byte does
nothing. -/
def writeUnit (src : Source) (off : Nat) (slot : SlotId) (b : Option BindingId) (mask : BitVec 64) (data : List Byte) (psn : Bool)
    (s : State) : State :=
  if mask = 0 then s
  else
    let a := stackAddr off
    perfCount 0x11 (stackOf a) b 1 (storeUnit a (s.keyOf slot) mask data psn (askStack src a s))

/-! ## Pieces of a range -/

/-- The pieces of [a, a + len) at multiples of `blk`: first address and length of each, ascending. `fuel` bounds their number. -/
def pieces (blk : Nat) : (fuel a len : Nat) → List (Nat × Nat)
  | 0, _, _ => []
  | f + 1, a, len =>
    if len = 0 then []
    else
      let n := min len (blk - a % blk)
      (a, n) :: pieces blk f (a + n) (len - n)

/-- The pieces of a range in 64-byte units. -/
def unitPieces (a len : Nat) : List (Nat × Nat) := pieces 64 (len / 64 + 2) a len

/-- The mask of bytes [o, o + n) of a unit. -/
def maskOf (o n : Nat) : BitVec 64 := BitVec.ofNat 64 ((2 ^ n - 1) * 2 ^ o)

/-- A unit's bytes with `l` placed from byte `o`. -/
def placeAt (o : Nat) (l : List Byte) : List Byte := List.replicate o 0 ++ l ++ List.replicate (64 - o - l.length) 0

/-- Read `len` bytes from a region 0 offset directly at the stacks. -/
def palvanRead (src : Source) (off len : Nat) (slot : SlotId) (b : Option BindingId) (s : State) : List PByte × State :=
  (unitPieces off len).foldl (fun (acc : List PByte × State) p =>
    let (u, s) := readUnit src (p.1 / 64 * 64) slot b acc.2
    (acc.1 ++ (u.drop (p.1 % 64)).take p.2, s)) ([], s)

/-- Write bytes from a region 0 offset directly at the stacks; a unit is marked if one of its bytes is. -/
def palvanWrite (src : Source) (off : Nat) (l : List PByte) (slot : SlotId) (b : Option BindingId) (s : State) : State :=
  (unitPieces off l.length).foldl (fun s p =>
    let part := (l.drop (p.1 - off)).take p.2
    writeUnit src (p.1 / 64 * 64) slot b (maskOf (p.1 % 64) p.2) (placeAt (p.1 % 64) (plain part)) (anyPsn part) s) s

end Sys2Proof.Machine
end

