-- ==== Sys2Proof/Machine/Link.lean ====
section
/-!
DEFINITION. Sending over the Sutrum links and to the host: packets (R379), routes (R381 to R383), requests and their retirement
(R286, R386).
-/

namespace Sys2Proof.Machine

/-- The SIZE code of a payload of n bytes (Table 14-2). -/
def sizeCode (n : Nat) : BitVec 3 := if n = 0 then 0 else if n ≤ 64 then 1 else if n ≤ 128 then 2 else if n ≤ 256 then 3 else 4

/-- The payload bytes that a SIZE code names; 0 for the reserved codes. -/
def sizeBytes (c : BitVec 3) : Nat := match c.toNat with
  | 1 => 64
  | 2 => 128
  | 3 => 256
  | 4 => 512
  | _ => 0

/-- The ports of a route that are UP, ascending (R382). The entry of the module's own id is never used (R381). -/
def upPorts (s : State) (m : ModuleId) : List (BitVec 5) :=
  let r := s.links.routes.get .reset m.toNat
  if !r.v || decide (m = s.mgmt.mid) then []
  else ((indices 18).filter fun i => r.ports.getLsbD i && decide ((s.port (BitVec.ofNat 5 i)).state = .up)).map (BitVec.ofNat 5)

/-- The port of rank (PA[47:9] mod n) among the UP ports of a route (R382); none where no port is UP. -/
def routePort (s : State) (m : ModuleId) (addr : Nat) : Option (BitVec 5) :=
  let l := upPorts s m
  l[bitsOf addr 9 39 % l.length]?

/-- A packet of the request channel (Table 14-3). -/
def isRequest (t : PacketType) : Bool := match t with
  | .rd => true
  | .wr => true
  | .colOpen => true
  | .colData => true
  | _ => false

/-! ## Slots (R380, R385) -/

/-- The place of a class in the round robin: bindings, then the forwarded traffic; the responses stand apart. -/
def SlotClass.num : SlotClass → Nat
  | .binding b => b.toNat
  | .forwarded => 64
  | .response => 65

/-- The class of a packet, sent for a binding or none (R385). A request of this module for no binding goes with the forwarded traffic
(notes/assumptions/46.md). -/
def classOf (s : State) (p : Packet) (b : Option BindingId) : SlotClass :=
  if !isRequest p.type then .response
  else match (if p.src = s.mgmt.mid then b else none) with
    | some b => .binding b
    | none => .forwarded

/-- A waiting packet may go: its channel has a credit, so that a response never waits behind a request, and the replay buffer keeps it
(R380). -/
def Port.mayGo (p : Port) (x : Slot) : Bool :=
  decide (p.replay.length < 512) && (if isRequest x.pkt.type then decide (0 < p.reqCredit) else decide (0 < p.rspCredit))

/-- The binding that holds a port (R325). -/
def holderOf (s : State) (i : BitVec 5) : Option Nat :=
  (s.binds.entries.find? fun e => e.2.ports.getLsbD i.toNat).map Prod.fst

/-- The next of some classes after class `rr`, in order of number and wrapping. -/
def nextClass (rr : Nat) (l : List Nat) : Option Nat := ((indices 65).map fun i => (rr + 1 + i) % 65).find? fun n => l.contains n

/-- The class that has the next slot of a port (R385): the responses first; a holder has 7 of every 8 slots while others wait too; the
round robin else. -/
def Port.pick (holder : Option Nat) (p : Port) : Option Nat :=
  let ready := (p.waiting.filter p.mayGo).map fun x => x.cls.num
  if ready.contains 65 then some 65
  else
    let others := ready.filter fun n => decide (some n ≠ holder)
    match holder with
    | some h =>
      if !ready.contains h then nextClass p.rr ready
      else if others.isEmpty || decide (p.share < 7) then some h
      else nextClass p.rr others
    | none => nextClass p.rr ready

/-- The round robin and the holder's share after a slot of class n. -/
def Port.turn (holder : Option Nat) (n : Nat) (p : Port) : Port :=
  let ready := (p.waiting.filter p.mayGo).map fun x => x.cls.num
  let both := (match holder with
    | some h => ready.contains h
    | none => false) && ready.any fun m => decide (m ≠ 65 ∧ some m ≠ holder)
  if n = 65 then p
  else if some n = holder then { p with share := if both then p.share + 1 else p.share }
  else { p with rr := n, share := if both then 0 else p.share }

/-- Put a packet on a port: it takes the next LSEQ and a credit of its channel, acknowledges what has come, and stays in the replay buffer
until it is acknowledged (R380). -/
def putOn (i : BitVec 5) (x : Slot) (s : State) : State :=
  let q := s.port i
  let p := { x.pkt with lseq := q.txSeq, ack := q.rxSeq - 1 }
  let req := isRequest p.type
  perfCount 0x20 i.toNat x.binding p.payload.length
    (emit (.packet i p) (s.setPort i { q with
      txSeq := q.txSeq + 1
      replay := q.replay ++ [p]
      reqCredit := if req then q.reqCredit - 1 else q.reqCredit
      rspCredit := if req then q.rspCredit else q.rspCredit - 1 }))

/-- One slot of a port. -/
def slotStep (i : BitVec 5) (s : State) : State :=
  let q := s.port i
  let h := holderOf s i
  match q.pick h with
  | none => s
  | some n => match q.waiting.find? fun x => x.cls.num == n with
    | some x => putOn i x (s.setPort i { q.turn h n with waiting := q.waiting.eraseP fun y => y.cls.num == n })
    | none => s

/-- A port in UP fills its slots while packets wait that may go. -/
def pumpPort (i : BitVec 5) (s : State) : State :=
  if (s.port i).state = .up then (indices (s.port i).waiting.length).foldl (fun s _ => slotStep i s) s else s

/-- Send a packet over a port: it waits for a slot. -/
def sendOn (i : BitVec 5) (p : Packet) (b : Option BindingId) (s : State) : State :=
  pumpPort i (s.modPort i fun q => { q with waiting := q.waiting ++ [⟨classOf s p b, p, b⟩] })

/-- A packet that a route hold holds back: a request, of this module or forwarded (R383). -/
def heldBack (s : State) (p : Packet) : Bool := s.links.holdIds.contains p.dst && isRequest p.type

/-- Where a packet went: onto a port, into the route hold (R383), or nowhere because no port of its route is UP. -/
inductive Sent where
  | port (i : BitVec 5)
  | held
  | nowhere
deriving DecidableEq, Repr

/-- Send a packet toward its DST. -/
def sendPacket (p : Packet) (b : Option BindingId) (s : State) : Sent × State :=
  if heldBack s p then (.held, { s with links := { s.links with held := s.links.held ++ [p] } })
  else
    match routePort s p.dst p.addr.toNat with
    | some i => (.port i, sendOn i p b s)
    | none => (.nowhere, s)

/-- Requests that wait for a route or for a slot of a port, and that are sent no more (R386, R393). -/
def withdraw (mine : Packet → Bool) (s : State) : State :=
  let gone (p : Packet) : Bool := isRequest p.type && mine p
  { s with links := { s.links with
      held := s.links.held.filter fun p => !gone p
      ports := s.links.ports.mapListed .reset fun _ w => { w with waiting := w.waiting.filter fun x => !gone x.pkt } } }

/-- The port that carries a request, where one does. -/
def Sent.carrier : Sent → Option (BitVec 5)
  | .port i => some i
  | _ => none

/-- The response to a request packet (Tables 14-2, 14-3), in the name of the module that the request is for: a requester knows a transfer by
that module and TID (notes/assumptions/28.md). A COL_NAK carries the contributor and the TAG. -/
def respond (t : PacketType) (req : Packet) (payload : List Byte) (psn : Bool) (s : State) : State :=
  let p : Packet :=
    { type := t
      size := sizeCode payload.length
      psn := psn
      hops := 0
      dst := req.src
      src := req.dst
      key := if t = .colNak then req.key else 0
      tid := req.tid
      lseq := 0
      tag := if t = .colNak then req.tag else 0
      addr := 0
      mask := BitVec.allOnes 64
      payload := payload
      ack := 0 }
  (sendPacket p none s).2

/-- An error fatal to a binding sets bit b of ERR_BIND (R442). -/
def markErrBind (b : Option BindingId) (s : State) : State :=
  match b with
  | some b => { s with err := { s.err with bind := s.err.bind ||| BitVec.ofNat 64 (2 ^ b.toNat) } }
  | none => s

/-- The job behind a bulk request, if a descriptor makes it. -/
def Who.descriptor : Who → Option (RingId × Nat)
  | .job r i => some (r, i)
  | .record r i => some (r, i)
  | .update r i _ => some (r, i)
  | _ => none

/-- The core behind a bulk request, if one makes it. -/
def Who.core : Who → Option CoreId
  | .scalar c => some c
  | .vector c => some c
  | .matrix c => some c
  | .mbuf c => some c
  | _ => none

/-- Bytes of a transfer that are sent and not performed: their write retired as an error (R386). -/
def loseBytes (who : Who) (n : Nat) (s : State) : State :=
  match who with
  | .job r i => s.modJob r i fun j => { j with lost := j.lost + n }
  | _ => s

/-- A request of a descriptor's engine retires as an error: code 0x0021, and the descriptor will complete HW_ERROR (R386, R442). -/
def engineError (who : Who) (b : Option BindingId) (pa : DWord) (s : State) : State :=
  match who.descriptor with
  | none => s
  | some (r, i) =>
    let tag := match s.desc r i with | some d => bytesOf 4 d.tag | none => []
    let unit : Byte × BitVec 16 := match who with | .update _ _ t => (1, t.setWidth 16) | _ => (5, 0)
    markErrBind b (report 2 unit.1 0x0021 unit.2 b pa tag (s.modJob r i fun j => { j with err := true }))

/-- A link read that retires as an error: code 0x0013 naming the port that carried it, or 0xFFFF (R386). -/
def linkReadError (port : Option (BitVec 5)) (b : Option BindingId) (pa : DWord) (s : State) : State :=
  let u : BitVec 16 := match port with | some i => i.setWidth 16 | none => 0xFFFF
  report 1 4 0x0013 u b pa (bytesOf 2 u) s

/-- Register an outstanding request, its number and the translation it used. -/
def addReq (who : Who) (b : Option BindingId) (pa : DWord) (len : Nat) (write : Bool) (port : Option (BitVec 5)) (tid : BitVec 16)
    (data : Option (List PByte)) (leaf : Option Leaf) (s : State) : State :=
  { s with hub := { s.hub with
      reqs := s.hub.reqs ++ [⟨s.hub.nextReq, who, b, pa, len, write, port, tid, data, leaf⟩]
      nextReq := s.hub.nextReq + 1 } }

/-- The next transfer id toward a module (R379). -/
def takeTid (m : ModuleId) (s : State) : BitVec 16 × State :=
  let t := s.hub.nextTid.get 0 m.toNat
  (t, { s with hub := { s.hub with nextTid := s.hub.nextTid.set 0 m.toNat (t + 1) } })

/-- The module id of a physical address (R277). -/
def paModule (pa : DWord) : ModuleId := BitVec.ofNat 12 (pa.toNat / 2 ^ 52)

/-- The region of a physical address (R277). -/
def paRegion (pa : DWord) : Nat := bitsOf pa.toNat 48 4

/-- The offset of a physical address (R277). -/
def paOffset (pa : DWord) : Nat := pa.toNat % 2 ^ 48

/-- Ask a remote module for `len` bytes (64, 128, 256 or 512) at a physical address (R276). With no UP port the read retires at
once as an error with zero bytes marked poisoned (R386). -/
def sendRead (who : Who) (b : Option BindingId) (pa : DWord) (len : Nat) (v : Via) (s : State) : State :=
  let (tid, s) := takeTid (paModule pa) s
  let p : Packet := ⟨.rd, sizeCode len, false, 0, paModule pa, s.mgmt.mid, v.key, tid, 0, 0, BitVec.ofNat 64 (paOffset pa),
    BitVec.allOnes 64, [], 0⟩
  match sendPacket p b s with
  | (.port i, s) => addReq who b pa len false (some i) tid none v.leaf s
  | (.held, s) => addReq who b pa len false none tid none v.leaf s
  | (.nowhere, s) => addReq who b pa len false none tid (some (List.replicate len (0, true))) v.leaf
      (engineError who b pa (linkReadError none b pa s))

/-- Write to a remote module: whole units, or part of one unit by its mask (R379). With no UP port the write retires at once as
an error (R386). -/
def sendWrite (who : Who) (b : Option BindingId) (pa : DWord) (mask : BitVec 64) (data : List Byte) (psn : Bool) (v : Via)
    (s : State) : State :=
  let (tid, s) := takeTid (paModule pa) s
  let p : Packet := ⟨.wr, sizeCode data.length, psn, 0, paModule pa, s.mgmt.mid, v.key, tid, 0, 0,
    BitVec.ofNat 64 (paOffset pa), mask, data, 0⟩
  match sendPacket p b s with
  | (.port i, s) => addReq who b pa data.length true (some i) tid none v.leaf s
  | (.held, s) => addReq who b pa data.length true none tid none v.leaf s
  | (.nowhere, s) => engineError who b pa (loseBytes who data.length s)

/-- The reads of host memory that have not retired, oldest first. -/
def hostReads (s : State) : List Req := s.hub.reqs.filter fun q => decide (paRegion q.pa = 1) && !q.write && q.data.isNone

/-- Those that the PCIe function has sent: 768 non-posted requests may be outstanding (Table 11-1), and the others wait in order. -/
def sentReads (s : State) : List Req := (hostReads s).take 768

/-- A read goes to the host. -/
def emitRead (q : Req) (s : State) : State :=
  perfCount 0x32 0 q.binding q.len (emit (.hostRead q.id (BitVec.ofNat 64 (paOffset q.pa)) q.len) s)

/-- Ask the host for bytes (R94, R277): at once where fewer than 768 reads are outstanding, else as older ones retire (R296). -/
def sendHostRead (who : Who) (b : Option BindingId) (pa : DWord) (len : Nat) (v : Via) (s : State) : State :=
  let t := addReq who b pa len false none 0 none v.leaf s
  if (hostReads s).length < 768 then emitRead ⟨s.hub.nextReq, who, b, pa, len, false, none, 0, none, v.leaf⟩ t else t

/-- The reads that waited in `s` are sent as far as reads before them have retired in `t` (R296). -/
def sendWaiting (s t : State) : State :=
  let sent := (sentReads s).map Req.id
  ((sentReads t).filter fun q => decide (q.id < s.hub.nextReq) && !sent.contains q.id).foldl (fun t q => emitRead q t) t

/-- The binding of a descriptor-made request for code 0x0015. -/
def hostPoison (b : Option BindingId) (addr : DWord) (s : State) : State := report 1 6 0x0015 0 b addr [] s

/-- Write bytes to host memory; poisoned bytes go as a poisoned TLP with a code 0x0015 record (R449). -/
def hostWrite (b : Option BindingId) (addr : DWord) (l : List PByte) (s : State) : State :=
  if l.isEmpty then s
  else
    let s := if anyPsn l then hostPoison b addr s else s
    perfCount 0x33 0 b l.length (emit (.hostWrite addr (plain l) (anyPsn l)) s)

/-- Requests of one maker that have not retired. -/
def outstanding (s : State) (who : Who) : Bool := s.hub.reqs.any fun q => decide (q.who = who) && q.data.isNone

/-- Whether a write of one maker has yet to be performed. -/
def writing (s : State) (who : Who) : Bool := s.hub.reqs.any fun q => decide (q.who = who) && q.write

/-- Whether a write-back of a tile's evictions has yet to be performed. -/
def evicting (s : State) (t : TileId) : Bool := s.hub.reqs.any fun q => match q.who with
  | .evict u _ => decide (u = t)
  | _ => false

/-- The bytes of a read of one maker that has returned. -/
def returned (s : State) (who : Who) (pa : DWord) (len : Nat) : Option (List PByte) :=
  match s.hub.reqs.find? fun q => decide (q.who = who ∧ q.pa = pa ∧ q.len = len ∧ q.write = false) with
  | some q => q.data
  | none => none

/-- Whether a read of one maker is on its way or here. -/
def asked (s : State) (who : Who) (pa : DWord) (len : Nat) : Bool :=
  s.hub.reqs.any fun q => decide (q.who = who ∧ q.pa = pa ∧ q.len = len ∧ q.write = false)

/-- Take the reads of one maker that have returned and lie in one of its accesses, each a va and a length: they have retired (R286). -/
def takeReads (who : Who) (l : List (Nat × Nat)) (s : State) : State :=
  let mine (q : Req) : Bool := decide (q.who = who) && q.data.isSome && match q.leaf with
    | some x =>
      let va := x.va + (q.pa.toNat - x.pa)
      l.any fun a => decide (va < a.1 + a.2 ∧ a.1 < va + q.len)
    | none => true
  { s with hub := { s.hub with reqs := s.hub.reqs.filter fun q => !mine q } }

/-- A maker's reads are abandoned: what has returned goes, what is on its way is nobody's, and the fills of its tile go on for nobody
(R119). -/
def forgetReads (who : Who) (s : State) : State :=
  let s := { s with hub := { s.hub with
    reqs := (s.hub.reqs.filter fun q => !(decide (q.who = who ∧ q.write = false) && q.data.isSome)).map fun q =>
      if q.who = who ∧ q.write = false then { q with who := .nobody } else q } }
  match who.core with
  | some c =>
    if (s.tile (tileOf c)).fills.any fun f => f.users.any fun u => decide (u.1 = who) then
      s.modTile (tileOf c) fun q => { q with
        fills := q.fills.map fun f => { f with users := f.users.map fun u => if u.1 = who then (.nobody, u.2) else u } }
    else s
  | none => s

/-- Forget the reads of one maker that have returned. -/
def dropReturned (who : Who) (s : State) : State :=
  { s with hub := { s.hub with reqs := s.hub.reqs.filter fun q => !(decide (q.who = who) && q.data.isSome) } }

end Sys2Proof.Machine
end

