-- ==== Sys2Proof/Machine/Cache.lean ====
section
/-!
DEFINITION. The stores between a core and its targets: data local store (R242, R243), L1D (R244, R245), tile L2 (R246, R251 to
R254), and the access of a target by physical address (R255 to R257, R277).
-/

namespace Sys2Proof.Machine

/-! ## Reservations (R83) -/

/-- Clear the reservations that a write to granules [lo, hi] of a core's data local store ends; `own` is the writing thread. -/
def Core.clearResv (k : Core) (lo hi : Nat) (own : Option ThreadId) : Core :=
  { k with threads := k.threads.mapListed .reset fun t th =>
      match th.resv with
      | some r => if !r.l2 && decide (lo ≤ r.granule ∧ r.granule ≤ hi) && decide (own.map BitVec.toNat ≠ some t) then
          { th with resv := none } else th
      | none => th }

/-- Clear the reservations that a write to a line through a tile's L2, its eviction or L2INV ends; `own` is the core whose
h0 writes. -/
def clearL2Resv (t : TileId) (line : Nat) (own : Option CoreId) (s : State) : State :=
  { s with cores := s.cores.mapListed .reset fun c k =>
      if c / 32 = t.toNat ∧ own.map BitVec.toNat ≠ some c then
        { k with threads := k.threads.mapListed .reset fun _ th =>
            match th.resv with
            | some r => if r.l2 && decide (r.granule = line) then { th with resv := none } else th
            | none => th }
      else k }

/-! ## The data local store (R242) -/

/-- Bytes of a data local store with the markings of their 64-bit words. -/
def Core.dlsRead (k : Core) (a n : Nat) : List PByte :=
  (indices n).map fun i => (k.mem.dls.read (a + i), k.mem.dlsPoison.get false ((a + i) / 8))

/-- Write bytes: a whole 64-bit word takes the write's marking, a part leaves the word's and adds its own (R242, R243); the
reservations on its granules end (R83). -/
def Core.dlsWrite (k : Core) (a : Nat) (l : List PByte) (own : Option ThreadId) : Core :=
  if l.isEmpty then k
  else
    let n := l.length
    let words := indices ((a + n - 1) / 8 - a / 8 + 1)
    let p := words.foldl (fun t i =>
      let w := a / 8 + i
      let mine := anyPsn ((indices 8).filterMap fun j => if a ≤ 8 * w + j then l[8 * w + j - a]? else none)
      let whole := decide (a ≤ 8 * w ∧ 8 * w + 8 ≤ a + n)
      t.set false w (if whole then mine else t.get false w || mine)) k.mem.dlsPoison
    { k with mem := { k.mem with dls := k.mem.dls.writeBytes a (plain l), dlsPoison := p } }.clearResv (a / 64)
      ((a + n - 1) / 64) own

/-- Write bytes of a core's data local store. -/
def dlsWrite (c : CoreId) (a : Nat) (l : List PByte) (own : Option ThreadId) (s : State) : State :=
  s.modCore c fun k => k.dlsWrite a l own

/-! ## The L1D (R244, R245) -/

/-- The L1D's line of a number, if it holds it. -/
def Core.l1Find (k : Core) (line : Nat) : Option L1Line := k.mem.l1d.find? fun e => decide (e.line = line)

/-- Put a line in front, where the most recently used stands; the set's least recently used of four goes (R244). -/
def l1Insert (e : L1Line) (l : List L1Line) : List L1Line :=
  let rest := l.filter fun x => decide (x.line ≠ e.line)
  let same := rest.filter fun x => decide (Config.l1Set x.line % 256 = Config.l1Set e.line % 256)
  match same[3]? with
  | some v => e :: rest.filter fun x => decide (x.line ≠ v.line)
  | none => e :: rest

/-- Drop a line. -/
def l1Drop (line : Nat) (l : List L1Line) : List L1Line := l.filter fun x => decide (x.line ≠ line)

/-- Bytes of a 512-bit line. -/
def lineBytes (d : BitVec 512) : List Byte := bytesOf 64 d

/-- A 512-bit line of 64 bytes. -/
def lineOf (l : List Byte) : BitVec 512 := BitVec.ofNat 512 (natOfBytes l)

/-- A line with the masked bytes replaced. -/
def mergeBytes (mask : BitVec 64) (old new : List Byte) : List Byte :=
  (indices 64).map fun i => if mask.getLsbD i then new.getD i 0 else old.getD i 0

/-- A store with its marking updates the bytes of a line that the L1D holds (R245): a whole line takes the marking, a part leaves the
line's and adds its own (R267, R448). Its place in the order of use stays (DESIGN CHOICE, notes/assumptions/17.md). -/
def Core.l1Store (k : Core) (line : Nat) (mask : BitVec 64) (data : List Byte) (psn : Bool) : Core :=
  { k with mem := { k.mem with l1d := k.mem.l1d.map fun e =>
      if e.line = line then { e with
        data := lineOf (mergeBytes mask (lineBytes e.data) data)
        psn := if mask = BitVec.allOnes 64 then psn else e.psn || psn } else e } }

/-- Invalidate a line in the L1Ds of a tile that its presence record names, but the writing core's (R246). -/
def l1InvalidateTile (t : TileId) (line : Nat) (sharers : BitVec 32) (own : Option CoreId) (s : State) : State :=
  { s with cores := s.cores.mapListed .reset fun c k =>
      if c / 32 = t.toNat ∧ sharers.getLsbD (c % 32) ∧ own.map BitVec.toNat ≠ some c then
        { k with mem := { k.mem with l1d := l1Drop line k.mem.l1d } }
      else k }

/-! ## Targets by physical address -/

/-- Whether a physical address lies in this module (R275, R277). -/
def isLocal (s : State) (pa : DWord) : Bool := decide (paModule pa = s.mgmt.mid)

/-- The core and byte of a region 2 offset (Table 10-3). -/
def region2 (off : Nat) : CoreId × Nat := (BitVec.ofNat 9 (bitsOf off 20 9), off % 2 ^ 20)

/-- The runs of set bits of a mask: first bit and length of each. -/
def maskRuns (mask : BitVec 64) : List (Nat × Nat) :=
  (indices 64).filterMap fun i =>
    if mask.getLsbD i && (i == 0 || !mask.getLsbD (i - 1)) then
      some (i, ((indices (64 - i)).takeWhile fun j => mask.getLsbD (i + j)).length)
    else none

/-- The source that a maker's requests count for at a stack: the logical tile of its core or of its L2, or the hub die (R268). -/
def Who.source : Who → Source
  | .scalar c => (tileOf c).setWidth 5
  | .vector c => (tileOf c).setWidth 5
  | .matrix c => (tileOf c).setWidth 5
  | .mbuf c => (tileOf c).setWidth 5
  | .writeback c => (tileOf c).setWidth 5
  | .fill t _ => t.setWidth 5
  | .evict t _ => t.setWidth 5
  | .flush _ _ t => t.setWidth 5
  | .update _ _ t => t.setWidth 5
  | .job _ _ => hubSource
  | .record _ _ => hubSource
  | .nobody => hubSource

/-- Write masked bytes of the 64-byte unit at `pa` (a multiple of 64) at its target, past every L2 (R256, R276, R277). -/
def physWriteUnit (who : Who) (b : Option BindingId) (pa : DWord) (v : Via) (mask : BitVec 64) (data : List Byte)
    (psn : Bool) (s : State) : State :=
  if mask = 0 then s
  else match paRegion pa with
    | 0 => if isLocal s pa then writeUnit who.source (paOffset pa) v.key b mask data psn s else sendWrite who b pa mask data psn v s
    | 1 => (maskRuns mask).foldl (fun s r =>
        hostWrite b (BitVec.ofNat 64 (paOffset pa + r.1)) (marked psn ((data.drop r.1).take r.2)) s) s
    | 2 => (maskRuns mask).foldl (fun s r =>
        let (c, a) := region2 (paOffset pa + r.1)
        dlsWrite c a (marked psn ((data.drop r.1).take r.2)) none s) s
    | _ => s

/-- Write bytes at their target, past every L2. -/
def physWrite (who : Who) (b : Option BindingId) (pa : DWord) (v : Via) (l : List PByte) (s : State) : State :=
  (unitPieces pa.toNat l.length).foldl (fun s p =>
    let part := (l.drop (p.1 - pa.toNat)).take p.2
    physWriteUnit who b (BitVec.ofNat 64 (p.1 / 64 * 64)) v (maskOf (p.1 % 64) p.2) (placeAt (p.1 % 64) (plain part))
      (anyPsn part) s) s

/-- Write one block of at most 512 bytes within a 512-byte-aligned block: whole blocks to a remote module in one packet
(R389). -/
def physWriteBlock (who : Who) (b : Option BindingId) (pa : DWord) (v : Via) (l : List PByte) (s : State) : State :=
  if paRegion pa = 0 ∧ !isLocal s pa ∧ l.length = 512 then
    sendWrite who b pa (BitVec.allOnes 64) (plain l) (anyPsn l) v s
  else physWrite who b pa v l s

/-- Ask for `len` bytes at a remote module or in host memory, or take them if they have come: none while they are on their way.
A remote request names whole units. -/
def awaitRead (who : Who) (b : Option BindingId) (pa : DWord) (len : Nat) (v : Via) (s : State) :
    Option (List PByte) × State :=
  let host := decide (paRegion pa = 1)
  let base := if host then pa.toNat else pa.toNat / 64 * 64
  let n := if host then len else if len = 512 then 512 else (pa.toNat % 64 + len + 63) / 64 * 64
  let bpa := BitVec.ofNat 64 base
  let s := if asked s who bpa n then s
    else if host then sendHostRead who b bpa n v s
    else sendRead who b bpa n v s
  match returned s who bpa n with
  | some l => (some ((l.drop (pa.toNat - base)).take len), s)
  | none => (none, s)

/-- Read `len` bytes within one 64-byte unit (or one whole block of 512) at their target, past every L2: none while a remote module
or the host has not answered. -/
def physRead (who : Who) (b : Option BindingId) (pa : DWord) (len : Nat) (v : Via) (s : State) :
    Option (List PByte) × State :=
  match paRegion pa with
  | 0 =>
    if isLocal s pa then
      let (l, s) := palvanRead who.source (paOffset pa) len v.key b s
      (some l, s)
    else awaitRead who b pa len v s
  | 1 => awaitRead who b pa len v s
  | 2 =>
    let (c, a) := region2 (paOffset pa)
    (some ((s.core c).dlsRead a len), s)
  | _ => (some (List.replicate len (0, false)), s)

/-! ## The tile L2 (R251 to R254) -/

/-- A sector of a tile's L2, if it is valid. -/
def Tile.sector (t : Tile) (line : Nat) : Option Sector := t.sectors.get none line

/-- The table key of the set that a 256-byte line falls in, in a slice. -/
def setKey (slice : BitVec 2) (line256 : Nat) : Nat := slice.toNat * 8192 + Config.l2Set line256 % 8192

/-- A fill of a slice is pending for a 256-byte line. -/
def Tile.lineFills (t : Tile) (slice : BitVec 2) (line256 : Nat) : Bool :=
  t.fills.any fun f => decide (f.slice = slice ∧ f.pa / 256 = line256)

/-- Whether a slice holds another valid sector of a 256-byte line than `line`, or awaits one. -/
def Tile.lineUsed (t : Tile) (slice : BitVec 2) (line : Nat) : Bool :=
  t.lineFills slice (line / 4) || (indices 4).any fun i =>
    let j := line / 4 * 4 + i
    j != line && match t.sector j with
      | some x => decide (x.slice = slice)
      | none => false

/-- The way of a set that holds a 256-byte line. -/
def L2Set.find (w : L2Set) (line256 : Nat) : Option Nat := (indices 16).find? fun i => w.ways.get 0 i == line256 + 1

/-- The tree after an access to a way: each node on its path points away from it. -/
def plruTouch (tree : BitVec 15) (way : Nat) : BitVec 15 :=
  (indices 4).foldl (fun (t : BitVec 15) d =>
    let node := 2 ^ d - 1 + way / 2 ^ (4 - d)
    let right := way / 2 ^ (3 - d) % 2 == 1
    if right then t &&& ~~~(BitVec.ofNat 15 (2 ^ node)) else t ||| BitVec.ofNat 15 (2 ^ node)) tree

/-- The way that the tree points at. -/
def plruVictim (tree : BitVec 15) : Nat :=
  ((indices 4).foldl (fun (a : Nat × Nat) _ =>
    let r := bit (tree.getLsbD a.1)
    (2 * a.1 + 1 + r, 2 * a.2 + r)) (0, 0)).2

/-- Note an access to a line of a slice in its set's tree. -/
def Tile.touch (t : Tile) (slice : BitVec 2) (line : Nat) : Tile :=
  let key := setKey slice (line / 4)
  let w := t.sets.get .reset key
  match w.find (line / 4) with
  | some i => { t with sets := t.sets.set .reset key { w with tree := plruTouch w.tree i } }
  | none => t

/-- Drop a sector: its L1D copies and LRX reservations go first (R246, R83), and its line's way when no sector is left. -/
def l2Drop (t : TileId) (line : Nat) (s : State) : State :=
  match (s.tile t).sector line with
  | none => s
  | some x =>
    let s := clearL2Resv t line none (l1InvalidateTile t line x.sharers none s)
    s.modTile t fun q =>
      let q := { q with sectors := q.sectors.set none line none, fresh := q.fresh.filter fun x => x.1 != line }
      if q.lineUsed x.slice line then q
      else
        let key := setKey x.slice (line / 4)
        let w := q.sets.get .reset key
        match w.find (line / 4) with
        | some i => { q with sets := q.sets.set .reset key { w with ways := w.ways.set 0 i 0 } }
        | none => q

/-- Write a dirty sector to its target under the slot recorded with it (R265), with its poison marking (R254); it stays valid
and clean. `who` makes the request. -/
def l2WriteBack (who : Who) (t : TileId) (line : Nat) (s : State) : State :=
  match (s.tile t).sector line with
  | some x =>
    if x.dirty then
      let s := physWriteUnit who x.binding (BitVec.ofNat 64 (line * 64)) ⟨x.key, none⟩ (BitVec.allOnes 64) (lineBytes x.data)
        x.psn s
      perfCount 0x07 t.toNat x.binding 1
        (s.modTile t fun q => { q with sectors := q.sectors.set none line (some { x with dirty := false }) })
    else s
  | none => s

/-- Evict the line in a way of a set for sector `by_`: dirty sectors to their targets, then every sector dropped (R254). -/
def l2EvictLine (t : TileId) (by_ : Nat) (slice : BitVec 2) (line256 : Nat) (s : State) : State :=
  (indices 4).foldl (fun s i =>
    let line := line256 * 4 + i
    match (s.tile t).sector line with
    | some x => if x.slice = slice then l2Drop t line (l2WriteBack (.evict t by_) t line s) else s
    | none => s) s

/-- The way that the tree points at, passing over ways whose line awaits a sector: it points away from such a one and again (R251, R254,
notes/assumptions/17.md). -/
def victimWay (pending : Nat → Bool) : (fuel : Nat) → BitVec 15 → Nat
  | 0, tree => plruVictim tree
  | fuel + 1, tree =>
    let i := plruVictim tree
    if pending i then victimWay pending fuel (plruTouch tree i) else i

/-- Make room for a line in its set of a slice and enter it: an empty way first, the pseudo-LRU way otherwise (R251). -/
def l2Allocate (t : TileId) (slice : BitVec 2) (line : Nat) (s : State) : State :=
  let key := setKey slice (line / 4)
  let w := (s.tile t).sets.get .reset key
  match w.find (line / 4) with
  | some _ => s
  | none =>
    let way := match (indices 16).find? fun i => w.ways.get 0 i == 0 with
      | some i => i
      | none => victimWay (fun i => (s.tile t).lineFills slice (w.ways.get 0 i - 1)) 16 w.tree
    let old := w.ways.get 0 way
    let s := if old = 0 then s else l2EvictLine t line slice (old - 1) s
    s.modTile t fun q =>
      let w := q.sets.get .reset key
      { q with sets := q.sets.set .reset key { w with ways := w.ways.set 0 way (line / 4 + 1) } }

/-- Install a sector in a slice. -/
def l2Install (t : TileId) (line : Nat) (x : Sector) (s : State) : State :=
  let s := l2Allocate t x.slice line s
  s.modTile t fun q => ({ q with sectors := q.sectors.set none line (some x) }).touch x.slice line

/-- Count a Cached access that hit, unless it is the retry of one that missed (Table 19-5). -/
def countHit (who : Who) (t : TileId) (line : Nat) (b : Option BindingId) (s : State) : State :=
  if (s.tile t).fresh.contains (line, who) then s.modTile t fun q => { q with fresh := q.fresh.erase (line, who) }
  else perfCount 0x05 t.toNat b 1 s

/-- The bytes of a pending fill, if they are here: the request is sent once every sector that made room for it has been admitted at its
target (R254). -/
def fillArrived (t : TileId) (f : Fill) (s : State) : Option (List PByte) × State :=
  if outstanding s (.evict t (f.pa / 64)) then (none, s)
  else physRead (.fill t (f.pa / 64)) f.binding (BitVec.ofNat 64 f.pa) 64 ⟨f.key, none⟩ s

/-- Send the request of a pending fill of remote memory or host memory. -/
def sendFill (t : TileId) (f : Fill) (s : State) : State :=
  let p := BitVec.ofNat 64 f.pa
  if paRegion p = 0 ∧ isLocal s p then s else (fillArrived t f s).2

/-- Ask for a missing sector: its line takes its way, and one fill waits for it (R253, R254). `who` waits for it under the translation
that `v` names. -/
def queueFill (who : Who) (t : TileId) (pa : Nat) (slice : BitVec 2) (v : Via) (b : Option BindingId) (s : State) : State :=
  let user : List (Who × Leaf) := match v.leaf with
    | some l => [(who, l)]
    | none => []
  if (s.tile t).fills.any fun f => f.pa == pa then
    let known := (s.tile t).fills.any fun f => f.pa == pa && f.waits.contains who
    (if known then s else perfCount 0x06 t.toNat b 1 s).modTile t fun q => { q with fills := q.fills.map fun f =>
      if f.pa = pa then
        { f with
          users := f.users ++ user.filter fun u => !f.users.contains u
          waits := if known then f.waits else f.waits ++ [who] }
      else f }
  else
    let f : Fill := ⟨pa, slice, v.key, b, user, [who], false⟩
    let s := perfCount 0x06 t.toNat b 1 (s.modTile t fun q => { q with fills := q.fills ++ [f] })
    sendFill t f ((l2Allocate t slice (pa / 64) s).modTile t fun q => q.touch slice (pa / 64))

/-- A Cached read of one sector: its bytes on a hit in any slice, none while it is being filled (R252, R253). -/
def l2Read (who : Who) (t : TileId) (slice : BitVec 2) (b : Option BindingId) (pa : Nat) (v : Via) (s : State) :
    Option (List PByte) × State :=
  let line := pa / 64
  match (s.tile t).sector line with
  | some x =>
    (some (marked x.psn (lineBytes x.data)), (countHit who t line b s).modTile t fun q => q.touch x.slice line)
  | none => (none, queueFill who t (line * 64) slice v b s)

/-- A Cached write of masked bytes of one sector (R246, R253): true when performed, false while the sector is being filled. The writing
core's own L1D copy stays, and so does h0's reservation where h0 itself writes (R83). -/
def l2Write (t : TileId) (slice : BitVec 2) (b : Option BindingId) (pa : Nat) (v : Via) (mask : BitVec 64)
    (data : List Byte) (psn : Bool) (who : Who) (s : State) : Bool × State :=
  let line := pa / 64
  let own := who.core
  let own0 : Option CoreId := match who with
    | .scalar c => some c
    | .mbuf c => some c
    | _ => none
  let full := decide (mask = BitVec.allOnes 64)
  let keep : BitVec 32 := match own with
    | some c => if tileOf c = t then BitVec.ofNat 32 (2 ^ (c.toNat % 32)) else 0
    | none => 0
  match (s.tile t).sector line with
  | some x =>
    let s := clearL2Resv t line own0 (l1InvalidateTile t line x.sharers own (countHit who t line b s))
    let x' : Sector := { x with
      data := lineOf (mergeBytes mask (lineBytes x.data) data)
      dirty := true
      psn := if full then psn else x.psn || psn
      sharers := x.sharers &&& keep }
    (true, s.modTile t fun q => ({ q with sectors := q.sectors.set none line (some x') }).touch x.slice line)
  | none =>
    if full then
      let s := clearL2Resv t line own0 (perfCount 0x06 t.toNat b 1 s)
      let s := s.modTile t fun q => { q with fills := q.fills.map fun f => if f.pa = line * 64 then { f with stale := true } else f }
      (true, l2Install t line ⟨slice, lineOf data, true, psn, v.key, 0, b⟩ s)
    else (false, queueFill who t (line * 64) slice v b s)

end Sys2Proof.Machine
end

