-- ==== Sys2Proof/Machine/Xlat.lean ====
section
/-!
DEFINITION. Address translation: the walk (R272 to R275), leaves and runs (R274, R280), TLBs and walk caches (R278, R279), fault
records, collectors, hold registers and parks (R288 to R292).
-/

namespace Sys2Proof.Machine

/-! ## Entries and leaves -/

/-- How a walk ends: with a leaf, or with a fault at a level; `pa` is the entry's address, for code 0x0018. -/
inductive WalkEnd where
  | leaf (l : Leaf)
  | fault (cause : FaultCause) (level : Nat) (pa : Nat)
deriving DecidableEq, Repr

/-- The index of a va at a level (Table 10-1). -/
def vaIndex (va lvl : Nat) : Nat := bitsOf va (39 - 9 * lvl) 9

/-- The bytes that one entry of a level covers (Table 10-1). -/
def levelSize (lvl : Nat) : Nat := 2 ^ (39 - 9 * lvl)

/-- A bad entry (R273): e is valid, at level lvl. -/
def badEntry (e lvl : Nat) : Bool :=
  let leaf := lvl == 3 || bitsOf e 2 1 == 1
  let l := bitsOf e 2 1 == 1
  bitsOf e 8 4 != 0 || bitsOf e 60 4 != 0
    || (l && (lvl == 0 || lvl == 3))
    || (!leaf && (bitsOf e 1 1 != 0 || bitsOf e 3 2 != 0 || bitsOf e 5 3 != 0 || bitsOf e 52 8 != 0
      || bitsOf e 48 4 != 0 || !palvanValid (bitsOf e 12 36 * 4096)))
    || (leaf && decide (5 ≤ bitsOf e 5 3))
    || (leaf && lvl == 1 && bitsOf e 12 18 != 0)
    || (leaf && lvl == 2 && bitsOf e 12 9 != 0)

/-- Whether a core lies in a section of a binding. -/
def coreIn (b : Binding) (c : CoreId) : Bool := b.sections.getLsbD (sectionOf c)

/-- A leaf whose target is not permitted (R274): e is a leaf at lvl, home the home entry. -/
def badTarget (b : Binding) (e lvl : Nat) (home : Nat) : Bool :=
  let region := bitsOf e 48 4
  let off := bitsOf e 12 36 * 4096
  let attr := bitsOf e 3 2
  decide (4 ≤ region) || attr == 3 || ((region == 2 || region == 3) && attr != 2)
    || (region == 0 && !palvanValid off)
    || ((region == 2 || region == 3) && lvl != 3)
    || (region == 2 && !coreIn b (region2 off).1)
    || (region == 2 && bitsOf off 29 19 != 0)
    || (region == 3 && !(decide (0x010000000000 ≤ off) && decide (off ≤ 0x01000000FFFF)))
    || (bitsOf home 15 1 == 1 && region != 0)

/-- The translation that a leaf gives: its run of 2^CONT pages where the physical address is aligned as the run requires, the page
alone otherwise (R280). -/
def leafOf (own : Nat) (e lvl va home : Nat) : Leaf :=
  let size := levelSize lvl
  let mid := if bitsOf home 15 1 = 1 then bitsOf home 0 12 else own
  let pa := mid * 2 ^ 52 + bitsOf e 12 40 * 4096
  let n := 2 ^ bitsOf e 5 3
  let page := va / size
  let k := page % n
  let run := bitsOf e 12 40 * 4096 / size % n == k
  { va := if run then (page - k) * size else page * size
    size := if run then n * size else size
    pa := if run then pa - k * size else pa
    attr := BitVec.ofNat 2 (bitsOf e 3 2)
    w := bitsOf e 1 1 == 1
    key := BitVec.ofNat 8 (bitsOf e 52 8)
    old := false }

/-- Whether a leaf maps a va. -/
def Leaf.maps (l : Leaf) (va : Nat) : Bool := decide (l.va ≤ va ∧ va < l.va + l.size)

/-- The physical address of a va under a leaf that maps it. -/
def Leaf.addr (l : Leaf) (va : Nat) : DWord := BitVec.ofNat 64 (l.pa + (va - l.va))

/-! ## The walk (R272) -/

/-- Read `n` bytes of a table at a local region 0 offset, at the stack under TKEY, for the walker of a source (R272). -/
def readTable (src : Source) (off n : Nat) (b : BindingId) (s : State) : List PByte × State :=
  palvanRead src off n (s.bnd b).xlat.tkey (some b) s

/-- The source of a walker's reads: its tile, or the hub die (R268). -/
def walkerSource (t : Option TileId) : Source := match t with
  | some t => t.setWidth 5
  | none => hubSource

/-- The end of a walk from level lvl on, with the non-leaf entries met on the way. `fuel` is the number of levels left. -/
def walkFrom (src : Source) (b : BindingId) (va : Nat) : (fuel lvl tbl home : Nat) → List WalkEntry → State → WalkEnd × List WalkEntry × State
  | 0, lvl, _, _, met, s => (.fault .badEntry lvl 0, met, s)
  | fuel + 1, lvl, tbl, home, met, s =>
    let a := tbl + 8 * vaIndex va lvl
    let (l, s) := readTable src a 8 b s
    let (h, s) := if lvl = 0 then
        let (hl, s) := readTable src (tbl + 4096 + 2 * vaIndex va 0) 2 b s
        (hl, s)
      else (([] : List PByte), s)
    let home := if lvl = 0 then natOfBytes (plain h) else home
    let e := natOfBytes (plain l)
    if anyPsn l then (.fault .tablePoison lvl a, met, s)
    else if anyPsn h then (.fault .tablePoison 0 (tbl + 4096 + 2 * vaIndex va 0), met, s)
    else if bitsOf e 0 1 = 0 then (.fault .notValid lvl a, met, s)
    else if badEntry e lvl || bitsOf home 12 3 != 0 then (.fault .badEntry lvl a, met, s)
    else if lvl = 3 ∨ bitsOf e 2 1 = 1 then
      if badTarget (s.bnd b) e lvl home then (.fault .badTarget lvl a, met, s)
      else (.leaf (leafOf s.mgmt.mid.toNat e lvl va home), met, s)
    else
      let next := bitsOf e 12 36 * 4096
      walkFrom src b va fuel (lvl + 1) next home
        (met ++ [⟨b, BitVec.ofNat 2 lvl, va / levelSize lvl, next, BitVec.ofNat 16 home⟩]) s

/-- Walk a va in a binding's context, from the deepest level that a walk cache serves. -/
def walkTables (src : Source) (cache : List WalkEntry) (b : BindingId) (va : Nat) (s : State) : WalkEnd × List WalkEntry × State :=
  let hit (lvl : Nat) := cache.find? fun w => decide (w.binding = b ∧ w.level.toNat = lvl ∧ w.prefixBits = va / levelSize lvl)
  match hit 2 with
  | some w => walkFrom src b va 1 3 w.table w.home.toNat [] s
  | none => match hit 1 with
    | some w => walkFrom src b va 2 2 w.table w.home.toNat [] s
    | none => match hit 0 with
      | some w => walkFrom src b va 3 1 w.table w.home.toNat [] s
      | none => walkFrom src b va 4 0 (s.bnd b).xlat.root.toNat 0 [] s

/-! ## TLBs -/

/-- The entry of a TLB that serves a binding's va. -/
def tlbFind (l : List TlbEntry) (b : BindingId) (va : Nat) : Option TlbEntry :=
  l.find? fun e => decide (e.binding = b) && e.leaf.maps va

/-- Whether a leaf's span meets [lo, hi). -/
def Leaf.meets (l : Leaf) (lo hi : Nat) : Bool := decide (l.va < hi ∧ lo < l.va + l.size)

/-- Enter a leaf in a core TLB: 64 entries, the least recently used last (R278). -/
def coreTlbInsert (e : TlbEntry) (l : List TlbEntry) : List TlbEntry :=
  (e :: l.filter fun x => !(decide (x.binding = e.binding) && x.leaf.meets e.leaf.va (e.leaf.va + e.leaf.size))).take 64

/-- Drop the n-th entry of those that satisfy p. -/
def dropNth {α : Type} (p : α → Bool) : Nat → List α → List α
  | _, [] => []
  | n, x :: r => if p x then (if n = 0 then r else x :: dropNth p (n - 1) r) else x :: dropNth p n r

/-- Enter a leaf in a tile or hub TLB: 512 sets of 8 ways; the pseudo-LRU way is a free value (R278 names no algorithm). -/
def tlbInsert (e : TlbEntry) (l : List TlbEntry) (s : State) : List TlbEntry × State :=
  let l := l.filter fun x => !(decide (x.binding = e.binding) && x.leaf.meets e.leaf.va (e.leaf.va + e.leaf.size))
  let set (x : TlbEntry) := Config.tlbSet (x.leaf.va / 4096) % 512 == Config.tlbSet (e.leaf.va / 4096) % 512
  if (l.filter set).length < 8 then (e :: l, s)
  else
    let (v, s) := draw s
    (e :: dropNth set (v % 8) l, s)

/-- Enter non-leaf entries in a walk cache of 64; the entry that goes is a free value. -/
def cacheInsert (met cache : List WalkEntry) (s : State) : List WalkEntry × State :=
  met.foldl (fun (acc : List WalkEntry × State) w =>
    let l := acc.1.filter fun x => decide (¬(x.binding = w.binding ∧ x.level = w.level ∧ x.prefixBits = w.prefixBits))
    if l.length < 64 then (w :: l, acc.2)
    else
      let (v, s) := draw acc.2
      (w :: dropNth (fun _ => true) (v % 64) l, s)) (cache, s)

/-! ## Faults and parks (R288 to R292) -/

/-- KIND and UNIT of a fault record (Table 10-6). -/
def faultUnit (s : State) : Who → BitVec 4 × BitVec 12
  | .scalar c => (0, c.setWidth 12)
  | .vector c => (1, c.setWidth 12)
  | .matrix c => (2, c.setWidth 12)
  | .update _ _ t => (3, t.setWidth 12)
  | .job r i => (4, match s.desc r i with
    | some d => (d.engine.getD 0).setWidth 12
    | none => 0)
  | .record r i => (4, match (s.desc r i).bind fun d => d.job.log with
    | some l => (l.engine.getD 0).setWidth 12
    | none => 0)
  | _ => (0, 0)

/-- The first park of an engine without a sequence number takes n. -/
def assignSeq (who : Who) (n : Word) : List Parked → List Parked
  | [] => []
  | p :: r =>
    if p.who = who ∧ p.park.seq = none then { p with park := { p.park with seq := some n } } :: r
    else p :: assignSeq who n r

/-- The oldest held fault enters the collector and takes its sequence number, when a slot is free (R289, R291). -/
def collectOne (b : BindingId) (s : State) : State :=
  let x := s.bnd b
  match x.xlat.hold with
  | [] => s
  | f :: rest =>
    if 64 ≤ x.xlat.coll.length then s
    else
      let n := x.xlat.seq
      s.setBnd b { x with
        xlat := { x.xlat with hold := rest, coll := x.xlat.coll ++ [{ f with seq := n, since := s.time.count }], seq := n + 1 }
        parks := assignSeq f.who n x.parks }

/-- The number of an engine id, by KIND and then UNIT (R289). -/
def FaultRec.engine (f : FaultRec) : Nat := f.kind.toNat * 2 ^ 12 + f.unit.toNat

/-- A detected fault among those that wait or are collected: behind all but the faults of the same tick with a higher engine id
(R289). -/
def placeFault (f : FaultRec) : List FaultRec → List FaultRec
  | [] => [f]
  | g :: r => if g.stamp = f.stamp ∧ f.engine < g.engine then f :: g :: r else g :: placeFault f r

/-- The sequence number of a park after a fault was placed at index i of a collector that held `len` records, numbered from `base`, and
holds `now` records: those behind it move one up, and one that has no place left is stalled again. -/
def Park.moved (base : Word) (i len now : Nat) (p : Park) : Park :=
  match p.seq with
  | none => p
  | some n =>
    let k := (n - base).toNat
    if k < i ∨ len ≤ k then p
    else if k + 1 < now then { p with seq := some (n + 1) }
    else { p with seq := none, stalled := true }

/-- A detected translation fault: its engine parks, and the record enters the collector with its sequence number, or waits in the
engine's hold register with FQ_OVF set (R288 to R292). Faults of one tick stand in the order of their engines (R289). -/
def recordFault (who : Who) (b : BindingId) (va : DWord) (cause : FaultCause) (level : Nat) (write probe : Bool) (s : State) :
    State :=
  let x := s.bnd b
  let ku := faultUnit s who
  let f : FaultRec := ⟨s.time.count, va, 0, s.time.count, who, ku.1, ku.2, cause, BitVec.ofNat 2 level, write, probe⟩
  let q := x.xlat
  let waits := !q.hold.isEmpty || decide (64 ≤ q.coll.length)
  let all := placeFault f (q.coll ++ q.hold)
  let i := all.findIdx fun g => decide (g = f)
  let now := if waits then q.coll.length else q.coll.length + 1
  let base := q.seq - BitVec.ofNat 32 q.coll.length
  s.setBnd b { x with
    xlat := { q with
      coll := (all.take now).zipWith (fun g j => { g with seq := base + BitVec.ofNat 32 j }) (indices now)
      hold := (all.drop now).map fun g => { g with seq := 0 }
      seq := base + BitVec.ofNat 32 now
      ovf := q.ovf || waits }
    parks := (x.parks.map fun p => { p with park := p.park.moved base i q.coll.length now })
      ++ [⟨who, ⟨if i < now then some (base + BitVec.ofNat 32 i) else none, va, write, false, .open, decide (now ≤ i)⟩⟩] }

/-- The open park of an engine, if it is parked or stalled (one set aside for an NMI apart). -/
def parkOf (s : State) (b : BindingId) (who : Who) : Option Park :=
  match (s.bnd b).parks.find? fun p => decide (p.who = who) && !p.park.aside with
  | some p => some p.park
  | none => none

/-- Whether an engine of a binding is parked or stalled. -/
def isParked (s : State) (b : BindingId) (who : Who) : Bool := (parkOf s b who).isSome

/-- Remove an engine's open park. -/
def unpark (b : BindingId) (who : Who) (s : State) : State :=
  s.modBnd b fun x => { x with parks := x.parks.filter fun p => !(decide (p.who = who) && !p.park.aside) }

/-! ## Translating -/

/-- What a translation gives at once: a leaf, a wait for a walk, or a fault already recorded. -/
inductive Xl where
  | leaf (l : Leaf)
  | wait
  | parked
deriving DecidableEq, Repr

/-- The walker that serves an engine: a tile's, or the hub's (R272). -/
def Who.walker : Who → Option TileId
  | .scalar c => some (tileOf c)
  | .vector c => some (tileOf c)
  | .matrix c => some (tileOf c)
  | .update _ _ t => some t
  | _ => none

/-- Add a walk to a walker's list, once for an engine and page. -/
def addWalk (w : Walk) (l : List Walk) : List Walk :=
  if l.any fun x => decide (x.who = w.who ∧ x.va.toNat / 4096 = w.va.toNat / 4096) then l else l ++ [w]

/-- Ask for a walk (R281). -/
def queueWalk (w : Walk) (s : State) : State :=
  match w.who.walker with
  | some t => s.modTile t fun q => { q with walker := { q.walker with walks := addWalk w q.walker.walks } }
  | none => { s with hub := { s.hub with walker := { s.hub.walker with walks := addWalk w s.hub.walker.walks } } }

/-- The translations that an engine holds for the request in hand. -/
def heldLeaves (s : State) : Who → List Leaf
  | .scalar c => (s.core c).mem.held
  | .job r i => match s.desc r i with
    | some d => d.job.xl
    | none => []
  | .record r i => match (s.desc r i).bind fun d => d.job.log with
    | some l => l.xl
    | none => []
  | .update r i t => match s.desc r i with
    | some d => match d.job.engines.find? fun e => decide (e.tile = t) with
      | some e => e.xl
      | none => d.job.xl
    | none => []
  | .vector c => ((s.core c).vec.started.map fun v => v.xl).flatten
  | .matrix c => ((s.core c).mat.started.map fun v => v.xl).flatten
  | _ => []

/-- An engine whose held translations belong to the one access in hand. -/
def Who.queued : Who → Bool
  | .scalar _ => true
  | .vector _ => true
  | .matrix _ => true
  | .update _ _ _ => true
  | _ => false

/-- The translation that a request of an engine for the byte at a va used, while the request is under way: a read that has left, or a
sector that is being filled (R286). -/
def inFlight (s : State) (who : Who) (b : BindingId) (va : Nat) (write : Bool) : Option Leaf :=
  let reads := s.hub.reqs.filterMap fun q => match q.leaf with
    | some l => if q.who = who ∧ q.binding = some b ∧ q.write = false ∧ write = false ∧ l.maps va ∧ q.pa.toNat ≤ (l.addr va).toNat
        ∧ (l.addr va).toNat < q.pa.toNat + q.len then some l else none
    | none => none
  let fills := match who.walker with
    | some t => (s.tile t).fills.flatMap fun f => f.users.filterMap fun u =>
        if u.1 = who ∧ f.binding = some b ∧ u.2.maps va ∧ (u.2.addr va).toNat / 64 = f.pa / 64 ∧ (u.2.w ∨ write = false) then some u.2
        else none
    | none => []
  (reads ++ fills).head?

/-- Translate a va for an engine of a binding: the translation of a request under way, held translations, then its core's TLB, then the
tile's or the hub's, then a walk. A TLB entry that denies a write is walked once more (R279). An engine of a descriptor writes under no
translation that has been withdrawn (R286). -/
def xlate (who : Who) (b : BindingId) (va : DWord) (write probe : Bool) (s : State) : Xl × State :=
  if isParked s b who then (.parked, s)
  else if bitsOf va.toNat 48 16 ≠ 0 then (.parked, recordFault who b va .vaRange 0 write probe s)
  else
    let ok (l : Leaf) := l.maps va.toNat && (l.w || !write) && (!l.old || !write || who.queued)
    let walk := (Xl.wait, queueWalk ⟨b, va, write, who, probe⟩ s)
    match (inFlight s who b va.toNat write).or ((heldLeaves s who).find? ok) with
    | some l => (.leaf l, s)
    | none =>
      let shared := match who.walker with
        | some t => (s.tile t).walker.tlb
        | none => s.hub.walker.tlb
      match who.core with
      | some c =>
        match tlbFind (s.core c).mem.tlb b va.toNat with
        | some e =>
          if ok e.leaf then
            (.leaf e.leaf, s.modCore c fun k => { k with mem := { k.mem with tlb := coreTlbInsert e k.mem.tlb } })
          else walk
        | none => match tlbFind shared b va.toNat with
          | some e =>
            if ok e.leaf then
              (.leaf e.leaf, s.modCore c fun k => { k with mem := { k.mem with tlb := coreTlbInsert e k.mem.tlb } })
            else walk
          | none => walk
      | none => match tlbFind shared b va.toNat with
        | some e => if ok e.leaf then (.leaf e.leaf, s) else walk
        | none => walk

/-- The code 0x0018 record of a walk that met a poisoned table entry (R272). -/
def tablePoison (t : Option TileId) (b : BindingId) (pa level : Nat) (s : State) : State :=
  match t with
  | some t => report 1 1 0x0018 (t.setWidth 16) (some b) (localPa s pa) [BitVec.ofNat 8 level] s
  | none => report 1 5 0x0018 0 (some b) (localPa s pa) [BitVec.ofNat 8 level] s

/-- Change the log record of a job. -/
def modRec (r : RingId) (i : Nat) (f : LogRec → LogRec) (s : State) : State := s.modJob r i fun j => { j with log := j.log.map f }

/-- Change the translations that a tile's engine holds, of its layer or of the table that it reads (R286, R360). -/
def modHeld (r : RingId) (i : Nat) (t : TileId) (f : List Leaf → List Leaf) (s : State) : State :=
  s.modJob r i fun j =>
    if j.engines.isEmpty then { j with xl := f j.xl }
    else { j with engines := j.engines.map fun e => if e.tile = t then { e with xl := f e.xl } else e }

/-- Keep a walked leaf with the engine that asked for it, until its request retires (R286). -/
def holdLeaf (who : Who) (l : Leaf) (s : State) : State :=
  match who with
  | .job r i => s.modJob r i fun j => { j with xl := l :: j.xl }
  | .record r i => modRec r i (fun x => { x with xl := l :: x.xl }) s
  | .update r i t => modHeld r i t (l :: ·) s
  | _ => s

/-- A sector has come for an engine whose translation was withdrawn meanwhile: the access in hand completes under it (R286). -/
def keepOld (who : Who) (l : Leaf) (s : State) : State :=
  if !l.old then s
  else match who with
    | .scalar c => s.modCore c fun k => { k with mem := { k.mem with held := l :: k.mem.held } }
    | .vector c => s.modCore c fun k => { k with vec := { k.vec with started := k.vec.started.modifyHead fun r => { r with xl := l :: r.xl } } }
    | .matrix c => s.modCore c fun k => { k with mat := { k.mat with started := k.mat.started.modifyHead fun r => { r with xl := l :: r.xl } } }
    | _ => holdLeaf who l s

/-- Perform one waiting walk (R272): a leaf enters the TLBs (R278), a fault parks the engine (R279, R292). -/
def doWalk (w : Walk) (s : State) : State :=
  let t := w.who.walker
  let wk := match t with
    | some t => (s.tile t).walker
    | none => s.hub.walker
  let s := perfCount 0x08 (match t with | some t => t.toNat | none => 16) (some w.binding) 1 s
  let (r, met, s) := walkTables (walkerSource t) wk.cache w.binding w.va.toNat s
  let put (wk : Walker) (s : State) : State := match t with
    | some t => s.modTile t fun q => { q with walker := { wk with walks := q.walker.walks } }
    | none => { s with hub := { s.hub with walker := { wk with walks := s.hub.walker.walks } } }
  match r with
  | .fault cause level pa =>
    if cause = .tablePoison then
      recordFault w.who w.binding w.va cause level w.write w.probe (tablePoison t w.binding pa level s)
    else
      let (cache, s) := cacheInsert met wk.cache s
      recordFault w.who w.binding w.va cause level w.write w.probe (put { wk with cache := cache } s)
  | .leaf l =>
    let (cache, s) := cacheInsert met wk.cache s
    let e : TlbEntry := ⟨w.binding, l⟩
    let (tlb, s) := tlbInsert e wk.tlb s
    let s := put { wk with cache := cache, tlb := tlb } s
    let s := match w.who.core with
      | some c => s.modCore c fun k => { k with mem := { k.mem with tlb := coreTlbInsert e k.mem.tlb } }
      | none => s
    if w.write && !l.w then
      recordFault w.who w.binding w.va .writeDenied (if l.size < 2 ^ 21 then 3 else if l.size < 2 ^ 30 then 2 else 1)
        w.write w.probe s
    else holdLeaf w.who l s

end Sys2Proof.Machine
end

