-- ==== Sys2Proof/Machine/Bulk.lean ====
section
/-!
DEFINITION. Bulk memory by virtual address: reads and writes of every engine (R252, R255 to R257), the merging buffer (R247 to
R250), the L2 operation window (R260, R261).
-/

namespace Sys2Proof.Machine

/-! ## Who reaches what -/

/-- The tile and slice through which an engine's Cached accesses go: the slice of the section it works for (R252); none for a hub
engine. -/
def agentSlice (s : State) (b : BindingId) (who : Who) : Option (TileId × BitVec 2) :=
  match who with
  | .update _ _ t =>
    match (indices 4).find? fun i => (s.bnd b).sections.getLsbD (4 * t.toNat + i) with
    | some i => some (t, BitVec.ofNat 2 i)
    | none => some (t, 0)
  | _ => match who.core with
    | some c => some (tileOf c, sliceOf c)
    | none => none

/-- The binding of a core. -/
def coreBinding (s : State) (c : CoreId) : BindingId := (s.core c).ctl.xcfg.binding

/-- The page attribute Cached (Table 09-1). -/
def cached (l : Leaf) : Bool := l.attr == 0

/-- Read `len` bytes within one 64-byte unit at a va: none while a walk, a fill, a peer or the host is awaited, or the engine is
parked. A region 3 page reads zero to every agent but the owning core's scalar loads (R260). -/
def bulkRead1 (who : Who) (b : BindingId) (va len : Nat) (s : State) : Option (List PByte) × State :=
  match xlate who b (BitVec.ofNat 64 va) false false s with
  | (.leaf l, s) =>
    let pa := l.addr va
    match agentSlice s b who, cached l with
    | some (t, sl), true =>
      match l2Read who t sl (some b) pa.toNat l.via s with
      | (some u, s) => (some ((u.drop (pa.toNat % 64)).take len), s)
      | (none, s) => (none, s)
    | _, _ => physRead who (some b) pa len l.via s
  | (_, s) => (none, s)

/-- The translation at hand for a read, without asking for a walk. -/
def knownLeaf (who : Who) (b : BindingId) (va : Nat) (s : State) : Option Leaf :=
  match xlate who b (BitVec.ofNat 64 va) false false s with
  | (.leaf l, _) => some l
  | _ => none

/-- Send the request for `len` bytes within one unit whose translation is at hand, if it needs one: false where it is not. -/
def bulkAsk (who : Who) (b : BindingId) (va len : Nat) (s : State) : Bool × State :=
  if bitsOf va 48 16 ≠ 0 then (false, s)
  else match knownLeaf who b va s with
  | none => (false, s)
  | some l =>
    let pa := l.addr va
    match agentSlice s b who, cached l with
    | some (t, sl), true =>
      (true, if ((s.tile t).sector (pa.toNat / 64)).isSome then s else queueFill who t (pa.toNat / 64 * 64) sl l.via (some b) s)
    | _, _ => (true, if paRegion pa = 1 ∨ (paRegion pa = 0 ∧ !isLocal s pa) then (awaitRead who (some b) pa len l.via s).2 else s)

/-- Read a range of virtual addresses, unit by unit. -/
def bulkRead (who : Who) (b : BindingId) (va len : Nat) (s : State) : Option (List PByte) × State :=
  (unitPieces va len).foldl (fun (acc : Option (List PByte) × State) p =>
    match acc with
    | (none, s) => (none, s)
    | (some l, s) =>
      match bulkRead1 who b p.1 p.2 s with
      | (some u, s) => (some (l ++ u), s)
      | (none, s) => (none, s)) (some [], s)

/-- Whether a write of a piece can be performed at once: it translates, and a Cached partial write finds its sector (R253). -/
def bulkReady (who : Who) (b : BindingId) (va len : Nat) (s : State) : Bool × State :=
  match xlate who b (BitVec.ofNat 64 va) true false s with
  | (.leaf l, s) =>
    let pa := (l.addr va).toNat
    match agentSlice s b who, cached l with
    | some (t, sl), true =>
      if len = 64 || ((s.tile t).sector (pa / 64)).isSome then (true, s)
      else (false, queueFill who t (pa / 64 * 64) sl l.via (some b) s)
    | _, _ => (true, s)
  | (_, s) => (false, s)

/-- Perform a write of bytes within one unit: false where its sector has gone meanwhile. A vector or tile store keeps its own core's
L1D copy by updating it (R246, R257). -/
def bulkWrite1 (who : Who) (b : BindingId) (va : Nat) (l : List PByte) (s : State) : Bool × State :=
  match xlate who b (BitVec.ofNat 64 va) true false s with
  | (.leaf lf, s) =>
    let pa := lf.addr va
    let o := pa.toNat % 64
    let mask := maskOf o l.length
    let data := placeAt o (plain l)
    match agentSlice s b who, cached lf with
    | some (t, sl), true =>
      match l2Write t sl (some b) pa.toNat lf.via mask data (anyPsn l) who s with
      | (true, s) => (true, match who.core with
        | some c => s.modCore c fun k => k.l1Store (pa.toNat / 64) mask data (anyPsn l)
        | none => s)
      | (false, s) => (false, s)
    | _, _ => (true, physWriteUnit who (some b) (BitVec.ofNat 64 (pa.toNat / 64 * 64)) lf.via mask data (anyPsn l) s)
  | (_, s) => (false, s)

/-- Write a range of virtual addresses: every piece must be ready before any is performed (R125). True when performed. -/
def bulkWrite (who : Who) (b : BindingId) (va : Nat) (l : List PByte) (s : State) : Bool × State :=
  let ps := unitPieces va l.length
  let (ready, s) := ps.foldl (fun (acc : Bool × State) p =>
    if acc.1 then bulkReady who b p.1 p.2 acc.2 else acc) (true, s)
  if ready then
    ps.foldl (fun (acc : Bool × State) p =>
      if acc.1 then bulkWrite1 who b p.1 ((l.drop (p.1 - va)).take p.2) acc.2 else acc) (true, s)
  else (false, s)

/-- Whether every page of a range translates; the first that does not waits or parks (R125, R126). The leaves found are
returned. -/
def probeRange (who : Who) (b : BindingId) (va len : Nat) (write probe : Bool) (s : State) : Option (List Leaf) × State :=
  (pieces 4096 (len / 4096 + 2) va len).foldl (fun (acc : Option (List Leaf) × State) p =>
    match acc with
    | (none, s) => (none, s)
    | (some l, s) =>
      match xlate who b (BitVec.ofNat 64 p.1) write probe s with
      | (.leaf x, s) => (some (l ++ [x]), s)
      | (_, s) => (none, s)) (some [], s)

/-! ## Hub engines -/

/-- Read a block of at most 512 bytes within a 512-byte-aligned block for a hub engine: directly at the target (R257, R319). -/
def engineRead (who : Who) (b : BindingId) (va len : Nat) (s : State) : Option (List PByte) × State :=
  match xlate who b (BitVec.ofNat 64 va) false false s with
  | (.leaf l, s) =>
    let pa := l.addr va
    if paRegion pa = 0 ∧ isLocal s pa ∧ paOffset pa % 4096 + len ≤ 4096 then physRead who (some b) pa len l.via s
    else if len = 512 ∧ paRegion pa ≠ 2 ∧ paRegion pa ≠ 3 then physRead who (some b) pa 512 l.via s
    else
      (unitPieces pa.toNat len).foldl (fun (acc : Option (List PByte) × State) p =>
        match acc with
        | (none, s) => (none, s)
        | (some x, s) =>
          match physRead who (some b) (BitVec.ofNat 64 p.1) p.2 l.via s with
          | (some u, s) => (some (x ++ u), s)
          | (none, s) => (none, s)) (some [], s)
  | (_, s) => (none, s)

/-- Write a block of at most 512 bytes within a 512-byte-aligned block for a hub engine. -/
def engineWrite (who : Who) (b : BindingId) (va : Nat) (l : List PByte) (s : State) : Bool × State :=
  match xlate who b (BitVec.ofNat 64 va) true false s with
  | (.leaf lf, s) => (true, physWriteBlock who (some b) (lf.addr va) lf.via l s)
  | (_, s) => (false, s)

/-- Read a range for a hub engine, block by block. -/
def engineReadAll (who : Who) (b : BindingId) (va len : Nat) (s : State) : Option (List PByte) × State :=
  (pieces 512 (len / 512 + 2) va len).foldl (fun (acc : Option (List PByte) × State) p =>
    match acc with
    | (none, s) => (none, s)
    | (some l, s) =>
      match engineRead who b p.1 p.2 s with
      | (some u, s) => (some (l ++ u), s)
      | (none, s) => (none, s)) (some [], s)

/-- Write a range for a hub engine: every page translates before any byte is written. -/
def engineWriteAll (who : Who) (b : BindingId) (va : Nat) (l : List PByte) (s : State) : Bool × State :=
  match probeRange who b va l.length true false s with
  | (some _, s) =>
    (pieces 512 (l.length / 512 + 2) va l.length).foldl (fun (acc : Bool × State) p =>
      if acc.1 then engineWrite who b p.1 ((l.drop (p.1 - va)).take p.2) acc.2 else acc) (true, s)
  | (none, s) => (false, s)

/-! ## The L2 operation window (R260, R261) -/

/-- The translation of a page for a range operation, through the tile's TLB and walker: none where no valid Cached one exists. -/
def rangeLeaf (t : TileId) (b : BindingId) (va : Nat) (s : State) : Option Leaf × State :=
  if 2 ^ 48 ≤ va then (none, s)
  else match tlbFind (s.tile t).walker.tlb b va with
    | some e => (if cached e.leaf then some e.leaf else none, s)
    | none =>
      let wk := (s.tile t).walker
      match walkTables (walkerSource (some t)) wk.cache b va (perfCount 0x08 t.toNat (some b) 1 s) with
      | (.leaf l, met, s) =>
        let (cache, s) := cacheInsert met wk.cache s
        let (tlb, s) := tlbInsert ⟨b, l⟩ wk.tlb s
        (if cached l then some l else none,
          s.modTile t fun q => { q with walker := { q.walker with tlb := tlb, cache := cache } })
      | (.fault .tablePoison level pa, _, s) => (none, tablePoison (some t) b pa level s)
      | (.fault _ _ _, _, s) => (none, s)

/-- Apply an operation to one sector of a tile: write back (1), invalidate (2), both (3). -/
def sectorOp (op : Nat) (who : Who) (t : TileId) (line : Nat) (s : State) : State :=
  let s := if op = 1 ∨ op = 3 then l2WriteBack who t line s else s
  if op = 2 ∨ op = 3 then l2Drop t line s else s

/-- Count a skipped page; saturates at 0xFFFF_FFFF (Table 09-2). -/
def skipPage (c : CoreId) (s : State) : State :=
  s.modCore c fun k => { k with mem := { k.mem with win := { k.mem.win with skipped := satAdd k.mem.win.skipped 1 } } }

/-- Act on every sector of [va, va + len) that the tile holds, page by page; `fuel` bounds the pages (R261). -/
def rangeOp (op : Nat) (c : CoreId) (b : BindingId) (va len : Nat) (s : State) : State :=
  let t := tileOf c
  if len = 0 then s
  else
    (pieces 4096 (len / 4096 + 2) (va / 64 * 64) (len + va % 64)).foldl (fun s p =>
      match rangeLeaf t b p.1 s with
      | (some l, s) =>
        let lo := (l.addr p.1).toNat
        (indices ((p.2 + 63) / 64)).foldl (fun s i => sectorOp op (.writeback c) t (lo / 64 + i) s) s
      | (none, s) => skipPage c s) s

/-- An OP write (Table 09-2): ignored with REJ while BUSY; otherwise the operation starts on the window's range. With LEN = 0 it
completes at once (R261). -/
def startRangeOp (c : CoreId) (op : Nat) (s : State) : State :=
  let w := (s.core c).mem.win
  if op = 0 then s
  else if w.busy then s.modCore c fun k => { k with mem := { k.mem with win := { k.mem.win with rej := true } } }
  else
    let s := s.modCore c fun k => { k with mem := { k.mem with
      win := { k.mem.win with busy := decide (w.len ≠ 0), skipped := 0, op := BitVec.ofNat 2 op } } }
    rangeOp op c (coreBinding s c) w.addr.toNat w.len.toNat s

/-- A read of a core's own window: aligned, of 4 or 8 bytes (R260). -/
def windowRead (w : L2Window) (off len : Nat) : Nat :=
  let reg (o : Nat) : Nat := match o with
    | 0x00 => w.addr.toNat
    | 0x08 => w.len.toNat
    | 0x18 => w.skipped.toNat * 2 ^ 32 + 2 * bit w.rej + bit w.busy
    | _ => 0
  if len = 8 ∧ off % 8 = 0 then reg off
  else if len = 4 ∧ off % 4 = 0 then bitsOf (reg (off / 8 * 8)) (32 * (off / 4 % 2)) 32
  else 0

/-- A write of a core's own window: aligned, of 4 or 8 bytes (R260). -/
def windowWrite (c : CoreId) (off len v : Nat) (s : State) : State :=
  if (len = 8 ∧ off % 8 = 0) ∨ (len = 4 ∧ off % 4 = 0) then
    let w := (s.core c).mem.win
    let setWin (w : L2Window) : State := s.modCore c fun k => { k with mem := { k.mem with win := w } }
    match off with
    | 0x00 =>
      let a := if len = 8 then v else w.addr.toNat / 2 ^ 32 * 2 ^ 32 + v % 2 ^ 32
      setWin { w with addr := BitVec.ofNat 48 a }
    | 0x04 => setWin { w with addr := BitVec.ofNat 48 (v % 2 ^ 16 * 2 ^ 32 + w.addr.toNat % 2 ^ 32) }
    | 0x08 => setWin { w with len := BitVec.ofNat 32 v }
    | 0x10 => startRangeOp c (v % 4) s
    | 0x18 => setWin { w with rej := w.rej && !(bitsOf v 1 1 == 1) }
    | _ => s
  else s

/-- The window offset that a region 3 offset names, if it is core c's own (R260). -/
def ownWindow (c : CoreId) (off : Nat) : Option Nat :=
  let base := 0x010000000000 + c.toNat / 32 * 0x1000 + c.toNat % 32 * 0x40
  if base ≤ off ∧ off < base + 0x20 then some (off - base) else none

/-! ## The merging buffer (R247 to R250) -/

/-- What the write of an entry goes by; the entry itself holds its translations until it has drained. -/
def MergeEntry.via (e : MergeEntry) : Via := ⟨e.key, none⟩

/-- Perform one entry at its target: a Cached entry in the L2, which updates the core's own L1D copy too, any other past it; an entry
for the core's own window there. False while the L2 fills the entry's sector, and until a remote module has performed the write
(R249, R250). -/
def performEntry (c : CoreId) (e : MergeEntry) (s : State) : Bool × State :=
  let b := coreBinding s c
  let pa := BitVec.ofNat 64 (e.line * 64)
  let data := lineBytes e.data
  if e.attr = 0 then
    match l2Write (tileOf c) (sliceOf c) (some b) (e.line * 64) e.via e.mask data false (.mbuf c) s with
    | (true, s) => (true, s.modCore c fun k => k.l1Store e.line e.mask data false)
    | (false, s) => (false, s)
  else if paRegion pa = 3 then
    (true, match maskRuns e.mask with
      | [r] => match ownWindow c (paOffset pa + r.1) with
        | some o => windowWrite c o r.2 (natOfBytes ((data.drop r.1).take r.2)) s
        | none => s
      | _ => s)
  else
    let s := if e.begun then s else physWriteUnit (.mbuf c) (some b) pa e.via e.mask data false s
    (!outstanding s (.mbuf c), s)

/-- The oldest entry must drain (R249). -/
def mustDrain (k : Core) : Bool := match k.mem.mbuf with
  | [] => false
  | e :: _ => e.drain || decide (8 ≤ k.mem.mbuf.length)

/-- Drain the oldest entry, if it must. -/
def drainOldest (c : CoreId) (s : State) : State :=
  let k := s.core c
  match k.mem.mbuf with
  | [] => s
  | e :: r =>
    if mustDrain k then
      match performEntry c e s with
      | (true, s) => s.modCore c fun k => { k with mem := { k.mem with mbuf := r } }
      | (false, s) => s.modCore c fun k => { k with mem := { k.mem with mbuf := { e with drain := true, begun := true } :: r } }
    else s

/-- Every entry must drain (R249). -/
def Core.drainAll (k : Core) : Core :=
  { k with mem := { k.mem with mbuf := k.mem.mbuf.map fun e => { e with drain := true } } }

/-- Every entry up to the last that satisfies p must drain, and a load waits for those that do (R249, R250). -/
def markThrough (p : MergeEntry → Bool) (l : List MergeEntry) : List MergeEntry :=
  match l with
  | [] => []
  | e :: r => if p e || r.any p then { e with drain := true, awaited := e.awaited || p e } :: markThrough p r else e :: r

/-- Whether a store of bytes of a line merges into an entry (R248). -/
def merges (line : Nat) (attr : BitVec 2) (e : MergeEntry) : Bool :=
  e.line == line && e.attr == attr && attr != 2 && !e.begun

/-- Put bytes of one line, under a translation, into the buffer: merged, or in a new entry; none where all 8 entries are taken (R247,
R248). A merged entry keeps the key slot of its first store (DESIGN CHOICE, notes/assumptions/17.md). -/
def mergeStore (line : Nat) (leaf : Leaf) (mask : BitVec 64) (data : List Byte) (l : List MergeEntry) : Option (List MergeEntry) :=
  if l.any (merges line leaf.attr) then
    some (l.map fun e => if merges line leaf.attr e then
      { e with
        mask := e.mask ||| mask
        data := lineOf (mergeBytes mask (lineBytes e.data) data)
        leaves := if e.leaves.contains leaf then e.leaves else leaf :: e.leaves } else e)
  else if 8 ≤ l.length then none
  else some (l ++ [{
    line := line
    attr := leaf.attr
    key := leaf.key
    mask := mask
    data := lineOf (mergeBytes mask (List.replicate 64 0) data)
    drain := false
    begun := false
    awaited := false
    leaves := [leaf] }])

end Sys2Proof.Machine
end

