-- ==== Sys2Proof/Machine/VectorRun.lean ====
section
/-!
DEFINITION. The vector engine at work: element groups (R130, R135), vector memory (R145 to R150), completion (R216, R217), start and
completion of the queue's instructions (R140 to R143, R126, R124).
-/

namespace Sys2Proof.Machine

/-! ## Fields of fcsr and vxrm (Table 08-2, Table 05-2) -/

/-- fcsr with flags and FL ORed in (R216). -/
def accrue (fcsr : Word) (flags : BitVec 5) (fl : Bool) : Word :=
  fcsr ||| flags.setWidth 32 ||| BitVec.ofNat 32 (bit fl * 2 ^ 11)

/-- The enabled flags among those raised (R217). -/
def trapMask (fcsr : Word) (flags : BitVec 5) : BitVec 8 := (flags &&& (fcsr >>> 6).setWidth 5).setWidth 8

/-- OR flags into h0's live fcsr. -/
def Core.accrue (k : Core) (flags : BitVec 5) (fl : Bool) : Core :=
  k.modThread 0 fun t => { t with fcsr := Sys2Proof.Machine.accrue t.fcsr flags fl }

/-- Count a value in the core's histogram, where one is installed (R238, R239). -/
def Core.histAdd (k : Core) (f : Fmt) (flushed : Bool) (x : Nat) : Core :=
  match k.ctl.histBase with
  | none => k
  | some b => { k with ctl := { k.ctl with hist := k.ctl.hist.modify 0 (histBin f b.toInt flushed x) (satAdd · 1) } }

/-- A cause waits for h0's boundary (R124). -/
def Core.addQCause (k : Core) (q : QCause) : Core := { k with causes := k.causes ++ [q] }

/-- A fault of the vector (or matrix) queue waits to be taken. -/
def Core.faultPending (k : Core) (matrix : Bool) : Bool := k.causes.any fun q => q.fault && q.matrix == matrix

/-- h0's queues are frozen (R119). -/
def Core.frozen (k : Core) : Bool := (k.thread 0).estat.getLsbD 8

/-- The precise-state mode in force: xcfg.PM, or forced since SERVICE (R127, R468). -/
def pmOf (s : State) (c : CoreId) : Bool := (s.core c).ctl.xcfg.pm || s.mod.pmForced

/-! ## Groups -/

/-- Fill the unit's state when the first group starts: source buffer, f operand, carry, partial sums (R138, R144, R154, R161). -/
def VRun.prime (r : VRun) (k : Core) : VRun :=
  let i := r.i
  if r.primed then r
  else
    let holds := i.op.kind == .slide || i.op.kind == .compress || decide (i.w < i.wd)
    { r with
      primed := true
      carry := if i.sums then i.cin.getD 0 else r.carry
      parts := if i.op.kind = .rsum then List.replicate (if i.f = 2 ∨ i.f = 3 then 64 else 1024 / max i.w 1) 0 else []
      scalar := BitVec.ofNat 64 (k.rv (if i.op = .bcastf then i.va else i.vb)).toNat
      buf := if holds then some (k.rv i.va) else none }

/-- Destination registers and flags in the making. -/
structure VAcc where
  d0 : VReg
  d1 : VReg
  flags : BitVec 5
  fl : Bool
  sat : Bool
  carry : Nat
deriving DecidableEq, Repr

/-- Add what one element raised. -/
def VAcc.note (a : VAcc) (o : VOut) : VAcc :=
  { a with flags := a.flags ||| o.flags, fl := a.fl || o.fl, sat := a.sat || o.sat }

/-- The scalar operand of an S form. -/
def VRun.sOperand (r : VRun) : Nat := (if r.i.int then r.i.gb.toNat else r.scalar.toNat) % 2 ^ r.i.w

/-- The elements of kind `lane` in one group; `sb` is the scalar operand of an S form. -/
def laneGroup (i : VInstr) (v : FEnv) (d : Draws) (p : Row) (sb : Nat) (src b c : VReg) (es : List Nat) (a : VAcc) : VAcc :=
  es.foldl (fun a e =>
    let x := getE i.wa e src
    let y := if i.s then sb else getE i.w e b
    if i.op = .merge then { a with d0 := putE i.w e (if p.getLsbD e then x else y) a.d0 }
    else if p.getLsbD e then
      let o := i.lane (if i.draws then v.drawn d e else v.noDraw) x y (getE i.w e c)
      let a := a.note o
      { a with d0 := putE i.wd e o.bits a.d0, d1 := if i.op.pair then putE i.w e o.second a.d1 else a.d1 }
    else a) a

/-- The elements of a scan in one group (R154). -/
def scanGroup (i : VInstr) (v : FEnv) (d : Draws) (p : Row) (src : VReg) (es : List Nat) (a : VAcc) : VAcc :=
  es.foldl (fun a e =>
    let on := p.getLsbD e
    if !i.op.segmented && !on then a
    else
      let c := if i.op.segmented && on then 0 else a.carry
      let o := i.sumStep v c (getE i.w e src)
      let u := i.scanOut (if i.draws then v.drawn d e else v.noDraw) (if i.op.exclusive then c else o.bits)
      let a := (a.note o).note u
      { a with
        d0 := putE i.w e u.bits a.d0
        d1 := if i.op.pair then putE i.w e o.second a.d1 else a.d1
        carry := o.bits }) a

/-- The partial sums after one group (R156). -/
def sumGroup (i : VInstr) (v : FEnv) (p : Row) (src : VReg) (es : List Nat) (parts : List DWord) (a : VAcc) :
    List DWord × VAcc :=
  es.foldl (fun (acc : List DWord × VAcc) e =>
    if p.getLsbD e then
      let k := e % max acc.1.length 1
      let o := i.sumStep v (acc.1.getD k 0).toNat (getE i.w e src)
      (acc.1.set k (BitVec.ofNat 64 o.bits), acc.2.note o)
    else acc) (parts, a)

/-- The elements that VCOMPRESS selects, ascending. -/
def selected (i : VInstr) (p : Row) : List Nat := (indices i.vl.toNat).filter fun e => p.getLsbD e

/-- One element group of an operation that touches no memory. -/
def vGroup (d : Draws) (service : Bool) (r : VRun) (k : Core) : VRun × Core :=
  let r := r.prime k
  let i := r.i
  let v := i.env service
  let p := k.rp i.pm
  let es := i.elems r.group
  let src := r.buf.getD (k.rv i.va)
  let on := es.filter fun e => p.getLsbD e
  let a0 : VAcc := ⟨k.rv i.vd, k.rv (i.vd + 1), 0, false, false, r.carry.toNat⟩
  let next (a : VAcc) : VRun := { r with
    group := r.group + 1
    flags := r.flags ||| a.flags
    fl := r.fl || a.fl
    sat := r.sat || a.sat
    carry := BitVec.ofNat 64 a.carry }
  let put (a : VAcc) : Core :=
    let k := k.wv i.vd a.d0
    if i.op.pair then k.wv (i.vd + 1) a.d1 else k
  match i.op.kind with
  | .lane =>
    let a := laneGroup i v d p r.sOperand src (k.rv i.vb) (k.rv i.vc) es a0
    (next a, put a)
  | .cmp =>
    let b := k.rv i.vb
    let q := BitVec.ofNat 3 i.vd.toNat
    let (t, a) := es.foldl (fun (acc : Row × VAcc) e =>
      if p.getLsbD e then
        let (c, fl, z) := i.compare v.noDraw (getE i.w e src) (if i.s then r.sOperand else getE i.w e b)
        (putP e c acc.1, acc.2.note ⟨0, 0, fl, z, false⟩)
      else (putP e false acc.1, acc.2)) (k.rp q, a0)
    (next a, k.wp q t)
  | .slide =>
    let n := i.gb.toNat
    let x := on.foldl (fun (x : VReg) e =>
      if i.op = .slideup then (if n ≤ e then putE i.w e (getE i.w (e - n) src) x else x)
      else putE i.w e (if e + n < i.vl.toNat then getE i.w (e + n) src else 0) x) a0.d0
    (next a0, k.wv i.vd x)
  | .compress =>
    let sel := selected i p
    let x := es.foldl (fun (x : VReg) e => match sel[e]? with
      | some q => putE i.w e (getE i.w q src) x
      | none => x) a0.d0
    (next a0, k.wv i.vd x)
  | .bcast =>
    let x := if i.op = .bcastf then r.scalar.toNat % 2 ^ i.w else (r.carry.toNat * 2 ^ 32 + i.ga.toNat) % 2 ^ i.w
    (next a0, k.wv i.vd (on.foldl (fun (t : VReg) e => putE i.w e x t) a0.d0))
  | .scan =>
    let a := scanGroup i v d p src es a0
    (next a, put a)
  | .rsum =>
    let (l, a) := sumGroup i v p src es r.parts a0
    ({ next a with parts := l }, k)
  | _ => (next a0, k)

/-! ## Vector memory (R145, R149) -/

/-- How far a group came. -/
inductive VStep where
  | done
  | wait
  | fault (vec : BitVec 5) (sub : BitVec 8) (eaddr : DWord)
deriving DecidableEq, Repr

/-- The lowest byte of an access of n bytes at a va whose bits [63:48] are nonzero (R63). -/
def spanFault (va n : Nat) : Option DWord :=
  if va % 2 ^ 64 / 2 ^ 48 ≠ 0 then some (BitVec.ofNat 64 va)
  else if (va + n - 1) % 2 ^ 64 / 2 ^ 48 ≠ 0 then some (BitVec.ofNat 64 (2 ^ 48))
  else none

/-- Runs of consecutive numbers: first and length of each. -/
def runsOf (l : List Nat) : List (Nat × Nat) :=
  (l.foldl (fun (acc : List (Nat × Nat)) e => match acc with
    | (a, n) :: r => if e = a + n then (a, n + 1) :: r else (e, 1) :: acc
    | [] => [(e, 1)]) []).reverse

/-- The va of element e. -/
def VInstr.addr (i : VInstr) (e : Nat) : Nat := (i.base.toNat + e * (i.w / 8)) % 2 ^ 64

/-- The accesses of a list of active elements: first element, va, bytes. -/
def VInstr.accesses (i : VInstr) (es : List Nat) : List (Nat × Nat × Nat) :=
  if i.zs then (if es.isEmpty then [] else [(0, i.addr 0, i.w / 8)])
  else (runsOf es).map fun r => (r.1, i.addr r.1, r.2 * (i.w / 8))

/-- The first span address fault among active elements (R63, R136). -/
def VInstr.spanCheck (i : VInstr) (es : List Nat) : Option DWord :=
  if i.zs then (if es.isEmpty then none else spanFault i.base.toNat (i.w / 8))
  else es.findSome? fun e => spanFault (i.addr e) (i.w / 8)

/-- Probe the pages of several accesses, in order (R126); the leaves, or none while one waits or parks. -/
def probeAll (who : Who) (b : BindingId) (write probe : Bool) (l : List (Nat × Nat)) (s : State) : Option (List Leaf) × State :=
  l.foldl (fun (acc : Option (List Leaf) × State) a =>
    match acc with
    | (none, s) => (none, s)
    | (some x, s) => match probeRange who b a.1 a.2 write probe s with
      | (some y, s) => (some (x ++ y), s)
      | (none, s) => (none, s)) (some [], s)

/-- Read several accesses once every page translates: none while one waits. What has returned is taken (R286). -/
def readAccesses (who : Who) (b : BindingId) (l : List (Nat × Nat)) (s : State) : Option (List (List PByte)) × State :=
  match probeAll who b false false l s with
  | (none, s) => (none, s)
  | (some _, s) =>
    match l.foldl (fun (acc : Option (List (List PByte)) × State) a =>
      match acc with
      | (none, s) => (none, s)
      | (some x, s) => match bulkRead who b a.1 a.2 s with
        | (some y, s) => (some (x ++ [y]), s)
        | (none, s) => (none, s)) (some [], s) with
    | (some x, s) => (some x, takeReads who l s)
    | (none, s) => (none, s)

/-- Write several accesses once every page translates and every piece is ready: false while one waits. -/
def writeAccesses (who : Who) (b : BindingId) (l : List (Nat × List PByte)) (s : State) : Bool × State :=
  match probeAll who b true false (l.map fun a => (a.1, a.2.length)) s with
  | (none, s) => (false, s)
  | (some _, s) =>
    let (ready, s) := (l.flatMap fun a => unitPieces a.1 a.2.length).foldl (fun (acc : Bool × State) p =>
      if acc.1 then bulkReady who b p.1 p.2 acc.2 else acc) (true, s)
    if ready then
      l.foldl (fun (acc : Bool × State) a => if acc.1 then bulkWrite who b a.1 a.2 acc.2 else acc) (true, s)
    else (false, s)

/-- The va of the first poisoned byte of what accesses have read. -/
def firstPoison (l : List (Nat × List PByte)) : Option DWord :=
  l.findSome? fun a => match a.2.findIdx? Prod.snd with
    | some k => some (BitVec.ofNat 64 (a.1 + k))
    | none => none

/-- The little-endian number of marked bytes. -/
def natOfMarked (l : List PByte) : Nat := natOfBytes (plain l)

/-- The translations that an instruction goes on holding after a group: under PM = 1 those it has probed (R126), else none. -/
def keepProbed (s : State) (c : CoreId) (l : List Leaf) : List Leaf := if pmOf s c then l else []

/-- One group of a VLD. -/
def loadGroup (c : CoreId) (r : VRun) (s : State) : VStep × VRun × State :=
  let k := s.core c
  let i := r.i
  let p := k.rp i.pm
  let on := (i.elems r.group).filter fun e => p.getLsbD e
  let n := i.w / 8
  let want := if i.zs ∧ r.primed then [] else i.accesses (if i.zs then selected i p else on)
  match i.spanCheck (if i.zs ∧ r.primed then [] else if i.zs then selected i p else on) with
  | some a => (.fault 5 3 a, r, s)
  | none =>
    match readAccesses (.vector c) k.ctl.xcfg.binding (want.map fun a => a.2) s with
    | (none, s) => (.wait, r, s)
    | (some data, s) =>
      let got := (want.map fun a => a.2.1).zip data
      let one := match data with
        | d :: _ => BitVec.ofNat 64 (natOfMarked d)
        | [] => r.carry
      let s := s.modCore c fun k =>
        let x := if i.zs then on.foldl (fun (x : VReg) e => putE i.w e one.toNat x) (k.rv i.vd)
          else (want.zip data).foldl (fun (x : VReg) a =>
            (indices (a.2.length / n)).foldl (fun (x : VReg) q =>
              putE i.w (a.1.1 + q) (natOfMarked ((a.2.drop (q * n)).take n)) x) x) (k.rv i.vd)
        k.wv i.vd x
      (.done, { r with
        group := r.group + 1
        primed := true
        carry := if i.zs then one else r.carry
        xl := keepProbed s c r.xl
        poison := match r.poison with
          | some a => some a
          | none => firstPoison got }, s)

/-- One group of a VST, counted in the histogram where H = 1 (R150). -/
def storeGroup (c : CoreId) (r : VRun) (s : State) : VStep × VRun × State :=
  let k := s.core c
  let i := r.i
  let p := k.rp i.pm
  let on := (i.elems r.group).filter fun e => p.getLsbD e
  let x := k.rv i.vd
  match i.spanCheck on with
  | some a => (.fault 6 3 a, r, s)
  | none =>
    let l := (i.accesses on).map fun a =>
      (a.2.1, clean (bytesOfNat a.2.2 (bitsOf x.toNat (i.w * a.1) (8 * a.2.2))))
    match writeAccesses (.vector c) k.ctl.xcfg.binding l s with
    | (false, s) => (.wait, r, s)
    | (true, s) =>
      let s := if i.h then s.modCore c fun k => on.foldl (fun (k : Core) e =>
          k.histAdd ((fmtOf i.f).getD fp32) false (getE i.w e x)) k else s
      (.done, { r with group := r.group + 1, primed := true, xl := keepProbed s c r.xl }, s)

/-- One element group of a started instruction. -/
def runGroup (c : CoreId) (r : VRun) (s : State) : VStep × VRun × State :=
  let count (s : State) : State := perfCount 0x04 (c.toNat / 32) (some (coreBinding s c)) 1 s
  match r.i.op.kind with
  | .load => match loadGroup c r s with
    | (.done, r, s) => (.done, r, count s)
    | x => x
  | .store => match storeGroup c r s with
    | (.done, r, s) => (.done, r, count s)
    | x => x
  | _ =>
    let (r, k) := vGroup (drawsOf s c r.i.rpos) (flushAll s) r (s.core c)
    (.done, r, count (s.setCore c k))

/-- The groups that an instruction goes through; an operation of kind `whole` goes through none. -/
def VInstr.steps (i : VInstr) : Nat := if i.op.kind = .whole then 0 else i.groups

/-- Run groups until `upto`, or until one waits or faults; `fuel` is 8, the most groups there are. -/
def runGroups (c : CoreId) (upto : Nat) : (fuel : Nat) → VRun → State → VStep × VRun × State
  | 0, r, s => (.done, r, s)
  | fuel + 1, r, s =>
    if upto ≤ r.group then (.done, r, s)
    else match runGroup c r s with
      | (.done, r, s) => runGroups c upto fuel r s
      | x => x

/-! ## Completion (R137, R154, R156 to R158, R216, R217) -/

/-- Sum neighbours, halving the list; `fuel` bounds the rounds. -/
def sumTree (i : VInstr) (v : FEnv) : (fuel : Nat) → List Nat → BitVec 5 → Bool → Nat × BitVec 5 × Bool
  | 0, l, fl, z => (l.headD 0, fl, z)
  | fuel + 1, l, fl, z =>
    if l.length ≤ 1 then (l.headD 0, fl, z)
    else
      let outs := (indices (l.length / 2)).map fun k => i.sumBoth v (l.getD (2 * k) 0) (l.getD (2 * k + 1) 0)
      sumTree i v fuel (outs.map VOut.bits) (outs.foldl (fun a o => a ||| o.flags) fl) (outs.foldl (fun a o => a || o.fl) z)

/-- Write a scan's or a sum's scalar: g[vb] for integer formats, f[vb] for FP formats (R154, R156, R53). -/
def Core.writeCarry (k : Core) (i : VInstr) (x : Nat) : Core :=
  if i.int then k.modThread 0 fun t => t.wg i.vb (BitVec.ofNat 32 x) else k.wf 0 i.vb (BitVec.ofNat 64 x)

/-- An element for a g register, extended by its format (Table 05-8). -/
def extendE (i : VInstr) (x : Nat) : Word := BitVec.ofInt 32 (intOfBits i.w (i.int && i.signed) x)

/-- The effect of a `whole` operation; `high` is the free upper half of an FP64 element from a g register, and `low` the free
result of VEXTRACT of an FP64 element. -/
def Core.whole (k : Core) (i : VInstr) (high low : Nat) : Core :=
  let pa := k.rp (BitVec.ofNat 3 i.va.toNat)
  let pb := k.rp (BitVec.ofNat 3 i.vb.toNat)
  let pd := BitVec.ofNat 3 i.vd.toNat
  let pm := k.rp i.pm
  let hit := (indices i.vl.toNat).filter fun e => pa.getLsbD e && pm.getLsbD e
  let on := selected i pm
  let n := i.gb.toNat
  let inside := decide (n < i.vl.toNat)
  let toG (v : Word) : Core := k.modThread 0 fun t => t.wg i.vd v
  match i.op with
  | .pand => k.wp pd (pa &&& pb)
  | .por => k.wp pd (pa ||| pb)
  | .pxor => k.wp pd (pa ^^^ pb)
  | .pandn => k.wp pd (pa &&& ~~~pb)
  | .pnot => k.wp pd (~~~pa)
  | .pcount => toG (BitVec.ofNat 32 hit.length)
  | .pany => toG (if hit.isEmpty then 0 else 1)
  | .pall => toG (if hit.length = on.length then 1 else 0)
  | .pfirst => toG (match hit with
    | e :: _ => BitVec.ofNat 32 e
    | [] => 0xFFFFFFFF)
  | .insert => if inside then k.wv i.vd (putE i.w n (high * 2 ^ 32 + i.ga.toNat) (k.rv i.vd)) else k
  | .insertf => if inside then k.wv i.vd (putE i.w n ((k.rv i.va).toNat % 2 ^ 64) (k.rv i.vd)) else k
  | .extract => toG (if !inside then 0 else if i.f = 0 then BitVec.ofNat 32 low else extendE i (getE i.w n (k.rv i.va)))
  | .extractf => k.wf 0 i.vd (BitVec.ofNat 64 (if inside then getE i.w n (k.rv i.va) else 0))
  | _ => k

/-- A free half word, drawn where an FP64 element meets a g register. -/
def drawHalf (i : VInstr) (s : State) : Nat × State :=
  if i.f = 0 ∧ (i.op = .bcast ∨ i.op = .insert ∨ i.op = .extract) then
    let (v, s) := draw s
    (v % 2 ^ 32, s)
  else (0, s)

/-- Raise vector 20 for poison consumed, with its code 0x0014 record (R448). -/
def poisonCause (c : CoreId) (matrix : Bool) (sub : BitVec 8) (va : DWord) (pc : BitVec 17) (s : State) : State :=
  report 1 0 0x0014 (c.setWidth 16) (some (coreBinding s c)) va [sub]
    (s.modCore c fun k => k.addQCause ⟨matrix, 20, sub, va, false, pc⟩)

/-- What an instruction that has processed every group does last: scalar results, the tail of a compare, flags, VSAT, traps. -/
def finishV (c : CoreId) (r : VRun) (s : State) : State :=
  let i := r.i
  let (x, s) := drawHalf i s
  let r := r.prime (s.core c)
  let v := i.env (flushAll s)
  let (r, s) : VRun × State := match i.op.kind with
    | .whole => if max 1 i.groups ≤ r.group then (r, s) else (r, perfCount 0x04 (c.toNat / 32) (some (coreBinding s c)) i.groups (s.modCore c fun k => k.whole i x x))
    | .cmp => (r, s.modCore c fun k =>
        let q := BitVec.ofNat 3 i.vd.toNat
        k.wp q (BitVec.ofNat 1024 ((k.rp q).toNat % 2 ^ i.vl.toNat)))
    | .scan => (r, if i.co then s.modCore c fun k => k.writeCarry i r.carry.toNat else s)
    | .rsum =>
      let (t, fl, z) := sumTree i v 8 (r.parts.map BitVec.toNat) 0 false
      let o := i.sumBoth v (i.cin.getD 0).toNat t
      ({ r with flags := r.flags ||| fl ||| o.flags, fl := r.fl || z || o.fl }, s.modCore c fun k => k.writeCarry i o.bits)
    | _ => (r, s)
  let r := if i.vl = 0 then { r with flags := 0, fl := false } else r
  let mask := trapMask i.fcsr r.flags
  let s := s.modCore c fun k =>
    let k := k.accrue r.flags r.fl
    let k := if r.sat then { k with vec := { k.vec with vxrm := k.vec.vxrm ||| 4 } } else k
    if mask = 0 then k else k.addQCause ⟨false, 10, mask, 0, false, i.pc⟩
  match r.poison with
  | some a => poisonCause c false 2 a i.pc s
  | none => s

/-! ## Start and completion of queued instructions -/

/-- A run that has just started. -/
def VRun.fresh (i : VInstr) : VRun := ⟨i, 0, false, 0, [], 0, none, 0, false, false, none, false, [], false⟩

/-- The active elements of a memory instruction. -/
def activeAll (k : Core) (i : VInstr) : List Nat := selected i (k.rp i.pm)

/-- How the start of an instruction ends: its checks and its probe passed, a cause, or a wait for a walk or the driver. -/
inductive Begin where
  | ok (xl : List Leaf)
  | cause (vec : BitVec 5) (sub : BitVec 8) (eaddr : DWord)
  | wait
deriving DecidableEq, Repr

/-- The checks of R134 and, under PM = 1, the span addresses and the probe of a memory instruction (R126, R127). -/
def beginV (c : CoreId) (i : VInstr) (s : State) : Begin × State :=
  let k := s.core c
  let store := i.op.kind == .store
  match i.check with
  | some sub => (.cause 9 sub 0, s)
  | none =>
    if pmOf s c ∧ (i.op.kind = .load ∨ store) then
      let es := activeAll k i
      match i.spanCheck es with
      | some a => (.cause (if store then 6 else 5) 3 a, s)
      | none => match probeAll (.vector c) k.ctl.xcfg.binding store true ((i.accesses es).map fun a => a.2) s with
        | (some l, s) => (.ok l, s)
        | (none, s) => (.wait, s)
    else (.ok [], s)

/-- Replace the vector queue and the started list. -/
def Core.setV (k : Core) (q : List VInstr) (l : List VRun) : Core := { k with vec := { k.vec with queue := q, started := l } }

/-- The vector registers that an instruction names. -/
def VInstr.vregs (i : VInstr) : List Nat := (i.reads ++ i.writes).filter fun n => n < 32

/-- Every matrix-queue instruction, started or not. -/
def Core.matAll (k : Core) : List MInstr := k.mat.started.map MRun.i ++ k.mat.queue

/-- Every vector-queue instruction, started or not. -/
def Core.vecAll (k : Core) : List VInstr := k.vec.started.map VRun.i ++ k.vec.queue

/-- Its unit is free again: the last group processed, or the last request of VMEM sent (R140). -/
def VRun.freed (r : VRun) : Bool :=
  (decide (r.i.steps ≤ r.group) && (decide (0 < r.i.steps) || decide (r.i.op.unit = .vmem))) || r.sent

/-- The queue may start an instruction (R140, R142, R93). Under PM = 1 (`pm`) a memory instruction awaits its predicate, which its probe
reads (R126). -/
def canStartV (pm : Bool) (k : Core) (i : VInstr) : Bool :=
  !k.frozen && !k.faultPending false && decide (k.vec.started.length < 4)
    && k.vec.started.all (fun p => (decide (p.i.op.unit ≠ i.op.unit) || p.freed)
      && (!meet p.i.writes i.reads || (decide (i.op.unit ≠ .vperm) && !i.selfOverlap))
      && !(pm && decide (i.op.unit = .vmem) && meet p.i.writes (predName i.pm.toNat)))
    && k.matAll.all fun m => decide (i.seq < m.seq) || !meet m.vregs i.vregs

/-- What an instruction writes only as it completes: the result of an operation of one piece, a sum's or a scan's scalar. -/
def VInstr.lateWrites (i : VInstr) : List Nat :=
  match i.op.kind with
  | .whole => i.writes
  | .rsum => i.writes
  | .scan => if i.co then (if i.fp then [i.vb.toNat] else gName i.vb) else []
  | _ => []

/-- Whether an abandoned instruction may have executed groups before it stopped: its second execution must write what the first
wrote, and it counts nothing twice (R121). -/
def repeatable (older : List VInstr) (i : VInstr) : Bool :=
  !i.selfOverlap && decide (i.wa = i.wd) && i.op.kind != .whole && !(i.op.kind == .store && i.h)
    && older.all fun p => !meet p.reads i.writes

/-- Both reach memory, in queue order (R148). -/
def VInstr.bothMem (i p : VInstr) : Bool := decide (i.op.unit = .vmem ∧ p.op.unit = .vmem)

/-- The groups that `i` may have executed once an older `p` in execution has executed g of its own: it writes and reads a register only
after `p` has (R142, R143), and reaches memory only after `p` has (R148). A group of a predicate is as many bits as the instruction has
elements in a group. -/
def VInstr.room (i p : VInstr) (g : Nat) : Nat :=
  let mine := i.reads ++ i.writes
  if !i.conflicts p && !i.bothMem p then i.steps
  else if p.op.kind = .whole ∨ meet p.lateWrites mine then 0
  else if p.steps ≤ g then i.steps
  else if i.bothMem p ∨ p.wa ≠ p.wd ∨ i.wa ≠ i.wd then 0
  else if (p.reads ++ p.writes).any fun n => decide (32 ≤ n ∧ n < 64) && mine.contains n then min g (g * p.per / max i.per 1)
  else g

/-- The started instructions that must have executed their group 0 before an instruction that reads `names` may chain: those that write one
of these, and the older ones that such a one must follow (R142, R143). -/
def leaders (names : List Nat) (l : List VRun) : List Nat :=
  ((indices l.length).foldr (fun n (acc : List Nat) =>
    match l[n]? with
    | none => acc
    | some p =>
      let awaited := acc.any fun m => match l[m]? with
        | some q => q.i.room p.i 0 == 0 && decide (0 < q.i.steps)
        | none => false
      if meet p.i.writes names || awaited then n :: acc else acc) [])

/-- The started instruction of place n executes its group 0, if it has not: none where it cannot, because an older instruction has not
come so far, it writes what its reader needs only as it completes, or its second execution would differ (R121, R142, R143). -/
def leadGroup (c : CoreId) (names : List Nat) (s : State) (n : Nat) : Option State :=
  let l := (s.core c).vec.started
  match l[n]? with
  | none => some s
  | some p =>
    if meet p.i.lateWrites names then none
    else if 0 < p.group ∨ p.i.steps = 0 then some s
    else if p.probed && (l.take n).all (fun q => decide (0 < p.i.room q.i q.group))
        && (n == 0 || repeatable (((l.take n).drop 1).map VRun.i) p.i) then
      match runGroup c p s with
      | (.done, p, s) => some (s.modCore c fun k => k.setV k.vec.queue (k.vec.started.set n p))
      | _ => none
    else none

/-- Every started instruction that an instruction chains on has written its group 0 (R142): none where one cannot. -/
def leadAll (c : CoreId) (i : VInstr) (s : State) : Option State :=
  (leaders i.reads (s.core c).vec.started).foldl (fun (a : Option State) n => a.bind fun s => leadGroup c i.reads s n) (some s)

/-- A started run whose checks have passed: its carry-in is captured (R154), and the free half of an FP64 VBCAST is drawn. -/
def VRun.begun (k : Core) (i : VInstr) (xl : List Leaf) (x : Nat) : VRun :=
  let cin : DWord := if !i.ci then 0 else if i.int then i.gb.setWidth 64
    else BitVec.ofNat 64 (i.carryOf ((k.rv i.vb).toNat % 2 ^ 64))
  { VRun.fresh { i with cin := i.cin.or (if i.sums then some cin else none) } with
    probed := true
    xl := xl
    carry := BitVec.ofNat 64 x }

/-- Start the head of the vector queue. A cause is raised, and a probe waits, only once every older instruction has completed. -/
def startVector (c : CoreId) (s : State) : State :=
  let k := s.core c
  match k.vec.queue with
  | [] => s
  | i :: q =>
    if !canStartV (pmOf s c) k i then s
    else match leadAll c i s with
      | none => s
      | some s =>
        let alone := (s.core c).vec.started.isEmpty
        match beginV c i s with
        | (.ok xl, s) =>
          let (x, s) := if i.op = .bcast then drawHalf i s else (0, s)
          s.modCore c fun k => k.setV q (k.vec.started ++ [VRun.begun k i xl x])
        | (.cause vec sub a, s') =>
          if alone then s'.modCore c fun k => (k.setV q [VRun.fresh i]).addQCause ⟨false, vec, sub, a, true, i.pc⟩ else s
        | (.wait, s') => if alone then s' else s

/-- Raise the fault that stopped the oldest started instruction at its group. -/
def raiseV (c : CoreId) (r : VRun) (vec : BitVec 5) (sub : BitVec 8) (a : DWord) (s : State) : State :=
  s.modCore c fun k => (k.setV k.vec.queue (r :: k.vec.started.drop 1)).addQCause ⟨false, vec, sub, a, true, r.i.pc⟩

/-- A VLD that waits for data sends its requests for the groups to come, as far as their translations are at hand (R140, R147). -/
def sendLoad (c : CoreId) (r : VRun) (s : State) : VRun × State :=
  let k := s.core c
  let i := r.i
  let p := k.rp i.pm
  if i.op.kind ≠ .load ∨ r.sent then (r, s)
  else
    let es := if i.zs then selected i p
      else (indices (i.steps - r.group)).flatMap fun j => (i.elems (r.group + j)).filter fun e => p.getLsbD e
    let (all, s) := ((i.accesses es).flatMap fun a => unitPieces a.2.1 a.2.2).foldl (fun (acc : Bool × State) a =>
      if acc.1 then bulkAsk (.vector c) k.ctl.xcfg.binding a.1 a.2 acc.2 else acc) ((i.spanCheck es).isNone, s)
    ({ r with sent := all }, s)

/-- The oldest started instruction waits: its requests are sent. -/
def waitV (c : CoreId) (r : VRun) (s : State) : State :=
  let (r, s) := sendLoad c r s
  s.modCore c fun k => k.setV k.vec.queue (r :: k.vec.started.drop 1)

/-- Complete the started vector instruction of place n, if no older one conflicts or has yet to reach memory before it. What waits or faults
does so only in the oldest. -/
def completeVector (c : CoreId) (n : Nat) (s : State) : State :=
  let k := s.core c
  match k.vec.started[n]? with
  | none => s
  | some r =>
    if k.frozen ∨ k.faultPending false ∨ (k.vec.started.take n).any (fun p => r.i.conflicts p.i || r.i.bothMem p.i) then s
    else
      let (b, s1) := if r.probed then (Begin.ok r.xl, s) else beginV c r.i s
      match b with
      | .wait => if n = 0 then s1 else s
      | .cause vec sub a => if n = 0 then raiseV c r vec sub a s1 else s
      | .ok xl =>
        let (x, s1) := if !r.probed ∧ r.i.op = .bcast then drawHalf r.i s1 else (r.carry.toNat, s1)
        let r := if r.probed then r else VRun.begun (s1.core c) r.i xl x
        match runGroups c r.i.steps 8 r s1 with
        | (.done, r, s2) =>
          finishV c r (forgetReads (.vector c) (s2.modCore c fun k => k.setV k.vec.queue (k.vec.started.eraseIdx n)))
        | (.wait, r, s2) => if n = 0 then waitV c r s2 else s
        | (.fault vec sub a, r, s2) => if n = 0 then raiseV c r vec sub a s2 else s

end Sys2Proof.Machine
end

