-- ==== Sys2Proof/Machine/MatrixRun.lean ====
section
/-!
DEFINITION. The matrix queue at work: tile memory (R174 to R178, R182), array instructions row by row (R192, R195, R196, R203, R206),
start and completion (R164, R172, R179, R199 to R201, R207).
-/

namespace Sys2Proof.Machine

/-! ## Memory rows of the tile loader -/

/-- The address of memory row r of a strided instruction (R174). -/
def MInstr.rowAddr (i : MInstr) (r : Nat) : Nat :=
  (BitVec.ofInt 64 ((i.base.toNat : Int) + (r : Int) * i.stride.toInt)).toNat

/-- Scale rows S (R167). -/
def MInstr.scaleRows (i : MInstr) : Nat := shRows i.shape * i.p / 32

/-- Cells C of a row. -/
def MInstr.cells (i : MInstr) : Nat := cellsOf (shA i.shape) (shBytes i.shape)

/-- Number and bytes of an instruction's memory rows (R174 to R177). -/
def MInstr.memRows (i : MInstr) : Nat × Nat :=
  let tr := shTr i.shape
  match i.op with
  | .tldg => (shRows i.shape, shBytes i.shape)
  | .tlds => if tr then (i.cells, i.scaleRows) else (i.scaleRows, i.cells)
  | .tsts => if tr then (i.cells, i.scaleRows) else (i.scaleRows, i.cells)
  | _ => if tr then (i.cells, shRows i.shape * i.p * tileW (shA i.shape) / 8) else (shRows i.shape, shBytes i.shape)

/-- The memory rows of an instruction that has its row addresses: va and bytes of each. -/
def MInstr.accesses (i : MInstr) : List (Nat × Nat) :=
  (indices i.memRows.1).map fun r =>
    (if i.op = .tldg then ((i.addrs.getD []).getD r 0).toNat else i.rowAddr r, i.memRows.2)

/-- An instruction as it starts: a TLDG reads its row addresses, unless it keeps those of an earlier start (R177). -/
def MInstr.gathered (i : MInstr) (k : Core) : MInstr :=
  let rows : List DWord :=
    if i.op = .tldg then
      (indices (shRows i.shape)).map fun r => i.base + (BitVec.ofNat 64 (getE 64 r (k.rv i.v)) <<< i.scale.toNat)
    else []
  { i with addrs := some (i.addrs.getD rows) }

/-- Instructions that move memory rows. -/
def MOp.moves : MOp → Bool
  | .tld | .tst | .tldg | .tlds | .tsts => true
  | _ => false

/-- Instructions that write memory. -/
def MOp.stores : MOp → Bool
  | .tst | .tsts => true
  | _ => false

/-- Instructions with one boundary only, at 0 (R181, R209). -/
def MInstr.oneStep (i : MInstr) : Bool :=
  i.op == .tsts || (shTr i.shape && (i.op.moves || i.op == .accrd || i.op == .accrdV))

/-- The units that an instruction goes through (R120); the rest acts at completion. -/
def MInstr.units (i : MInstr) : Nat :=
  if i.oneStep then 1
  else match i.op with
    | .tld => shRows i.shape
    | .tst => shRows i.shape
    | .tldg => shRows i.shape
    | .tlds => i.scaleRows
    | .mma => shRows i.shape
    | .wload => 32
    | .mvm => shRows i.shape
    | .mvmt => shRows i.shape
    | .accrd => shRows i.shape
    | .accrdV => shRows i.shape
    | .accwr => shRows i.shape
    | _ => 0

/-- The units done at once: a row pair when folded. -/
def MInstr.unit (i : MInstr) : Nat := if i.op = .mma ∧ i.folded then 2 else 1

/-! ## Tile memory, one unit -/

/-- The number of bytes [o, o + n). -/
def bytesAt (l : List PByte) (o n : Nat) : Nat := natOfMarked ((l.drop o).take n)

/-- Place the low n bytes of row r, read from va `a`, and its poison. -/
def loadRow (t : BitVec 3) (r n a : Nat) (l : List PByte) (k : Core) : Core :=
  k.writeRow t r (rowLow ((k.treg t).row r) n (natOfMarked l)) (firstPoison [(a, l)])

/-- Place C memory rows of cells, each with its va, into the register's rows (R175). -/
def loadCells (i : MInstr) (rows : List (Nat × List PByte)) (k : Core) : Core :=
  let data := rows.map Prod.snd
  let w := tileW (shA i.shape)
  let n := shBytes i.shape
  (indices (shRows i.shape)).foldl (fun (k : Core) r =>
    let cells := data.map fun l => bitsOf (natOfMarked l) (w * r * i.p) (w * i.p)
    let o := w * r * i.p / 8
    let psn := firstPoison (rows.map fun a => (a.1 + o, (a.2.drop o).take ((w * i.p + 7) / 8)))
    let v := (cells.mapIdx fun c x => x * 2 ^ (w * i.p * c)).sum
    k.writeRow i.t r (rowLow ((k.treg i.t).row r) n v) psn) k

/-- The bytes of memory row c of cells of a register (R175), each with its row's poison bit. -/
def storeCells (i : MInstr) (t : TileReg) (c : Nat) : List PByte :=
  let w := tileW (shA i.shape)
  let b := w * i.p / 8
  (indices (shRows i.shape)).flatMap fun r =>
    marked (t.rowPsn r) (bytesOfNat b (bitsOf (t.row r).toNat (w * i.p * c) (w * i.p)))

/-- Place a byte of a scale row. -/
def putScale (j c : Nat) (b : Byte) (t : TileReg) : TileReg :=
  let old := (t.scale.get 0 j).toNat
  { t with scale := t.scale.set 0 j (BitVec.ofNat 512
      (old / 2 ^ (8 * (c + 1)) * 2 ^ (8 * (c + 1)) + b.toNat * 2 ^ (8 * c) + old % 2 ^ (8 * c))) }

/-- Byte c of scale row j. -/
def TileReg.scaleByte (t : TileReg) (j c : Nat) : Byte := BitVec.ofNat 8 (bitsOf (t.scale.get 0 j).toNat (8 * c) 8)

/-- Place scale bytes: memory row q's byte b belongs to scale row q, cell b, or the other way round when transposed (R176). -/
def loadScale (i : MInstr) (first : Nat) (data : List (List PByte)) (t : TileReg) : TileReg :=
  let rows : List (Nat × List PByte) := data.mapIdx fun q l => (first + q, l)
  rows.foldl (fun (t : TileReg) a =>
    (indices a.2.length).foldl (fun (t : TileReg) b =>
      let x : Byte := (a.2.getD b (0, false)).1
      if shTr i.shape then putScale b a.1 x t else putScale a.1 b x t) t) t

/-- The data of a one-boundary store. -/
def storeData (i : MInstr) (t : TileReg) : List (List PByte) :=
  (indices i.memRows.1).map fun q =>
    if i.op = .tsts then
      clean ((indices i.memRows.2).map fun b => if shTr i.shape then t.scaleByte b q else t.scaleByte q b)
    else storeCells i t q

/-- The first span address fault of memory rows. -/
def rowsFault (l : List (Nat × Nat)) : Option DWord := l.findSome? fun a => spanFault a.1 a.2

/-- One unit of a tile memory instruction. Under PM = 0 a unit of several rows checks the span addresses of all of them before it translates any
(DESIGN CHOICE: R174, R175 and R182 do not order the two, notes/assumptions/20.md). -/
def tileUnit (c : CoreId) (r : MRun) (s : State) : VStep × MRun × State :=
  let i := r.i
  let k := s.core c
  let b := k.ctl.xcfg.binding
  let rows := i.accesses
  let now := if i.oneStep then rows else (rows.drop r.pos).take 1
  let next (p : Option DWord) : MRun := { r with
    pos := r.pos + 1
    xl := keepProbed s c r.xl
    poison := r.poison.or p }
  match rowsFault now with
  | some a => (.fault (if i.op.stores then 6 else 5) 3 a, r, s)
  | none =>
    if i.op.stores then
      let t := k.treg i.t
      let data := if i.oneStep then storeData i t
        else [marked (t.rowPsn r.pos) (bytesOfNat i.memRows.2 (t.row r.pos).toNat)]
      match writeAccesses (.matrix c) b ((now.map Prod.fst).zip data) s with
      | (true, s) => (.done, next none, s)
      | (false, s) => (.wait, r, s)
    else match readAccesses (.matrix c) b now s with
      | (none, s) => (.wait, r, s)
      | (some data, s) =>
        let s := s.modCore c fun k =>
          if i.op = .tlds then k.setTreg i.t (loadScale i (if i.oneStep then 0 else r.pos) data (k.treg i.t))
          else if i.oneStep then loadCells i ((now.map Prod.fst).zip data) k
          else loadRow i.t r.pos i.memRows.2 ((now.map Prod.fst).headD 0) (data.headD []) k
        (.done, next (firstPoison ((now.map Prod.fst).zip data)), s)

/-! ## Array instructions, one unit -/

/-- Count an ACCRD element in FMT_A (R239). -/
def Core.histElem (k : Core) (fmt : Nat) (o : AccOut) : Core :=
  match fmtOf fmt with
  | some f => k.histAdd f o.flushed o.bits
  | none => match intOf fmt, k.ctl.histBase with
    | some (w, sg), some b =>
      let x := (intOfBits w sg o.bits).natAbs
      let bin := if x = 0 then 0 else (max 2 (min 61 ((Nat.log2 x : Int) - b.toInt + 2))).toNat
      { k with ctl := { k.ctl with hist := k.ctl.hist.modify 0 bin (satAdd · 1) } }
    | _, _ => k

/-- Write element e of width w of the registers from v on (R203). -/
def Core.putSpan (k : Core) (v : BitVec 5) (w e x : Nat) : Core :=
  let r := v + BitVec.ofNat 5 (w * e / 8192)
  k.wv r (putE w (w * e % 8192 / w) x (k.rv r))

/-- Element e of width w of the registers from v on. -/
def Core.getSpan (k : Core) (v : BitVec 5) (w e : Nat) : Nat :=
  getE w (w * e % 8192 / w) (k.rv (v + BitVec.ofNat 5 (w * e / 8192)))

/-- A run that has met flags and poison; the first poison's va stays. -/
def MRun.met (r : MRun) (fl : BitVec 5) (z : Bool) (psn : Option DWord) : MRun :=
  { r with flags := r.flags ||| fl, fl := r.fl || z, poison := r.poison.or psn }

/-- Deliver k-row `row` of an MMA to every array of AM. -/
def deliverRow (i : MInstr) (v : FEnv) (row : Nat) (a : Core × MRun) : Core × MRun :=
  i.arrays.foldl (fun (a : Core × MRun) q =>
    let ta := a.1.treg (i.ta q)
    let tb := a.1.treg (i.tb q)
    let id := i.acc.toNat
    let (t, fl, z) := kRow i v ta tb row ((a.1.array q).tile id)
    let psn := (ta.rowFrom row).or (tb.rowFrom row)
    (a.1.modAcc q id fun _ => t.poisoned psn, a.2.met fl z psn)) a

/-- Deliver x row `row` of an MVM or MVMT to every array of AM. -/
def deliverX (i : MInstr) (v : FEnv) (row : Nat) (a : Core × MRun) : Core × MRun :=
  i.arrays.foldl (fun (a : Core × MRun) q =>
    let tx := a.1.treg (i.ta q)
    let id := i.acc.toNat
    match (a.1.array q).weights with
    | none => a
    | some w =>
      let (t, fl, z) := xRow i v tx w row ((a.1.array q).tile id)
      let psn := (tx.rowFrom row).or (if w.psn then some w.psnVa else none)
      (a.1.modAcc q id fun _ => t.poisoned psn, a.2.met fl z psn)) a

/-- The output elements of an ACCRD at positions (p, q), with the core's histogram and the run's flags. -/
def readElems (i : MInstr) (v : FEnv) (d : Draws) (t : AccTile) (l : List (Nat × Nat)) (a : Core × MRun) :
    List Nat × Core × MRun :=
  l.foldl (fun (acc : List Nat × Core × MRun) e =>
    let o := accElem t (shA i.shape) (v.drawn d (e.1 * t.n + e.2)) e.1 e.2
    let k := if i.h then acc.2.1.histElem (shA i.shape) o else acc.2.1
    (acc.1 ++ [o.bits], k, { acc.2.2 with flags := acc.2.2.flags ||| o.flags, fl := acc.2.2.fl || o.fl })) ([], a)

/-- Write a register row from ACCRD: its elements, zeros above them within RB, and its poison bit (R203, R162). -/
def accRow (i : MInstr) (t : AccTile) (row : Nat) (l : List Nat) (k : Core) : Core :=
  let w := tileW (shA i.shape)
  let v := (l.mapIdx fun e x => x * 2 ^ (w * e)).sum
  k.writeRow i.t row (rowLow ((k.treg i.t).row row) (shBytes i.shape) v) t.poisonFrom

/-- One unit of an ACCRD: an accumulator row, or the whole tile transposed. -/
def accUnit (i : MInstr) (v : FEnv) (d : Draws) (pos : Nat) (a : Core × MRun) : Core × MRun :=
  let t := (a.1.array i.a.toNat).tile i.acc.toNat
  let w := tileW (shA i.shape)
  let tr := shTr i.shape
  let lines := if tr then (indices t.n).map fun q => (q, (indices t.m).map fun p => (p, q))
    else [(pos, (indices t.n).map fun q => (pos, q))]
  lines.foldl (fun (a : Core × MRun) ln =>
    let (l, k, r) := readElems i v d t ln.2 a
    if i.op = .accrd then (accRow i t ln.1 l k, r)
    else ((l.zipIdx).foldl (fun (k : Core) x => k.putSpan i.v w (ln.1 * ln.2.length + x.2) x.1) k, r)) a

/-- One unit of an array instruction. -/
def arrayUnit (d : Draws) (service : Bool) (r : MRun) (k : Core) : MRun × Core :=
  let i := r.i
  let v := i.env service
  let out : FEnv := { envOf i.fcsr service with mode := i.mode }
  let rows := (indices i.unit).filterMap fun q => if r.pos + q < i.units then some (r.pos + q) else none
  let (k, r') : Core × MRun := match i.op with
    | .mma => rows.foldl (fun a q => deliverRow i v q a) (k, r)
    | .mvm => deliverX i v r.pos (k, r)
    | .mvmt => deliverX i v r.pos (k, r)
    | .accrd => accUnit i out d r.pos (k, r)
    | .accrdV => accUnit i out d r.pos (k, r)
    | .accwr =>
      let n := shN i.shape
      let w := tileW (shA i.shape)
      (k.modAcc i.a.toNat i.acc.toNat fun t => (indices n).foldl (fun (t : AccTile) q =>
        t.setVal 0 r.pos q (k.getSpan i.v w (r.pos * n + q))) t, r)
    | _ => (k, r)
  ({ r' with pos := r.pos + i.unit }, k)

/-- The reuse latch of a register as it stands (R186). -/
def Core.latchOf (k : Core) (t : BitVec 3) : Option Latch := some ⟨t, (k.treg t).tag⟩

/-- An instruction that delivers operand rows to the arrays: not a WLOAD whose register every array has latched (R195, Table 07-11). -/
def MInstr.feeds (i : MInstr) (k : Core) : Bool :=
  i.op.delivers && !(i.op == .wload && i.arrays.all fun q => decide ((k.array q).latchB = k.latchOf i.t))

/-- The tile's grant lets no row of an instruction be delivered (R399); `free` while an exception entry is pending under PM = 1, which
lifts the gate (R400). -/
def gated (s : State) (c : CoreId) (i : MInstr) (free : Bool) : Bool :=
  i.feeds (s.core c) && !free && decide ((s.tile (tileOf c)).grant = 0)

/-- One unit of a started matrix-queue instruction; `free` as in `gated`. -/
def runUnit (c : CoreId) (free : Bool) (r : MRun) (s : State) : VStep × MRun × State :=
  if r.i.op.moves then tileUnit c r s
  else if gated s c r.i free then (.wait, r, s)
  else
    let feeds := r.i.feeds (s.core c)
    let (r', k) := arrayUnit (drawsOf s c r.i.rpos) (flushAll s) r (s.core c)
    let s := s.setCore c k
    (.done, r', if feeds then perfCount 0x02 (c.toNat / 32) (some (coreBinding s c)) 1 s else s)

/-- Run units until `upto`, or until one waits or faults; `fuel` bounds the units. -/
def runUnits (c : CoreId) (free : Bool) (upto : Nat) : (fuel : Nat) → MRun → State → VStep × MRun × State
  | 0, r, s => (.done, r, s)
  | fuel + 1, r, s =>
    if upto ≤ r.pos then (.done, r, s)
    else match runUnit c free r s with
      | (.done, r, s) => runUnits c free upto fuel r s
      | x => x

/-! ## Start and completion -/

/-- A run that has not begun. -/
def MRun.fresh (i : MInstr) : MRun := ⟨i, 0, 0, false, none, false, []⟩

/-- The checks of a start (R172, R201) and, under PM = 1, the span addresses and the probe (R126), with the instruction as it starts. -/
def beginM (c : CoreId) (i : MInstr) (s : State) : Begin × MInstr × State :=
  let k := s.core c
  match i.check k with
  | some sub => (.cause 8 sub 0, i, s)
  | none =>
    let i := i.gathered k
    if pmOf s c ∧ i.op.moves then
      match rowsFault i.accesses with
      | some a => (.cause (if i.op.stores then 6 else 5) 3 a, i, s)
      | none => match probeAll (.matrix c) k.ctl.xcfg.binding i.op.stores true i.accesses s with
        | (some l, s) => (.ok l, i, s)
        | (none, s) => (.wait, i, s)
    else (.ok [], i, s)

/-- What a start does at once: the tag of a register it writes, the accumulator tile it allocates or takes (R164, R200). -/
def startEffects (i : MInstr) (k : Core) : Core :=
  let s := i.accShape
  let alloc (k : Core) (a : Nat) : Core := k.modAcc a i.acc.toNat fun _ => newAcc s.1 s.2.1 s.2.2.1 s.2.2.2
  let take (k : Core) (a : Nat) : Core := k.modAcc a i.acc.toNat fun t => { t with part := true }
  let write : Core := k.modTag i.t fun _ => mkTag true false i.shape
  let sum : Core := i.arrays.foldl (if i.zacc then alloc else take) k
  match i.op with
  | .tld => write
  | .tldg => write
  | .tzero => write
  | .accrd => write
  | .tlds => k.modTag i.t (setPart true)
  | .mma => sum
  | .mvm => sum
  | .mvmt => sum
  | .accwr => alloc k i.a.toNat
  | _ => k

/-- Release an accumulator id. -/
def Core.freeAcc (k : Core) (a id : Nat) : Core := k.modAcc a id fun _ => .reset

/-- What an instruction does on completion (R164, R178, R186, R195, R200). -/
def finishEffects (i : MInstr) (k : Core) : Core :=
  let id := i.acc.toNat
  let a := i.a.toNat
  let done (k : Core) (q : Nat) : Core := k.modAcc q id fun t => { t with part := false }
  let latchA (k : Core) (q : Nat) : Core := k.setArray q { k.array q with latchA := k.latchOf (i.ta q) }
  let release (k : Core) : Core := if i.rel then k.freeAcc a id else k
  let toG (v : Word) : Core := k.modThread 0 fun t => t.wg i.v v
  match i.op with
  | .tld => k.modTag i.t (setPart false)
  | .tldg => k.modTag i.t (setPart false)
  | .tlds => k.modTag i.t fun w => setSc (setPart false w)
  | .tzero =>
    let k := (indices 64).foldl (fun (k : Core) r => k.writeRow i.t r 0 none) k
    k.setTreg i.t { k.treg i.t with scale := .empty, tag := mkTag false true i.shape }
  | .ttag => toG (k.treg i.t).tag
  | .mma => i.arrays.foldl (fun k q =>
      let k := latchA (done k q) q
      k.setArray q { k.array q with latchB := k.latchOf (i.tb q) }) k
  | .mvm => i.arrays.foldl (fun k q => latchA (done k q) q) k
  | .mvmt => i.arrays.foldl (fun k q => latchA (done k q) q) k
  | .wload =>
    let t := k.treg i.t
    let rows := (indices 32).foldl (fun (x : Table Row) r => x.set 0 r (BitVec.ofNat 1024 ((t.row r).toNat % 2 ^ 512))) .empty
    let w : Weights := ⟨BitVec.ofNat 4 (shA i.shape), rows, (t.rowsFrom 32).isSome, (t.rowsFrom 32).getD 0⟩
    i.arrays.foldl (fun k q => k.setArray q { k.array q with weights := some w, latchB := k.latchOf i.t }) k
  | .accrd => release (k.modTag i.t (setPart false))
  | .accrdV => release k
  | .accwr => done k a
  | .accfree => k.freeAcc a id
  | .acctag => toG (accTag (k.array a) id)
  | _ => k

/-- Complete an instruction that has done every unit: its effects, flags, traps and poison (R199, R205, R217). -/
def finishM (c : CoreId) (r : MRun) (s : State) : State :=
  let i := r.i
  let mask := trapMask i.fcsr r.flags
  let s := s.modCore c fun k =>
    let k := (finishEffects i k).accrue r.flags r.fl
    if mask = 0 then k else k.addQCause ⟨true, 10, mask, 0, false, i.pc⟩
  match r.poison with
  | none => s
  | some a => poisonCause c true 3 a i.pc s

/-- Replace the matrix queue and the started list. -/
def Core.setM (k : Core) (q : List MInstr) (l : List MRun) : Core := { k with mat := { k.mat with queue := q, started := l } }

/-- Two lists share a member. -/
def share {α : Type} [DecidableEq α] (a b : List α) : Bool := a.any fun x => b.contains x

/-- The queue may start an instruction (R92, R93, R179, R207). -/
def canStartM (k : Core) (i : MInstr) : Bool :=
  !k.frozen && !k.faultPending true
    && k.mat.started.all (fun r =>
      let p := r.i
      !share p.tWrites i.tReads && !share (p.tReads ++ p.tWrites) i.tWrites && !p.op.tileMem
        && !(p.op.delivers && i.op.delivers && !(i.op == .wload && (p.op == .mvm || p.op == .mvmt)))
        && !(p.op.port && i.op.port) && !share p.accNames i.accNames)
    && k.vecAll.all fun v => decide (i.seq < v.seq) || !meet v.vregs i.vregs

/-- Begin an instruction whose checks have passed. -/
def MRun.begun (i : MInstr) (xl : List Leaf) : MRun := { MRun.fresh i with probed := true, xl := xl }

/-- Start the head of the matrix queue. A cause is raised, and a probe waits, only once every older instruction has completed. -/
def startMatrix (c : CoreId) (s : State) : State :=
  let k := s.core c
  match k.mat.queue with
  | [] => s
  | i :: q =>
    if !canStartM k i then s
    else
      let alone := k.mat.started.isEmpty
      match beginM c i s with
      | (.ok xl, i, s) => s.modCore c fun k => (startEffects i k).setM q (k.mat.started ++ [MRun.begun i xl])
      | (.cause vec sub a, _, s') =>
        if alone then s'.modCore c fun k => (k.setM q [MRun.fresh i]).addQCause ⟨true, vec, sub, a, true, i.pc⟩ else s
      | (.wait, _, s') => if alone then s' else s

/-- MPROG of a run (R120). -/
def MRun.mprog (r : MRun) : Nat := if r.i.op = .mma then r.pos * r.i.p else r.pos

/-- Raise the fault that stopped the oldest started instruction at its unit. -/
def raiseM (c : CoreId) (r : MRun) (vec : BitVec 5) (sub : BitVec 8) (a : DWord) (s : State) : State :=
  s.modCore c fun k => (k.setM k.mat.queue (r :: k.mat.started.drop 1)).addQCause ⟨true, vec, sub, a, true, r.i.pc⟩

/-- Complete the started matrix-queue instruction of place n. What waits or faults does so only in the oldest; a WLOAD's block
replacement waits for an older delivering instruction. `free` as in `gated`. -/
def completeMatrix (c : CoreId) (n : Nat) (free : Bool) (s : State) : State :=
  let k := s.core c
  match k.mat.started[n]? with
  | none => s
  | some r =>
    if k.frozen ∨ k.faultPending true ∨ (r.i.op = .wload ∧ (k.mat.started.take n).any fun p => p.i.op.delivers) then s
    else
      let (b, i, s1) := if r.probed then (Begin.ok r.xl, r.i, s) else beginM c r.i s
      match b with
      | .wait => if n = 0 then s1 else s
      | .cause vec sub a => if n = 0 then raiseM c r vec sub a s1 else s
      | .ok xl =>
        let s1 := if r.probed then s1 else s1.modCore c (startEffects i)
        let r := { r with i := i, probed := true, xl := xl }
        match runUnits c free r.i.units (r.i.units + 1) r s1 with
        | (.done, r, s2) =>
          finishM c r (forgetReads (.matrix c) (s2.modCore c fun k => k.setM k.mat.queue (k.mat.started.eraseIdx n)))
        | (.wait, r, s2) => if n = 0 then s2.modCore c fun k => k.setM k.mat.queue (r :: k.mat.started.drop 1) else s
        | (.fault vec sub a, r, s2) => if n = 0 then raiseM c r vec sub a s2 else s

end Sys2Proof.Machine
end

