-- ==== Sys2Proof/Machine/Hub.lean ====
section
/-!
DEFINITION. The descriptor front end and the completion writer: what every descriptor shares (R300 to R314, R321 to R323, R494).
-/

namespace Sys2Proof.Machine

/-! ## Completions (R306, R309, R311, R313) -/

/-- Code of Table 11-10. -/
def Status.code : Status → Byte
  | .ok => 0x00
  | .rejectState => 0x01
  | .rejectFormat => 0x02
  | .faultUnresolved => 0x03
  | .deadlineMissed => 0x04
  | .partialSum => 0x05
  | .seedSkew => 0x06
  | .aborted => 0x07
  | .numericFallback => 0x08
  | .threadHalt => 0x09
  | .hwError => 0x0A

/-- The statuses that signal the token and leave no barrier (R309, R310). -/
def Status.good : Status → Bool
  | .ok => true
  | .partialSum => true
  | .numericFallback => true
  | _ => false

/-- The entries that a completion needs (R306). -/
def Completion.need (c : Completion) : Nat := if c.slot.isSome then 2 else 1

/-- Entry free of a completion ring: 2^SIZE − ((TAIL − HEAD) mod 2^32) (R306). -/
def CompRing.room (q : CompRing) : Nat := 2 ^ q.size.toNat - (q.tail - q.head).toNat

/-- The core that NOTIFY names, if V = 1 and the field is one that the checks of R311 and R322 pass. -/
def notifyCore (s : State) (d : Desc) : Option CoreId :=
  let n := d.num 126 2
  let c : CoreId := BitVec.ofNat 9 n
  match d.binding with
  | some b =>
    if bitsOf n 15 1 = 1 ∧ bitsOf n 9 6 = 0 ∧ d.opcode ≠ 9 ∧ d.opcode ≠ 10 ∧ d.opcode ≠ 11 ∧ coreIn (s.bnd b) c then some c
    else none
  | none => none

/-- TOKEN (Table 11-7). -/
def Desc.token (d : Desc) : Nat := d.num 24 8

/-- A completion joins its ring's queue; OVF is set when it must wait for a free entry (R306). -/
def queueCompletion (q : CqId) (c : Completion) (s : State) : State :=
  s.modCq q fun x =>
    let before := (x.waiting.map Completion.need).sum
    { x with waiting := x.waiting ++ [c], ovf := x.ovf || (x.en && decide (x.room < before + c.need)) }

/-- A descriptor finishes now: its final completion waits to be written, and its reads are forgotten. STARTED is FINISHED for one
that never started, ACCEPTED for one rejected at acceptance (R307, R313). -/
def finishDesc (r : RingId) (i : Nat) (st : Status) (detail : List Byte) (s : State) : State :=
  match s.desc r i with
  | none => s
  | some d =>
    if d.ended then s
    else
      let now := s.time.count
      let started := match d.started with
        | some t => t
        | none => if st = .rejectFormat then d.accepted else now
      let tok := d.token
      let c : Completion :=
        { ring := r
          index := i
          ringIndex := d.ringIndex
          tag := d.tag
          status := st
          opcode := BitVec.ofNat 8 d.opcode
          binding := BitVec.ofNat 16 d.bindNum
          accepted := d.accepted
          started := started
          finished := if st = .rejectFormat ∧ d.started = none then d.accepted else now
          final := true
          detail := detail
          slot := none
          irq := d.flag 1
          signal := if st.good && bitsOf tok 62 1 == 1 then some (BitVec.ofNat 12 (bitsOf tok 38 12)) else none
          notify := notifyCore s d }
      let s := if st = .ok then s else perfCount 0x31 0 d.binding 1 s
      let s := dropReturned (.record r i) (dropReturned (.job r i) (s.modDesc r i fun x => { x with ended := true }))
      queueCompletion (s.ring r).cq c s

/-- The interim completion of a thread halt of a LAUNCH (R318, Table 11-11): global core, thread, the emergency slot. -/
def haltCompletion (r : RingId) (i : Nat) (c : CoreId) (t : ThreadId) (slot : List Byte) (s : State) : State :=
  match s.desc r i with
  | none => s
  | some d =>
    queueCompletion (s.ring r).cq
      { ring := r
        index := i
        ringIndex := d.ringIndex
        tag := d.tag
        status := .threadHalt
        opcode := BitVec.ofNat 8 d.opcode
        binding := BitVec.ofNat 16 d.bindNum
        accepted := d.accepted
        started := d.started.getD s.time.count
        finished := s.time.count
        final := false
        detail := bytesOf 2 c ++ [t.setWidth 8, 0] ++ slot.take 16
        slot := some (slot.drop 16)
        irq := true
        signal := none
        notify := none } s

/-- The 60 bytes of an entry below its PHASE word (Table 11-9). -/
def entryBytes (c : Completion) : List Byte :=
  bytesOf 4 c.tag ++ [c.status.code, c.opcode] ++ bytesOf 2 c.binding ++ bytesOf 8 c.accepted ++ bytesOf 8 c.started
    ++ bytesOf 8 c.finished ++ bytesOfNat 4 (c.ring.toNat + 2 ^ 12 * bit c.final + 2 ^ 13 * bit c.slot.isSome)
    ++ bytesOf 4 c.ringIndex ++ (c.detail ++ List.replicate 20 0).take 20

/-- PHASE of entry n of a ring of 2^size entries (R306). -/
def phaseOf (n size : Nat) : Nat := 1 - n / 2 ^ size % 2

/-- The PHASE word of entry n. -/
def phaseWord (n size : Nat) : List Byte := bytesOfNat 4 (phaseOf n size * 2 ^ 31)

/-- Write one 64-byte entry n of a completion ring. -/
def writeEntry (q : CompRing) (n : Nat) (bytes60 : List Byte) (s : State) : State :=
  hostWrite none (BitVec.ofNat 64 (q.base.toNat * 4096 + 64 * (n % 2 ^ q.size.toNat)))
    (clean (bytes60 ++ phaseWord n q.size.toNat)) s

/-! ## Start points (R308, R310) -/

/-- The descriptor that waits at a ring's start point: the first that has not started. One that has ended unstarted holds the start point
until its final entry is written, when it is complete (R308). -/
def SubRing.startPoint (q : SubRing) : Option Desc := match q.descs.find? fun d => d.started.isNone with
  | some d => if d.ended then none else some d
  | none => none

/-- Every earlier descriptor of the ring has completed. -/
def SubRing.allBefore (q : SubRing) (d : Desc) : Bool := match q.descs with
  | [] => true
  | x :: _ => decide (x.index = d.index)

/-- ORDERED (Table 11-6). -/
def Desc.ordered (d : Desc) : Bool := d.flag 0

/-- BARRIER is looked at when the condition of the ORDERED descriptor at the start point is first met: under BARRIER it is to complete
ABORTED, and no later BARRIER reaches it (R310). -/
def settleBarrier (r : RingId) (s : State) : State :=
  let q := s.ring r
  match q.startPoint with
  | some d =>
    if d.ordered && q.allBefore d && !d.settled then
      s.modDesc r d.index fun x => { x with settled := true, doomed := q.barrier }
    else s
  | none => s

/-- A token wait is met (R309). -/
def tokenMet (s : State) (d : Desc) : Bool :=
  let t := d.token
  bitsOf t 63 1 == 0
    || decide ((s.hub.tokens.get 0 (bitsOf t 50 12) - BitVec.ofNat 32 (bitsOf t 0 32)).toNat < 2 ^ 31)

/-- The opcodes that take a hub engine at their start (R494). -/
def Desc.needsEngine (d : Desc) : Bool :=
  match d.opcode with
  | 0x01 => d.raw.getLsbD (8 * 82 + 1)
  | 0x02 => true
  | 0x03 => true
  | 0x04 => true
  | 0x06 => true
  | 0x07 => !d.raw.getLsbD (8 * 41)
  | 0x09 => d.num 104 4 != 0
  | 0x0D => true
  | _ => false

/-- The lowest-numbered free hub engine (R494). -/
def freeEngine (s : State) : Option (BitVec 6) :=
  ((indices 64).find? fun e => (s.hub.engines.get none e).isNone).map (BitVec.ofNat 6)

/-- A descriptor takes an engine. -/
def takeEngine (r : RingId) (i : Nat) (e : BitVec 6) (s : State) : State :=
  { s with hub := { s.hub with engines := s.hub.engines.set none e.toNat (some (r, i)) } }.modDesc r i
    fun d => { d with engine := some e }

/-- An engine is free again. -/
def freedEngine (e : BitVec 6) (s : State) : State := { s with hub := { s.hub with engines := s.hub.engines.set none e.toNat none } }

/-- The log record of a job gives its engine back (R494). -/
def releaseRecord (r : RingId) (i : Nat) (s : State) : State :=
  match ((s.desc r i).bind fun d => d.job.log).bind LogRec.engine with
  | some e => modRec r i (fun l => { l with engine := none }) (freedEngine e s)
  | none => s

/-- A descriptor gives its engine back. -/
def releaseEngine (r : RingId) (i : Nat) (s : State) : State :=
  match s.desc r i with
  | some d => match d.engine with
    | some e => (freedEngine e s).modDesc r i fun d => { d with engine := none }
    | none => s
  | none => s

/-- DEADLINE (Table 11-6). -/
def Desc.deadline (d : Desc) : Nat := d.num 16 8

/-- The counter has passed a nonzero deadline (R48). -/
def deadlinePassed (s : State) (d : Desc) : Bool := d.deadline != 0 && decide (d.deadline < s.time.count.toNat)

/-- Legality by module state (Table 11-14); no descriptor is fetched before SERVICE or SERVING. -/
def legalModule (st : ModState) (op : Nat) : Bool :=
  let always := op == 0x00 || op == 0x0C || op == 0x0E
  let drains := op == 0x02 || op == 0x06 || op == 0x07 || op == 0x08 || op == 0x0A
  match st with
  | .service => true
  | .serving => true
  | .draining => always || drains
  | .faulted => always
  | _ => false

/-- Legality by binding state (Table 11-15). -/
def legalBinding (st : BindState) (op : Nat) : Bool :=
  op == 0x00 || op == 0x0C || op == 0x0E || (if op = 0x09 then decide (st = .free) else decide (st = .bound))

/-- R322, first case: a NOTIFY core outside the binding's sections. -/
def notifyOutside (s : State) (d : Desc) : Bool :=
  match d.binding with
  | some b => d.raw.getLsbD (8 * 126 + 15) && !coreIn (s.bnd b) (BitVec.ofNat 9 (d.num 126 2))
  | none => false

/-- The checks of R321 and the NOTIFY check of R322. -/
def legal (s : State) (d : Desc) : Bool :=
  legalModule s.mod.state d.opcode
    && (match d.binding with
      | some b => legalBinding (s.bnd b).state d.opcode
      | none => true)
    && !notifyOutside s d

/-- The conditions of R308 that a descriptor at a ring's start point meets by itself. -/
def mayStart (s : State) (r : RingId) (d : Desc) : Bool :=
  let q := s.ring r
  d.eligible && tokenMet s d && !d.doomed && (!(d.ordered || d.opcode == 0x0C) || q.allBefore d)
    && (!d.needsEngine || (freeEngine s).isSome)

/-- The rings whose start points are ready, with the descriptors there, in ring order. -/
def readyPoints (s : State) : List RingDesc :=
  s.rings.entries.filterMap fun e => match e.2.startPoint with
    | some d => if mayStart s (BitVec.ofNat 12 e.1) d then some (BitVec.ofNat 12 e.1, d) else none
    | none => none

/-- The ring that starts its descriptor next (R308): one whose descriptor names the open breath, in ring order (R44), else round robin. -/
def nextStart (s : State) : Option RingId :=
  let l := readyPoints s
  match l.find? fun x : RingDesc => x.2.named with
  | some x => some x.1
  | none => match l.find? fun x : RingDesc => decide (s.hub.rrStart.toNat ≤ x.1.toNat) with
    | some x => some x.1
    | none => l.head?.map Prod.fst

/-- Whether the descriptor at a ring's start point starts now: its conditions are met, and it is the ring's turn (R308). -/
def startable (s : State) (r : RingId) (d : Desc) : Bool := mayStart s r d && nextStart s == some r

/-- The round robin goes on after the ring that started, and stops where it is for a descriptor that names the breath (R308). -/
def advanceStart (r : RingId) (d : Desc) (s : State) : State :=
  if d.named then s else { s with hub := { s.hub with rrStart := r + 1 } }

/-- Start the descriptor of an opcode at a ring's start point, if its conditions are met and it is its turn: it completes DEADLINE_MISSED past its
deadline (R48), REJECT_STATE where it is not legal (R321 to R323), and does `work` otherwise. -/
def startDesc (r : RingId) (want : Desc → Bool) (work : Desc → State → State) (s : State) : State :=
  match (s.ring r).startPoint with
  | none => s
  | some d =>
    if !(want d && startable s r d) then s
    else
    let s := advanceStart r d s
    if deadlinePassed s d then settleBarrier r (finishDesc r d.index .deadlineMissed [] s)
    else
      let s := perfCount 0x30 0 d.binding 1 (s.modDesc r d.index fun x => { x with started := some s.time.count })
      let s := if legal s d then
          let s := if d.needsEngine then
              (match freeEngine s with
              | some e => takeEngine r d.index e s
              | none => s) else s
          work d s
        else finishDesc r d.index .rejectState [] s
      settleBarrier r s

/-- Whether any core of a binding has a RUN bit set, counting a COLLECT in execution (R392). -/
def coreRuns (k : Core) : Bool := k.threads.entries.any fun e => e.2.run

/-- A COLLECT of a binding is in execution (R392). -/
def collecting (s : State) (b : BindingId) : Bool :=
  s.allDescs.any fun x => x.2.running && x.2.opcode == 0x04 && decide (x.2.binding = some b) && x.2.job.coll.isSome

/-- Any RUN bit of a core, as R322, R373 and check 6 of Table 13-4 see it. -/
def countsRunning (s : State) (c : CoreId) : Bool :=
  coreRuns (s.core c) || ((s.core c).ctl.xcfg.bound && collecting s (coreBinding s c))

/-- Any core of a binding counts as running. -/
def bindingRuns (s : State) (b : BindingId) : Bool := (coresOf (s.bnd b).sections).any (countsRunning s)

/-- Any core of any binding has a RUN bit set (R459). -/
def anyRuns (s : State) : Bool := s.cores.entries.any fun e => coreRuns e.2

end Sys2Proof.Machine
end

