-- ==== Sys2Proof/Machine/Formats.lean ====
section
/-!
DEFINITION. The format checks of R307 and of the bodies (R49, R238, R284, R315, R319, R320, R334, R344, R348, R366, R369, R372,
R391).
-/

namespace Sys2Proof.Machine

/-- Bytes [lo, hi] of a descriptor are zero. -/
def Desc.zero (d : Desc) (lo hi : Nat) : Bool := d.num lo (hi + 1 - lo) == 0

/-- Two ranges of addresses share a byte. -/
def overlap (a m b n : Nat) : Bool := decide (a < b + n ∧ b < a + m ∧ m ≠ 0 ∧ n ≠ 0)

/-- An instruction breakpoint field at byte `o` (Table 11-12): reserved bits and offset bits [1:0] zero, all zero when disabled. -/
def bpOk (d : Desc) (o : Nat) : Bool :=
  let v := d.num o 4
  if bitsOf v 31 1 = 1 then bitsOf v 21 10 == 0 && bitsOf v 0 2 == 0 else v == 0

/-- A watchpoint at bytes `a` (address) and `c` (control) (R315). -/
def wpOk (d : Desc) (a c : Nat) : Bool :=
  let v := d.num c 4
  if bitsOf v 31 1 = 1 then
    bitsOf v 16 8 == 0 && bitsOf v 28 2 != 0 && (bitsOf v 30 1 == 1 || d.num a 8 / 2 ^ 32 == 0)
  else v == 0 && d.num a 8 == 0

/-- A signed 16-bit field. -/
def Desc.int16 (d : Desc) (o : Nat) : Int := (BitVec.ofNat 16 (d.num o 2)).toInt

/-- The body checks of LAUNCH (R315, R238). -/
def launchOk (d : Desc) : Bool :=
  let copy := d.raw.getLsbD (8 * 82 + 1)
  let hist := d.flag 2
  d.zero 83 83 && d.zero 116 125 && bitsOf (d.num 82 1) 3 5 == 0 && d.num 32 8 != 0
    && (if copy then
        d.num 48 4 != 0 && d.num 48 4 % 4 == 0 && d.num 52 4 % 4 == 0 && decide (d.num 52 4 + d.num 48 4 ≤ 0x20000)
      else d.num 40 8 == 0 && d.num 48 4 == 0 && d.num 52 4 == 0)
    && (if hist then decide (-1024 ≤ d.int16 80 ∧ d.int16 80 ≤ 1023) else d.num 72 8 == 0 && d.num 80 2 == 0)
    && bpOk d 84 && bpOk d 88 && wpOk d 92 100 && wpOk d 104 112

/-- MOVE and FILL (R319). -/
def moveOk (d : Desc) : Bool :=
  d.zero 56 125 && decide (d.num 48 8 ≤ 2 ^ 40) && !overlap (d.num 32 8) (d.num 48 8) (d.num 40 8) (d.num 48 8)

def fillOk (d : Desc) : Bool := d.zero 56 125 && decide (d.num 40 8 ≤ 2 ^ 40)

/-- COLLECT (R391, R369, R394). -/
def collectOk (d : Desc) : Bool :=
  let len := d.num 64 8
  let src := d.num 48 8
  let dst := d.num 56 8
  let stage := d.num 80 8
  let self := d.num 34 2
  let expect := d.num 40 8
  d.zero 36 39 && d.zero 88 125 && decide (d.num 32 1 ≤ 2) && decide (d.num 33 1 ≤ 1) && decide (self ≤ 63)
    && len != 0 && len % 64 == 0 && decide (len ≤ 2 ^ 34)
    && src % 64 == 0 && dst % 64 == 0 && stage % 64 == 0 && d.num 72 8 % 128 == 0
    && (dst == src || !overlap src len dst len)
    && bitsOf expect self 1 == 1
    && (indices 64).all fun c => bitsOf expect c 1 == 0 || c == self
        || !(overlap (stage + c * len) len src len || overlap (stage + c * len) len dst len)

/-- UPDATE and DRAIN (R348). -/
def updateOk (d : Desc) : Bool :=
  d.zero 58 125 && d.num 32 8 % 4096 == 0 && d.num 56 2 != 0 && decide (1 ≤ d.num 44 4 ∧ d.num 44 4 ≤ 128)

def drainOk (d : Desc) : Bool :=
  d.zero 65 125 && bitsOf (d.num 64 1) 1 7 == 0 && d.num 32 8 % 4096 == 0 && decide (1 ≤ d.num 44 4 ∧ d.num 44 4 ≤ 128)

/-- LOGMARK (R366, Table 11-13). -/
def logmarkOk (d : Desc) : Bool :=
  d.zero 70 125 && d.num 32 8 % 64 == 0 && decide (6 ≤ d.num 40 1 ∧ d.num 40 1 ≤ 24) && bitsOf (d.num 41 1) 1 7 == 0
    && decide (d.num 64 4 ≤ 65536)

/-- XSYNC (R284). -/
def xsyncOk (d : Desc) : Bool :=
  let f := d.num 32 1
  let inv := bitsOf f 0 1 == 1
  let all := bitsOf f 1 1 == 1
  let pages := d.num 36 4
  let va := d.num 40 8
  let rseq := d.num 56 4
  let rcount := d.num 60 2
  let dseq := d.num 64 4
  let dcount := d.num 68 2
  let resume := bitsOf f 3 1 == 1
  let decline := bitsOf f 4 1 == 1
  d.zero 33 35 && d.zero 62 63 && d.zero 70 125 && bitsOf va 48 16 == 0
    && bitsOf f 5 3 == 0 && va % 4096 == 0
    && !(inv && !all && pages == 0)
    && !(inv && !all && decide (2 ^ 48 < va + 4096 * pages))
    && !(bitsOf f 2 1 == 1 && !inv)
    && !(resume && rcount == 0) && !(decline && dcount == 0)
    && !(resume && decline && (decide ((dseq + 2 ^ 32 - rseq) % 2 ^ 32 < rcount) || decide ((rseq + 2 ^ 32 - dseq) % 2 ^ 32 < dcount)))

/-- The slots that a BIND names (Table 11-13). -/
def bindSlots (d : Desc) : List SlotId := (indices (min (d.num 80 1) 4)).map fun i => BitVec.ofNat 8 (d.num (76 + i) 1)

/-- BIND (R334). -/
def bindOk (d : Desc) : Bool :=
  let n := d.num 80 1
  d.zero 81 87 && d.zero 108 125 && d.num 32 8 != 0 && bitsOf (d.num 75 1) 0 2 != 0 && bitsOf (d.num 75 1) 2 6 == 0
    && decide (1 ≤ n ∧ n ≤ 4) && decide (bindSlots d).Nodup
    && ((indices 4).all fun i => decide (i < n) || d.num (76 + i) 1 == 0)
    && bitsOf (d.num 72 3) 18 6 == 0
    && d.num 104 4 % 4 == 0 && decide (d.num 104 4 ≤ 0x20000) && !(d.num 104 4 == 0 && d.num 96 8 != 0)

/-- REKEY (R344). -/
def rekeyOk (d : Desc) : Bool :=
  let only := bitsOf (d.num 33 1) 0 1 == 1
  d.zero 34 39 && d.zero 48 125 && bitsOf (d.num 33 1) 1 7 == 0
    && (if only then d.num 40 8 == 0 else d.num 40 8 % 16 == 0)

/-- RESTORE (R372). -/
def restoreOk (d : Desc) : Bool :=
  d.zero 53 55 && d.zero 64 125 && d.num 32 8 % 64 == 0 && bitsOf (d.num 52 1) 1 7 == 0

/-- PROBE (Table 11-13). -/
def probeOk (d : Desc) : Bool := d.zero 34 125 && bitsOf (d.num 32 2) 12 4 == 0

/-- The body check of the opcode; false for opcodes 0x0F-0xFF. -/
def bodyOk (d : Desc) : Bool :=
  match d.opcode with
  | 0x00 => d.zero 32 125
  | 0x01 => launchOk d
  | 0x02 => moveOk d
  | 0x03 => fillOk d
  | 0x04 => collectOk d
  | 0x05 => updateOk d
  | 0x06 => drainOk d
  | 0x07 => logmarkOk d
  | 0x08 => xsyncOk d
  | 0x09 => bindOk d
  | 0x0A => d.zero 32 125
  | 0x0B => rekeyOk d
  | 0x0C => d.zero 32 125
  | 0x0D => restoreOk d
  | 0x0E => probeOk d
  | _ => false

/-- NOT_BEFORE (Table 11-6). -/
def Desc.notBefore (d : Desc) : Nat := d.num 8 8

/-- The format checks of R307: true for a descriptor that passes. -/
def formatOk (q : SubRing) (d : Desc) : Bool :=
  let op := d.opcode
  let b := d.bindNum
  let n := d.num 126 2
  let v := bitsOf n 15 1 == 1
  let ringOp := op == 0x09 || op == 0x0A || op == 0x0B
  decide (op ≤ 0x0E) && bitsOf (d.num 1 1) 4 4 == 0 && bitsOf d.token 32 6 == 0 && bitsOf n 9 6 == 0
    && (decide (b < 64) || (b == 0xFFFF && (op == 0x00 || op == 0x0C || op == 0x0E)))
    && (q.mod || (b == q.binding.toNat && !ringOp))
    && (!d.flag 2 || op == 0x01)
    && !(d.deadline != 0 && d.notBefore != 0 && decide (d.deadline < d.notBefore))
    && !(v && (b == 0xFFFF || ringOp))
    && bodyOk d

end Sys2Proof.Machine
end

