-- ==== Sys2Proof/Machine/Rings.lean ====
section
/-!
DEFINITION. Rings and doorbells: the meanings of the rows from DOORBELL to PROBE that need no engine (R300 to R314).
-/

namespace Sys2Proof.Machine

/-- The states in which the host-interface domain answers (R456). -/
def hostAlive (s : State) : Bool := decide (s.mod.state ≠ .off) && decide (s.mod.state ≠ .standby)

/-- The BARs answer: the host-interface domain has power, the link is up since PERST# was deasserted (R462), and the function is in D0
(Table 11-1). -/
def barsAnswer (s : State) : Bool := hostAlive s && !s.mod.perstLow && !s.pcie.d3hot

/-- BAR0 takes an ordinary write: from RISING onward, and not in FAULTED (R473). -/
def bar0Open (s : State) : Bool := barsAnswer s && decide (s.mod.state ≠ .faulted)

/-! ## Doorbells and fetch -/

/-- The producer index p is accepted when it lies at or beyond PI and within the ring's depth of CI; else DB_REJ is set (R303). -/
def ringDoorbell (r : RingId) (p : Word) (s : State) : State :=
  let q := s.ring r
  let gap := (p - q.ci).toNat
  if q.en && decide (gap ≤ 2 ^ q.size.toNat) && decide ((q.pi - q.ci).toNat ≤ gap) then s.setRing r { q with pi := p }
  else s.setRing r { q with dbRej := true }

/-- DOORBELL (R303). -/
def execDoorbell (o : DoorbellForm) (s : State) : Result :=
  if barsAnswer s then .next (ringDoorbell o.ring (o.val.setWidth 32) s) else .next s

/-- The descriptors that a ring may fetch next in one read: at most 32, within PI, 256 a ring and 16,384 a module (R304). -/
def fetchable (s : State) (r : RingId) : Nat :=
  let q := s.ring r
  let total := (s.rings.entries.map fun e => e.2.descs.length + e.2.inFetch).sum
  if q.en then
    min (min 32 ((q.pi - q.ci).toNat - q.inFetch)) (min (256 - (q.descs.length + q.inFetch)) (16384 - total))
  else 0

/-- Descriptors are fetched from SERVICE or SERVING on (R303). -/
def fetching (s : State) : Bool :=
  match s.mod.state with
  | .service => true
  | .serving => true
  | .draining => true
  | .faulted => true
  | _ => false

/-- The next ring with descriptors to fetch, round robin from rrFetch (R304). -/
def nextFetch (s : State) : Option RingId :=
  ((indices 4096).map fun i => s.hub.rrFetch + BitVec.ofNat 12 i).find? fun r => decide (0 < fetchable s r)

/-- DESCRIPTOR_FETCH (R302, R304): one read of consecutive slots, up to the ring's end. -/
def execDescriptorFetch (s : State) : Result :=
  if !fetching s then .next s
  else match nextFetch s with
    | none => .next s
    | some r =>
      let q := s.ring r
      let slot := (q.ci.toNat + q.inFetch) % 2 ^ q.size.toNat
      let n := min (fetchable s r) (2 ^ q.size.toNat - slot)
      let s := s.setRing r { q with inFetch := q.inFetch + n }
      let s := { s with hub := { s.hub with rrFetch := r + 1 } }
      let b := if q.mod then none else some q.binding
      .next (perfCount 0x32 0 b (128 * n) (emit (.fetch r (BitVec.ofNat 64 (q.base.toNat * 4096 + 128 * slot)) n) s))

/-- The number that the next accepted descriptor of a ring bears: no other bears it (notes/assumptions/44.md). -/
def SubRing.nextName (q : SubRing) : Nat := (q.descs.map fun d => d.index + 1).foldl max q.named

/-- A ring whose EN clears fetches no more: what its reads in flight bring will be dropped (R301). -/
def SubRing.stopFetch (q : SubRing) : SubRing :=
  { q with
    en := false
    inFetch := 0
    stale := q.stale ++ (indices q.inFetch).map fun i =>
      BitVec.ofNat 64 (q.base.toNat * 4096 + 128 * ((q.ci.toNat + i) % 2 ^ q.size.toNat)) }

/-- DESCRIPTOR_ACCEPT (R304, R307, R46): a requested descriptor arrives; with its format checks done it is accepted, or completes
REJECT_FORMAT. What was requested before the ring was disabled is dropped. -/
def execDescriptorAccept (o : AcceptForm) (s : State) : Result :=
  let q := s.ring o.ring
  if q.stale ≠ [] then .next (s.setRing o.ring { q with stale := q.stale.drop 1 })
  else if q.inFetch = 0 then .next s
  else if !q.en then .next (s.setRing o.ring { q with inFetch := q.inFetch - 1 })
  else
    let now := s.time.count
    let d : Desc :=
      { index := q.nextName
        ringIndex := q.ci
        raw := o.raw
        accepted := now
        eligible := false
        named := false
        settled := false
        doomed := false
        started := none
        engine := none
        job := .reset
        ended := false }
    let d := { d with eligible := d.notBefore == 0 || decide (d.notBefore ≤ now.toNat) }
    let s := s.setRing o.ring { q with
      ci := q.ci + 1, inFetch := q.inFetch - 1, named := d.index + 1, descs := q.descs ++ [d] }
    let s := if formatOk q d then s else finishDesc o.ring d.index .rejectFormat [] s
    .next (settleBarrier o.ring s)

/-- FETCH_ERR (R304, R493): the oldest read in flight fails; the ring stops, its accepted descriptors run on, and code 0x0023 is
reported. -/
def execFetchErr (o : RingForm) (s : State) : Result :=
  let q := s.ring o.ring
  if q.inFetch = 0 ∧ q.stale = [] then .next s
  else
    let slot := q.ci.toNat % 2 ^ q.size.toNat
    let addr := q.stale.headD (BitVec.ofNat 64 (q.base.toNat * 4096 + 128 * slot))
    let b := if q.mod then none else some q.binding
    let s := s.setRing o.ring { q with en := false, fetchErr := true, inFetch := 0, stale := [] }
    .next (markErrBind b (report 2 6 0x0023 (o.ring.setWidth 16) b addr
      ([0, 0] ++ bytesOf 2 o.ring) s))

/-- Breaths open in this state (R42). -/
def breathing (s : State) : Bool := match s.mod.state with
  | .selftest => true
  | .service => true
  | .serving => true
  | .draining => true
  | _ => false

/-- A breath opens at the present count, and has not opened yet (R42). -/
def breathDue (s : State) : Bool :=
  s.time.count.toNat % (s.time.period.toNat * 16000) == 0 && decide (s.time.openBreath.map Prod.fst ≠ some s.time.count)

/-- NOT_BEFORE (R46): the counter has reached the not-before of the descriptor at the ring's start point; one that names the breath of this
count waits for its opening (R47). -/
def execNotBefore (o : RingForm) (s : State) : Result :=
  match (s.ring o.ring).startPoint with
  | some d =>
    if d.notBefore < s.time.count.toNat ∨ (d.notBefore = s.time.count.toNat ∧ !(breathing s && breathDue s)) then
      .next (s.modDesc o.ring d.index fun x => { x with eligible := true })
    else .next s
  | none => .next s

/-- DEADLINE_MISSED (R48): an unstarted descriptor whose deadline the counter has passed completes without effect. -/
def execDeadlineMissed (o : DescForm) (s : State) : Result :=
  match s.desc o.ring o.index with
  | some d =>
    if d.started.isNone && !d.ended && deadlinePassed s d then
      .next (settleBarrier o.ring (finishDesc o.ring o.index .deadlineMissed [] s))
    else .next s
  | none => .next s

/-- BARRIER_ABORT (R310): the descriptor that met its ORDERED condition under BARRIER completes ABORTED. -/
def execBarrierAbort (o : RingForm) (s : State) : Result :=
  match (s.ring o.ring).startPoint with
  | some d =>
    if d.doomed then .next (settleBarrier o.ring (finishDesc o.ring d.index .aborted [] s)) else .next s
  | none => .next s

/-! ## Completions -/

/-- What follows the final entry: the descriptor is complete, its engine free, BARRIER set on failure, the token signalled, the
core notified (R308 to R311, R494). -/
def afterFinal (q : CqId) (c : Completion) (s : State) : State :=
  let failed := !c.status.good && (match s.desc c.ring c.index with
    | some d => d.flag 3
    | none => false)
  let s := releaseRecord c.ring c.index (releaseEngine c.ring c.index s)
  let s := s.modRing c.ring fun x =>
    { x with descs := x.descs.filter fun d => decide (d.index ≠ c.index), barrier := x.barrier || failed }
  let s := match c.signal with
    | some t => { s with hub := { s.hub with tokens := s.hub.tokens.modify 0 t.toNat (· + 1) } }
    | none => s
  let s := if c.irq then sendMsix (s.cq q).msix s else s
  let s := match c.notify with
    | some n => s.modThread n 0 fun th => { th with movPend := some c.tag }
    | none => s
  settleBarrier c.ring s

/-- The entries of a completion are written from TAIL, which then advances past them (R306). -/
def writeCompletion (q : CqId) (c : Completion) (s : State) : State :=
  let x := s.cq q
  let n := x.tail.toNat
  let s := writeEntry x n (entryBytes c) s
  let s := match c.slot with
    | some l => writeEntry x (n + 1) ((l ++ List.replicate 60 0).take 60) s
    | none => s
  let s := s.modCq q fun x => { x with tail := x.tail + BitVec.ofNat 32 c.need, waiting := x.waiting.drop 1 }
  if c.final then afterFinal q c s else sendMsix x.msix s

/-- COMPLETION_WRITE (R306): the oldest waiting completion of an enabled ring is written when there is room for it. -/
def execCompletionWrite (o : CqForm) (s : State) : Result :=
  let x := s.cq o.cq
  match x.waiting with
  | [] => .next s
  | c :: _ =>
    if !x.en then .next s
    else if x.room < c.need then .next (s.setCq o.cq { x with ovf := true })
    else .next (writeCompletion o.cq c s)

/-- COMPLETION_WR_ERR (R306, R493): the ring disables itself and its completions wait; code 0x0023 names the binding of the
descriptor whose completion failed. -/
def execCompletionWrErr (o : CqForm) (s : State) : Result :=
  let x := s.cq o.cq
  match x.waiting with
  | [] => .next s
  | c :: _ =>
    if !x.en then .next s
    else
      let b : Option BindingId := if c.binding.toNat < 64 then some (c.binding.setWidth 6) else none
      let addr := BitVec.ofNat 64 (x.base.toNat * 4096 + 64 * (x.tail.toNat % 2 ^ x.size.toNat))
      let s := s.setCq o.cq { x with en := false, wrErr := true }
      .next (markErrBind b (report 2 6 0x0023 (o.cq.setWidth 16) b addr ([1, 0] ++ bytesOf 2 o.cq) s))

/-! ## Ring registers (R301, R305) -/

/-- IDLE (Table 11-4). -/
def SubRing.idle (q : SubRing) : Bool := q.descs.isEmpty && q.inFetch == 0 && q.stale.isEmpty

/-- A write to SQ_CFG (R301). -/
def writeSqCfg (r : RingId) (v : Word) (s : State) : State :=
  let q := s.ring r
  let en := v.getLsbD 31
  let mod := v.getLsbD 30
  let binding := BitVec.ofNat 6 (bitsOf v.toNat 24 6)
  let cq := BitVec.ofNat 10 (bitsOf v.toNat 14 10)
  let size := BitVec.ofNat 5 (bitsOf v.toNat 0 5)
  let same := decide (mod = q.mod ∧ binding = q.binding ∧ cq = q.cq ∧ size = q.size)
  let new := { q with mod := mod, binding := binding, cq := cq, size := size }
  let rej := s.setRing r { q with cfgRej := true }
  if q.en then
    if en then rej
    else if q.idle then s.setRing r { new with en := false }
    else s.setRing r { q.stopFetch with cfgRej := true }
  else if !q.idle && (!same || !en) then rej
  else if en then
    if decide (6 ≤ size.toNat ∧ size.toNat ≤ 16) && (s.cq cq).en then
      s.setRing r { new with en := true, pi := 0, ci := 0, barrier := false }
    else rej
  else s.setRing r new

/-- SQ_CFG (R301, R473). -/
def execSqCfg (o : RingWrite) (s : State) : Result :=
  if bar0Open s then .next (writeSqCfg o.ring o.val s) else .next s

/-- SQ_RESUME (R310): writing 1 clears BARRIER. -/
def execSqResume (o : RingWrite) (s : State) : Result :=
  if bar0Open s && o.val.getLsbD 0 then .next (s.modRing o.ring fun q => { q with barrier := false }) else .next s

/-- Whether a submission ring that names a completion ring is enabled or has an incomplete descriptor (R305). -/
def cqInUse (s : State) (c : CqId) : Bool := s.rings.entries.any fun e => decide (e.2.cq = c) && (e.2.en || !e.2.idle)

/-- A write to CQ_CFG (R305). A ring enabled again with more waiting completions than it has entries has OVF set (R306). -/
def writeCqCfg (c : CqId) (v : Word) (s : State) : State :=
  let q := s.cq c
  let en := v.getLsbD 31
  let msix := BitVec.ofNat 11 (bitsOf v.toNat 16 11)
  let size := BitVec.ofNat 5 (bitsOf v.toNat 0 5)
  let rej := s.setCq c { q with cfgRej := true }
  if q.en then
    if en || cqInUse s c then rej else s.setCq c { q with en := false, msix := msix, size := size }
  else if en then
    if 6 ≤ size.toNat ∧ size.toNat ≤ 16 then
      s.setCq c { q with
        en := true, msix := msix, size := size, head := 0, tail := 0
        ovf := q.ovf || decide (2 ^ size.toNat < (q.waiting.map Completion.need).sum) }
    else rej
  else s.setCq c { q with msix := msix, size := size }

/-- CQ_CFG (R305, R473). -/
def execCqCfg (o : CqWrite) (s : State) : Result :=
  if bar0Open s then .next (writeCqCfg o.cq o.val s) else .next s

/-- A write to CQ_HEAD (R305). -/
def writeCqHead (c : CqId) (h : Word) (s : State) : State :=
  let q := s.cq c
  if (h - q.head).toNat ≤ (q.tail - q.head).toNat then s.setCq c { q with head := h } else s.setCq c { q with headRej := true }

/-- CQ_HEAD (R305); writable in FAULTED too (R473). -/
def execCqHead (o : CqWrite) (s : State) : Result :=
  if barsAnswer s then .next (writeCqHead o.cq o.val s) else .next s

/-! ## Descriptors that need no engine -/

/-- NOP (R312): completes OK at start. -/
def execNop (o : RingForm) (s : State) : Result :=
  .next (startDesc o.ring (fun d => d.opcode == 0x00) (fun d s => finishDesc o.ring d.index .ok [] s) s)

/-- FENCE (R308, R312): starts when every earlier descriptor has completed, and completes OK. -/
def execDescriptorFence (o : RingForm) (s : State) : Result :=
  .next (startDesc o.ring (fun d => d.opcode == 0x0C) (fun d s => finishDesc o.ring d.index .ok [] s) s)

/-- The detail of a PROBE (Table 11-11). -/
def probeDetail (r : RingId) (d : Desc) (s : State) : List Byte :=
  [BitVec.ofNat 8 s.mod.state.code,
    match d.binding with
    | some b => BitVec.ofNat 8 (s.bnd b).state.code
    | none => 0xFF, 0, 0]
  ++ bytesOf 4 (s.hub.tokens.get 0 (d.num 32 2 % 4096)) ++ bytesOf 8 s.time.count
  ++ bytesOfNat 4 ((s.ring r).descs.length - 1)

/-- PROBE (R314): module state, binding state, a token counter, TIME_NOW, the ring's other incomplete descriptors. -/
def execProbe (o : RingForm) (s : State) : Result :=
  .next (startDesc o.ring (fun d => d.opcode == 0x0E)
    (fun d s => finishDesc o.ring d.index .ok (probeDetail o.ring d s) s) s)

end Sys2Proof.Machine
end

