-- ==== Sys2Proof/Machine/Spares.lean ====
section
/-!
DEFINITION. Spares: array rows, cores, tile sites, lanes and stack channels (R189, R450 to R454, R495).
-/

namespace Sys2Proof.Machine

/-- A section is FREE: it is in no binding (R15, R326). -/
def sectionFree (s : State) (sec : Nat) : Bool := s.binds.entries.all fun e => decide (e.2.state = .free) || !e.2.sections.getLsbD sec

/-- The four sections of a tile are FREE. -/
def tileFree (s : State) (t : TileId) : Bool := (indices 4).all fun i => sectionFree s (4 * t.toNat + i)

/-- Change the spare map. -/
def State.modSpares (s : State) (f : SpareMap → SpareMap) : State := { s with spares := f s.spares }

/-- The spare site a tile takes: its own half's first (R452). -/
def spareSite (s : State) (t : TileId) : Option (BitVec 5) :=
  (if t.toNat < 8 then [16, 17] else [17, 16]).find? (siteFree s)

/-- Spare sites not taken and not promised to a pending tile. -/
def spareSitesLeft (s : State) : Nat :=
  2 - sparesSites s - ((indices 16).filter fun t => (s.tile (BitVec.ofNat 4 t)).pend).length

/-- A tile fails: it is pending until its substitution (R452), or retired with its sections where no spare site is left. -/
def failTile (t : TileId) (s : State) : State :=
  let x := s.tile t
  if x.pend || x.retired then s
  else if spareSitesLeft s = 0 then
    spareRecord 0x0041 1 1 (t.setWidth 16) ((siteOf s t).setWidth 8) 0 0 (s.setTile t { x with retired := true })
  else s.setTile t { x with pend := true }

/-- A core fails: its substitution waits for its section (R451), or its tile fails where the spare position is used. -/
def failCore (c : CoreId) (s : State) : State :=
  let t := tileOf c
  let x := s.tile t
  let bitc := BitVec.ofNat 32 (2 ^ (c.toNat % 32))
  if x.pend || x.retired || x.corePend &&& bitc ≠ 0 then s
  else if x.corePend ≠ 0 ∨ s.spares.cores.contains (siteOf s t) then
    failTile t (spareRecord 0x0041 2 0 (c.setWidth 16) ((siteOf s t).setWidth 8) 0 0 s)
  else s.setTile t { x with corePend := bitc }

/-- Substitute a failed core whose section is FREE (R451): the spare position holds the binding-reset state. -/
def substituteCore (c : CoreId) (s : State) : State :=
  let t := tileOf c
  let x := s.tile t
  if !x.corePend.getLsbD (c.toNat % 32) || x.pend || x.retired || !sectionFree s (sectionOf c) then s
  else
    let site := siteOf s t
    let s := (s.setTile t { x with corePend := 0, spareCore := some (BitVec.ofNat 5 (c.toNat % 32)) }).setCore c .reset
    let s := s.modSpares fun m => { m with
      cores := m.cores ++ [site]
      rows := m.rows.filter fun r => r.1 / 4 != c.toNat }
    refreshDegraded (spareRecord 0x0040 2 0 (c.setWidth 16) (site.setWidth 8) 0 0 s)

/-- The cores of a tile, ascending. -/
def tileCores (t : TileId) : List CoreId := (indices 32).map fun i => BitVec.ofNat 9 (32 * t.toNat + i)

/-- The tile's stores as R270 zeroes them: its cores, its L2 and its walker. -/
def zeroTile (t : TileId) (s : State) : State :=
  let s := (tileCores t).foldl (fun s c => s.setCore c .reset) s
  s.modTile t fun x => { x with sectors := .empty, sets := .empty, fills := [], fresh := [], walker := .reset }

/-- Move a pending tile whose sections are FREE to a spare site (R452). -/
def substituteTile (t : TileId) (s : State) : State :=
  let x := s.tile t
  match spareSite s t with
  | none => s
  | some site =>
    if !x.pend || !tileFree s t then s
    else
      let old := siteOf s t
      let s := zeroTile t (s.setTile t { x with site := some site, pend := false, spareCore := none, corePend := 0 })
      let s := s.modSpares fun m => { m with
        sites := m.sites ++ [old]
        rows := m.rows.filter fun r => r.1 / 128 != t.toNat }
      refreshDegraded (spareRecord 0x0040 1 1 (t.setWidth 16) (site.setWidth 8) 0 (BitVec.ofNat 8 (2 - sparesSites s)) s)

/-- A row of an array fails: the array's spare row replaces it at once (R189), or the core fails where that is used. The spare row 32 may fail
too: idle it goes out of service, in use the core fails. -/
def failRow (c : CoreId) (a : BitVec 2) (row : BitVec 6) (s : State) : State :=
  let here := c.toNat * 4 + a.toNat
  match s.spares.rows.find? fun r => r.1 == here with
  | some r =>
    if r.2 = row then s
    else failCore c (spareRecord 0x0041 3 0 (c.setWidth 16) (a.setWidth 8) (row.setWidth 8) 0 s)
  | none =>
    let s := s.modSpares fun m => { m with rows := m.rows ++ [(here, row)] }
    if row = 32 then refreshDegraded s
    else refreshDegraded (spareRecord 0x0040 3 0 (c.setWidth 16) (a.setWidth 8) (row.setWidth 8) 0 s)

/-- The table keys of a calibrated group and of a lane (R415). -/
def groupKey (kind group : Nat) : Nat := kind * 256 + group
def laneKey (kind group lane : Nat) : Nat := kind * 16384 + group * 64 + lane

/-- Change a calibration group; change a lane's results. -/
def modGroup (kind group : Nat) (f : CalGroup → CalGroup) (s : State) : State :=
  { s with cal := { s.cal with groups := s.cal.groups.modify .reset (groupKey kind group) f } }

def modLane (kind group lane : Nat) (f : CalLane → CalLane) (s : State) : State :=
  { s with cal := { s.cal with lanes := s.cal.lanes.modify .reset (laneKey kind group lane) f } }

/-- A step in progress in a group is reverted: the lane returns to service with its former settings (R45, R377, R413). -/
def revertStep (kind group : Nat) (s : State) : State :=
  match (s.cal.groups.get .reset (groupKey kind group)).step with
  | none => s
  | some lane =>
    let s := modLane kind group lane.toNat (fun x => { x with active := false }) (modGroup kind group (fun g => { g with step := none }) s)
    if kind = 2 then s.modPort (BitVec.ofNat 5 group) fun p => { p with calLane := none } else s

/-- A step begins on a lane of a group (R411): the next step of the group is on a lane after it. -/
def beginStep (kind group lane : Nat) (s : State) : State :=
  let s := modGroup kind group (fun x => { x with next := BitVec.ofNat 6 (lane + 1), step := some (BitVec.ofNat 6 lane) }) s
  let s := modLane kind group lane (fun x => { x with active := true }) s
  if kind = 2 then s.modPort (BitVec.ofNat 5 group) fun p => { p with calLane := some (BitVec.ofNat 4 lane) } else s

/-- A channel of a stack fails, or one of its spares 32 and 33, which reverts a step of the stack (R413). The next free spare carries its units, or
what it carried (R453); with none free they read as uncorrectable (Table 17-5). A spare that carries nothing goes out of service. -/
def failChannel (st : Nat) (ch : BitVec 6) (s : State) : State :=
  let s := revertStep 3 st s
  let p := s.stk.ports.get .reset st
  let put (p : StackPort) (s : State) : State := { s with stk := { s.stk with ports := s.stk.ports.set .reset st p } }
  let take (p : StackPort) (s : State) : State :=
    refreshDegraded (spareRecord 0x0040 6 2 (BitVec.ofNat 16 st) (ch.setWidth 8) 0 (BitVec.ofNat 8 p.freeSpares.length) (put p s))
  let lose (p : StackPort) (s : State) : State := spareRecord 0x0041 6 2 (BitVec.ofNat 16 st) (ch.setWidth 8) 0 0 (put p s)
  let spare := decide (32 ≤ ch.toNat)
  if p.lost.contains ch || p.spared.any (fun x => x.1 == ch) then s
  else match p.spared.find? fun x => x.2 == ch with
  | some x =>
    let q : StackPort := { p with lost := p.lost ++ [ch] }
    (match q.freeSpares with
    | y :: _ => take { q with spared := q.spared.map fun z => if z.2 == ch then (x.1, y) else z } s
    | [] => lose q s)
  | none =>
    if spare then refreshDegraded (put { p with lost := p.lost ++ [ch] } s)
    else match p.freeSpares with
    | y :: _ => take { p with spared := p.spared ++ [(ch, y)] } s
    | [] => lose { p with lost := p.lost ++ [ch] } s

/-- The results of a lane. -/
def State.lane (s : State) (kind group lane : Nat) : CalLane := s.cal.lanes.get .reset (laneKey kind group lane)

/-- The lane of a port that the spare map puts on lane 8. -/
def SpareMap.laneOf (m : SpareMap) (i : BitVec 5) : Option (BitVec 4) := (m.lanes.find? fun x => x.1 == i).map Prod.snd

/-- A lane is out of service: by its steps, or by a failure that the spare map records, once RISING has loaded it. -/
def laneOut (s : State) (kind group lane : Nat) : Bool :=
  (s.lane kind group lane).failed || (s.mod.mapLoaded && match kind with
    | 1 => s.spares.bore.contains (BitVec.ofNat 8 group, BitVec.ofNat 6 lane)
    | 2 => s.spares.lanes.contains (BitVec.ofNat 5 group, BitVec.ofNat 4 lane)
    | 3 =>
      let p := s.stk.ports.get .reset group
      p.spared.any (fun x => x.1 == BitVec.ofNat 6 lane) || p.lost.contains (BitVec.ofNat 6 lane)
    | _ => false)

/-- The lane of a Bore channel moves to the spare lane (class 5 of Table 17-5), after a step of the channel is reverted (R413). -/
def failBore (group lane : Nat) (s : State) : State :=
  let s := revertStep 1 group s
  refreshDegraded (spareRecord 0x0040 5 3 (BitVec.ofNat 16 group) (BitVec.ofNat 8 lane) 0 0
    (s.modSpares fun m => { m with bore := m.bore ++ [(BitVec.ofNat 8 group, BitVec.ofNat 6 lane)] }))

/-- The module is powered far enough for its dies to hold state (R456). -/
def powered (s : State) : Bool := counterRuns s

/-- An instruction of the array classes (Table 07-5) names array a. -/
def MInstr.onArray (i : MInstr) (a : BitVec 2) : Bool := match i.op with
  | .mma => i.am.getLsbD a.toNat
  | .wload => i.am.getLsbD a.toNat
  | .mvm => i.am.getLsbD a.toNat
  | .mvmt => i.am.getLsbD a.toNat
  | .accrd => i.a == a
  | .accrdV => i.a == a
  | .accwr => i.a == a
  | .accfree => i.a == a
  | .acctag => i.a == a
  | _ => false

/-- An array of a core is between two array instructions (R189). -/
def betweenArrayInstrs (s : State) (c : CoreId) (a : BitVec 2) : Bool := (s.core c).mat.started.all fun r => !r.i.onArray a

/-- ROW_SUBSTITUTION (R189, Table 17-5 class 3): rows 0 to 31 of an array or its spare row 32, between two array instructions on it. -/
def execRowSubstitution (o : RowForm) (s : State) : Result :=
  if 33 ≤ o.row.toNat then .fault .noSuchUnit
  else if powered s && betweenArrayInstrs s o.core o.array then .next (failRow o.core o.array o.row s) else .next s

/-- CORE_SUBSTITUTION (R451). -/
def execCoreSubstitution (o : CoreForm) (s : State) : Result := .next (substituteCore o.core s)

/-- TILE_SUBSTITUTION (R452). -/
def execTileSubstitution (o : TileSel) (s : State) : Result := .next (substituteTile o.tile s)

/-- The units of a stack that a copy carries across poisoned (R453): those on the channel that the copy finds uncorrectable. -/
def poisonCopied (o : ChannelForm) (s : State) : State :=
  let st := o.stack.toNat
  let p := s.stk.ports.get .reset st
  o.bad.foldl (fun s u =>
    let n := st * 2 ^ 31 + u.toNat
    if p.carrier (BitVec.ofNat 6 (Config.channelOf n)) = o.channel then
      poisonUnit (64 * n) (localPa s (offsetOf s (64 * n))) none false s
    else s) s

/-- STACK_CHANNEL_COPY (R453): the copy of a failed channel's units ends; a stack has 32 channels and 2 spares. -/
def execStackChannelCopy (o : ChannelForm) (s : State) : Result :=
  if 34 ≤ o.channel.toNat then .fault .noSuchUnit
  else if powered s then .next (failChannel o.stack.toNat o.channel (poisonCopied o s)) else .next s

end Sys2Proof.Machine
end

