-- ==== Sys2Proof/Machine/Notice.lean ====
section
/-!
DEFINITION. The NMI line, module state transitions and the CAUSE bits (R102, R116, R397, R421, R422, R457 to R461, R464).
-/

namespace Sys2Proof.Machine

/-- The NMI with the sources of `bits` reaches a thread: latched in NMIPEND inside the NMI handler, asserted otherwise (R116). The
sources collect for the SUB of the next entry to vector 1. -/
def Thread.assertNmi (bits : BitVec 3) (th : Thread) : Thread :=
  if th.run then
    let th := { th with nmiSrc := th.nmiSrc ||| bits }
    if th.estat.getLsbD 1 then { th with estat := th.estat ||| 4 } else { th with nmiReq := true }
  else th

/-- The Bellows or the controller asserts the NMI to every core (R114, R116, R417). -/
def assertNmi (bits : BitVec 3) (s : State) : State :=
  { s with cores := s.cores.mapListed .reset fun _ k =>
      { k with threads := k.threads.mapListed .reset fun _ th => th.assertNmi bits } }

/-- A source pends on every running thread of core c whose eien bit is 1 (R102). -/
def Core.pendAll (bitNo : Nat) (f : Thread → Thread) (k : Core) : Core :=
  { k with threads := k.threads.mapListed .reset fun _ th => if th.run && th.eien.getLsbD bitNo then f th else th }

/-- Change the module control block. -/
def State.modMod (s : State) (f : ModBlock → ModBlock) : State := { s with mod := f s.mod }

/-- A transition (R457): PREV, MOD_STAMP, a management event, which the transition to OFF writes before power goes; CAUSE is cleared at entry to
RISING, SERVICE and SERVING (R458); xcfg.PM is forced from entry to SERVICE until entry to SERVING or a reset (R468). -/
def enterState (st : ModState) (s : State) : State :=
  let now := if counterRuns s then s.time.count else 0
  let clears := match st with
    | .rising => true
    | .service => true
    | .serving => true
    | _ => false
  let s := if st = .off then mgmtEvent 0 (0x100 + st.code) s else s
  let s := s.modMod fun m => { m with
    state := st
    prev := m.state
    stamp := now
    cause := if clears then 0 else m.cause
    drainAt := if st = .draining then now else m.drainAt
    pmForced := match st with
      | .service => true
      | .draining => m.pmForced
      | _ => false }
  mgmtEvent 0 (0x100 + st.code) s

/-- Set CAUSE bits (Table 18-4). -/
def addCause (bits : BitVec 8) (s : State) : State := s.modMod fun m => { m with cause := m.cause ||| bits }

/-- A condition that leads to DRAINING (Table 18-2): from SERVICE and SERVING the module enters DRAINING; in DRAINING and FAULTED the
cause only adds its bit (R458, R461). -/
def toDraining (bits : BitVec 8) (s : State) : State :=
  match s.mod.state with
  | .service => addCause bits (enterState .draining (s.modMod fun m => { m with cause := 0 }))
  | .serving => addCause bits (enterState .draining (s.modMod fun m => { m with cause := 0 }))
  | .draining => addCause bits s
  | .faulted => addCause bits s
  | _ => s

/-- The compute side is powered: RISING to DRAINING (R456). -/
def computeOn (s : State) : Bool := counterRuns s && decide (s.mod.state ≠ .faulted)

/-- The controller serves: the facility side is powered and no restart is under way (R420, R423). -/
def controllerUp (s : State) : Bool := decide (s.mod.state ≠ .off) && !s.mgmt.restarting

/-- Change the facility side. -/
def State.modMgmt (s : State) (f : MgmtState → MgmtState) : State := { s with mgmt := f s.mgmt }

end Sys2Proof.Machine
end

