-- ==== Sys2Proof/Machine/Ops.lean ====
section
/-!
DEFINITION. The named operations of a thread: freezing the queues (R119 to R121, R181, R209), taking an exception (R101, R108 to R112,
R117), returning from one (R113, R116, R123), halting (R111), stopping a core (R339), issuing and retiring a scalar instruction (R67,
R78, R79, R90, R92, R103, R115).
-/

namespace Sys2Proof.Machine

/-! ## Freezing the queues -/

/-- Run groups one at a time until `upto`, keeping only what completes. -/
def softGroups (c : CoreId) (upto : Nat) : (fuel : Nat) → VRun → State → VRun × State
  | 0, r, s => (r, s)
  | fuel + 1, r, s =>
    if upto ≤ r.group then (r, s)
    else match runGroup c r s with
      | (.done, r, s) => softGroups c upto fuel r s
      | _ => (r, s)

/-- Run units one at a time until `upto`, keeping only what completes. -/
def softUnits (c : CoreId) (upto : Nat) : (fuel : Nat) → MRun → State → MRun × State
  | 0, r, s => (r, s)
  | fuel + 1, r, s =>
    if upto < r.pos + r.i.unit then (r, s)
    else match runUnit c false r s with
      | (.done, r, s) => softUnits c upto fuel r s
      | _ => (r, s)

/-- A free number below n (0 where n = 0). -/
def drawBelow (n : Nat) (s : State) : Nat × State :=
  if n ≤ 1 then (0, s)
  else
    let (v, s) := draw s
    (v % n, s)

/-- The abandoned instruction as it waits for its restart in full. -/
def VRun.restart (r : VRun) : VRun :=
  { VRun.fresh r.i with probed := r.probed, xl := r.xl, carry := if r.i.op = .bcast then r.carry else 0 }

/-- Stop the started vector instructions at a group boundary: the head keeps its progress, each younger one has executed a free
number of groups that its operands allow and is abandoned (R119, R121). -/
def freezeVector (c : CoreId) (s : State) : State :=
  let k := s.core c
  match k.vec.started with
  | [] => s
  | h :: rest =>
    let (n, s) := if k.faultPending false || !h.probed then (0, s) else drawBelow (h.i.steps - h.group) s
    let (h, s) := softGroups c (h.group + n) 8 h s
    let (l, _, s) := rest.foldl (fun (acc : List VRun × List (VInstr × Nat) × State) r =>
      let seen := acc.2.1
      let limit := seen.foldl (fun (m : Nat) p => min m (r.i.room p.1 p.2)) r.i.steps
      let older := (seen.drop 1).map Prod.fst
      let (n, s) := if r.probed && repeatable older r.i then drawBelow (limit + 1) acc.2.2 else (0, acc.2.2)
      let (q, s) := softGroups c n 8 r s
      (acc.1 ++ [r.restart], seen ++ [(r.i, q.group)], s)) ([], [(h.i, h.group)], s)
    forgetReads (.vector c) (s.modCore c fun k => k.setV k.vec.queue (h :: l))

/-- Stop the started matrix-queue instructions: a delivering one, or else the oldest, is the held head; the others return to the front
of the queue in program order, a TLDG with its row addresses (R177, R181, R209). -/
def freezeMatrix (c : CoreId) (s : State) : State :=
  let k := s.core c
  let l := k.mat.started
  match (l.find? fun r => r.i.op.delivers).or l.head? with
  | none => s
  | some h =>
    let others := l.filter fun r => decide (r.i.seq ≠ h.i.seq)
    let (n, s) := if k.faultPending true || !h.probed || h.i.oneStep then (0, s) else drawBelow (h.i.units - h.pos) s
    let (h, s) := softUnits c (h.pos + n) 64 h s
    let s := others.foldl (fun (s : State) r =>
      if r.i.op == .tlds || r.i.op.delivers || r.i.h || r.i.oneStep then s
      else
        let (n, s) := drawBelow (r.i.units + 1) s
        (softUnits c n 64 r s).2) s
    forgetReads (.matrix c) (s.modCore c fun k => k.setM (others.map MRun.i ++ k.mat.queue) [h])

/-- Under PM = 1 every started instruction runs to completion: none where one still waits (R119); `free` for an exception entry (R400). -/
def drainStarted (c : CoreId) (free : Bool) (s : State) : Option State :=
  let v := (indices 4).foldl (fun s _ => if (s.core c).faultPending false then s else completeVector c 0 s) s
  let m := (indices 4).foldl (fun s _ => if (s.core c).faultPending true then s else completeMatrix c 0 free s) v
  let k := m.core c
  if (k.vec.started.isEmpty || k.faultPending false) && (k.mat.started.isEmpty || k.faultPending true) then some m else none

/-- Freeze h0's queues for an entry; nothing to do while they are frozen. -/
def freeze (c : CoreId) (s : State) : Option State :=
  if (s.core c).frozen then some s
  else if pmOf s c then drainStarted c true s
  else some (freezeMatrix c (freezeVector c s))

/-- eprog of a core whose queues are frozen (Table 04-5, R120). -/
def progressOf (k : Core) : Word :=
  let v := match k.vec.started with
    | h :: _ => 2 ^ 15 + h.group % 2 ^ 15
    | [] => 0
  let m := match k.mat.started with
    | h :: _ => 2 ^ 31 + h.mprog % 2 ^ 15 * 2 ^ 16
    | [] => 0
  BitVec.ofNat 32 (v + m)

/-- The queue status word of a core whose queues are frozen (Table 04-8). -/
def queueStatus (k : Core) (src : Nat) : DWord :=
  let vpc := match k.vec.started with
    | h :: _ => h.i.pc.toNat
    | [] => 0
  let mpc := match k.mat.started with
    | h :: _ => h.i.pc.toNat
    | [] => 0
  BitVec.ofNat 64 (mpc * 2 ^ 47 + vpc * 2 ^ 30 + src * 2 ^ 27 + bit (!k.mat.started.isEmpty) * 2 ^ 25
    + k.vec.started.length % 8 * 2 ^ 22 + k.mat.queue.length % 32 * 2 ^ 5 + k.vec.queue.length % 32)

/-! ## Taking an exception -/

/-- A synchronous cause. -/
def Cause.sync (vec : BitVec 5) (sub : BitVec 8) (eaddr : DWord) : Cause := ⟨vec, sub, eaddr, 0, false, false, 0⟩

/-- ecause (Table 04-4). -/
def Cause.word (x : Cause) : Word :=
  BitVec.ofNat 32 (x.arg.toNat * 2 ^ 20 + bit x.queue * 2 ^ 17 + bit x.async * 2 ^ 16 + x.sub.toNat * 2 ^ 8 + x.vec.toNat)

/-- Set or clear a bit of a word. -/
def setBit (n : Nat) (b : Bool) (w : Word) : Word :=
  if b then w ||| BitVec.ofNat 32 (2 ^ n) else w &&& ~~~(BitVec.ofNat 32 (2 ^ n))

/-- estat as it reads: PM mirrors xcfg (Table 04-2). -/
def estatOf (s : State) (c : CoreId) (th : Thread) : Word := setBit 12 (pmOf s c) th.estat

/-- The core address of thread t's emergency slot (R110). -/
def slotAddr (t : ThreadId) : Nat := 64 * t.toNat

/-- The 64 bytes of a frame (Table 04-7). -/
def frameBytes (pc : BitVec 17) (estat ecause eprog : Word) (eaddr qsw now : DWord) (eien : Word) : List Byte :=
  bytesOf 4 pc ++ bytesOf 4 estat ++ bytesOf 4 ecause ++ bytesOf 4 eprog ++ bytesOf 8 eaddr ++ bytesOf 8 qsw ++ bytesOf 8 now
    ++ bytesOf 4 eien ++ List.replicate 20 0

/-- A frame may lie at n (R109). -/
def frameFits (th : Thread) (n : Int) : Bool :=
  decide ((th.esplo.toNat : Int) ≤ n ∧ 0x100 ≤ n ∧ n + 63 ≤ (th.esphi.toNat : Int) ∧ n + 63 ≤ 0xFFFFF)

/-- The offset of a vector (R101). -/
def vectorPc (vec : BitVec 5) : BitVec 17 := BitVec.ofNat 17 (0x100 + 32 * vec.toNat)

/-- The parks of some makers end unanswered. -/
def dropParks (c : CoreId) (l : List Who) (s : State) : State :=
  s.modBnd (coreBinding s c) fun x => { x with parks := x.parks.filter fun p => !l.contains p.who }

/-- Drop h0's queues and what is held, with the parks of their heads (R111, R123). -/
def dropQueues (c : CoreId) (s : State) : State :=
  (forgetReads (.matrix c) (forgetReads (.vector c) (dropParks c [.vector c, .matrix c] s))).modCore c fun k =>
    { (k.setV [] []).setM [] [] with causes := k.causes.filter fun q => !q.fault }

/-- A thread halts (R111): RUN and its patch queue go, on h0 the queues too, and the park of its scalar access
(notes/assumptions/16.md); the LAUNCH in force gets its interim completion. -/
def haltThread (c : CoreId) (t : ThreadId) (s : State) : State :=
  let s := if t = 0 then dropParks c [.scalar c] (dropQueues c s) else s
  let k := s.core c
  let slot := k.mem.dls.readBytes (slotAddr t) 64
  let s := s.modCore c fun k =>
    let k := k.modThread t fun th =>
      { th with run := false, waiting := false, patchQ := [], blocked := none, aside := none, owed := none }
    { k with ctl := { k.ctl with halted := k.ctl.halted + 1, finished := k.ctl.finished || decide (t = 0) } }
  match k.ctl.launch with
  | some (r, i) => haltCompletion r i c t slot s
  | none => s

/-- The live registers after an entry (R106, R112); `emergency` for the entry that R110 diverts. -/
def enter (t : ThreadId) (x : Cause) (pc : BitVec 17) (eprog : Word) (emergency : Bool) (th : Thread) : Thread :=
  let e := setBit 0 false (setBit 13 false (setBit 14 false th.estat))
  let e := setBit 15 emergency (if emergency then setBit 11 true e else e)
  let e := if x.vec = 1 then setBit 1 true e else e
  let e := if t = 0 then setBit 8 true e else e
  let sub : BitVec 8 := if th.esp.toNat % 64 ≠ 0 then 1 else 2
  let live : Cause := if emergency then .sync 2 sub (th.esp.setWidth 64) else x
  { th with
    estat := e
    epc := pc
    ecause := live.word
    eaddr := live.eaddr
    eprog := eprog
    esp := if emergency then th.esp else th.esp - 64
    pc := vectorPc live.vec
    resv := none
    waiting := false
    stepOver := false
    blocked := none
    owed := none
    took := false }

/-- A frame may be placed below esp (R109). -/
def framePlaced (th : Thread) : Bool :=
  decide (th.esp.toNat % 64 = 0) && frameFits th ((th.esp.toNat : Int) - 64)

/-- Take an exception on a thread, with `pc` as its epc (R101, R106, R108 to R112, R119). None while PM = 1 makes it wait for a
started instruction. `parked` marks an NMI that sets a park aside (R117). A core that is to stop takes none: its thread is at a
boundary (R339). -/
def takeException (c : CoreId) (t : ThreadId) (x : Cause) (pc : BitVec 17) (parked : Bool) (s : State) : Option State :=
  if (s.core c).ctl.stopping then some (s.modThread c t fun th => { th with blocked := none, owed := none })
  else match (if t = 0 then freeze c s else some s) with
  | none => none
  | some s =>
    let k := s.core c
    let th := k.thread t
    let eprog := if t = 0 then progressOf k else 0
    let qsw := if t = 0 then queueStatus k x.src else 0
    let old := setBit 14 parked (estatOf s c th)
    let old := if x.vec = 12 ∨ x.vec = 13 then setBit 13 true old else old
    let frame := frameBytes pc old x.word eprog x.eaddr qsw s.time.count th.eien
    if framePlaced th then
      some ((dlsWrite c (th.esp.toNat - 64) (clean frame) none s).modThread c t (enter t x pc eprog false))
    else if !th.estat.getLsbD 11 then
      some ((dlsWrite c (slotAddr t) (clean frame) none s).modThread c t (enter t x pc eprog true))
    else some (haltThread c t s)

/-- Take a synchronous exception, or leave the state while it must wait. -/
def raise (c : CoreId) (t : ThreadId) (x : Cause) (pc : BitVec 17) (s : State) : State :=
  (takeException c t x pc false s).getD s

/-- Take the cause of an instruction that has completed, at the thread's pc; while its entry waits the thread owes it (R115, R119). -/
def takeLater (c : CoreId) (t : ThreadId) (x : Cause) (s : State) : State :=
  (takeException c t x (s.thread c t).pc false s).getD (s.modThread c t fun th => { th with owed := some x })

/-- Take the cause that a thread owes. -/
def takeOwed (c : CoreId) (t : ThreadId) (s : State) : State :=
  match (s.thread c t).owed with
  | some x => raise c t x (s.thread c t).pc s
  | none => s

/-- A cause of rank 1 to 3 has been taken: the next instruction issues before another (R115). -/
def tookCause (c : CoreId) (t : ThreadId) (s : State) : State := s.modThread c t fun th => { th with took := true }

/-! ## The NMI and interrupts (R102, R114 to R117) -/

/-- Take the NMI that a thread has latched (R114, R116): a parked access is set aside. The sources end with entry to vector 1; an entry
that R110 diverts leaves them for the next (notes/assumptions/16.md). -/
def takeNmi (c : CoreId) (t : ThreadId) (s : State) : State :=
  let th := s.thread c t
  let parked := th.blocked.isSome
  match takeException c t ⟨1, th.nmiSrc.setWidth 8, 0, 0, false, true, 0⟩ th.pc parked s with
  | none => s
  | some s =>
    let away (p : Parked) : Parked := if p.who = .scalar c then { p with park := { p.park with aside := true } } else p
    let s := if parked then s.modBnd (coreBinding s c) fun b => { b with parks := b.parks.map away } else s
    s.modThread c t fun q => { q with
      nmiReq := false
      nmiSrc := if framePlaced th then 0 else q.nmiSrc
      took := true
      aside := if parked && q.run then th.blocked else q.aside }

/-- The enabled pending interrupt of the lowest vector on a thread: its vector, SUB and eaddr (R102, R115). -/
def pendingInterrupt (k : Core) (t : ThreadId) : Option (BitVec 5 × BitVec 8 × DWord) :=
  let th := k.thread t
  let en (n : Nat) : Bool := th.eien.getLsbD n
  match th.beatPend, th.movPend, th.rsmPend, th.thrPend with
  | b, m, r, l =>
    if en 16 && b.isSome then some (16, 0, b.getD 0)
    else if en 17 && k.ctl.swi.getLsbD t.toNat then some (17, 0, 0)
    else if en 18 && m.isSome && decide (t = 0) then some (18, 0, (m.getD 0).setWidth 64)
    else if en 19 && r.isSome then some (19, 0, (r.getD 0).setWidth 64)
    else if en 21 && l.isSome then some (21, (l.getD 0).setWidth 8, 0)
    else none

/-- Entry to a vector clears its source (R102). -/
def clearSource (c : CoreId) (t : ThreadId) (vec : BitVec 5) (s : State) : State :=
  s.modCore c fun k =>
    let k := if vec = 17 then { k with ctl := { k.ctl with swi := k.ctl.swi &&& ~~~(BitVec.ofNat 4 (2 ^ t.toNat)) } } else k
    k.modThread t fun th =>
      { th with
        beatPend := if vec = 16 then none else th.beatPend
        movPend := if vec = 18 then none else th.movPend
        rsmPend := if vec = 19 then none else th.rsmPend
        thrPend := if vec = 21 then none else th.thrPend }

/-- The NMI is to be taken at the thread's next boundary. -/
def Thread.nmiDue (th : Thread) : Bool := th.nmiReq && !th.estat.getLsbD 1

/-- A cause of rank 1 to 3 is to be taken before the thread issues again (R115). -/
def causeDue (k : Core) (t : ThreadId) : Bool :=
  let th := k.thread t
  !k.ctl.stopping && !th.took && (th.nmiDue || (decide (t = 0) && !k.causes.isEmpty) || (th.estat.getLsbD 0 && (pendingInterrupt k t).isSome))

/-! ## Return (R113, R116, R123) -/

/-- Reserved bits of a frame's estat and QSW, and the shape of its epc (R113). -/
def frameBad (epc estat : Nat) (qsw : Nat) : Bool :=
  epc / 2 ^ 17 != 0 || epc % 4 != 0 || bitsOf estat 16 16 != 0 || bitsOf estat 9 2 != 0 || bitsOf estat 3 5 != 0
    || bitsOf qsw 26 1 != 0 || bitsOf qsw 10 12 != 0 || bitsOf qsw 27 2 == 3

/-- Where a held vector head resumes (R161). An instruction of no group counts as one of one group (notes/assumptions/19.md). -/
def VRun.resumeAt (r : VRun) (valid : Bool) (n : Nat) : VRun :=
  let again := r.i.op.kind == .scan || r.i.op.kind == .rsum || r.i.op.kind == .compress
  if !valid then r.restart
  else if max 1 r.i.groups ≤ n then { r with group := n, probed := true }
  else if again && n != r.group then
    { r with group := 0, carry := r.i.cin.getD 0, parts := r.parts.map fun _ => 0, flags := 0, fl := false }
  else { r with group := n }

/-- Where a held matrix head resumes. -/
def MRun.resumeAt (r : MRun) (valid : Bool) (n : Nat) : MRun :=
  if !valid then { r with pos := 0 }
  else { r with pos := (if r.i.op = .mma then n / max (r.i.p * r.i.unit) 1 * r.i.unit else n) }

/-- Apply the frame's QSW and eprog on h0 (R123); `qfrz` is the restored QFRZ. -/
def applyQsw (c : CoreId) (qsw eprog : Nat) (qfrz : Bool) (s : State) : State :=
  if bitsOf qsw 29 1 = 1 then dropQueues c s
  else if qfrz then s
  else s.modCore c fun k =>
    let v := match k.vec.started with
      | h :: r => h.resumeAt (bitsOf eprog 15 1 == 1) (bitsOf eprog 0 15) :: r
      | [] => []
    let m := match k.mat.started with
      | h :: r => h.resumeAt (bitsOf eprog 31 1 == 1) (bitsOf eprog 16 15) :: r
      | [] => []
    (k.setV k.vec.queue v).setM k.mat.queue m

/-- A context that was parked returns to its park (R117): open again, or to what the driver has answered meanwhile. -/
def repark (c : CoreId) (t : ThreadId) (s : State) : State :=
  let b := coreBinding s c
  let th := s.thread c t
  let mine (p : Parked) : Bool := decide (p.who = .scalar c) && p.park.aside
  let answer := match (s.bnd b).parks.find? mine with
    | some p => p.park.answer
    | none => .resumed
  let s := s.modThread c t fun q => { q with blocked := th.aside, aside := none }
  let back (p : Parked) : Parked := if mine p then { p with park := { p.park with aside := false } } else p
  match answer with
  | .resumed => s.modBnd b fun x => { x with parks := x.parks.filter fun p => !mine p }
  | _ => s.modBnd b fun x => { x with parks := x.parks.map back }

/-- ERET (R113): a frame fault where esp or the frame is invalid; otherwise pc and estat from the frame, the queues on h0, and a
latched NMI at once where INNMI returns to 0 (R116). -/
def returnFromException (c : CoreId) (t : ThreadId) (s : State) : State :=
  let k := s.core c
  let th := k.thread t
  let emer := th.estat.getLsbD 15
  let base := if emer then slotAddr t else th.esp.toNat
  let word (o n : Nat) : Nat := k.mem.dls.readNat (base + o) n
  let ok := emer || (decide (th.esp.toNat % 64 = 0) && frameFits th th.esp.toNat)
  let epc := word 0 4
  let estat := word 4 4
  let qsw := word 24 8
  if !ok || frameBad epc estat qsw then raise c t (.sync 2 3 (th.esp.setWidth 64)) th.pc s
  else
    let e : Word := BitVec.ofNat 32 estat
    let live := setBit 2 (th.estat.getLsbD 2) (setBit 12 false (setBit 14 false e))
    let live := if t = 0 then live else setBit 8 false live
    let s := s.modThread c t fun q => { q with
      pc := BitVec.ofNat 17 epc
      estat := live
      esp := if emer then q.esp else q.esp + 64
      resv := none
      stepOver := e.getLsbD 13 }
    let s := if t = 0 then applyQsw c qsw (word 12 4) (e.getLsbD 8) s else s
    let s := if e.getLsbD 14 && th.aside.isSome then repark c t s else s
    if !live.getLsbD 1 && live.getLsbD 2 then
      takeNmi c t (s.modThread c t fun q => { q with estat := setBit 2 false q.estat, nmiReq := true })
    else s

/-! ## Stopping a core (R339) -/

/-- Perform the merging-buffer entries that have begun to drain, as far as they can be performed, and discard the rest. -/
def settleMerge (c : CoreId) (s : State) : State :=
  let s := s.modCore c fun k => { k with mem := { k.mem with mbuf := k.mem.mbuf.filter MergeEntry.begun } }
  (indices 8).foldl (fun s _ => drainOldest c s) s

/-- Stop a core at once: started instructions stop at a boundary or run on as far as they can, then all that is held, queued or started is
dropped, with the patch queues and the RUN bits. No frame is written. -/
def stopCore (c : CoreId) (s : State) : State :=
  let s := if (s.core c).frozen then s
    else if pmOf s c then (drainStarted c false s).getD s
    else freezeMatrix c (freezeVector c s)
  let s := dropParks c [.scalar c] (dropQueues c s)
  let s := s.modCore c fun k =>
    { k with
      causes := []
      ctl := { k.ctl with stopping := false }
      threads := k.threads.mapListed .reset fun _ th =>
        { th with run := false, waiting := false, patchQ := [], blocked := none, aside := none, owed := none, resv := none } }
  settleMerge c s

/-- A core is inside no instruction: nothing that started runs on, and no thread waits for its access. -/
def Core.atBoundary (k : Core) : Bool :=
  (k.vec.started.isEmpty || k.faultPending false) && (k.mat.started.isEmpty || k.faultPending true)
    && k.threads.entries.all fun e => e.2.blocked.isNone

/-- A core that is to stop stops at its boundary. -/
def settleStop (c : CoreId) (s : State) : State :=
  if (s.core c).ctl.stopping && (s.core c).atBoundary then stopCore c s else s

/-- The parked engines of a core end unanswered (R340): h0's access, and the instruction at the head of a queue. -/
def endParked (c : CoreId) (s : State) : State :=
  let b := coreBinding s c
  let v := isParked s b (.vector c)
  let m := isParked s b (.matrix c)
  let s := if isParked s b (.scalar c) then s.modThread c 0 fun th => { th with blocked := none } else s
  let s := s.modCore c fun k =>
    (k.setV k.vec.queue (if v then k.vec.started.drop 1 else k.vec.started)).setM k.mat.queue
      (if m then k.mat.started.drop 1 else k.mat.started)
  dropParks c [.scalar c, .vector c, .matrix c] s

/-- Stop a core as step 1 of UNBIND does (R339, R340): its parked engines end and nothing more issues or starts. Under PM = 0 the
started instructions of the queues stop at a boundary, under PM = 1 they run on, and a scalar access or a fence under way ends first. -/
def quiesceCore (c : CoreId) (s : State) : State :=
  let s := endParked c s
  let runs := !(s.core c).frozen && pmOf s c
  let s := if (s.core c).frozen then s
    else if runs then (drainStarted c false s).getD s
    else freezeMatrix c (freezeVector c s)
  let s := s.modCore c fun k =>
    let k := (k.setV [] (if runs then k.vec.started else [])).setM [] (if runs then k.mat.started else [])
    { k with
      ctl := { k.ctl with stopping := true }
      threads := k.threads.mapListed .reset fun _ th => { th with patchQ := [] } }
  settleStop c s

/-! ## Issuing a scalar instruction -/

/-- A long operation of any thread stops issue on all four (R91); one that is parked is not in progress (R117). -/
def longInProgress (s : State) (c : CoreId) : Bool :=
  (s.core c).threads.entries.any fun e => match e.2.blocked with
    | some (.fence _ _) => true
    | some (.lrx _) => !isParked s (coreBinding s c) (.scalar c)
    | some (.scx _) => !isParked s (coreBinding s c) (.scalar c)
    | _ => false

/-- The thread may issue now (R90, R115). -/
def ready (s : State) (c : CoreId) (t : ThreadId) : Bool :=
  let k := s.core c
  let th := k.thread t
  th.run && !th.waiting && th.blocked.isNone && th.owed.isNone && !k.ctl.stopping && !longInProgress s c && !causeDue k t

/-- h0 waits for registers that queued instructions have yet to write or read (R92): g registers read, f registers read, f registers
written. R122 lifts the wait while the queues are frozen. -/
def stalls (k : Core) (t : ThreadId) (gs fs fw : List (BitVec 5)) : Bool :=
  decide (t = 0) && !k.frozen &&
    (let writes := k.vecAll.flatMap VInstr.writes ++ k.matAll.flatMap fun m => m.vwrites ++ m.gwrites
     let names := k.vecAll.flatMap VInstr.vregs ++ k.matAll.flatMap MInstr.vregs
     gs.any (fun g => meet (gName g) writes) || fs.any (fun f => writes.contains f.toNat)
      || fw.any fun f => names.contains f.toNat)

/-- The breakpoint that matches at a thread's pc (R103, R104); number 0 where both do (DESIGN CHOICE, notes/assumptions/17.md). -/
def breakpointAt (k : Core) (t : ThreadId) : Option (BitVec 8) :=
  let th := k.thread t
  let hit (b : Breakpoint) : Bool := b.en && b.threads.getLsbD t.toNat && decide (b.off = th.pc)
  if th.stepOver then none else if hit k.ctl.bp0 then some 0 else if hit k.ctl.bp1 then some 1 else none

/-- The word at an instruction-store offset has bad parity (Table 17-6). -/
def parityBad (k : Core) (off : BitVec 17) : Bool := k.mem.badParity.get false (off.toNat / 4)

/-- Take vector 4, with its code 0x0016 record. -/
def parityFault (c : CoreId) (t : ThreadId) (sub : BitVec 8) (off : BitVec 17) (s : State) : State :=
  let pc := (s.thread c t).pc
  match takeException c t (.sync 4 sub (off.setWidth 64)) pc false s with
  | some s => report 1 0 0x0016 (c.setWidth 16) (some (coreBinding s c)) (off.setWidth 64) [] s
  | none => s

/-- The lowest subcode whose condition holds (R67). -/
def lowestSub (l : List (Bool × BitVec 8)) : Option (BitVec 8) := (l.find? Prod.fst).map Prod.snd

/-- Issue an instruction on a thread: an owed cause goes first; nothing while the thread is not ready or must wait; otherwise the checks of rank 4 that come first,
in their order (parity, illegal instruction, those of a shape word where `shape` gives one, breakpoint), and then `body`. -/
def issueWith (c : CoreId) (t : ThreadId) (bad : Option Cause) (shape : Option (State → State)) (gs fs fw : List (BitVec 5))
    (body : State → State) (s : State) : Result :=
  let k := s.core c
  let pc := (k.thread t).pc
  if (k.thread t).owed.isSome then .next (takeOwed c t s)
  else if !ready s c t || stalls k t gs fs fw then .next s
  else if parityBad k pc then .next (parityFault c t 1 pc s)
  else match bad with
    | some x => .next (raise c t x pc s)
    | none => match shape with
      | some f => .next (f s)
      | none => match breakpointAt k t with
        | some n => .next (raise c t (.sync 12 n 0) pc s)
        | none => .next (body (s.modThread c t fun th => { th with took := false }))

/-- Issue a scalar instruction; `bad` is the subcode of vector 3 where it is illegal (R67). -/
def issue (c : CoreId) (t : ThreadId) (bad : Option (BitVec 8)) (gs fs fw : List (BitVec 5)) (body : State → State) (s : State) :
    Result :=
  issueWith c t (bad.map fun sub => .sync 3 sub 0) none gs fs fw body s

/-! ## Retiring (R78, R79, R86) -/

/-- The instruction after one whose last word is at `a`, and the loop counts, under R78. -/
def loopNext (th : Thread) (a : BitVec 17) : BitVec 17 × Thread :=
  let hit (k : Nat) (th : Thread) : Bool := th.lc.get 0 k != 0 && (th.le.get 0 k) == a.setWidth 32
  let many (k : Nat) (th : Thread) : Bool := decide (1 < (th.lc.get 0 k).toNat)
  let dec (k : Nat) (th : Thread) : Thread := { th with lc := th.lc.modify 0 k (· - 1) }
  let clr (k : Nat) (th : Thread) : Thread := if hit k th then { th with lc := th.lc.set 0 k 0 } else th
  let back (k : Nat) (th : Thread) : BitVec 17 := BitVec.ofNat 17 (th.lb.get 0 k).toNat
  if hit 2 th && many 2 th then (back 2 th, dec 2 th)
  else
    let th := clr 2 th
    if hit 1 th && many 1 th then (back 1 th, dec 1 th)
    else
      let th := clr 1 th
      if hit 0 th && many 0 th then (back 0 th, dec 0 th) else (a + 4, clr 0 th)

/-- An instruction lies between an LR and its SC (R86). -/
def Thread.tick (alu : Bool) (th : Thread) : Thread :=
  { th with resv := th.resv.map fun r => { r with since := r.since + 1, clean := r.clean && alu } }

/-- A one-word instruction completes: the loop rule gives the next pc. `alu` for an instruction that R86 admits. -/
def retireThread (alu : Bool) (th : Thread) : Thread :=
  let (n, th) := loopNext th th.pc
  { th.tick alu with pc := n, stepOver := false }

/-- A one-word instruction of a thread completes. -/
def retire (c : CoreId) (t : ThreadId) (alu : Bool) (s : State) : State := s.modThread c t (retireThread alu)

/-- A branch or jump is taken: it leaves the active loops whose bodies do not hold its target (R79). -/
def branchThread (target : BitVec 17) (th : Thread) : Thread :=
  let out (k : Nat) (th : Thread) : Thread :=
    if th.lc.get 0 k ≠ 0 ∧ (target.toNat < (th.lb.get 0 k).toNat ∨ (th.le.get 0 k).toNat < target.toNat) then
      { th with lc := th.lc.set 0 k 0 } else th
  let th := out 2 (out 1 (out 0 th))
  { th.tick false with pc := target, stepOver := false }

/-- Retire, and take a cause that follows completion, with epc as R78 gives it (R78, R115). -/
def retireThen (c : CoreId) (t : ThreadId) (x : Cause) (s : State) : State := takeLater c t x (retire c t false s)

end Sys2Proof.Machine
end

