-- ==== Sys2Proof/Machine/Operands.lean ====
section
/-!
DEFINITION. Operand forms of the scalar instructions: immediates, the core address space (R58 to R61), span addresses (R63), the sz
field (Table 03-8), watchpoints (R103).
-/

namespace Sys2Proof.Machine

/-! ## Immediates -/

/-- imm16 sign-extended. -/
def sextImm (i : BitVec 16) : Word := i.signExtend 32

/-- imm16 zero-extended. -/
def zextImm (i : BitVec 16) : Word := i.setWidth 32

/-- The core address of a load or store: g[ra] + sext(disp13) (R70). -/
def localAddr (k : Core) (t : ThreadId) (ra : BitVec 5) (disp : BitVec 13) : Nat :=
  ((k.thread t).rg ra + disp.signExtend 32).toNat

/-- The va of a span access (R63). -/
def spanVa (k : Core) (sp : BitVec 4) (g : Word) : Nat :=
  let x := k.span sp
  (x.base + (g.signExtend 64 <<< x.scale.toNat)).toNat

/-! ## The sz field (Table 03-8) -/

/-- Bytes of an access. -/
def szBytes (sz : BitVec 3) : Nat := match sz.toNat with
  | 0 | 1 => 1
  | 2 | 3 => 2
  | 4 | 5 => 4
  | _ => 8

/-- An sz that no load has. -/
def badLoadSz (sz : BitVec 3) : Bool := sz == 7

/-- An sz that no store has. -/
def badStoreSz (sz : BitVec 3) : Bool := sz == 1 || sz == 3 || sz == 7

/-- The sz of a floating-point register. -/
def fpSz (sz : BitVec 3) : Bool := sz == 5 || sz == 6

/-- A load's result enters its register (Table 03-8, R53). -/
def Core.loadReg (k : Core) (t : ThreadId) (rd : BitVec 5) (sz : BitVec 3) (v : Nat) : Core :=
  let g (x : Word) : Core := k.modThread t fun th => th.wg rd x
  match sz.toNat with
  | 0 => g ((BitVec.ofNat 8 v).signExtend 32)
  | 1 => g ((BitVec.ofNat 8 v).setWidth 32)
  | 2 => g ((BitVec.ofNat 16 v).signExtend 32)
  | 3 => g ((BitVec.ofNat 16 v).setWidth 32)
  | 4 => g (BitVec.ofNat 32 v)
  | 5 => k.wf t rd (BitVec.ofNat 64 (v % 2 ^ 32))
  | _ => k.wf t rd (BitVec.ofNat 64 v)

/-- The bytes that a store takes from its register. -/
def Core.storeBytes (k : Core) (t : ThreadId) (rd : BitVec 5) (sz : BitVec 3) : List Byte :=
  if fpSz sz then bytesOfNat (szBytes sz) (k.rf t rd).toNat else bytesOfNat (szBytes sz) ((k.thread t).rg rd).toNat

/-! ## The core address space (Table 03-2) -/

/-- The rows of Table 03-2. -/
inductive Local where
  | dls | istore | page | hole
deriving DecidableEq, Repr

/-- The row of a byte address. -/
def localRow (a : Nat) : Local :=
  if a < 0x100000 then .dls
  else if a < 0x120000 then .istore
  else if 0x200000 ≤ a ∧ a < 0x210000 then .page
  else .hole

/-- The fault of an access of n bytes at a core address, if it takes one (R58, R59). One that ends in the control page takes that row's
subcode 0x02, one whose last row permits it 0x01 (DEDUCED, notes/assumptions/17.md). -/
def localFault (write : Bool) (a n : Nat) : Option Cause :=
  let vec : BitVec 5 := if write then 6 else 5
  let ea := BitVec.ofNat 64 a
  let last := localRow (a + n - 1)
  let own : Option Cause := match last with
    | .dls => none
    | .istore => if write then some (.sync 14 1 ea) else none
    | .page => if n = 4 ∧ a % 4 = 0 then none else some (.sync vec 2 ea)
    | .hole => some (.sync vec 1 ea)
  if localRow a = last then own else some (own.getD (.sync vec 1 ea))

/-- The RUN bits of a core's threads (Table 03-3). -/
def runBits (k : Core) : Nat := ((indices 4).map fun h => bit (k.thread (BitVec.ofNat 2 h)).run * 2 ^ h).sum

/-- A read of the control page at an offset (Table 03-3). -/
def pageRead (s : State) (c : CoreId) (off : Nat) : Nat :=
  match off with
  | 0x0 => c.toNat / 32 * 2 ^ 24 + c.toNat / 8 * 2 ^ 16 + c.toNat
  | 0x4 => runBits (s.core c)
  | 0xC => (s.core c).ctl.swi.toNat
  | _ => 0

/-- The bytes of a load from the core address space that takes no fault. -/
def localRead (s : State) (c : CoreId) (a n : Nat) : List PByte :=
  match localRow a with
  | .dls => (s.core c).dlsRead a n
  | .istore => clean ((s.core c).mem.istore.readBytes (a - 0x100000) n)
  | _ => clean (bytesOfNat n (pageRead s c (a - 0x200000)))

/-! ## Watchpoints (R103, R104) -/

/-- The first watchpoint that an access of n bytes at `a` matches; `va` for a span access. Where both match, number 0 is reported, with the
lowest byte that it matches (DESIGN CHOICE, notes/assumptions/17.md). -/
def watchAt (k : Core) (t : ThreadId) (a n : Nat) (va write : Bool) : Option Cause :=
  let th := k.thread t
  let hit (num : Nat) (w : Watchpoint) : Option Cause :=
    let lo := max a w.addr.toNat
    let hi := min (a + n) (w.addr.toNat + w.lenM1.toNat + 1)
    if w.en && w.va == va && (if write then w.stores else w.loads) && w.threads.getLsbD t.toNat && decide (lo < hi) then
      some (.sync 13 (BitVec.ofNat 8 (16 * bit write + num)) (BitVec.ofNat 64 lo))
    else none
  if th.stepOver then none else (hit 0 k.ctl.wp0).or (hit 1 k.ctl.wp1)

/-- The first watchpoint that a load or store of the core address space matches: the halves of an access that crosses a 64-byte line are
checked one after the other (R125, notes/assumptions/17.md). -/
def watchLocal (k : Core) (t : ThreadId) (a n : Nat) (write : Bool) : Option Cause :=
  (unitPieces a n).findSome? fun p => watchAt k t p.1 p.2 false write

/-! ## Zero fields (R67) -/

/-- A nonzero bit in a field marked zero. -/
def nonzero {w : Nat} (z : BitVec w) : Bool := z != 0

end Sys2Proof.Machine
end

