-- ==== Sys2Proof/Machine/Flags.lean ====
section
/-!
DEFINITION. Scalar floating point and its flags: reading operands, writing results, accruing flags into fcsr and trapping (R53, R76,
R216, R217, R219, R220).
-/

namespace Sys2Proof.Machine

/-- FP32 or FP64 (fn[10]). -/
def scalarFmt (dbl : Bool) : Fmt := if dbl then fp64 else fp32

/-- The environment of scalar floating point: conforming, and mode 6 rounds as mode 0 (R76). -/
def scalarEnv (s : State) (c : CoreId) (t : ThreadId) : FEnv :=
  { (envOf (s.thread c t).fcsr (flushAll s)).noDraw with cf := true }

/-- The operand that f[r] holds. -/
def Core.fpRead (k : Core) (t : ThreadId) (r : BitVec 5) (dbl : Bool) : Nat :=
  if dbl then (k.rf t r).toNat else (k.rf t r).toNat % 2 ^ 32

/-- Accrue flags and FL into a thread's fcsr. -/
def Thread.accrue (th : Thread) (flags : BitVec 5) (fl : Bool) : Thread :=
  { th with fcsr := Sys2Proof.Machine.accrue th.fcsr flags fl }

/-- A scalar floating-point instruction that has written its result completes: its flags accrue, and an enabled one traps after
completion (R216, R217, R115). -/
def fpComplete (c : CoreId) (t : ThreadId) (flags : BitVec 5) (fl : Bool) (s : State) : State :=
  let s := s.modThread c t fun th => th.accrue flags fl
  let mask := trapMask (s.thread c t).fcsr flags
  if mask = 0 then retire c t false s else retireThen c t (.sync 10 mask 0) s

/-- A result into f[rd]. -/
def fpResult (c : CoreId) (t : ThreadId) (rd : BitVec 5) (r : FRes) (s : State) : State :=
  fpComplete c t r.flags r.fl (s.modCore c fun k => k.wf t rd (BitVec.ofNat 64 r.bits))

/-- A result into g[rd]. -/
def fpToG (c : CoreId) (t : ThreadId) (rd : BitVec 5) (v : Nat) (flags : BitVec 5) (fl : Bool) (s : State) : State :=
  fpComplete c t flags fl (s.modThread c t fun th => th.wg rd (BitVec.ofNat 32 v))

end Sys2Proof.Machine
end

