-- ==== Sys2Proof/Machine/Integer.lean ====
section
/-!
DEFINITION. Integer instructions (R68, R69; Table 03-6).
-/

namespace Sys2Proof.Machine

/-- Write g[rd] and retire; `alu` for an instruction that R86 admits between an LR and its SC. -/
def writeG (c : CoreId) (t : ThreadId) (rd : BitVec 5) (alu : Bool) (v : Word) (s : State) : State :=
  retire c t alu (s.modThread c t fun th => th.wg rd v)

/-- A register-form operation f on g[ra] and g[rb]. -/
def aluReg (o : RForm) (alu : Bool) (f : Word → Word → Word) (s : State) : Result :=
  issue o.core o.th none [o.ra, o.rb] [] []
    (fun s => writeG o.core o.th o.rd alu (f ((s.thread o.core o.th).rg o.ra) ((s.thread o.core o.th).rg o.rb)) s) s

/-- An immediate operation f on g[ra]; `bad` where a bit marked zero is set. -/
def aluImm (o : IForm) (bad : Bool) (f : Word → Word) (s : State) : Result :=
  issue o.core o.th (if bad then some 2 else none) [o.ra] [] []
    (fun s => writeG o.core o.th o.rd true (f ((s.thread o.core o.th).rg o.ra)) s) s

/-- imm16[15:5] of a shift must be zero (R68). -/
def badShift (o : IForm) : Bool := decide (32 ≤ o.imm.toNat)

/-- ADD: rd := ra + rb (R68). -/
def execAdd (o : RForm) (s : State) : Result := aluReg o true (fun a b => a + b) s

/-- SUB: rd := ra − rb (R68). -/
def execSub (o : RForm) (s : State) : Result := aluReg o true (fun a b => a - b) s

/-- AND: bitwise (R68). -/
def execAnd (o : RForm) (s : State) : Result := aluReg o true (fun a b => a &&& b) s

/-- OR: bitwise (R68). -/
def execOr (o : RForm) (s : State) : Result := aluReg o true (fun a b => a ||| b) s

/-- XOR: bitwise (R68). -/
def execXor (o : RForm) (s : State) : Result := aluReg o true (fun a b => a ^^^ b) s

/-- SLL: shift left by rb[4:0] (R68). -/
def execSll (o : RForm) (s : State) : Result := aluReg o true (fun a b => a <<< (b.toNat % 32)) s

/-- SRL: shift right logically by rb[4:0] (R68). -/
def execSrl (o : RForm) (s : State) : Result := aluReg o true (fun a b => a >>> (b.toNat % 32)) s

/-- SRA: shift right arithmetically by rb[4:0] (R68). -/
def execSra (o : RForm) (s : State) : Result := aluReg o true (fun a b => a.sshiftRight (b.toNat % 32)) s

/-- SLT: 1 if ra < rb, signed (R68). -/
def execSlt (o : RForm) (s : State) : Result := aluReg o true (fun a b => if a.toInt < b.toInt then 1 else 0) s

/-- SLTU: 1 if ra < rb, unsigned (R68). -/
def execSltu (o : RForm) (s : State) : Result := aluReg o true (fun a b => if a.toNat < b.toNat then 1 else 0) s

/-- MUL: the low 32 bits of the product (R68). -/
def execMul (o : RForm) (s : State) : Result := aluReg o true (fun a b => a * b) s

/-- MULH: the upper 32 bits of the signed product (R68). -/
def execMulh (o : RForm) (s : State) : Result := aluReg o true (fun a b => BitVec.ofInt 32 (a.toInt * b.toInt / 2 ^ 32)) s

/-- MULHU: the upper 32 bits of the unsigned product (R68). -/
def execMulhu (o : RForm) (s : State) : Result := aluReg o true (fun a b => BitVec.ofNat 32 (a.toNat * b.toNat / 2 ^ 32)) s

/-- DIV: quotient rounded toward zero (R69). -/
def execDiv (o : RForm) (s : State) : Result := aluReg o false (fun a b => if b = 0 then 0xFFFFFFFF else BitVec.ofInt 32 (a.toInt.tdiv b.toInt)) s

/-- DIVU (R69). -/
def execDivu (o : RForm) (s : State) : Result := aluReg o false (fun a b => if b = 0 then 0xFFFFFFFF else BitVec.ofNat 32 (a.toNat / b.toNat)) s

/-- REM: remainder with the sign of the dividend (R69). -/
def execRem (o : RForm) (s : State) : Result := aluReg o false (fun a b => if b = 0 then a else BitVec.ofInt 32 (a.toInt.tmod b.toInt)) s

/-- REMU (R69). -/
def execRemu (o : RForm) (s : State) : Result := aluReg o false (fun a b => if b = 0 then a else BitVec.ofNat 32 (a.toNat % b.toNat)) s

/-- ADDI: rd := ra + sext(imm16) (R68). -/
def execAddi (o : IForm) (s : State) : Result := aluImm o false (fun a => a + sextImm o.imm) s

/-- ANDI: zero-extended immediate (R68). -/
def execAndi (o : IForm) (s : State) : Result := aluImm o false (fun a => a &&& zextImm o.imm) s

/-- ORI: zero-extended immediate (R68). -/
def execOri (o : IForm) (s : State) : Result := aluImm o false (fun a => a ||| zextImm o.imm) s

/-- XORI: zero-extended immediate (R68). -/
def execXori (o : IForm) (s : State) : Result := aluImm o false (fun a => a ^^^ zextImm o.imm) s

/-- SLTI: signed against sext(imm16) (R68). -/
def execSlti (o : IForm) (s : State) : Result := aluImm o false (fun a => if a.toInt < (sextImm o.imm).toInt then 1 else 0) s

/-- SLTIU: unsigned against sext(imm16) (R68). -/
def execSltiu (o : IForm) (s : State) : Result := aluImm o false (fun a => if a.toNat < (sextImm o.imm).toNat then 1 else 0) s

/-- SLLI: shift left by imm16[4:0] (R68). -/
def execSlli (o : IForm) (s : State) : Result := aluImm o (badShift o) (fun a => a <<< (o.imm.toNat % 32)) s

/-- SRLI: shift right logically by imm16[4:0] (R68). -/
def execSrli (o : IForm) (s : State) : Result := aluImm o (badShift o) (fun a => a >>> (o.imm.toNat % 32)) s

/-- SRAI: shift right arithmetically by imm16[4:0] (R68). -/
def execSrai (o : IForm) (s : State) : Result := aluImm o (badShift o) (fun a => a.sshiftRight (o.imm.toNat % 32)) s

/-- LUI: rd := imm16 << 16 (R68). -/
def execLui (o : IForm) (s : State) : Result :=
  issue o.core o.th none [] [] [] (fun s => writeG o.core o.th o.rd true (zextImm o.imm <<< 16) s) s

end Sys2Proof.Machine
end

