-- ==== Sys2Proof/Machine/Pages.lean ====
section
/-!
DEFINITION. The writable registers of the control page and the start and stop of threads (R52, R53, R61, R62, R101, R105, R215).
-/

namespace Sys2Proof.Machine

/-- Thread h as it starts at vector 0: the registers that R52, R53, R101 and R215 fix take their values, the others and the pending sources
stay, and so does the patch queue, which R100 does not discard here (R102, R105). The staged halves of eaddr and rpos go and the high-half
shadow stays, an NMI asserted before the start is not taken: notes/assumptions/16.md. -/
def Thread.started (th : Thread) : Thread :=
  { th with
    g := .empty
    f := .empty
    pc := 0x100
    lb := .empty
    le := .empty
    lc := .empty
    estat := 0
    fcsr := 0
    stagedEaddr := none
    stagedRpos := none
    resv := none
    run := true
    waiting := false
    stepOver := false
    blocked := none
    aside := none
    owed := none
    took := false
    nmiReq := false
    nmiSrc := 0 }

/-- THREAD_RUN is written: each stopped thread h1 to h3 whose bit is 1 starts (R61, R62). -/
def writeThreadRun (c : CoreId) (v : Word) (s : State) : State :=
  s.modCore c fun k => ([1, 2, 3] : List Nat).foldl (fun k h =>
    let t : ThreadId := BitVec.ofNat 2 h
    if v.getLsbD h && !(k.thread t).run then k.modThread t Thread.started else k) k

/-- A thread stops after its present instruction; its patch queue goes (R61, R100). -/
def Thread.stopped (th : Thread) : Thread := { th with run := false, waiting := false, patchQ := [], nmiReq := false, owed := none }

/-- THREAD_STOP is written (R61). -/
def writeThreadStop (c : CoreId) (v : Word) (s : State) : State :=
  s.modCore c fun k => ([1, 2, 3] : List Nat).foldl (fun k h =>
    if v.getLsbD h then k.modThread (BitVec.ofNat 2 h) Thread.stopped else k) k

/-- SWI is written: PEND bits are set (R61, R102). -/
def writeSwi (c : CoreId) (v : Word) (s : State) : State :=
  s.modCore c fun k => { k with ctl := { k.ctl with swi := k.ctl.swi ||| v.setWidth 4 } }

/-- SWI_CLR is written: PEND bits are cleared (R61). -/
def writeSwiClr (c : CoreId) (v : Word) (s : State) : State :=
  s.modCore c fun k => { k with ctl := { k.ctl with swi := k.ctl.swi &&& ~~~(v.setWidth 4) } }

/-- A word written at an offset of the control page; an offset not listed ignores it (R61). -/
def pageWrite (c : CoreId) (off : Nat) (v : Word) (s : State) : State :=
  match off with
  | 0x04 => writeThreadRun c v s
  | 0x08 => writeThreadStop c v s
  | 0x0C => writeSwi c v s
  | 0x10 => writeSwiClr c v s
  | _ => s

/-- THREAD_RUN (R62). -/
def execThreadRun (o : PageWrite) (s : State) : Result := .next (writeThreadRun o.core o.val s)

/-- THREAD_STOP (R61, R100). -/
def execThreadStop (o : PageWrite) (s : State) : Result := .next (writeThreadStop o.core o.val s)

/-- SWI (R61, R102). -/
def execSwi (o : PageWrite) (s : State) : Result := .next (writeSwi o.core o.val s)

/-- SWI_CLR (R61). -/
def execSwiClr (o : PageWrite) (s : State) : Result := .next (writeSwiClr o.core o.val s)

end Sys2Proof.Machine
end

