-- ==== Sys2Proof/Machine/LoadStore.lean ====
section
/-!
DEFINITION. Loads, stores and spans (R54, R58 to R65, R70 to R72, R125; Table 03-7): the core address space, and bulk memory through the
merging buffer, the L1D and the L2 (R243 to R250, R260).
-/

namespace Sys2Proof.Machine

/-! ## The core address space -/

/-- A scalar load that has its bytes writes rd and completes; poison is consumed after that (R115, R448, R449). -/
def finishLoad (c : CoreId) (t : ThreadId) (a : Nat) (data : List PByte) (s : State) : State :=
  match firstPoison [(a, data)] with
  | none => retire c t false s
  | some p => retireThen c t (.sync 20 1 p)
      (report 1 0 0x0014 (c.setWidth 16) (some (coreBinding s c)) p [1] s)

/-- LD (R58, R59, R70). -/
def execLd (o : MForm) (s : State) : Result :=
  issue o.core o.th (if badLoadSz o.sz then some 1 else none) [o.ra] [] (if fpSz o.sz then [o.rd] else [])
    (fun s =>
      let k := s.core o.core
      let a := localAddr k o.th o.ra o.disp
      let n := szBytes o.sz
      match (localFault false a n).or (watchLocal k o.th a n false) with
      | some x => raise o.core o.th x (k.thread o.th).pc s
      | none =>
        let data := localRead s o.core a n
        finishLoad o.core o.th a data (s.modCore o.core fun k => k.loadReg o.th o.rd o.sz (natOfMarked data))) s

/-- A store to the core address space that takes no fault. -/
def localWrite (c : CoreId) (t : ThreadId) (a : Nat) (l : List Byte) (s : State) : State :=
  match localRow a with
  | .dls => dlsWrite c a (clean l) (some t) s
  | .page => pageWrite c (a - 0x200000) (BitVec.ofNat 32 (natOfBytes l)) s
  | _ => s

/-- ST (R58, R59, R70). -/
def execSt (o : MForm) (s : State) : Result :=
  issue o.core o.th (if badStoreSz o.sz then some 1 else none) (if fpSz o.sz then [o.ra] else [o.ra, o.rd])
    (if fpSz o.sz then [o.rd] else []) []
    (fun s =>
      let k := s.core o.core
      let a := localAddr k o.th o.ra o.disp
      let n := szBytes o.sz
      match (localFault true a n).or (watchLocal k o.th a n true) with
      | some x => raise o.core o.th x (k.thread o.th).pc s
      | none => localWrite o.core o.th a (k.storeBytes o.th o.rd o.sz) (retire o.core o.th false s)) s

/-! ## Spans -/

/-- What makes a span instruction illegal: `bad` for an unassigned value, `z` for a nonzero zero field, an h1 to h3 (R64, R67). -/
def spanBad (t : ThreadId) (bad z : Bool) : Option (BitVec 8) := lowestSub [(bad, 1), (z, 2), (decide (t ≠ 0), 4)]

/-- Change a span register. -/
def Core.setSpan (k : Core) (n : BitVec 4) (x : Span) : Core :=
  { k with ctl := { k.ctl with spans := k.ctl.spans.set .reset n.toNat x } }

/-- SPAN (R54, R70). -/
def execSpan (o : SpanForm) (s : State) : Result :=
  issue o.core o.th (spanBad o.th (o.scale == 7) (nonzero o.z)) [o.ra, o.rb] [] []
    (fun s =>
      let th := s.thread o.core o.th
      retire o.core o.th false
        (s.modCore o.core fun k => k.setSpan o.span ⟨(th.rg o.rb).append (th.rg o.ra), o.scale⟩)) s

/-- SPANR (R70): base low, base high or scale. -/
def execSpanr (o : SpanrForm) (s : State) : Result :=
  issue o.core o.th (spanBad o.th (o.sel == 3) (nonzero o.z)) [] [] []
    (fun s =>
      let x := (s.core o.core).span o.span
      let v : Word := if o.sel = 0 then x.base.setWidth 32 else if o.sel = 1 then (x.base >>> 32).setWidth 32
        else x.scale.setWidth 32
      writeG o.core o.th o.rd false v s) s

/-! ## Bulk accesses of h0 -/

/-- A piece of a bulk access within one line: va, bytes, translation. -/
structure Piece where
  va : Nat
  len : Nat
  leaf : Leaf
deriving DecidableEq, Repr

/-- The physical address of a piece. -/
def Piece.pa (p : Piece) : Nat := (p.leaf.addr p.va).toNat

/-- How the checks of a bulk access end: translated, a wait for a walk or a park, or a fault. -/
inductive Checked where
  | ok (l : List Piece)
  | wait
  | fault (x : Cause)
deriving DecidableEq, Repr

/-- Translate the pieces of an access of h0 in ascending order, each with its watchpoints (R103, R115, R125). -/
def checkPieces (c : CoreId) (write : Bool) (l : List (Nat × Nat)) (s : State) : Checked × State :=
  l.foldl (fun (acc : Checked × State) p =>
    match acc with
    | (.ok got, s) =>
      match xlate (.scalar c) (coreBinding s c) (BitVec.ofNat 64 p.1) write false s with
      | (.leaf x, s) => match watchAt (s.core c) 0 p.1 p.2 true write with
        | some w => (.fault w, s)
        | none => (.ok (got ++ [⟨p.1, p.2, x⟩]), s)
      | (_, s) => (.wait, s)
    | x => x) (.ok [], s)

/-- h0 stays in a bulk access that waits (R94, R96, R117). -/
def holdScalar (c : CoreId) (op : ScalarOp) (s : State) : State := s.modThread c 0 fun th => { th with blocked := some op }

/-- h0 leaves the bulk access that it was in. -/
def leaveScalar (c : CoreId) (s : State) : State :=
  ((dropReturned (.scalar c) s).modThread c 0 fun th => { th with blocked := none }).modCore c fun k =>
    { k with mem := { k.mem with held := [] } }

/-- h0's bulk access takes a fault: none while the entry waits. -/
def faultScalar (c : CoreId) (x : Cause) (s : State) : Option State :=
  takeException c 0 x (s.thread c 0).pc false (leaveScalar c s)

/-- h0's bulk access takes a fault, or stays where it is while the entry waits. -/
def scalarFault (c : CoreId) (x : Cause) (s : State) : State := (faultScalar c x s).getD s

/-- A merging-buffer entry holds bytes of a piece. -/
def Piece.inEntry (p : Piece) (e : MergeEntry) : Bool :=
  e.line == p.pa / 64 && (e.mask &&& maskOf (p.pa % 64) p.len) != 0

/-- A merging-buffer entry holds every byte of a piece. -/
def Piece.inside (p : Piece) (e : MergeEntry) : Bool :=
  e.line == p.pa / 64 && (e.mask &&& maskOf (p.pa % 64) p.len) == maskOf (p.pa % 64) p.len

/-- What the merging buffer says to a load (R250). -/
inductive Forward where
  | free
  | bytes (l : List PByte)
  | drain
deriving DecidableEq, Repr

/-- Check the merging buffer for a load: nothing held, forwarded from the one entry that holds it all, or a wait for a drain. A load that
has begun to wait waits until every entry that held bytes of it has been performed (R250). -/
def forward (k : Core) (l : List Piece) : Forward :=
  match k.mem.mbuf.filter fun e => l.any fun p => p.inEntry e with
  | [] => .free
  | [e] => match l with
    | [p] => if p.leaf.attr ≠ 2 ∧ p.inside e ∧ !e.awaited then .bytes (clean (((lineBytes e.data).drop (p.pa % 64)).take p.len)) else .drain
    | _ => .drain
  | _ => .drain

/-- The entries that hold bytes of an access, and every older one, must drain (R249, R250). -/
def drainFor (c : CoreId) (l : List Piece) (s : State) : State :=
  s.modCore c fun k => { k with mem := { k.mem with mbuf := markThrough (fun e => l.any fun p => p.inEntry e) k.mem.mbuf } }

/-- A read of one sector at the L2; `keep` enters the line in the core's L1D and its presence record (R244, R246). -/
def readSector (c : CoreId) (pa : Nat) (v : Via) (keep : Bool) (s : State) : Option (List PByte) × State :=
  let t := tileOf c
  match l2Read (.scalar c) t (sliceOf c) (some (coreBinding s c)) pa v s with
  | (none, s) => (none, s)
  | (some u, s) =>
    if !keep then (some u, s)
    else
      let line := pa / 64
      let s := s.modCore c fun k => { k with mem := { k.mem with l1d := l1Insert ⟨line, lineOf (plain u), anyPsn u⟩ k.mem.l1d } }
      let mine : BitVec 32 := BitVec.ofNat 32 (2 ^ (c.toNat % 32))
      (some u, s.modTile t fun q => match q.sector line with
        | some x => { q with sectors := q.sectors.set none line (some { x with sharers := x.sharers ||| mine }) }
        | none => q)

/-- The bytes of one piece of a load; `whole` where the access is one piece, `lr` for an LRX, which does not use the L1D (R85). -/
def readPiece (c : CoreId) (p : Piece) (whole lr : Bool) (s : State) : Option (List PByte) × State :=
  let pa := p.leaf.addr p.va
  let part (u : List PByte) : List PByte := (u.drop (pa.toNat % 64)).take p.len
  if paRegion pa = 3 then
    let v := match ownWindow c (paOffset pa) with
      | some off => if whole then windowRead (s.core c).mem.win off p.len else 0
      | none => 0
    (some (clean (bytesOfNat p.len v)), s)
  else if cached p.leaf then
    match (if lr then none else (s.core c).l1Find (pa.toNat / 64)) with
    | some e => (some (part (marked e.psn (lineBytes e.data))),
        s.modCore c fun k => { k with mem := { k.mem with l1d := l1Insert e k.mem.l1d } })
    | none => match readSector c pa.toNat p.leaf.via (!lr) s with
      | (some u, s) => (some (part u), s)
      | (none, s) => (none, s)
  else physRead (.scalar c) (some (coreBinding s c)) pa p.len p.leaf.via s

/-- The bytes of a load past the merging buffer: none while a fill, a peer or the host is awaited. -/
def readPieces (c : CoreId) (l : List Piece) (lr : Bool) (s : State) : Option (List PByte) × State :=
  l.foldl (fun (acc : Option (List PByte) × State) p =>
    match acc with
    | (none, s) => (none, s)
    | (some x, s) => match readPiece c p (decide (l.length = 1)) lr s with
      | (some u, s) => (some (x ++ u), s)
      | (none, s) => (none, s)) (some [], s)

/-- An LDX goes on as far as it can: it completes, faults, or stays. -/
def attemptLdx (c : CoreId) (o : XForm) (s : State) : State :=
  let k := s.core c
  let va := spanVa k o.sp ((k.thread 0).rg o.ra)
  let n := szBytes o.sz
  match spanFault va n with
  | some ea => scalarFault c (.sync 5 3 ea) s
  | none => match checkPieces c false (unitPieces va n) s with
    | (.wait, s) => holdScalar c (.ldx o) s
    | (.fault x, s) => scalarFault c x s
    | (.ok l, s) =>
      let put (data : List PByte) (s : State) : State :=
        finishLoad c 0 va data ((leaveScalar c s).modCore c fun k => k.loadReg 0 o.rd o.sz (natOfMarked data))
      match forward (s.core c) l with
      | .bytes data => put data s
      | .drain => holdScalar c (.ldx o) (drainFor c l s)
      | .free => match readPieces c l false s with
        | (some data, s) => put data s
        | (none, s) => holdScalar c (.ldx o) s

/-- LDX (R63, R70, R94, R250). -/
def execLdx (o : XForm) (s : State) : Result :=
  issue o.core o.th (spanBad o.th (badLoadSz o.sz) (nonzero o.z)) [o.ra] [] (if fpSz o.sz then [o.rd] else [])
    (attemptLdx o.core o) s

/-- Put the pieces of a store into the merging buffer: all of them, or none where there is no room (R247, R248). -/
def mergePieces (l : List Piece) (va : Nat) (data : List Byte) (buf : List MergeEntry) : Option (List MergeEntry) :=
  l.foldl (fun (acc : Option (List MergeEntry)) p =>
    match acc with
    | some b => mergeStore (p.pa / 64) p.leaf (maskOf (p.pa % 64) p.len)
        (placeAt (p.pa % 64) ((data.drop (p.va - va)).take p.len)) b
    | none => none) (some buf)

/-- The oldest entry must drain, to make room (R96, R249). -/
def Core.drainFirst (k : Core) : Core :=
  match k.mem.mbuf with
  | e :: r => { k with mem := { k.mem with mbuf := { e with drain := true } :: r } }
  | [] => k

/-- The L1D's copy takes the bytes of a Cached store (R245). -/
def l1Pieces (l : List Piece) (va : Nat) (data : List Byte) (k : Core) : Core :=
  l.foldl (fun (k : Core) p =>
    if cached p.leaf then k.l1Store (p.pa / 64) (maskOf (p.pa % 64) p.len)
      (placeAt (p.pa % 64) ((data.drop (p.va - va)).take p.len)) false
    else k) k

/-- An STX goes on as far as it can: it enters the merging buffer, faults, or stays. A split one has no effect on a window (R260). -/
def attemptStx (c : CoreId) (o : XForm) (s : State) : State :=
  let k := s.core c
  let va := spanVa k o.sp ((k.thread 0).rg o.ra)
  let n := szBytes o.sz
  match spanFault va n with
  | some ea => scalarFault c (.sync 6 3 ea) s
  | none => match checkPieces c true (unitPieces va n) s with
    | (.wait, s) => holdScalar c (.stx o) s
    | (.fault x, s) => scalarFault c x s
    | (.ok l, s) =>
      let data := (s.core c).storeBytes 0 o.rd o.sz
      let l := if l.length = 1 then l else l.filter fun p => decide (paRegion (p.leaf.addr p.va) ≠ 3)
      match mergePieces l va data (s.core c).mem.mbuf with
      | some buf => retire c 0 false ((leaveScalar c s).modCore c fun k =>
          l1Pieces l va data { k with mem := { k.mem with mbuf := buf } })
      | none => holdScalar c (.stx o) (s.modCore c Core.drainFirst)

/-- STX (R63, R70, R96, R247). -/
def execStx (o : XForm) (s : State) : Result :=
  issue o.core o.th (spanBad o.th (badStoreSz o.sz) (nonzero o.z)) (if fpSz o.sz then [o.ra] else [o.ra, o.rd])
    (if fpSz o.sz then [o.rd] else []) [] (attemptStx o.core o) s

end Sys2Proof.Machine
end

