-- ==== Sys2Proof/Machine/Atomic.lean ====
section
/-!
DEFINITION. LR and SC (R82 to R86; Table 03-12).
-/

namespace Sys2Proof.Machine

/-- What makes an LR or SC illegal; `span` for the span forms, which alone name a span and belong to h0 (R64, R82). -/
def lrBad (o : LrForm) (span : Bool) : Option (BitVec 8) :=
  lowestSub [(nonzero o.z || (!span && nonzero o.sp), 2), (span && decide (o.th ≠ 0), 4)]

/-- Checks 1 and 5 of an LR.W or SC.W at core address a (R84, R115). -/
def lrFault (k : Core) (t : ThreadId) (write : Bool) (a : Nat) : Option Cause :=
  let ea := BitVec.ofNat 64 a
  if a % 4 ≠ 0 then some (.sync 7 1 ea)
  else if 0x100000 ≤ a then some (.sync 7 2 ea)
  else watchAt k t a 4 false write

/-- A reservation as an LR leaves it. -/
def newResv (granule : Nat) (l2 : Bool) : Reservation := ⟨granule, l2, 0, true⟩

/-- An LR completes and reserves its granule; what the load wrote may be poisoned. -/
def finishLr (c : CoreId) (t : ThreadId) (rd : BitVec 5) (a : Nat) (r : Reservation) (data : List PByte) (s : State) : State :=
  let s := s.modThread c t fun th => { th.wg rd (BitVec.ofNat 32 (natOfMarked data)) with resv := none }
  match firstPoison [(a, data)] with
  | none => (retire c t false s).modThread c t fun th => { th with resv := some r }
  | some _ => finishLoad c t a data s

/-- LR.W (R82). -/
def execLrW (o : LrForm) (s : State) : Result :=
  issue o.core o.th (lrBad o false) [o.ra] [] []
    (fun s =>
      let k := s.core o.core
      let a := ((k.thread o.th).rg o.ra).toNat
      match lrFault k o.th false a with
      | some x => raise o.core o.th x (k.thread o.th).pc s
      | none => finishLr o.core o.th o.rd a (newResv (a / 64) false) (k.dlsRead a 4) s) s

/-- The thread's reservation lets an SC to a granule succeed (R86). -/
def Thread.holds (th : Thread) (granule : Nat) (l2 : Bool) : Bool :=
  match th.resv with
  | some r => r.clean && decide (r.since ≤ 8) && r.granule == granule && r.l2 == l2
  | none => false

/-- An SC completes with 0 or 1 in rd and no reservation (R83). -/
def finishSc (c : CoreId) (t : ThreadId) (rd : BitVec 5) (ok : Bool) (s : State) : State :=
  retire c t false (s.modThread c t fun th => { th.wg rd (if ok then 0 else 1) with resv := none })

/-- SC.W (R82, R83, R86). -/
def execScW (o : LrForm) (s : State) : Result :=
  issue o.core o.th (lrBad o false) [o.ra, o.rb] [] []
    (fun s =>
      let k := s.core o.core
      let th := k.thread o.th
      let a := (th.rg o.ra).toNat
      match lrFault k o.th true a with
      | some x => raise o.core o.th x th.pc s
      | none =>
        if th.holds (a / 64) false then
          finishSc o.core o.th o.rd true (dlsWrite o.core a (clean (bytesOf 4 (th.rg o.rb))) (some o.th) s)
        else finishSc o.core o.th o.rd false s) s

/-! ## The span forms -/

/-- Checks 3 to 5 of an LRX.W or SCX.W at va: translation, target, attribute, watchpoint (R84, R115). -/
def checkLrx (c : CoreId) (write : Bool) (va : Nat) (s : State) : Checked × State :=
  match xlate (.scalar c) (coreBinding s c) (BitVec.ofNat 64 va) write false s with
  | (.leaf x, s) =>
    let pa := x.addr va
    let ea := BitVec.ofNat 64 va
    if paRegion pa ≠ 0 ∨ !isLocal s pa then (.fault (.sync 7 3 ea), s)
    else if x.attr ≠ 0 then (.fault (.sync (if write then 6 else 5) 4 ea), s)
    else match watchAt (s.core c) 0 va 4 true write with
      | some w => (.fault w, s)
      | none => (.ok [⟨va, 4, x⟩], s)
  | (_, s) => (.wait, s)

/-- The first two checks of a span form, and then the rest (R84, R115). -/
def lrxPieces (c : CoreId) (o : LrForm) (write : Bool) (s : State) : Nat × Checked × State :=
  let k := s.core c
  let va := spanVa k o.sp ((k.thread 0).rg o.ra)
  if va % 4 ≠ 0 then (va, .fault (.sync 7 1 (BitVec.ofNat 64 va)), s)
  else match spanFault va 4 with
    | some ea => (va, .fault (.sync (if write then 6 else 5) 3 ea), s)
    | none => (va, checkLrx c write va s)

/-- An LRX.W goes on as far as it can, at the tile L2 (R85). -/
def attemptLrx (c : CoreId) (o : LrForm) (s : State) : State :=
  match lrxPieces c o false s with
  | (_, .wait, s) => holdScalar c (.lrx o) s
  | (_, .fault x, s) => scalarFault c x s
  | (va, .ok l, s) =>
    let granule := (l.map Piece.pa).headD 0 / 64
    let put (data : List PByte) (s : State) : State := finishLr c 0 o.rd va (newResv granule true) data (leaveScalar c s)
    match forward (s.core c) l with
    | .bytes data => put data s
    | .drain => holdScalar c (.lrx o) (drainFor c l s)
    | .free => match readPieces c l true s with
      | (some data, s) => put data s
      | (none, s) => holdScalar c (.lrx o) s

/-- LRX.W (R82, R85). -/
def execLrxW (o : LrForm) (s : State) : Result :=
  issue o.core o.th (lrBad o true) [o.ra] [] [] (attemptLrx o.core o) s

/-- An SCX.W goes on as far as it can: earlier stores of the core to its word are performed first (R258), then it writes at the tile L2
(R85). -/
def attemptScx (c : CoreId) (o : LrForm) (s : State) : State :=
  match lrxPieces c o true s with
  | (_, .wait, s) => holdScalar c (.scx o) s
  | (_, .fault x, s) => scalarFault c x s
  | (_, .ok l, s) =>
    match l with
    | p :: _ =>
      let k := s.core c
      let th := k.thread 0
      if !th.holds (p.pa / 64) true then finishSc c 0 o.rd false (leaveScalar c s)
      else if k.mem.mbuf.any fun e => p.inEntry e then holdScalar c (.scx o) (drainFor c l s)
      else
        let mask := maskOf (p.pa % 64) 4
        let data := placeAt (p.pa % 64) (bytesOf 4 (th.rg o.rb))
        match l2Write (tileOf c) (sliceOf c) (some (coreBinding s c)) p.pa p.leaf.via mask data false (.scalar c) s with
        | (true, s) => finishSc c 0 o.rd true ((leaveScalar c s).modCore c fun k => k.l1Store (p.pa / 64) mask data false)
        | (false, s) => holdScalar c (.scx o) s
    | [] => s

/-- SCX.W (R82, R85, R86). -/
def execScxW (o : LrForm) (s : State) : Result :=
  issue o.core o.th (lrBad o true) [o.ra, o.rb] [] [] (attemptScx o.core o) s

end Sys2Proof.Machine
end

