-- ==== Sys2Proof/Machine/System.lean ====
section
/-!
DEFINITION. System instructions (R55 to R57, R87 to R89, R97 to R100, R105, R133, R215, R258; Table 03-13), and the life of h0's blocked
access.
-/

namespace Sys2Proof.Machine

/-! ## TRAP and ERET -/

/-- TRAP (R87): it completes, then vector 11 is taken with arg12 in ecause.ARG. -/
def execTrap (o : SysForm) (s : State) : Result :=
  issue o.core o.th none [] [] [] (retireThen o.core o.th ⟨11, 0, 0, o.arg, false, false, 0⟩) s

/-! ## Fences (R258) -/

/-- A store of the vector or matrix queue has yet to be performed. -/
def storesQueued (k : Core) : Bool :=
  (k.vecAll.any fun i => i.op == .vst) || k.matAll.any fun m => m.op == .tst || m.op == .tsts

/-- What a FENCE (or FENCE.G where `g`) waits for is over. -/
def fenceOver (s : State) (c : CoreId) (g : Bool) : Bool :=
  let k := s.core c
  k.mem.mbuf.isEmpty && !k.mem.win.busy && !outstanding s (.mbuf c)
    && (!g || (!storesQueued k && !writing s (.vector c) && !writing s (.matrix c)))

/-- A fence of a thread completes if it can. -/
def attemptFence (c : CoreId) (t : ThreadId) (o : At) (g : Bool) (s : State) : State :=
  if fenceOver s c g then retire c t false (s.modThread c t fun th => { th with blocked := none })
  else s.modThread c t fun th => { th with blocked := some (.fence o g) }

/-- A fence issues: every entry of the merging buffer must drain (R249). -/
def startFence (o : At) (g : Bool) (s : State) : State := attemptFence o.core o.th o g (s.modCore o.core Core.drainAll)

/-- FENCE (R258). -/
def execFence (o : At) (s : State) : Result := issue o.core o.th none [] [] [] (startFence o false) s

/-- FENCE.G (R258). -/
def execFenceG (o : At) (s : State) : Result := issue o.core o.th none [] [] [] (startFence o true) s

/-! ## What a blocked thread does next -/

/-- h0's bulk access goes on: nothing while it is parked, vector 5 or 6 with subcode 0x05 where the driver declined (R117). -/
def retryScalar (c : CoreId) (s : State) : State :=
  let b := coreBinding s c
  match (s.thread c 0).blocked with
  | none => s
  | some (.fence _ _) => s
  | some op => match parkOf s b (.scalar c) with
    | some p =>
      if p.answer = .declined then (faultScalar c (.sync (if p.write then 6 else 5) 5 p.va) (unpark b (.scalar c) s)).getD s
      else s
    | none => match op with
      | .ldx o => attemptLdx c o s
      | .stx o => attemptStx c o s
      | .lrx o => attemptLrx c o s
      | .scx o => attemptScx c o s
      | .fence _ _ => s

/-- A thread's fence goes on. -/
def retryFence (c : CoreId) (t : ThreadId) (s : State) : State :=
  match (s.thread c t).blocked with
  | some (.fence o g) => attemptFence c t o g s
  | _ => s

/-- Whatever blocks the threads of a core goes on as far as it can, and a core that is to stop stops when nothing of it goes on (R339). -/
def kickCore (c : CoreId) (s : State) : State :=
  let s := retryScalar c s
  settleStop c ((indices 4).foldl (fun s h => retryFence c (BitVec.ofNat 2 h) s) s)

/-- h0's parked access is resumed: an interrupt that is due is taken before the retry, and the instruction issues again after it
(R117). -/
def resumeScalar (c : CoreId) (s : State) : State :=
  if causeDue (s.core c) 0 then s.modThread c 0 fun th => { th with blocked := none } else retryScalar c s

/-- ERET (R113, R117). -/
def execEret (o : At) (s : State) : Result :=
  issue o.core o.th none [] [] []
    (fun s =>
      let s := returnFromException o.core o.th s
      if o.th = 0 ∧ (s.thread o.core 0).blocked.isSome then
        (if isParked s (coreBinding s o.core) (.scalar o.core) then retryScalar o.core s else resumeScalar o.core s)
      else s) s

/-! ## IFENCE and PATCH -/

/-- Write a word of the instruction store; its parity is good again. -/
def Core.storeWord (k : Core) (off : BitVec 17) (v : Word) : Core :=
  { k with mem := { k.mem with
      istore := k.mem.istore.writeNat off.toNat 4 v.toNat
      badParity := k.mem.badParity.set false (off.toNat / 4) false } }

/-- IFENCE (R99): the thread's patch queue is applied in queue order. Nothing is fetched ahead in this model. -/
def execIfence (o : At) (s : State) : Result :=
  issue o.core o.th none [] [] []
    (fun s =>
      let l := (s.thread o.core o.th).patchQ
      let s := s.modCore o.core fun k => l.foldl (fun (k : Core) p => k.storeWord p.1 p.2) k
      retire o.core o.th false (s.modThread o.core o.th fun th => { th with patchQ := [] })) s

/-- PATCH (R98). -/
def execPatch (o : SysForm) (s : State) : Result :=
  issue o.core o.th none [o.ra, o.rd] [] []
    (fun s =>
      let th := s.thread o.core o.th
      let a := th.rg o.ra
      let fault (sub : BitVec 8) : State := raise o.core o.th (.sync 14 sub (a.setWidth 64)) th.pc s
      if a.toNat % 4 ≠ 0 ∨ 0x1FFFC < a.toNat then fault 2
      else if 8 ≤ th.patchQ.length then fault 3
      else retire o.core o.th false
        (s.modThread o.core o.th fun q => { q with patchQ := q.patchQ ++ [(a.setWidth 17, th.rg o.rd)] })) s

/-! ## Control registers (Table 03-1) -/

/-- A register of h0 alone. -/
def csrOfH0 (n : Nat) : Bool := n == 0x011 || n == 0x012 || n == 0x013 || n == 0x015 || n == 0x016

/-- A register that programs only read. -/
def csrReadOnly (n : Nat) : Bool := n == 0x014 || n == 0x018 || n == 0x019 || n == 0x01A

/-- A number of Table 03-1. -/
def csrListed (n : Nat) : Bool :=
  decide (n ≤ 0x009) || (decide (0x010 ≤ n) && decide (n ≤ 0x01A) && n != 0x017)
    || (decide (0x020 ≤ n) && decide (n ≤ 0x02A) && n % 4 != 3)

/-- An access of a control register that is illegal (R55). -/
def csrBad (t : ThreadId) (n : Nat) (write : Bool) : Option (BitVec 8) :=
  if !csrListed n || (write && csrReadOnly n) || (decide (t ≠ 0) && csrOfH0 n) then some 5 else none

/-- xcfg (Table 12-4). -/
def xcfgWord (s : State) (c : CoreId) : Word :=
  let x := (s.core c).ctl.xcfg
  BitVec.ofNat 32 (bit x.bound * 2 ^ 31 + x.binding.toNat * 2 ^ 24 + x.il.toNat * 2 ^ 16
    + bit (x.pm || (x.bound && s.mod.pmForced)))

/-- The 64-bit register whose low half has this number. -/
def csrPair (s : State) (c : CoreId) (t : ThreadId) (n : Nat) : Option DWord :=
  match n with
  | 0x004 => some (s.thread c t).eaddr
  | 0x015 => some (s.core c).vec.rpos
  | 0x018 => some s.time.count
  | _ => none

/-- What a read of a control register returns; a high half returns the shadow (R56). -/
def csrValue (s : State) (c : CoreId) (t : ThreadId) (n : Nat) : Word :=
  let th := s.thread c t
  let k := s.core c
  match n with
  | 0x000 => estatOf s c th
  | 0x001 => th.eien
  | 0x002 => th.epc.setWidth 32
  | 0x003 => th.ecause
  | 0x006 => th.eprog
  | 0x007 => th.esp
  | 0x008 => th.esplo
  | 0x009 => th.esphi
  | 0x010 => th.fcsr
  | 0x011 => k.vec.vcfg
  | 0x012 => k.vec.vl
  | 0x013 => k.vec.vxrm
  | 0x014 => xcfgWord s c
  | 0x01A => t.setWidth 32
  | 0x020 | 0x021 | 0x022 => th.lb.get 0 (n - 0x020)
  | 0x024 | 0x025 | 0x026 => th.le.get 0 (n - 0x024)
  | 0x028 | 0x029 | 0x02A => th.lc.get 0 (n - 0x028)
  | _ => match csrPair s c t n with
    | some v => v.setWidth 32
    | none => th.shadow

/-- A read of a low half latches the high half (R56). DESIGN CHOICE: a thread has one shadow for its three pairs, so that the low read of one
changes what the high read of another returns (R56 does not say whether each pair has its own; notes/assumptions/11.md). -/
def csrLatch (s : State) (c : CoreId) (t : ThreadId) (n : Nat) : State :=
  match csrPair s c t n with
  | some v => s.modThread c t fun th => { th with shadow := (v >>> 32).setWidth 32 }
  | none => s

/-- The bits of `new` under a mask, the others of `old`. -/
def masked (mask old new : Word) : Word := (old &&& ~~~mask) ||| (new &&& mask)

/-- A write of fcsr: RM = 7 leaves RM (R215). -/
def fcsrWrite (old v : Word) : Word :=
  if bitsOf v.toNat 12 3 = 7 then masked 0x00038FDF old v else masked 0x0003FFDF old v

/-- The enable bits of eien that thread t has (Table 04-3). -/
def eienMask (t : ThreadId) : Word := if t = 0 then 0x002F0000 else 0x002B0000

/-- A 64-bit value from a new high half and a staged low half, if one is staged (R56). -/
def joinHalves (old : DWord) (lo : Option Word) (hi : Word) : DWord := hi.append (lo.getD (old.setWidth 32))

/-- A write of a control register (Tables 04-2 to 04-5, 05-2, 08-2; R56). -/
def csrWrite (c : CoreId) (t : ThreadId) (n : Nat) (v : Word) (s : State) : State :=
  let set (f : Thread → Thread) : State := s.modThread c t f
  let vec (f : VecState → VecState) : State := s.modCore c fun k => { k with vec := f k.vec }
  match n with
  | 0x000 => set fun th => { th with estat := masked 0x2001 th.estat v }
  | 0x001 => set fun th => { th with eien := v &&& eienMask t }
  | 0x002 => set fun th => { th with epc := (v &&& 0x1FFFC).setWidth 17 }
  | 0x003 => set fun th => { th with ecause := v &&& 0xFFF3FF1F }
  | 0x004 => set fun th => { th with stagedEaddr := some v }
  | 0x005 => set fun th => { th with eaddr := joinHalves th.eaddr th.stagedEaddr v, stagedEaddr := none }
  | 0x006 => set fun th => { th with eprog := v }
  | 0x007 => set fun th => { th with esp := v }
  | 0x008 => set fun th => { th with esplo := v }
  | 0x009 => set fun th => { th with esphi := v }
  | 0x010 => set fun th => { th with fcsr := fcsrWrite th.fcsr v }
  | 0x011 => vec fun x => { x with vcfg := v &&& 0xFF }
  | 0x012 => vec fun x => { x with vl := v &&& 0x7FF }
  | 0x013 => vec fun x => { x with vxrm := v &&& 7 }
  | 0x015 => set fun th => { th with stagedRpos := some v }
  | 0x016 =>
    let th := s.thread c t
    (s.modCore c fun k => { k with vec := { k.vec with rpos := joinHalves k.vec.rpos th.stagedRpos v } }).modThread c t
      fun th => { th with stagedRpos := none }
  | 0x020 | 0x021 | 0x022 => set fun th => { th with lb := th.lb.set 0 (n - 0x020) v }
  | 0x024 | 0x025 | 0x026 => set fun th => { th with le := th.le.set 0 (n - 0x024) v }
  | 0x028 | 0x029 | 0x02A => set fun th => { th with lc := th.lc.set 0 (n - 0x028) v }
  | _ => s

/-- An access of h0 that waits until both queues are empty (R89, R133). -/
def csrWaits (s : State) (c : CoreId) (t : ThreadId) (n : Nat) (write : Bool) : Bool :=
  let rpos := n == 0x015 || n == 0x016
  decide (t = 0) && (rpos || n == 0x013 || (n == 0x010 && !write))
    && !((s.core c).vecAll.isEmpty && (s.core c).matAll.isEmpty)

/-- CSRR (R55, R56, R89). -/
def execCsrr (o : SysForm) (s : State) : Result :=
  let n := o.arg.toNat
  issue o.core o.th (csrBad o.th n false) [] [] []
    (fun s =>
      if csrWaits s o.core o.th n false then s
      else writeG o.core o.th o.rd false (csrValue s o.core o.th n) (csrLatch s o.core o.th n)) s

/-- CSRW, CSRS and CSRC: the old value to rd, and f of it and g[ra] to the register (R55, R56, R87). -/
def csrModify (o : SysForm) (f : Word → Word → Word) (s : State) : Result :=
  let n := o.arg.toNat
  issue o.core o.th (csrBad o.th n true) [o.ra] [] []
    (fun s =>
      if csrWaits s o.core o.th n true then s
      else
        let old := csrValue s o.core o.th n
        let v := f old ((s.thread o.core o.th).rg o.ra)
        writeG o.core o.th o.rd false old (csrWrite o.core o.th n v (csrLatch s o.core o.th n))) s

/-- CSRW (R56, R87). -/
def execCsrw (o : SysForm) (s : State) : Result := csrModify o (fun _ v => v) s

/-- CSRS (R56, R87). -/
def execCsrs (o : SysForm) (s : State) : Result := csrModify o (fun old v => old ||| v) s

/-- CSRC (R56, R87). -/
def execCsrc (o : SysForm) (s : State) : Result := csrModify o (fun old v => old &&& ~~~v) s

/-! ## WAIT (R88, R317) -/

/-- A launched core finishes at a WAIT of h0 that enables nothing while h1 to h3 are stopped (R317, R353). -/
def finishesCore (k : Core) (t : ThreadId) : Bool :=
  decide (t = 0) && (k.ctl.launch.isSome || k.ctl.layer.isSome) && (k.thread 0).eien == 0
    && !(k.thread 1).run && !(k.thread 2).run && !(k.thread 3).run

/-- A thread that has issued WAIT. -/
def beginWait (c : CoreId) (t : ThreadId) (s : State) : State :=
  let done := finishesCore (s.core c) t
  let s := retire c t false s
  if done then
    s.modCore c fun k =>
      { k.modThread t (fun th => { th with run := false }) with ctl := { k.ctl with finished := true } }
  else s.modThread c t fun th => { th with waiting := true }

/-- WAIT (R88, R317). -/
def execWait (o : At) (s : State) : Result := issue o.core o.th none [] [] [] (beginWait o.core o.th) s

/-- WAIT_WAKE (R88): an NMI, one latched inside the NMI handler too (R116), or an enabled source is pending. -/
def execWaitWake (o : At) (s : State) : Result :=
  let k := s.core o.core
  let th := k.thread o.th
  if th.waiting && (th.nmiReq || th.estat.getLsbD 2 || (pendingInterrupt k o.th).isSome) then
    .next (s.modThread o.core o.th fun th => { th with waiting := false })
  else .next s

end Sys2Proof.Machine
end

