-- ==== Sys2Proof/Machine/Engine.lean ====
section
/-!
DEFINITION. What the hub engines share, and MOVE and FILL (R292, R314, R319, R389).
-/

namespace Sys2Proof.Machine

/-! ## Jobs -/

/-- The cores that a LAUNCH names. -/
def Desc.launched (d : Desc) : List CoreId := coresOf (BitVec.ofNat 64 (d.num 32 8))

/-- The cores that are still under a LAUNCH: a core that has finished can be launched again meanwhile. -/
def Desc.underLaunch (d : Desc) (s : State) (r : RingId) : List CoreId :=
  d.launched.filter fun c => decide ((s.core c).ctl.launch = some (r, d.index))

/-- Threads halted under a LAUNCH: those of its cores, and `counts` for cores launched again since. -/
def haltedOf (s : State) (r : RingId) (d : Desc) : Nat :=
  ((d.underLaunch s r).map fun c => (s.core c).ctl.halted).sum + d.job.counts.headD 0

/-- The detail of a LAUNCH's final completion: cores launched, threads halted (Table 11-11). A LAUNCH that ends before its copy has
launched none. -/
def launchDetail (s : State) (r : RingId) (d : Desc) : List Byte :=
  bytesOfNat 2 (if d.job.phase = 0 ∨ d.job.phase = 4 then 0 else d.launched.length) ++ bytesOfNat 2 (haltedOf s r d)

/-- The bytes of a transfer that have been performed: those sent, less those that are on their way or retired as an error (Table 11-11). -/
def performedBytes (s : State) (r : RingId) (d : Desc) : Nat :=
  let away := (s.hub.reqs.filter fun q => decide (q.who = .job r d.index) && q.write && q.data.isNone).map Req.len
  d.job.pos - (if d.opcode = 0x06 ∧ 4 ≤ d.job.phase then 0 else away.sum) - d.job.lost

/-- SEQ in a detail area, when the driver declined a fault. -/
def seqDetail (d : Desc) (st : Status) : List Byte := if st = .faultUnresolved then bytesOf 4 d.job.seq else [0, 0, 0, 0]

/-- The number of set bits of a mask. -/
def countBits (m : BitVec 64) : Nat := ((indices 64).filter fun i => m.getLsbD i).length

/-- Fields of a restore record (Table 13-7). -/
def recNum (l : List PByte) (lo n : Nat) : Nat := natOfBytes (plain ((l.drop lo).take n))

/-- The derived position of a RESTORE (R374). -/
def derivedPos (d : Desc) : DWord :=
  let l := d.job.data
  BitVec.ofNat 64 (recNum l 8 8 + (d.num 40 8 * recNum l 4 4 + d.num 48 4) * recNum l 16 4)

/-- The detail of a RESTORE: derived, restored, draws ahead as a saturated signed 32-bit value (Table 11-11). One that ends before it has
read its record has derived nothing, and reports the position supplied alone. -/
def restoreDetail (d : Desc) : List Byte :=
  let derived := derivedPos d
  let restored : DWord := BitVec.ofNat 64 (d.num 56 8)
  let ahead : Int := max (-(2 ^ 31)) (min (2 ^ 31 - 1) (restored - derived).toInt)
  if d.job.phase = 0 then bytesOfNat 8 0 ++ bytesOf 8 restored
  else bytesOf 8 derived ++ bytesOf 8 restored ++ bytesOf 4 (BitVec.ofInt 32 ahead)

/-- The received contributor mask of a COLLECT (R314): the counted set once it is final; before that what has arrived and counts, with the
member's own, once the COLLECT has opened. -/
def received (d : Desc) : BitVec 64 :=
  match d.job.coll with
  | none => 0
  | some x => match x.counted with
    | some m => m
    | none =>
      if d.job.phase = 0 then 0
      else x.onTime &&& BitVec.ofNat 64 (d.num 40 8) ||| BitVec.ofNat 64 (2 ^ d.num 34 2)

/-- The detail area of a descriptor that ends now (Table 11-11). -/
def jobDetail (s : State) (r : RingId) (d : Desc) (st : Status) : List Byte :=
  let moved := bytesOfNat 8 (performedBytes s r d) ++ seqDetail d st
  match d.opcode with
  | 0x01 => if st = .rejectState then [] else launchDetail s r d
  | 0x02 => moved
  | 0x03 => moved
  | 0x06 => moved
  | 0x07 => moved
  | 0x04 =>
    let m := received d
    bytesOf 8 m ++ [BitVec.ofNat 8 (countBits m), 0, 0, 0] ++ seqDetail d st
  | 0x05 => bytesOf 16 d.job.bitmap ++ seqDetail d st
  | 0x08 => d.job.counts.flatMap fun n => bytesOfNat 4 (min n (2 ^ 32 - 1))
  | 0x0A => d.job.counts.flatMap fun n => bytesOfNat 4 (min n (2 ^ 32 - 1))
  | 0x0D => if st = .rejectState then [] else restoreDetail d
  | _ => []

/-- A descriptor ends with a status and its detail. -/
def endJob (r : RingId) (i : Nat) (st : Status) (s : State) : State :=
  match s.desc r i with
  | some d => finishDesc r i st (jobDetail s r d st) s
  | none => s

/-- A descriptor whose engine may go on: it runs, and its engine is not parked (R292). -/
def jobState (s : State) (r : RingId) (i : Nat) : Option (Desc × BindingId) :=
  match s.desc r i with
  | some d => match d.binding with
    | some b => if d.running && !isParked s b (.job r i) then some (d, b) else none
    | none => none
  | none => none

/-- A port holds 512 packets that wait for a slot or that its peer has not acknowledged, as many as its replay buffer keeps (R380): the
engines wait. -/
def linksFull (s : State) : Bool := s.links.ports.entries.any fun e => decide (512 ≤ e.2.waiting.length + e.2.replay.length)

/-- Repeat a step while it makes progress; `fuel` bounds the steps. -/
def repeatStep (step : State → Bool × State) : (fuel : Nat) → State → State
  | 0, s => s
  | fuel + 1, s =>
    match step s with
    | (true, s) => repeatStep step fuel s
    | (false, s) => s

/-- A request of an engine has gone out: what it read and the translations it held are forgotten, and `n` more bytes are sent. -/
def advanceJob (r : RingId) (i : Nat) (n : Nat) (s : State) : State :=
  dropReturned (.job r i) (s.modJob r i fun j => { j with pos := j.pos + n, xl := [] })

/-- The rest of a 512-byte-aligned block from address a, at most `len` bytes. -/
def blockLen (a len : Nat) : Nat := min len (512 - a % 512)

/-- A job met a request that retired as an error (R386). -/
def jobErr (s : State) (r : RingId) (i : Nat) : Bool := match s.desc r i with
  | some d => d.job.err
  | none => false

/-- Bytes that an engine has read join its job's data. -/
def readAhead (r : RingId) (i : Nat) (l : List PByte) (s : State) : State :=
  dropReturned (.job r i) (s.modJob r i fun j => { j with data := j.data ++ l, xl := [] })

/-! ## MOVE and FILL (R319) -/

/-- One request of a MOVE, or its end: it reads up to the end of a 512-byte block of the source until it holds all that the next
512-byte block of the destination lacks, and writes that (R319, R389). -/
def moveStep (r : RingId) (i : Nat) (s : State) : Bool × State :=
  match jobState s r i with
  | none => (false, s)
  | some (d, b) =>
    let who := Who.job r i
    let len := d.num 48 8
    let pos := d.job.pos
    let got := pos + d.job.data.length
    let n := blockLen (d.num 40 8 + pos) (len - pos)
    if d.job.err then (false, endJob r i .hwError s)
    else if len ≤ pos then (false, if outstanding s who then s else endJob r i .ok s)
    else if d.job.data.length < n then
      (match engineRead who b (d.num 32 8 + got) (blockLen (d.num 32 8 + got) (len - got)) s with
      | (some l, s) => if jobErr s r i then (false, endJob r i .hwError s) else (true, readAhead r i l s)
      | (none, s) => (false, if jobErr s r i then endJob r i .hwError s else s))
    else if linksFull s then (false, s)
    else match engineWrite who b (d.num 40 8 + pos) (d.job.data.take n) s with
      | (true, s) => (true, advanceJob r i n (s.modJob r i fun j => { j with data := j.data.drop n }))
      | (false, s) => (false, s)

/-- A MOVE goes on as far as it can. -/
def runMove (r : RingId) (i : Nat) (s : State) : State :=
  match s.desc r i with
  | some d => repeatStep (moveStep r i) (2 * d.num 48 8 + 2) s
  | none => s

/-- The bytes of a FILL from byte `pos` on. -/
def fillBytes (pattern pos n : Nat) : List Byte := (indices n).map fun k => BitVec.ofNat 8 (pattern / 2 ^ (8 * ((pos + k) % 8)))

/-- One block of a FILL, or its end. -/
def fillStep (r : RingId) (i : Nat) (s : State) : Bool × State :=
  match jobState s r i with
  | none => (false, s)
  | some (d, b) =>
    let len := d.num 40 8
    let pos := d.job.pos
    if d.job.err then (false, endJob r i .hwError s)
    else if len ≤ pos then (false, if outstanding s (.job r i) then s else endJob r i .ok s)
    else if linksFull s then (false, s)
    else
      let dst := d.num 32 8 + pos
      let n := blockLen dst (len - pos)
      match engineWrite (.job r i) b dst (clean (fillBytes (d.num 48 8) pos n)) s with
      | (true, s) => (true, advanceJob r i n s)
      | (false, s) => (false, s)

/-- A FILL goes on as far as it can. -/
def runFill (r : RingId) (i : Nat) (s : State) : State :=
  match s.desc r i with
  | some d => repeatStep (fillStep r i) (d.num 40 8 + 2) s
  | none => s

/-- MOVE (R319). -/
def execMove (o : RingForm) (s : State) : Result :=
  .next (startDesc o.ring (fun d => d.opcode == 0x02) (fun d s => runMove o.ring d.index s) s)

/-- FILL (R319). -/
def execFill (o : RingForm) (s : State) : Result :=
  .next (startDesc o.ring (fun d => d.opcode == 0x03) (fun d s => runFill o.ring d.index s) s)

end Sys2Proof.Machine
end

