-- ==== Sys2Proof/Machine/Logs.lean ====
section
/-!
DEFINITION. The input and seed log: LOGMARK and the records written beside a LAUNCH (R366 to R368).
-/

namespace Sys2Proof.Machine

/-- Change a binding's log. -/
def State.modLog (s : State) (b : BindingId) (f : BindLog → BindLog) : State := s.modBnd b fun x => { x with log := f x.log }

/-- LFLAGS.AUTO of a LOGMARK. -/
def Desc.logAuto (d : Desc) : Bool := d.raw.getLsbD (8 * 41)

/-- A LOGMARK's place is the log's from now on; n starts again where it differs (R366). -/
def placeLog (d : Desc) (l : BindLog) : BindLog :=
  let va : DWord := BitVec.ofNat 64 (d.num 32 8)
  let size : BitVec 8 := BitVec.ofNat 8 (d.num 40 1)
  { l with va := va, size := size, n := if va = l.va ∧ size = l.size then l.n else 0 }

/-- A record of a log takes the next number and its place (R366). -/
def numberLog (b : BindingId) (r : LogRec) (s : State) : LogRec × State :=
  let l := (s.bnd b).log
  ({ r with
      ticket := l.ticket
      va := l.va + BitVec.ofNat 64 (64 * (l.n % 2 ^ l.size.toNat))
      index := l.n
      size := l.size.toNat },
    s.modLog b fun l => { l with n := l.n + 1, ticket := l.ticket + 1 })

/-- The 64 bytes of a log record (Table 13-6); a poisoned input leaves it poisoned (Table 17-6). -/
def logBytes (r : LogRec) : List PByte :=
  marked (anyPsn r.input)
    (bytesOf 8 r.stamp ++ bytesOf 8 r.step ++ bytesOf 4 r.micro ++ bytesOf 2 r.contrib ++ bytesOf 2 r.seedKey ++ bytesOf 8 r.rpos
      ++ shake256 16 (plain r.input) ++ bytesOfNat 4 r.count ++ [0, 0, 0, 0] ++ bytesOfNat 4 r.index
      ++ bytesOfNat 4 (phaseOf r.index r.size * 2 ^ 31 + bit r.auto * 2 ^ 30))

/-- A record of the binding with a lower number has yet to be written (R366). -/
def olderLog (s : State) (b : BindingId) (ticket : Nat) : Bool :=
  s.allDescs.any fun x => x.2.running && decide (x.2.binding = some b) && match x.2.job.log with
    | some l => !l.written && !l.performed && decide (l.ticket < ticket)
    | none => false

/-- Who writes a descriptor's log record: the LOGMARK's engine, or one of the record's own beside a LAUNCH (R494). -/
def logWriter (r : RingId) (d : Desc) : Who := if d.opcode = 0x01 then .record r d.index else .job r d.index

/-- A request of a log record is done: what it read and the translations it held are forgotten. -/
def recordDone (who : Who) (r : RingId) (i : Nat) (s : State) : State :=
  dropReturned who (match who with
    | .record _ _ => modRec r i (fun l => { l with xl := [] }) s
    | _ => s.modJob r i fun j => { j with xl := [] })

/-- One step of a log record: a block of its input is read, then it is written, then performed. -/
def logStep (r : RingId) (i : Nat) (s : State) : Bool × State :=
  match s.desc r i with
  | none => (false, s)
  | some d => match d.binding, d.job.log with
    | some b, some l =>
      let who := logWriter r d
      let total := 32 * l.count
      if !d.running || isParked s b who || l.performed then (false, s)
      else if l.written then
        (if outstanding s who then (false, s) else (false, modRec r i (fun l => { l with performed := true }) s))
      else if l.input.length < total then
        let va := l.inputVa.toNat + l.input.length
        match engineRead who b va (blockLen va (total - l.input.length)) s with
        | (some x, s) => (true, recordDone who r i (modRec r i (fun l => { l with input := l.input ++ x }) s))
        | (none, s) => (false, s)
      else if olderLog s b l.ticket || linksFull s then (false, s)
      else match engineWrite who b l.va.toNat (logBytes l) s with
        | (true, s) => (true, recordDone who r i (modRec r i (fun l => { l with written := true }) s))
        | (false, s) => (false, s)
    | _, _ => (false, s)

/-- A log record goes on as far as it can. -/
def runRecord (r : RingId) (i : Nat) (s : State) : State := repeatStep (logStep r i) (2 ^ 17 + 4) s

/-- The log record of a job is performed, or there is none. -/
def logDone (s : State) (r : RingId) (i : Nat) : Bool := match s.desc r i with
  | some d => match d.job.log with
    | some l => l.performed
    | none => true
  | none => true

/-- A LOGMARK with AUTO = 0 goes on as far as it can, and ends when its record has been performed (R367). -/
def runLogmark (r : RingId) (i : Nat) (s : State) : State :=
  if jobErr s r i then endJob r i .hwError s
  else
    let s := runRecord r i s
    if jobErr s r i then endJob r i .hwError s
    else if logDone s r i then endJob r i .ok (s.modJob r i fun j => { j with pos := 64 })
    else s

/-- The record of a LOGMARK with AUTO = 0 (R367). -/
def logmarkRec (s : State) (b : BindingId) (d : Desc) : LogRec where
  ticket := 0
  va := 0
  stamp := s.time.count
  step := BitVec.ofNat 64 (d.num 48 8)
  micro := BitVec.ofNat 32 (d.num 44 4)
  contrib := BitVec.ofNat 16 (d.num 42 2)
  seedKey := BitVec.ofNat 16 (d.num 68 2)
  rpos := (s.bnd b).log.lastRpos
  count := d.num 64 4
  inputVa := BitVec.ofNat 64 (d.num 56 8)
  index := 0
  size := 0
  auto := false
  input := []
  written := false
  performed := false
  engine := none
  xl := []

/-- LOGMARK (R367): with AUTO = 0 it writes one record, and disarms the log (R368). -/
def execLogmark (o : RingForm) (s : State) : Result :=
  .next (startDesc o.ring (fun d => d.opcode == 0x07 && !d.logAuto) (fun d s =>
    match d.binding with
    | some b =>
      let s := s.modLog b fun l => { placeLog d l with arm := none }
      let (rec, s) := numberLog b (logmarkRec s b d) s
      runLogmark o.ring d.index (s.modJob o.ring d.index fun j => { j with log := some rec })
    | none => s) s)

/-- LOGMARK_AUTO (R368): with AUTO = 1 it arms the log and finishes at once. -/
def execLogmarkAuto (o : RingForm) (s : State) : Result :=
  .next (startDesc o.ring (fun d => d.opcode == 0x07 && d.logAuto) (fun d s =>
    match d.binding with
    | some b =>
      let arm : Arming :=
        { step := BitVec.ofNat 64 (d.num 48 8)
          microbatch := BitVec.ofNat 32 (d.num 44 4)
          contrib := BitVec.ofNat 16 (d.num 42 2)
          seedKey := BitVec.ofNat 16 (d.num 68 2)
          inputVa := BitVec.ofNat 64 (d.num 56 8)
          inputCount := BitVec.ofNat 32 (d.num 64 4)
          k := 0 }
      endJob o.ring d.index .ok (s.modLog b fun l => { placeLog d l with arm := some arm })
    | none => s) s)

/-- A LAUNCH with RPOS_SET sets LAST_RPOS and, while the log is armed, gets a record (R367, R368). -/
def launchLog (r : RingId) (i : Nat) (b : BindingId) (rpos : DWord) (s : State) : State :=
  let s := s.modLog b fun l => { l with lastRpos := rpos }
  match (s.bnd b).log.arm with
  | none => s
  | some a =>
    let rec0 : LogRec :=
      { ticket := 0
        va := 0
        stamp := s.time.count
        step := a.step
        micro := a.microbatch + BitVec.ofNat 32 a.k
        contrib := a.contrib
        seedKey := a.seedKey
        rpos := rpos
        count := a.inputCount.toNat
        inputVa := a.inputVa + BitVec.ofNat 64 (32 * a.inputCount.toNat * a.k)
        index := 0
        size := 0
        auto := true
        input := []
        written := false
        performed := false
        engine := none
        xl := [] }
    let (rec, s) := numberLog b rec0 (s.modLog b fun l => { l with arm := some { a with k := a.k + 1 } })
    s.modJob r i fun j => { j with log := some rec }

end Sys2Proof.Machine
end

