-- ==== Sys2Proof/Machine/Launch.lean ====
section
/-!
DEFINITION. LAUNCH: code copy, start, finish, histogram (R238, R240, R315 to R318, R322, R368, R442, R494).
-/

namespace Sys2Proof.Machine

/-- Bits of LFLAGS (Table 11-12). -/
def Desc.launchPm (d : Desc) : Bool := d.raw.getLsbD (8 * 82)
def Desc.copies (d : Desc) : Bool := d.raw.getLsbD (8 * 82 + 1)
def Desc.setsRpos (d : Desc) : Bool := d.raw.getLsbD (8 * 82 + 2)

/-- RPOS of a LAUNCH. -/
def Desc.rpos (d : Desc) : DWord := BitVec.ofNat 64 (d.num 64 8)

/-- Write bytes of a code image; a word with a poisoned byte has bad parity (Table 17-6). -/
def Core.codeWrite (k : Core) (off : Nat) (l : List PByte) : Core :=
  let n := l.length
  let words := if n = 0 then [] else indices ((off + n - 1) / 4 - off / 4 + 1)
  let bad := words.foldl (fun (t : Table Bool) j =>
    let w := off / 4 + j
    let mine := anyPsn ((indices 4).filterMap fun x => if off ≤ 4 * w + x then l[4 * w + x - off]? else none)
    t.set false w (mine || (decide (4 * w < off) && t.get false w))) k.mem.badParity
  { k with mem := { k.mem with istore := k.mem.istore.writeBytes off (plain l), badParity := bad } }

/-- An instruction breakpoint of a body (Table 11-12). -/
def Desc.breakpoint (d : Desc) (o : Nat) : Breakpoint :=
  let v := d.num o 4
  ⟨bitsOf v 31 1 == 1, BitVec.ofNat 4 (bitsOf v 17 4), BitVec.ofNat 17 v⟩

/-- A watchpoint of a body (Table 11-12): its address at byte a, its control at byte c. -/
def Desc.watchpoint (d : Desc) (a c : Nat) : Watchpoint :=
  let v := d.num c 4
  ⟨bitsOf v 31 1 == 1, bitsOf v 30 1 == 1, bitsOf v 28 1 == 1, bitsOf v 29 1 == 1, BitVec.ofNat 4 (bitsOf v 24 4),
    BitVec.ofNat 64 (d.num a 8), BitVec.ofNat 16 v⟩

/-- Step 3 and 4 of R316 on one core of rank n: what the body sets, and h0 starts at vector 0. -/
def startCore (r : RingId) (d : Desc) (n : Nat) (k : Core) : Core :=
  let hist := d.flag 2
  let k := { k with
    vec := { k.vec with rpos := if d.setsRpos then d.rpos else k.vec.rpos }
    ctl := { k.ctl with
      bp0 := d.breakpoint 84
      bp1 := d.breakpoint 88
      wp0 := d.watchpoint 92 100
      wp1 := d.watchpoint 104 112
      hist := if hist then .empty else k.ctl.hist
      histBase := if hist then some (BitVec.ofNat 16 (d.num 80 2)) else none
      launch := some (r, d.index)
      layer := none
      halted := 0
      finished := false
      failed := false } }
  k.modThread 0 fun th =>
    ((th.started.wg 1 (BitVec.ofNat 32 (d.num 56 4))).wg 2 (BitVec.ofNat 32 (d.num 60 4))).wg 3 (BitVec.ofNat 32 n)

/-- What a core that is launched again leaves to its former LAUNCH: the threads halted under it. -/
def handOver (c : CoreId) (s : State) : State :=
  let k := s.core c
  match k.ctl.launch with
  | some (r, i) => s.modJob r i fun j =>
      { j with counts := [j.counts.headD 0 + k.ctl.halted], err := j.err || k.ctl.failed }
  | none => s

/-- Steps 2 to 4 of R316: xcfg.PM in every core of the binding, then each launched core starts. The engine is free (R494). -/
def launchCores (r : RingId) (i : Nat) (b : BindingId) (s : State) : State :=
  match s.desc r i with
  | none => s
  | some d =>
    let s := releaseEngine r i (s.modJob r i fun j => { j with phase := 1, pos := 0 })
    let s := (coresOf (s.bnd b).sections).foldl (fun s c =>
      s.modCore c fun k => { k with ctl := { k.ctl with xcfg := { k.ctl.xcfg with pm := d.launchPm } } }) s
    (d.launched.zip (indices d.launched.length)).foldl (fun s p =>
      (handOver p.1 s).modCore p.1 (startCore r d p.2)) s

/-- One block of the code copy (step 1 of R316), or its end. -/
def codeStep (r : RingId) (i : Nat) (s : State) : Bool × State :=
  match jobState s r i with
  | none => (false, s)
  | some (d, b) =>
    let len := d.num 48 4
    let pos := d.job.pos
    if d.job.err then (false, endJob r i .hwError s)
    else if d.job.phase ≠ 0 then (false, s)
    else if len ≤ pos then (false, launchCores r i b s)
    else
      let src := d.num 40 8 + pos
      let n := blockLen src (len - pos)
      match engineRead (.job r i) b src n s with
      | (some l, s) =>
        if jobErr s r i then (false, endJob r i .hwError s)
        else (true, advanceJob r i n (d.launched.foldl (fun s c => s.modCore c fun k => k.codeWrite (d.num 52 4 + pos) l) s))
      | (none, s) => (false, s)

/-- A core of a LAUNCH has finished, and its stores are performed: it has no parked thread or queue head (R317); or an error stopped it
(R442). -/
def coreOver (s : State) (c : CoreId) : Bool :=
  let k := s.core c
  let b := coreBinding s c
  k.ctl.failed || (k.ctl.finished && fenceOver s c true && !isParked s b (.scalar c) && !isParked s b (.vector c)
    && !isParked s b (.matrix c))

/-- The histogram of a LAUNCH: the counters of its cores added bin by bin, saturating (R240). -/
def histogram (s : State) (cores : List CoreId) : List Byte :=
  (indices 64).flatMap fun n => bytesOfNat 4 (min (2 ^ 32 - 1) (cores.map fun c => ((s.core c).ctl.hist.get 0 n).toNat).sum)

/-- The status of a LAUNCH (R318, R368, R442). -/
def launchStatus (s : State) (r : RingId) (d : Desc) : Status :=
  if d.job.err || (d.underLaunch s r).any (fun c => (s.core c).ctl.failed) then .hwError
  else if d.job.declined then .faultUnresolved
  else if haltedOf s r d ≠ 0 then .threadHalt
  else .ok

/-- The cores of a LAUNCH that ends are no longer under it. -/
def leaveLaunch (r : RingId) (i : Nat) (s : State) : State :=
  { s with cores := s.cores.mapListed .reset fun _ k =>
      if k.ctl.launch = some (r, i) then { k with ctl := { k.ctl with launch := none } } else k }

/-- A LAUNCH completes with its status and counts. -/
def endLaunch (r : RingId) (i : Nat) (st : Status) (s : State) : State := leaveLaunch r i (endJob r i st s)

/-- The job takes a free engine if it holds none; false while none is free (R494). -/
def haveEngine (r : RingId) (i : Nat) (s : State) : Bool × State :=
  match s.desc r i with
  | none => (false, s)
  | some d => if d.engine.isSome then (true, s) else match freeEngine s with
    | some e => (true, takeEngine r i e s)
    | none => (false, s)

/-- The log record of a LAUNCH takes the lowest free engine if it holds none; false while none is free (R494). -/
def haveRecordEngine (r : RingId) (i : Nat) (l : LogRec) (s : State) : Bool × State :=
  if l.engine.isSome then (true, s)
  else match freeEngine s with
    | some e => (true, modRec r i (fun l => { l with engine := some e })
        { s with hub := { s.hub with engines := s.hub.engines.set none e.toNat (some (r, i)) } })
    | none => (false, s)

/-- The log record of a LAUNCH goes on, beside the copy and the cores, on an engine of its own, which it releases when the record is
performed (R494). -/
def runLaunchLog (r : RingId) (i : Nat) (s : State) : State :=
  match (s.desc r i).bind fun d => d.job.log with
  | none => s
  | some l =>
    if l.performed then s
    else match haveRecordEngine r i l s with
      | (true, s) =>
        let s := runRecord r i s
        if logDone s r i then releaseRecord r i s else s
      | (false, s) => s

/-- The histogram write, and the final completion when it is performed (R240). -/
def runHistogram (r : RingId) (i : Nat) (s : State) : State :=
  match jobState s r i with
  | none => s
  | some (d, b) =>
    let finish (s : State) : State := match s.desc r i with
      | some d => endLaunch r i (launchStatus s r d) s
      | none => s
    if d.job.phase = 3 then (if outstanding s (.job r i) then s else finish s)
    else if !d.flag 2 then finish s
    else match haveEngine r i s with
      | (true, s) =>
        (match engineWriteAll (.job r i) b (d.num 72 8) (clean (histogram s d.launched)) s with
        | (true, s) =>
          let s := s.modJob r i fun j => { j with phase := 3, xl := [] }
          if outstanding s (.job r i) then s else finish s
        | (false, s) => s)
      | (false, s) => s

/-- A LAUNCH goes on: its log record, and its code copy or its histogram. In phase 4 its copy was declined, and it waits for its log record
alone (R316, R368). -/
def runLaunch (r : RingId) (i : Nat) (s : State) : State :=
  let s := runLaunchLog r i s
  match jobState s r i with
  | none => s
  | some (d, _) =>
    match d.job.phase with
    | 0 => repeatStep (codeStep r i) (d.num 48 4 + 2) s
    | 1 => s
    | 4 => if logDone s r i || jobErr s r i then endLaunch r i (if jobErr s r i then .hwError else .faultUnresolved) s else s
    | _ => runHistogram r i s

/-- The checks that R322 adds for a LAUNCH. -/
def launchLegal (s : State) (b : BindingId) (d : Desc) : Bool :=
  let x := s.bnd b
  let want : BitVec 64 := BitVec.ofNat 64 (d.num 32 8)
  decide (want &&& ~~~x.sections = 0) && !d.launched.any (countsRunning s)
    && !(bindingRuns s b && (coresOf x.sections).any fun c => pmOf s c != d.launchPm)

/-- LAUNCH (R316, R322, R367). -/
def execLaunch (o : RingForm) (s : State) : Result :=
  .next (startDesc o.ring (fun d => d.opcode == 0x01) (fun d s =>
    match d.binding with
    | none => s
    | some b =>
      if !launchLegal s b d then endJob o.ring d.index .rejectState s
      else
        let s := if d.setsRpos then launchLog o.ring d.index b d.rpos s else s
        if d.copies then runLaunch o.ring d.index s
        else runLaunchLog o.ring d.index (launchCores o.ring d.index b s)) s)

end Sys2Proof.Machine
end

