-- ==== Sys2Proof/Machine/Collect.lean ====
section
/-!
DEFINITION. The collective mover: COLLECT, its sendings and stagings, its deadline and its sum (R369, R370, R390 to R395).
-/

namespace Sys2Proof.Machine

/-! ## The group (R390, R394) -/

/-- The contributors that EXPECT names, ascending. -/
def Desc.members (d : Desc) : List Nat := (indices 64).filter fun c => bitsOf (d.num 40 8) c 1 == 1

/-- SELF. -/
def Desc.selfMember (d : Desc) : Nat := d.num 34 2

/-- LEN of a COLLECT. -/
def Desc.colLen (d : Desc) : Nat := d.num 64 8

/-- The member of a rank. -/
def Desc.atRank (d : Desc) (n : Nat) : Option Nat := d.members[n]?

/-- The rank of a member. -/
def Desc.rankOf (d : Desc) (c : Nat) : Nat := (d.members.filter fun x => decide (x < c)).length

/-- The tree neighbours of a rank among n: parent and children (Table 14-7). -/
def treeNeighbours (n r : Nat) : List Nat :=
  (if r = 0 then [] else [(r - 1) / 2]) ++ [2 * r + 1, 2 * r + 2].filter fun x => decide (x < n)

/-- The tree neighbour of rank r on the path to rank c; `fuel` bounds the climb from c. -/
def treeToward (r : Nat) : (fuel c : Nat) → Option Nat
  | 0, _ => none
  | fuel + 1, c =>
    if c = 0 then none
    else if (c - 1) / 2 = r then some c
    else treeToward r fuel ((c - 1) / 2)

/-- The member from which the pattern brings contribution c. -/
def Desc.bringer (d : Desc) (c : Nat) : Option Nat :=
  let n := d.members.length
  let r := d.rankOf d.selfMember
  match d.num 32 1 with
  | 0 => d.atRank ((r + n - 1) % n)
  | 1 => d.atRank ((treeToward r 8 (d.rankOf c)).getD ((r - 1) / 2))
  | _ => some c

/-- The members to which the pattern sends contribution c from here; `src` brought it (Table 14-7). -/
def Desc.targets (d : Desc) (c : Nat) (src : Option Nat) : List Nat :=
  let n := d.members.length
  let self := d.selfMember
  let r := d.rankOf self
  match d.num 32 1 with
  | 0 => ((d.atRank ((r + 1) % n)).toList).filter fun x => x != self && x != c
  | 1 => ((treeNeighbours n r).filterMap d.atRank).filter fun x => decide (some x ≠ src)
  | _ => if c = self then d.members.filter fun x => x != self else []

/-- The module id of a member. -/
def Coll.moduleOf (x : Coll) (c : Nat) : Option ModuleId := (x.group.find? fun e => e.1 == c).map Prod.snd

/-- The bytes staged of a contribution. -/
def Coll.gotOf (x : Coll) (c : Nat) : Nat := ((x.got.find? fun e => e.1 == c).map Prod.snd).getD 0

/-- The SENDSTAMP of a contribution that was opened. -/
def Coll.stampOf (x : Coll) (c : Nat) : Option DWord := (x.opened.find? fun e => e.1 == c).map Prod.snd

/-- Change the COLLECT of a job. -/
def modColl (r : RingId) (i : Nat) (f : Coll → Coll) (s : State) : State := s.modJob r i fun j => { j with coll := j.coll.map f }

/-- Every sending stops at the deadline plus 20 µs (R369, R393). -/
def pastDeadline (s : State) (d : Desc) : Bool := d.deadline != 0 && decide (d.deadline + 320000 ≤ s.time.count.toNat)

/-- What arrives now comes after the deadline plus 20 µs, and does not count (R369). -/
def tooLate (s : State) (d : Desc) : Bool := d.deadline != 0 && decide (d.deadline + 320000 < s.time.count.toNat)

/-! ## Sending (R393, R394) -/

/-- Send a packet of a contribution to a module: its transfer id. With no UP port the request retires as an error (R386). -/
def sendCol (r : RingId) (i : Nat) (b : BindingId) (t : PacketType) (m : ModuleId) (c tag addr : Nat) (payload : List Byte)
    (psn : Bool) (s : State) : BitVec 16 × State :=
  let (tid, s) := takeTid m s
  let who := Who.job r i
  let pa : DWord := BitVec.ofNat 64 (m.toNat * 2 ^ 52)
  let p : Packet := ⟨t, sizeCode payload.length, psn, 0, m, s.mgmt.mid, BitVec.ofNat 8 c, tid, 0, BitVec.ofNat 32 tag,
    BitVec.ofNat 64 addr, BitVec.allOnes 64, payload, 0⟩
  (tid, match sendPacket p (some b) s with
    | (.port n, s) => addReq who (some b) pa payload.length true (some n) tid none none s
    | (.held, s) => addReq who (some b) pa payload.length true none tid none none s
    | (.nowhere, s) => engineError who (some b) pa s)

/-- The payload of a COL_OPEN (Table 14-3). -/
def openBytes (d : Desc) (stamp : DWord) : List Byte :=
  (bytesOfNat 8 d.colLen ++ bytesOf 8 stamp ++ [BitVec.ofNat 8 (d.num 33 1)]) ++ List.replicate 47 0

/-- Send the COL_OPEN of a sending (R393). -/
def sendOpen (r : RingId) (i : Nat) (b : BindingId) (c m : Nat) (s : State) : State :=
  match s.desc r i with
  | none => s
  | some d => match d.job.coll with
    | none => s
    | some x => match x.moduleOf m, x.stampOf c with
      | some mid, some stamp =>
        let (tid, s) := sendCol r i b .colOpen mid c d.tag.toNat 0 (openBytes d stamp) false s
        modColl r i (fun x => { x with sendings := x.sendings.map fun e =>
          if e.contrib = c ∧ e.member = m then { e with tid := tid, naked := false } else e }) s
      | _, _ => s

/-- Open a contribution toward the members that the pattern names; past the deadline nothing is sent (R393). -/
def openSendings (r : RingId) (i : Nat) (b : BindingId) (c : Nat) (stamp : DWord) (src : Option Nat) (s : State) : State :=
  match s.desc r i with
  | none => s
  | some d =>
    let l := if pastDeadline s d then [] else d.targets c src
    let s := modColl r i (fun x => { x with
      opened := x.opened ++ [(c, stamp)]
      sendings := x.sendings ++ l.map fun m => ⟨c, m, 0, false, false, false, 0, 0, [], []⟩ }) s
    l.foldl (fun s m => sendOpen r i b c m s) s

/-- Change the sending of a place. -/
def modSending (r : RingId) (i : Nat) (n : Nat) (f : Sending → Sending) (s : State) : State :=
  modColl r i (fun x => { x with sendings := (x.sendings.zip (indices x.sendings.length)).map fun e => if e.2 = n then f e.1 else e.1 }) s

/-- A sending sends its next packet, if it may: of the source range for the member's own contribution, of what it received for
another's. -/
def sendData (r : RingId) (i : Nat) (n : Nat) (s : State) : Bool × State :=
  match jobState s r i with
  | none => (false, s)
  | some (d, b) => match d.job.coll with
    | none => (false, s)
    | some x => match x.sendings[n]? with
      | none => (false, s)
      | some e => match x.moduleOf e.member with
        | none => (false, s)
        | some mid =>
          if !e.acked || e.stopped || linksFull s || pastDeadline s d then (false, s)
          else if e.contrib = d.selfMember then
            if d.colLen ≤ e.sent then (false, s)
            else
              let src := d.num 48 8 + e.sent
              let len := if src % 512 = 0 ∧ 512 ≤ d.colLen - e.sent then 512 else 64
              match engineRead (.job r i) b src len s with
              | (some l, s) =>
                let s := dropReturned (.job r i) s
                let (tid, s) := sendCol r i b .colData mid e.contrib d.tag.toNat e.sent (plain l) (anyPsn l) s
                (true, modSending r i n (fun e => { e with sent := e.sent + len, waits := e.waits ++ [(tid, len)] }) s)
              | (none, s) => (false, s)
          else match e.queue with
            | [] => (false, s)
            | p :: rest =>
              let (tid, s) := sendCol r i b .colData mid e.contrib d.tag.toNat p.addr.toNat p.payload p.psn s
              (true, modSending r i n (fun e => { e with
                queue := rest
                sent := e.sent + p.payload.length
                waits := e.waits ++ [(tid, p.payload.length)] }) s)

/-- One packet of every sending that may send, from the one whose turn is next (R394). -/
def sendRound (r : RingId) (i : Nat) (s : State) : Bool × State :=
  match s.desc r i with
  | some d => match d.job.coll with
    | some x =>
      let count := x.sendings.length
      (indices count).foldl (fun (a : Bool × State) k =>
        let n := (x.turn + k) % count
        match sendData r i n a.2 with
        | (true, s) => (true, modColl r i (fun x => { x with turn := (n + 1) % count }) s)
        | (false, s) => (a.1, s)) (false, s)
    | none => (false, s)
  | none => (false, s)

/-! ## Receiving (R393, R394) -/

/-- The counted set becomes final (R369, R395). -/
def setFinal (r : RingId) (i : Nat) (s : State) : State :=
  match s.desc r i with
  | none => s
  | some d =>
    let want : BitVec 64 := BitVec.ofNat 64 (d.num 40 8)
    let self : BitVec 64 := BitVec.ofNat 64 (2 ^ d.selfMember)
    modColl r i (fun x => if x.counted.isSome then x else { x with counted := some (x.onTime &&& want ||| self) }) s

/-- Every other member has arrived. -/
def Desc.allArrived (d : Desc) (x : Coll) : Bool := d.members.all fun c => c == d.selfMember || x.arrived.getLsbD c

/-- Bytes of a contribution have come: its arrival is judged by R369, the set may become final, and they wait to be forwarded and
staged. -/
def receiveData (r : RingId) (i : Nat) (c : Nat) (p : Packet) (s : State) : State :=
  match s.desc r i with
  | none => s
  | some d =>
    let len := d.colLen
    let now := s.time.count.toNat
    let s := modColl r i (fun x =>
      let got := x.gotOf c + p.payload.length
      let bitc : BitVec 64 := BitVec.ofNat 64 (2 ^ c)
      let whole := decide (len ≤ got)
      let fits := d.deadline == 0
        || (decide (((x.stampOf c).getD 0).toNat ≤ d.deadline) && decide (now ≤ d.deadline + 320000))
      { x with
        got := (x.got.filter fun e => e.1 != c) ++ [(c, got)]
        arrived := if whole then x.arrived ||| bitc else x.arrived
        onTime := if whole && fits then x.onTime ||| bitc else x.onTime
        inbox := x.inbox ++ [p]
        sendings := x.sendings.map fun e => if e.contrib = c then { e with queue := e.queue ++ [p] } else e }) s
    match s.desc r i with
    | some d => match d.job.coll with
      | some x => if d.allArrived x then setFinal r i s else s
      | none => s
    | none => s

/-- Stage the oldest packet received, at STAGE_VA + c · LEN, and acknowledge it; one of a contribution that does not count is
discarded. -/
def stageStep (r : RingId) (i : Nat) (s : State) : Bool × State :=
  match jobState s r i with
  | none => (false, s)
  | some (d, b) => match d.job.coll with
    | none => (false, s)
    | some x => match x.inbox with
      | [] => (false, s)
      | p :: rest =>
        let c := p.key.toNat
        let pop (s : State) : State := respond .wrAck p [] false (modColl r i (fun x => { x with inbox := rest }) s)
        let dropped := match x.counted with
          | some m => !m.getLsbD c
          | none => false
        if dropped || decide (d.colLen < p.addr.toNat + p.payload.length) then (true, pop s)
        else match engineWriteAll (.job r i) b (d.num 80 8 + c * d.colLen + p.addr.toNat) (marked p.psn p.payload) s with
          | (true, s) => (true, pop (s.modJob r i fun j => { j with xl := [] }))
          | (false, s) => (false, s)

/-! ## Summation (R370, R395) -/

/-- The environment of the update engines and of the collective sum: nearest-even, FZ = 0 but under R220 (R350). -/
def engineEnv (s : State) : FEnv := ⟨0, flushAll s, flushAll s, false, false, 0, false⟩

/-- E / R in a format, rounded to nearest-even (R370). -/
def partialFactor (f : Fmt) (v : FEnv) (e r : Nat) : Nat := (fDiv f v (intToF f v e).bits (intToF f v r).bits).bits

/-- One element: the counted contributions in order, scaled where fewer than expected were counted. -/
def sumElement (f : Fmt) (v : FEnv) (factor : Option Nat) (l : List Nat) : Nat :=
  match l with
  | [] => 0
  | x :: rest =>
    let acc := rest.foldl (fun a y => (fAdd f v a y).bits) x
    match factor with
    | some k => (fMul f v acc k).bits
    | none => acc

/-- The elements of n bytes each of a list of bytes. -/
def elements (n : Nat) (l : List Byte) : List Nat := (indices (l.length / n)).map fun k => natOfBytes ((l.drop (k * n)).take n)

/-- A unit of 64 bytes that carries a mark in any of several copies. -/
def unitMarked (parts : List (List PByte)) (k : Nat) : Bool := parts.any fun p => anyPsn ((p.drop (64 * k)).take 64)

/-- The sum of a piece of the counted contributions, each unit of 64 bytes marked where a contribution's is (Table 17-6). -/
def sumPiece (d : Desc) (v : FEnv) (len : Nat) (parts : List (List PByte)) : List PByte :=
  let f := if d.num 33 1 = 0 then fp64 else fp32
  let n := if d.num 33 1 = 0 then 8 else 4
  let e := d.members.length
  let factor := if parts.length < e then some (partialFactor f v e parts.length) else none
  let cols := parts.map fun p => elements n (plain p)
  let sum := (indices (len / n)).flatMap fun k => bytesOfNat n (sumElement f v factor (cols.map fun c => c.getD k 0))
  (indices ((len + 63) / 64)).flatMap fun k => marked (unitMarked parts k) ((sum.drop (64 * k)).take 64)

/-- Where contribution c lies at this member. -/
def Desc.contribVa (d : Desc) (c : Nat) : Nat := if c = d.selfMember then d.num 48 8 else d.num 80 8 + c * d.colLen

/-- The core whose vector engine adds the block of 1 KiB at a position of the sum: rank b mod n among the binding's n cores, ascending
(R395). -/
def sumCore (s : State) (b : BindingId) (pos : Nat) : Option CoreId :=
  let cores := coresOf (s.bnd b).sections
  cores[pos / 1024 % cores.length]?

/-- v0 to v7 of a core are zero (R395). -/
def zeroSumRegs (c : CoreId) (s : State) : State :=
  s.modCore c fun k => (indices 8).foldl (fun (k : Core) n => k.wv (BitVec.ofNat 5 n) 0) k

/-- Bytes of the sum added at once: they end with a block of 1 KiB of the sum (R395) or of 512 bytes of the destination (R389). -/
def Desc.sumLen (d : Desc) (pos : Nat) : Nat :=
  blockLen (d.num 56 8 + pos) (min (d.colLen - pos) (1024 - pos % 1024))

/-- Add the next piece of the sum. The block's core adds, and its v0 to v7 are left zero (notes/assumptions/14.md). -/
def sumStep (r : RingId) (i : Nat) (s : State) : Bool × State :=
  match jobState s r i with
  | none => (false, s)
  | some (d, b) => match d.job.coll with
    | none => (false, s)
    | some x => match x.counted with
      | none => (false, s)
      | some m =>
        if d.colLen ≤ x.summed || jobErr s r i || linksFull s then (false, s)
        else
          let who := Who.job r i
          let cs := d.members.filter fun c => m.getLsbD c
          let n := d.sumLen x.summed
          match cs.foldl (fun (a : Option (List (List PByte)) × State) c =>
              match a with
              | (none, s) => (none, s)
              | (some l, s) => match engineReadAll who b (d.contribVa c + x.summed) n s with
                | (some u, s) => (some (l ++ [u]), s)
                | (none, s) => (none, s)) (some [], s) with
          | (some parts, s) =>
            if jobErr s r i then (false, s)
            else (match engineWrite who b (d.num 56 8 + x.summed) (sumPiece d (engineEnv s) n parts) s with
              | (true, s) =>
                let s := match sumCore s b x.summed with
                  | some c => zeroSumRegs c s
                  | none => s
                (true, dropReturned who ((modColl r i (fun x => { x with summed := x.summed + n }) s).modJob r i
                  fun j => { j with xl := [] }))
              | (false, s) => (false, s))
          | (none, s) => (false, s)

/-- The sending of the member's own contribution no longer reads its source. -/
def Coll.sourceFree (x : Coll) (d : Desc) : Bool :=
  x.sendings.all fun e => e.contrib != d.selfMember || e.stopped || decide (d.colLen ≤ e.sent)

/-- A sending is acknowledged or stopped. -/
def Sending.isOver (e : Sending) (len : Nat) : Bool := e.stopped || (e.acked && decide (len ≤ e.done))

/-- The COLLECT completes: v0 to v7 of every core of the binding are zero (R395). -/
def finishCollect (r : RingId) (i : Nat) (b : BindingId) (st : Status) (s : State) : State :=
  endJob r i st ((coresOf (s.bnd b).sections).foldl (fun s c => zeroSumRegs c s) s)

/-- The group table is here: the last checks of R392, then the member opens its own contribution. -/
def beginCollect (r : RingId) (i : Nat) (b : BindingId) (d : Desc) (table : List PByte) (s : State) : State :=
  let entry (c : Nat) : Nat := natOfBytes ((plain table).drop (2 * c) |>.take 2)
  let ids := d.members.map entry
  if entry d.selfMember % 4096 ≠ s.mgmt.mid.toNat || !decide ids.Nodup || ids.any (fun x => decide (4096 ≤ x)) then
    endJob r i .rejectState s
  else
    let group := d.members.map fun c => (c, BitVec.ofNat 12 (entry c))
    let s := dropReturned (.job r i) (modColl r i (fun x => { x with group := group }) (s.modJob r i fun j => { j with phase := 1, xl := [] }))
    let s := openSendings r i b d.selfMember s.time.count none s
    if d.members.length = 1 then setFinal r i s else s

/-- A COLLECT goes on: its group table, its sendings and stagings, and, once COLLECT_SUM has begun it (phase 2), its sum. -/
def runCollect (r : RingId) (i : Nat) (s : State) : State :=
  match jobState s r i with
  | none => s
  | some (d, b) =>
    let s := if d.job.phase = 0 then
        (match engineRead (.job r i) b (d.num 72 8) 128 s with
        | (some t, s) => if jobErr s r i then s else beginCollect r i b d t s
        | (none, s) => s)
      else s
    let s := repeatStep (stageStep r i) (2 ^ 32) s
    let s := repeatStep (sendRound r i) (2 ^ 32) s
    if jobErr s r i then endJob r i .hwError s
    else match jobState s r i with
      | none => s
      | some (d, _) => match d.job.coll with
        | none => s
        | some x =>
          if d.job.phase = 2 ∧ x.inbox = [] ∧ (d.num 48 8 ≠ d.num 56 8 ∨ x.sourceFree d = true) then
            let s := repeatStep (sumStep r i) (d.colLen + 1) s
            if jobErr s r i then endJob r i .hwError s
            else match jobState s r i with
              | some (d, b) => match d.job.coll with
                | some x =>
                  if d.colLen ≤ x.summed && x.sendings.all (fun e => e.isOver d.colLen) && !outstanding s (.job r i) then
                    finishCollect r i b (if countBits (x.counted.getD 0) < d.members.length then .partialSum else .ok) s
                  else s
                | none => s
              | none => s
          else s

/-- The checks of R392 that need no table. -/
def collectLegal (s : State) (b : BindingId) (d : Desc) : Bool :=
  !(coresOf (s.bnd b).sections).any (fun c => coreRuns (s.core c))
    && !s.allDescs.any fun x => x.2.running && x.2.opcode == 0x04 && decide (x.2.tag = d.tag) && x.2.job.coll.isSome

/-- COLLECT (R392 to R394). -/
def execCollect (o : RingForm) (s : State) : Result :=
  .next (startDesc o.ring (fun d => d.opcode == 0x04) (fun d s =>
    match d.binding with
    | none => s
    | some b =>
      if collectLegal s b d then
        runCollect o.ring d.index (s.modJob o.ring d.index fun j => { j with coll := some .reset })
      else endJob o.ring d.index .rejectState s) s)

/-- The sendings of a COLLECT stop, with what they await and their packets that no port has sent yet (R393). -/
def stopSendings (r : RingId) (i : Nat) (s : State) : State :=
  match s.desc r i with
  | none => s
  | some d => match d.job.coll with
    | none => s
    | some x =>
      let open_ := x.sendings.filter fun e => !e.isOver d.colLen
      let awaits (m : ModuleId) (tid : BitVec 16) : Bool := open_.any fun e =>
        decide (x.moduleOf e.member = some m) && (e.tid == tid || e.waits.any fun w => w.1 == tid)
      let mine (q : Req) : Bool := decide (q.who = .job r i) && q.write && awaits (paModule q.pa) q.tid
      let packet (p : Packet) : Bool :=
        decide (p.src = s.mgmt.mid) && (decide (p.type = .colOpen) || decide (p.type = .colData)) && awaits p.dst p.tid
      let s := withdraw packet { s with hub := { s.hub with reqs := s.hub.reqs.filter fun q => !mine q } }
      let stop (e : Sending) : Sending := if e.isOver d.colLen then e else { e with stopped := true, queue := [] }
      modColl r i (fun x => { x with sendings := x.sendings.map stop }) s

/-- COLLECT_DEADLINE (R369, R393, R395): at the deadline plus 20 µs the counted set is final and every sending stops. -/
def execCollectDeadline (o : DescForm) (s : State) : Result :=
  match s.desc o.ring o.index with
  | some d =>
    if d.opcode = 0x04 ∧ d.running ∧ d.job.coll.isSome ∧ pastDeadline s d then
      .next (runCollect o.ring o.index (stopSendings o.ring o.index (setFinal o.ring o.index s)))
    else .next s
  | none => .next s

/-- COLLECT_SUM (R370, R395): once the set is final, the member adds. -/
def execCollectSum (o : DescForm) (s : State) : Result :=
  match s.desc o.ring o.index with
  | some d => match d.job.coll with
    | some x =>
      if d.opcode = 0x04 ∧ d.running ∧ d.job.phase = 1 ∧ x.counted.isSome then
        .next (runCollect o.ring o.index (s.modJob o.ring o.index fun j => { j with phase := 2 }))
      else .next s
    | none => .next s
  | none => .next s

/-- COL_OPEN_RESEND (R393): a COL_OPEN that was answered COL_NAK goes again. -/
def execColOpenResend (o : ResendForm) (s : State) : Result :=
  let c := o.contrib.toNat
  let m := o.member.toNat
  match s.desc o.ring o.index with
  | some d => match d.binding, d.job.coll with
    | some b, some x =>
      if d.running && !pastDeadline s d
          && (x.sendings.any fun e => e.contrib == c && e.member == m && e.naked && !e.acked && !e.stopped) then
        .next (runCollect o.ring o.index (sendOpen o.ring o.index b c m s))
      else .next s
    | _, _ => .next s
  | none => .next s

/-! ## What the links bring to a COLLECT -/

/-- The started COLLECT that a packet's TAG names and that expects its contributor from its SRC (R393). -/
def matchCollect (s : State) (p : Packet) : Option (RingId × Desc × Nat) :=
  (s.allDescs.find? fun x => x.2.running && x.2.opcode == 0x04 && decide (x.2.tag = p.tag) && match x.2.job.coll with
    | some y =>
      let c := p.key.toNat
      decide (c < 64) && x.2.members.contains c && c != x.2.selfMember
        && (decide (y.moduleOf c = some p.src) || (match x.2.bringer c with
          | some m => decide (y.moduleOf m = some p.src)
          | none => false))
    | none => false).map fun x => (x.1, x.2, p.key.toNat)

/-- The member that a module id is. -/
def Coll.memberOf (x : Coll) (m : ModuleId) : Option Nat := (x.group.find? fun e => decide (e.2 = m)).map Prod.fst

/-- A COL_OPEN for this module: acknowledged and passed on under the pattern, or answered COL_NAK (R393). -/
def receiveOpen (p : Packet) (s : State) : State :=
  match matchCollect s p with
  | none => respond .colNak p [] false s
  | some (r, d, c) => match d.binding, d.job.coll with
    | some b, some x =>
      let s := respond .wrAck p [] false s
      if (x.stampOf c).isSome then s
      else runCollect r d.index
        (openSendings r d.index b c (BitVec.ofNat 64 (natOfBytes ((p.payload.drop 8).take 8))) (x.memberOf p.src) s)
    | _, _ => s

/-- COL_DATA for this module: staged and passed on; discarded where its contribution does not count (R369, R394). -/
def receiveCol (p : Packet) (s : State) : State :=
  match matchCollect s p with
  | none => respond .wrAck p [] false s
  | some (r, d, c) => match d.job.coll with
    | some x =>
      if x.counted.isSome || tooLate s d || (x.stampOf c).isNone then respond .wrAck p [] false s
      else runCollect r d.index (receiveData r d.index c p s)
    | none => s

/-- What an acknowledgement of a transfer id does to a sending. -/
def Sending.ack (tid : BitVec 16) (e : Sending) : Sending :=
  match e.waits.find? fun w => w.1 == tid with
  | some w => { e with waits := e.waits.filter (fun y => y.1 != tid), done := e.done + w.2 }
  | none => if e.tid = tid ∧ !e.acked then { e with acked := true, naked := false } else e

/-- What a COL_NAK of a transfer id does to a sending: its COL_OPEN goes again later. -/
def Sending.nak (tid : BitVec 16) (e : Sending) : Sending :=
  if e.tid = tid ∧ !e.acked then { e with naked := true } else e

/-- A response of a member reaches the sendings toward it (R393). -/
def collectAnswer (r : RingId) (i : Nat) (m : ModuleId) (f : Sending → Sending) (s : State) : State :=
  modColl r i (fun x =>
    let g (e : Sending) : Sending := if x.moduleOf e.member = some m then f e else e
    { x with sendings := x.sendings.map g }) s

end Sys2Proof.Machine
end

