-- ==== Sys2Proof/Machine/Rules.lean ====
section
/-!
DEFINITION. The layer table and the arithmetic of the update engines: layer entries, schedules, update rules, inverse roots (R348 to
R352, R354, R356 to R359).
-/

namespace Sys2Proof.Machine

/-! ## Layer entries (R348 to R350) -/

/-- The n bytes of an entry from byte `lo`. -/
def entNum (e : List PByte) (lo n : Nat) : Nat := natOfBytes ((plain e).drop lo |>.take n)

def entRows (e : List PByte) : Nat := entNum e 88 4
def entCols (e : List PByte) : Nat := entNum e 92 4
def entRule (e : List PByte) : Nat := entNum e 96 1
def entP (e : List PByte) : Nat := entNum e 97 1
def entG (e : List PByte) : Nat := entNum e 98 1
def entS (e : List PByte) : Nat := entNum e 99 1
def entStates (e : List PByte) : Nat := entNum e 100 1
def entSched (e : List PByte) : Nat := entNum e 101 1
def entStep (e : List PByte) : Nat := entNum e 136 8
def entHp (e : List PByte) (n : Nat) : Nat := entNum e (104 + 4 * n) 4

/-- Buffer A or B of PARAM; buffer A or B of state tensor j. -/
def entParam (e : List PByte) (second : Bool) : Nat := entNum e (if second then 8 else 0) 8
def entState (e : List PByte) (j : Nat) (second : Bool) : Nat := entNum e (24 + 16 * j + if second then 8 else 0) 8
def entGrad (e : List PByte) : Nat := entNum e 16 8

/-- A program-defined rule (Table 13-2). -/
def entProgram (e : List PByte) : Bool := decide (0x10 ≤ entRule e ∧ entRule e ≤ 0x1F)

/-- Rows and columns of state tensor j (Table 13-2). -/
def stateShape (e : List PByte) (j : Nat) : Nat × Nat :=
  if entRule e = 3 then (if j % 2 = 0 then (entRows e, entRows e) else (entCols e, entCols e)) else (entRows e, entCols e)

/-- A finite FP32 value. -/
def finite32 (x : Nat) : Bool := match fp32.decode x with
  | .fin _ _ _ => true
  | _ => false

/-- The hyperparameters of a rule: the FP32 ones are finite, the others in range, the unnamed zero (Table 13-2). -/
def hyperOk (e : List PByte) : Bool :=
  let h := entHp e
  let fp (l : List Nat) : Bool := l.all fun n => finite32 (h n)
  let none_ (l : List Nat) : Bool := l.all fun n => h n == 0
  match entRule e with
  | 1 => fp [0, 1] && none_ [2, 3, 4, 5, 6, 7]
  | 2 => fp [0, 1, 2, 3] && none_ [4, 5, 6, 7]
  | 3 => fp [0, 1, 3] && decide (1 ≤ h 2 ∧ h 2 ≤ 2 ^ 20) && none_ [4, 5, 6, 7]
  | 4 => fp [0, 1, 3, 4, 5] && decide (1 ≤ h 2 ∧ h 2 ≤ 16) && none_ [6, 7]
  | _ => h 0 % 4 == 0 && decide (h 0 < 0x20000)

/-- The size limit of a rule (Table 13-2). -/
def sizeOk (e : List PByte) : Bool :=
  let r := entRows e
  let c := entCols e
  decide (1 ≤ r ∧ r ≤ 65536 ∧ 1 ≤ c ∧ c ≤ 65536 ∧ r * c ≤ 2 ^ 28)
    && (match entRule e with
      | 3 => decide (r ≤ 2048 ∧ c ≤ 2048)
      | 4 => decide (min r c ≤ 4096 ∧ r * c ≤ 2 ^ 23)
      | _ => true)

/-- The formats of a layer (R350). -/
def formatsOk (e : List PByte) : Bool :=
  let p := entP e
  decide (p ≤ 2)
    && (entG e == 1 || entG e == 2 || (entG e == 0 && p == 0))
    && (if p = 0 then entS e == 0 else entS e == 1 || (entS e == 2 && decide (entRule e ≤ 2)))

/-- A layer entry keeps R348 to R350. -/
def entryOk (e : List PByte) : Bool :=
  let n := entStates e
  let vas := [entParam e false, entParam e true, entGrad e] ++ (indices 4).flatMap fun j => [entState e j false, entState e j true]
  vas.all (fun a => a % 64 == 0)
    && (indices 4).all (fun j => decide (j < n) || (entState e j false == 0 && entState e j true == 0))
    && (match entRule e with
      | 1 => n == 1
      | 2 => n == 2
      | 3 => n == 4
      | 4 => n == 1
      | _ => entProgram e && decide (n ≤ 4))
    && sizeOk e && formatsOk e && hyperOk e && decide (entSched e ≤ 63)
    && entNum e 102 2 == 0 && entNum e 144 1 / 4 == 0 && entNum e 145 111 == 0

/-- A schedule keeps Table 13-3. -/
def schedOk (e : List PByte) : Bool :=
  let restart := bitsOf (entNum e 1 1) 0 1 == 1
  decide (entNum e 0 1 ≤ 4) && entNum e 1 1 / 2 == 0 && entNum e 2 2 == 0 && finite32 (entNum e 4 4) && finite32 (entNum e 8 4)
    && finite32 (entNum e 20 4)
    && (if restart then entNum e 24 4 != 0 && entNum e 28 4 != 0 else entNum e 24 4 == 0 && entNum e 28 4 == 0)

/-! ## Arithmetic -/

/-- Operations that round once to nearest-even. -/
structure Arith where
  f : Fmt
  v : FEnv
deriving DecidableEq, Repr

def Arith.add (a : Arith) (x y : Nat) : Nat := (fAdd a.f a.v x y).bits
def Arith.sub (a : Arith) (x y : Nat) : Nat := (fSub a.f a.v x y).bits
def Arith.mul (a : Arith) (x y : Nat) : Nat := (fMul a.f a.v x y).bits
def Arith.div (a : Arith) (x y : Nat) : Nat := (fDiv a.f a.v x y).bits
def Arith.sqrt (a : Arith) (x : Nat) : Nat := (fSqrt a.f a.v x).bits
def Arith.int (a : Arith) (n : Nat) : Nat := (intToF a.f a.v n).bits

/-- A value of another format in the arithmetic format. -/
def Arith.of (a : Arith) (src : Fmt) (x : Nat) : Nat := (fConvert src a.f a.v x).bits

/-- pow of R351: the bits of t from the most significant set one down; 1 for t = 0. -/
def Arith.pow (a : Arith) (x t : Nat) : Nat :=
  if t = 0 then a.int 1
  else (indices (bitLength t - 1)).reverse.foldl (fun r n =>
    let r := a.mul r r
    if t.testBit n then a.mul r x else r) x

/-- The arithmetic of a layer (R350). -/
def arithOf (e : List PByte) (v : FEnv) : Arith := ⟨if entP e = 0 then fp64 else fp32, v⟩

/-! ## The schedule (R359) -/

/-- tau under restarts; `fuel` bounds the growth of the period, which doubles at least or stays. -/
def restartTau (m : Nat) : (fuel tau q : Nat) → Nat
  | 0, tau, q => tau % q
  | fuel + 1, tau, q =>
    if tau < q then tau
    else
      let q' := min (q * m) (2 ^ 32 - 1)
      if q' = q then tau % q else restartTau m fuel (tau - q) q'

/-- η of a schedule at step s, FP32 bits (R359). -/
def etaOf (e : List PByte) (s : Nat) (v : FEnv) : Nat :=
  let a : Arith := ⟨fp32, v⟩
  let peak := entNum e 4 4
  let floor := entNum e 8 4
  let w := entNum e 12 4
  let d := entNum e 16 4
  let tau := if bitsOf (entNum e 1 1) 0 1 = 1 then restartTau (entNum e 28 4) 40 s (entNum e 24 4) else s
  if tau < w then a.mul peak (a.div (a.int (tau + 1)) (a.int w))
  else
    let u := tau - w
    let span := a.sub peak floor
    match entNum e 0 1 with
    | 0 => peak
    | 1 =>
      if d = 0 then floor
      else a.add floor (a.mul span ((fMinMax fp32 v true 0 (a.sub (a.int 1) (a.div (a.int u) (a.int d)))).bits))
    | 2 =>
      if d = 0 then floor
      else
        let angle := a.div (a.mul 0x40490FDB (a.int (min u d))) (a.int d)
        a.add floor (a.mul span (a.mul 0x3F000000 (a.add (a.int 1) (transcend .cos 1 fp32 v angle).bits)))
    | 3 => a.add floor (a.mul span (a.pow (entNum e 20 4) u))
    | _ =>
      let w := max w 1
      a.mul peak (a.sqrt (a.div (a.int w) (a.int (u + w))))

/-! ## Rules 0x01 and 0x02 (R351) -/

/-- momentum: the new p and m. -/
def momentum (a : Arith) (eta b l p g m : Nat) : Nat × Nat :=
  let u := a.add g (a.mul l p)
  let m := a.add (a.mul b m) u
  (a.sub p (a.mul eta m), m)

/-- adaptive: the new p, m and v; c1 and c2 are the corrections of the step. -/
def adaptive (a : Arith) (eta b1 b2 eps l c1 c2 p g m v : Nat) : Nat × Nat × Nat :=
  let one := a.int 1
  let m := a.add (a.mul b1 m) (a.mul (a.sub one b1) g)
  let v := a.add (a.mul b2 v) (a.mul (a.mul (a.sub one b2) g) g)
  let d := a.add (a.sqrt (a.div v c2)) eps
  let u := a.add (a.div (a.div m c1) d) (a.mul l p)
  (a.sub p (a.mul eta u), m, v)

/-! ## Matrices (R352) -/

/-- A matrix by rows. -/
structure Mat where
  rows : Nat
  cols : Nat
  vals : List Nat
deriving DecidableEq, Repr

def Mat.at (m : Mat) (i j : Nat) : Nat := m.vals.getD (i * m.cols + j) 0

/-- The matrix of given elements. -/
def Mat.gen (r c : Nat) (f : Nat → Nat → Nat) : Mat := ⟨r, c, (indices r).flatMap fun i => (indices c).map (f i)⟩

def Mat.t (m : Mat) : Mat := .gen m.cols m.rows fun i j => m.at j i

/-- Element by element. -/
def Mat.zip (f : Nat → Nat → Nat) (x y : Mat) : Mat := { x with vals := List.zipWith f x.vals y.vals }

def Mat.map (f : Nat → Nat) (x : Mat) : Mat := { x with vals := x.vals.map f }

/-- A product in the order of the FP32 native path: an FP64 sum of exact products, k ascending, rounded once to the arithmetic format
(R202). -/
def Arith.matMul (a : Arith) (x y : Mat) : Mat :=
  .gen x.rows y.cols fun i j =>
    let acc := (indices x.cols).foldl (fun (s : Nat) k =>
      (addVals fp64 a.v (fp64.decode s) (mulTerm (readF a.f a.v (x.at i k)).1 (readF a.f a.v (y.at k j)).1)).bits) 0
    (convertVal a.f a.v (fp64.decode acc)).bits

/-- A Frobenius norm: squares summed in FP64 in row-major order, its root rounded once to FP32. -/
def Arith.norm (a : Arith) (x : Mat) : Nat :=
  let wide : Arith := ⟨fp64, a.v⟩
  let acc := x.vals.foldl (fun s e =>
    let w := wide.of a.f e
    wide.add s (wide.mul w w)) 0
  (sqrtVal fp32 a.v (fp64.decode acc)).bits

/-! ## Inverse roots (R356) -/

/-- c^(−1/4) within twice the VFRSQRT bound. -/
def quarterRoot (v : FEnv) (c : Nat) : Nat :=
  match (readF fp32 v c).1 with
  | .nan s => (nanResult fp32 false [.nan s]).bits
  | .inf neg => if neg then (nanResult fp32 true []).bits else 0
  | .fin neg m e =>
    if m = 0 then fp32.infinity neg
    else if neg then (nanResult fp32 true []).bits
    else
      let k := (e % 4).toNat
      (pickNear .rsqrt 100 fp32 v 2 c ⟨false, isqrt (isqrt (2 ^ 800 / (m * 2 ^ k))), -200 - (e - k) / 4⟩).bits

/-- A value is at most 2^−10 in magnitude. -/
def atMostTiny (x : Nat) : Bool := match fp32.decode x with
  | .fin _ m e => !ltVals (.fin false 1 (-10)) (.fin false m e)
  | _ => false

/-- One iteration of the root: X and M. -/
def rootStep (a : Arith) (n : Nat) (x : Mat × Mat) : Mat × Mat :=
  let five := a.int 5
  let four := a.int 4
  let t : Mat := .gen n n fun i j => a.div (a.sub (if i = j then five else 0) (x.2.at i j)) four
  let t2 := a.matMul t t
  (a.matMul x.1 t, a.matMul (a.matMul t2 t2) x.2)

/-- attempt(e) of R356: X, and whether it is accepted. -/
def rootAttempt (v : FEnv) (f : Mat) (eps : Nat) : Mat × Bool :=
  let a : Arith := ⟨fp32, v⟩
  let n := f.rows
  let m0 : Mat := .gen n n fun i j => if i = j then a.add (f.at i j) eps else f.at i j
  let c := a.norm m0
  let q := quarterRoot v c
  let r := (indices 16).foldl (fun x _ => rootStep a n x)
    ((.gen n n fun i j => if i = j then q else 0 : Mat), m0.map fun x => a.div x c)
  let x2 := a.matMul r.1 r.1
  let res := a.matMul (a.matMul x2 x2) m0
  let one := a.int 1
  (r.1, r.1.vals.all finite32
    && (indices n).all fun i => (indices n).all fun j => atMostTiny (a.sub (res.at i j) (if i = j then one else 0)))

/-- root(F): the accepted attempt of ε, 10 ε, 100 ε, 1,000 ε, else the former root, else the diagonal fallback; whether it is not an
accepted first attempt (R356, R357). `old` is the root read this step, if one exists; F is in the arithmetic format. -/
def rootOf (a : Arith) (f : Mat) (eps : Nat) (old : Option Mat) : Mat × Bool :=
  let s : Arith := ⟨fp32, a.v⟩
  let f32 := f.map (s.of a.f)
  let back (m : Mat) : Mat := m.map (a.of fp32)
  let tries := [1, 10, 100, 1000].map fun k => rootAttempt a.v f32 (if k = 1 then eps else s.mul (s.int k) eps)
  match tries.findIdx? Prod.snd with
  | some n => (back (tries.getD n (f32, false)).1, n != 0)
  | none => match old with
    | some m => (m, true)
    | none =>
      (back (.gen f.rows f.rows fun i j =>
        if i = j then
          let x := s.add (f32.at i i) eps
          (if finite32 x && x != 0 && decide (x < 2 ^ 31) then quarterRoot a.v x else 0)
        else 0), true)

/-! ## A layer's update -/

/-- What an update of a layer gives: the tensors to write with their first vas, its fallback bit, ROOTF afterwards. -/
structure LayerOut where
  writes : List (Nat × List PByte)
  fallback : Bool
  rootf : Nat
deriving DecidableEq, Repr

/-- Bytes of an element of a format code. -/
def elemBytes (code : Nat) : Nat := widthOf code / 8

/-- The bytes of a tensor of `n` elements. -/
def tensorBytes (code n : Nat) : Nat := n * elemBytes code

/-- A tensor's elements in the arithmetic format. -/
def readTensor (a : Arith) (code : Nat) (l : List PByte) : List Nat :=
  (elements (elemBytes code) (plain l)).map (a.of ((fmtOf code).getD fp32))

/-- Whether each element of a tensor is poisoned. -/
def poisonTensor (code : Nat) (l : List PByte) : List Bool :=
  let n := elemBytes code
  (indices (l.length / n)).map fun k => anyPsn ((l.drop (k * n)).take n)

/-- The bytes of elements in a format, each with its marking. -/
def writeTensor (a : Arith) (code : Nat) (l : List (Nat × Bool)) : List PByte :=
  l.flatMap fun x => marked x.2 (bytesOfNat (elemBytes code) (fConvert a.f ((fmtOf code).getD fp32) a.v x.1).bits)

/-- The tensors that a layer's update reads at step s: PARAM, GRAD, the states, each with its first va and its bytes (R354). -/
def layerReads (e : List PByte) (s : Nat) : List (Nat × Nat) :=
  let b := s % 2 == 1
  let n := entRows e * entCols e
  [(entParam e b, tensorBytes (entP e) n), (entGrad e, tensorBytes (entG e) n)]
    ++ (indices (entStates e)).map fun j => (entState e j b, tensorBytes (entS e) ((stateShape e j).1 * (stateShape e j).2))

/-- Every element poisoned, or none. -/
def allMarked (p : Bool) (l : List Nat) : List (Nat × Bool) := l.map fun x => (x, p)

/-- Rules 0x01 and 0x02 on every element. -/
def elementRule (a : Arith) (e : List PByte) (eta s : Nat) (bufs : List (List PByte)) : List (List PByte) :=
  let h (n : Nat) : Nat := a.of fp32 (entHp e n)
  let buf (n : Nat) : List PByte := bufs.getD n []
  let p := readTensor a (entP e) (buf 0)
  let g := readTensor a (entG e) (buf 1)
  let m := readTensor a (entS e) (buf 2)
  let q := List.zipWith3 (fun x y z => x || y || z) (poisonTensor (entP e) (buf 0)) (poisonTensor (entG e) (buf 1))
    (poisonTensor (entS e) (buf 2))
  let n := p.length
  if entRule e = 1 then
    let out := (indices n).map fun k => momentum a eta (h 0) (h 1) (p.getD k 0) (g.getD k 0) (m.getD k 0)
    [writeTensor a (entP e) ((out.map Prod.fst).zip q), writeTensor a (entS e) ((out.map Prod.snd).zip q)]
  else
    let v := readTensor a (entS e) (buf 3)
    let q := List.zipWith (fun x y => x || y) q (poisonTensor (entS e) (buf 3))
    let one := a.int 1
    let c1 := a.sub one (a.pow (h 0) (s + 1))
    let c2 := a.sub one (a.pow (h 1) (s + 1))
    let out := (indices n).map fun k =>
      adaptive a eta (h 0) (h 1) (h 2) (h 3) c1 c2 (p.getD k 0) (g.getD k 0) (m.getD k 0) (v.getD k 0)
    [writeTensor a (entP e) ((out.map Prod.fst).zip q), writeTensor a (entS e) ((out.map fun x => x.2.1).zip q),
      writeTensor a (entS e) ((out.map fun x => x.2.2).zip q)]

/-- p − η (u + λ p) on every element. -/
def applyStep (a : Arith) (eta l : Nat) (p u : Mat) : Mat := .zip (fun x y => a.sub x (a.mul eta (a.add y (a.mul l x)))) p u

/-- Rule 0x03: the tensors to write, the fallback bit, ROOTF. -/
def kfacRule (a : Arith) (e : List PByte) (eta s : Nat) (bufs : List (List PByte)) : List (List PByte) × Bool × Nat :=
  let h (n : Nat) : Nat := a.of fp32 (entHp e n)
  let buf (n : Nat) : List PByte := bufs.getD n []
  let q := bufs.any anyPsn
  let r := entRows e
  let c := entCols e
  let p : Mat := ⟨r, c, readTensor a (entP e) (buf 0)⟩
  let g : Mat := ⟨r, c, readTensor a (entG e) (buf 1)⟩
  let st (n k : Nat) : Mat := ⟨k, k, readTensor a (entS e) (buf n)⟩
  let rest := a.sub (a.int 1) (h 0)
  let blend (x y : Mat) : Mat := .zip (fun u w => a.add (a.mul (h 0) u) (a.mul rest w)) x y
  let l := blend (st 2 r) (a.matMul g g.t)
  let rr := blend (st 3 c) (a.matMul g.t g)
  let rootf := entNum e 144 1
  let due := decide (s % entHp e 2 = 0)
  let had (n : Nat) (m : Mat) : Option Mat := if rootf.testBit n then some m else none
  let ql := if due then rootOf a l (entHp e 1) (had 0 (st 4 r)) else (st 4 r, false)
  let qr := if due then rootOf a rr (entHp e 1) (had 1 (st 5 c)) else (st 5 c, false)
  let u := a.matMul (a.matMul ql.1 g) qr.1
  let p := applyStep a eta (h 3) p u
  let out (m : Mat) : List PByte := writeTensor a (entS e) (allMarked q m.vals)
  ([writeTensor a (entP e) (allMarked q p.vals), out l, out rr] ++ (if due then [out ql.1, out qr.1] else [buf 4, buf 5]),
    ql.2 || qr.2, if due then 3 else rootf)

/-- Rule 0x04. -/
def orthoRule (a : Arith) (e : List PByte) (eta : Nat) (bufs : List (List PByte)) : List (List PByte) :=
  let h (n : Nat) : Nat := a.of fp32 (entHp e n)
  let buf (n : Nat) : List PByte := bufs.getD n []
  let q := bufs.any anyPsn
  let r := entRows e
  let c := entCols e
  let p : Mat := ⟨r, c, readTensor a (entP e) (buf 0)⟩
  let g : Mat := ⟨r, c, readTensor a (entG e) (buf 1)⟩
  let m : Mat := .zip (fun x y => a.add (a.mul (h 0) x) y) ⟨r, c, readTensor a (entS e) (buf 2)⟩ g
  let d := a.add (a.of fp32 (a.norm m)) (h 1)
  let turn (x : Mat) : Mat :=
    let y := if r ≤ c then a.matMul (a.matMul x x.t) x else a.matMul x (a.matMul x.t x)
    .zip (fun u w => a.add (a.mul (h 3) u) (a.mul (h 4) w)) x y
  let x := (indices (entHp e 2)).foldl (fun x _ => turn x) (m.map fun x => a.div x d)
  [writeTensor a (entP e) (allMarked q (applyStep a eta (h 5) p x).vals), writeTensor a (entS e) (allMarked q m.vals)]

/-- The update of a layer at step s from what it read (R351 to R359). -/
def layerOut (e sched : List PByte) (s : Nat) (v : FEnv) (bufs : List (List PByte)) : LayerOut :=
  let a := arithOf e v
  let eta := a.of fp32 (etaOf sched s v)
  let b := s % 2 == 0
  let dsts := entParam e b :: (indices (entStates e)).map fun j => entState e j b
  let rootf := entNum e 144 1
  match entRule e with
  | 1 => ⟨dsts.zip (elementRule a e eta s bufs), false, rootf⟩
  | 2 => ⟨dsts.zip (elementRule a e eta s bufs), false, rootf⟩
  | 3 =>
    let (l, fb, rf) := kfacRule a e eta s bufs
    ⟨dsts.zip l, fb, rf⟩
  | _ => ⟨dsts.zip (orthoRule a e eta bufs), false, rootf⟩

end Sys2Proof.Machine
end

