-- ==== Sys2Proof/Machine/Update.lean ====
section
/-!
DEFINITION. UPDATE: its start checks and the work of the tiles' update engines (R348, R353 to R355, R357, R360 to R362, R365).
-/

namespace Sys2Proof.Machine

/-! ## Fields that UPDATE and DRAIN share (Table 11-13) -/

def Desc.tableVa (d : Desc) : Nat := d.num 32 8
def Desc.firstLayer (d : Desc) : Nat := d.num 40 4
def Desc.layerCount (d : Desc) : Nat := d.num 44 4
def Desc.step (d : Desc) : Nat := d.num 48 8

/-- DFLAGS.ABANDONABLE of a DRAIN. -/
def Desc.abandonable (d : Desc) : Bool := d.raw.getLsbD (8 * 64)

/-- The tiles that TILES names, ascending. -/
def Desc.tiles (d : Desc) : List TileId := ((indices 16).filter fun t => bitsOf (d.num 56 2) t 1 == 1).map (BitVec.ofNat 4)

/-- The va of layer entry i (R348). -/
def Desc.entryVa (d : Desc) (i : Nat) : Nat := d.tableVa + 2048 + 256 * i

/-- Whether a range of `n` layers from `f` meets the layers of an UPDATE or DRAIN. -/
def Desc.namesAny (d : Desc) (f n : Nat) : Bool :=
  decide (0 < n ∧ d.firstLayer < f + n ∧ f < d.firstLayer + d.layerCount)

/-- STEP_DONE keeps a step s or the one before (R360, R364). -/
def stepFits (e : List PByte) (s : Nat) : Bool := entStep e == s || entStep e == (s + 2 ^ 64 - 1) % 2 ^ 64

/-- The other running descriptors of a binding with an opcode. -/
def runningOthers (s : State) (b : BindingId) (op : Nat) (r : RingId) (i : Nat) : List RingDesc :=
  s.allDescs.filter fun x => x.2.running && x.2.opcode == op && decide (x.2.binding = some b) && !decide (x.1 = r ∧ x.2.index = i)

/-! ## Start (R360) -/

/-- The lowest-numbered core that a binding holds in a tile (R353). -/
def lowestCore (s : State) (b : BindingId) (t : TileId) : Option CoreId :=
  (coresOf (s.bnd b).sections).find? fun c => decide (tileOf c = t)

/-- Checks 1 and 2 of Table 13-4. -/
def updateLegal (s : State) (b : BindingId) (r : RingId) (d : Desc) : Bool :=
  d.tiles.all (fun t => (lowestCore s b t).isSome)
    && !(runningOthers s b 0x05 r d.index).any fun x => x.2.namesAny d.firstLayer d.layerCount

/-- The tile that updates layer FIRST + k (R361). -/
def Desc.tileOfLayer (d : Desc) (k : Nat) : TileId := (d.tiles[k % d.tiles.length]?).getD 0

/-- A layer is already at STEP (R361). -/
def layerDone (d : Desc) (e : List PByte) : Bool := entStep e == d.step

/-- Checks 3 and 4. -/
def entriesFit (d : Desc) : Bool := d.job.entries.all fun e => entryOk e && stepFits e d.step

/-- Checks 5 and 6. -/
def schedsFit (s : State) (b : BindingId) (d : Desc) : Bool :=
  d.job.scheds.all schedOk
    && !(d.job.entries.zip (indices d.job.entries.length)).any fun x =>
      entProgram x.1 && !layerDone d x.1 && (match lowestCore s b (d.tileOfLayer x.2) with
        | some c => countsRunning s c
        | none => false)

/-- The engines of an UPDATE, each with the layers it updates, ascending (R361). -/
def updateEngines (d : Desc) : List EngineWork :=
  d.tiles.map fun t =>
    { tile := t
      layers := (indices d.layerCount).filter fun k =>
        decide (d.tileOfLayer k = t) && !layerDone d (d.job.entries.getD k [])
      stage := 0
      bufs := []
      cur := []
      pos := 0
      core := none
      failed := false
      xl := [] }

/-- The ABANDONABLE DRAINs of step STEP - 1 of an overlapping range complete ABORTED at once (R365). -/
def abandonDrains (b : BindingId) (r : RingId) (d : Desc) (s : State) : State :=
  (runningOthers s b 0x06 r d.index).foldl (fun s x =>
    if x.2.abandonable && (x.2.step + 1) % 2 ^ 64 == d.step && x.2.namesAny d.firstLayer d.layerCount then
      endJob x.1 x.2.index .aborted (unpark b (.job x.1 x.2.index) s)
    else s) s

/-- The engine that reads an UPDATE's table: that of the lowest tile of TILES (DESIGN CHOICE, notes/assumptions/13.md). -/
def Desc.tableReader (d : Desc) (r : RingId) : Who := .update r d.index (d.tiles.headD 0)

/-- An access of an engine is done: its reads and the translations it held are forgotten. -/
def engineDone (who : Who) (r : RingId) (i : Nat) (s : State) : State :=
  dropReturned who (match who with
    | .update _ _ t => modHeld r i t (fun _ => []) s
    | _ => s.modJob r i fun j => { j with xl := [] })

/-- An UPDATE ends: its engines give back what they hold. -/
def endUpdate (r : RingId) (i : Nat) (st : Status) (s : State) : State :=
  let s := (indices 16).foldl (fun s t => dropReturned (.update r i (BitVec.ofNat 4 t)) s) s
  let s := { s with cores := s.cores.mapListed .reset fun _ k =>
      if k.ctl.layer = some (r, i) then { k with ctl := { k.ctl with layer := none } } else k }
  endJob r i st s

/-- One read of the start of an UPDATE: an entry, then a schedule, each schedule once though several layers use it (R360); the checks
follow the reads they need. -/
def updateReadStep (r : RingId) (i : Nat) (s : State) : Bool × State :=
  match s.desc r i with
  | none => (false, s)
  | some d => match d.binding with
    | none => (false, s)
    | some b =>
      let who := d.tableReader r
      let n := d.job.entries.length
      let m := d.job.scheds.length
      if !d.running || d.job.phase != 0 || isParked s b who then (false, s)
      else if d.job.err then (false, endUpdate r i .hwError s)
      else if n < d.layerCount then
        (match bulkRead who b (d.entryVa (d.firstLayer + n)) 256 s with
        | (some l, s) => (true, engineDone who r i (s.modJob r i fun j => { j with entries := j.entries ++ [l] }))
        | (none, s) => (false, s))
      else if !entriesFit d then (false, endUpdate r i .rejectState s)
      else if m < d.layerCount then
        (match (indices m).find? fun j => entSched (d.job.entries.getD j []) == entSched (d.job.entries.getD m []) with
        | some j => (true, s.modJob r i fun x => { x with scheds := x.scheds ++ [x.scheds.getD j []] })
        | none => match bulkRead who b (d.tableVa + 32 * entSched (d.job.entries.getD m [])) 32 s with
        | (some l, s) => (true, engineDone who r i (s.modJob r i fun j => { j with scheds := j.scheds ++ [l] }))
        | (none, s) => (false, s))
      else if !schedsFit s b d then (false, endUpdate r i .rejectState s)
      else (false, (abandonDrains b r d s).modJob r i fun j => { j with phase := 1, engines := updateEngines d })

/-! ## An engine's work -/

/-- A DRAIN of step STEP - 1 has yet to read the last byte of a layer (R365); `layer` is its number in the table. -/
def drainHolds (s : State) (b : BindingId) (r : RingId) (d : Desc) (layer : Nat) : Bool :=
  (runningOthers s b 0x06 r d.index).any fun x =>
    (x.2.step + 1) % 2 ^ 64 == d.step && x.2.namesAny layer 1 && (match x.2.job.counts[layer - x.2.firstLayer]? with
      | some e => decide (x.2.job.data.length < e)
      | none => true)

/-- Change the work of a tile's engine. -/
def modEngine (r : RingId) (i : Nat) (t : TileId) (f : EngineWork → EngineWork) (s : State) : State :=
  s.modJob r i fun j => { j with engines := j.engines.map fun e => if e.tile = t then f e else e }

/-- Write bytes within one unit and write their sector back at once (R355). -/
def engineStore (who : Who) (b : BindingId) (va : Nat) (l : List PByte) (s : State) : Bool × State :=
  match bulkWrite who b va l s with
  | (true, s) => match xlate who b (BitVec.ofNat 64 va) true false s with
    | (.leaf x, s) => match agentSlice s b who, cached x with
      | some (t, _), true => (true, l2WriteBack who t ((x.addr va).toNat / 64) s)
      | _, _ => (true, s)
    | (_, s) => (true, s)
  | (false, s) => (false, s)

/-- h0 of a core starts on a program-defined layer (R353). -/
def startLayer (r : RingId) (i : Nat) (c : CoreId) (entry : List PByte) (va eta step : Nat) (s : State) : State :=
  (handOver c s).modCore c fun k =>
    let k := { k with ctl := { k.ctl with launch := none, layer := some (r, i), halted := 0, finished := false, failed := false } }
    k.modThread 0 fun th =>
      { (((th.started.wg 1 (BitVec.ofNat 32 va)).wg 2 (BitVec.ofNat 32 (va / 2 ^ 32))).wg 3 (BitVec.ofNat 32 eta)).wg 4
          (BitVec.ofNat 32 step) with pc := BitVec.ofNat 17 (entHp entry 0) }

/-- The next layer of an engine, or none. -/
def EngineWork.next (e : EngineWork) : EngineWork :=
  { e with layers := e.layers.drop 1, stage := 0, bufs := [], cur := [], pos := 0, core := none }

/-- A piece of the layer's next tensor is read; after the last one the new tensors are computed, and `cur` keeps ROOTF. -/
def layerRead (r : RingId) (i : Nat) (b : BindingId) (d : Desc) (e : EngineWork) (entry sched : List PByte) (s : State) :
    Bool × State :=
  let who := Who.update r i e.tile
  let k := e.layers.headD 0
  match (layerReads entry d.step)[e.bufs.length]? with
  | some (va, len) =>
    if len ≤ e.cur.length then
      (true, modEngine r i e.tile (fun e => { e with bufs := e.bufs ++ [e.cur], cur := [] }) s)
    else match bulkRead who b (va + e.cur.length) (min 64 (len - e.cur.length)) s with
      | (some l, s) =>
        if jobErr s r i then (false, s)
        else (true, engineDone who r i (modEngine r i e.tile (fun e => { e with cur := e.cur ++ l }) s))
      | (none, s) => (false, s)
  | none =>
    let out := layerOut entry sched d.step (engineEnv s) e.bufs
    let p := anyPsn entry || anyPsn sched
    let tensors := out.writes.map fun w => if p then marked true (plain w.2) else w.2
    let s := modEngine r i e.tile (fun e => { e with
      stage := 1, bufs := tensors, cur := [(BitVec.ofNat 8 out.rootf, p)], pos := 0 }) s
    (true, if out.fallback then s.modJob r i fun j => { j with bitmap := j.bitmap ||| BitVec.ofNat 128 (2 ^ k) } else s)

/-- A unit of the layer's new tensors is written (R354); no write goes before a DRAIN has read the layer (R365). -/
def layerWrite (r : RingId) (i : Nat) (b : BindingId) (d : Desc) (e : EngineWork) (entry : List PByte) (s : State) :
    Bool × State :=
  let who := Who.update r i e.tile
  let second := d.step % 2 == 0
  let dsts := entParam entry second :: (indices (entStates entry)).map fun j => entState entry j second
  if drainHolds s b r d (d.firstLayer + e.layers.headD 0) then (false, s)
  else match e.bufs with
    | [] => (true, modEngine r i e.tile (fun e => { e with stage := 2 }) s)
    | x :: rest =>
      if x.length ≤ e.pos then (true, modEngine r i e.tile (fun e => { e with bufs := rest, pos := 0 }) s)
      else if linksFull s then (false, s)
      else
        let va := dsts.getD (dsts.length - e.bufs.length) 0 + e.pos
        match engineStore who b va ((x.drop e.pos).take 64) s with
        | (true, s) => (true, engineDone who r i (modEngine r i e.tile (fun e => { e with pos := e.pos + 64 }) s))
        | (false, s) => (false, s)

/-- Whether every write of an engine, and of its tile's L2, has been performed. -/
def engineSettled (s : State) (r : RingId) (i : Nat) (t : TileId) : Bool :=
  !outstanding s (.update r i t) && !evicting s t

/-- One step of a program-defined layer before its STEP_DONE (R353): its core starts once no DRAIN has the layer to read (R365). -/
def layerProgram (r : RingId) (i : Nat) (b : BindingId) (d : Desc) (e : EngineWork) (entry sched : List PByte) (s : State) :
    Bool × State :=
  let k := e.layers.headD 0
  match e.core with
  | none => match (if drainHolds s b r d (d.firstLayer + k) then none else lowestCore s b e.tile) with
    | none => (false, s)
    | some c =>
      let va := d.entryVa (d.firstLayer + k)
      (false, startLayer r i c entry va (etaOf sched d.step (engineEnv s)) d.step
        (modEngine r i e.tile (fun e => { e with core := some c }) s))
  | some c =>
    let s := if (s.core c).ctl.finished then s.modCore c Core.drainAll else s
    if (s.core c).ctl.failed then (false, s.modJob r i fun j => { j with err := true })
    else if coreOver s c then
      (true, modEngine r i e.tile (fun e => { e with stage := 3 }) (s.modCore c fun k =>
        { k with ctl := { k.ctl with layer := none } }))
    else (false, s)

/-- One step of a tile's engine: read (stage 0), write (1), ROOTF (2), STEP_DONE (3), until that is performed (4). -/
def engineStep (r : RingId) (i : Nat) (t : TileId) (s : State) : Bool × State :=
  match s.desc r i with
  | none => (false, s)
  | some d => match d.binding, d.job.engines.find? fun e => decide (e.tile = t) with
    | some b, some e =>
      let who := Who.update r i t
      match e.layers with
      | [] => (false, s)
      | k :: _ =>
        let entry := d.job.entries.getD k []
        let sched := d.job.scheds.getD k []
        let va := d.entryVa (d.firstLayer + k)
        if !d.running || e.failed || d.job.err || isParked s b who then (false, s)
        else match e.stage with
          | 0 => if entProgram entry then layerProgram r i b d e entry sched s else layerRead r i b d e entry sched s
          | 1 => layerWrite r i b d e entry s
          | 2 =>
            if !engineSettled s r i t || linksFull s then (false, s)
            else if entRule entry ≠ 3 then (true, modEngine r i t (fun e => { e with stage := 3 }) s)
            else (match engineStore who b (va + 144) e.cur s with
              | (true, s) => (true, engineDone who r i (modEngine r i t (fun e => { e with stage := 3 }) s))
              | (false, s) => (false, s))
          | 3 =>
            if !engineSettled s r i t || linksFull s then (false, s)
            else (match engineStore who b (va + 136) (clean (bytesOfNat 8 d.step)) s with
              | (true, s) => (true, engineDone who r i (modEngine r i t (fun e => { e with stage := 4 }) s))
              | (false, s) => (false, s))
          | _ => if engineSettled s r i t then (true, modEngine r i t EngineWork.next s) else (false, s)
    | _, _ => (false, s)

/-- An UPDATE goes on as far as it can; a request that retired as an error ends it HW_ERROR (R386, R442). -/
def runUpdate (r : RingId) (i : Nat) (s : State) : State :=
  let s := repeatStep (updateReadStep r i) 512 s
  let s := (indices 16).foldl (fun s t => repeatStep (engineStep r i (BitVec.ofNat 4 t)) (2 ^ 40) s) s
  if jobErr s r i then endUpdate r i .hwError s else s

/-- UPDATE (R348 to R361). -/
def execUpdate (o : RingForm) (s : State) : Result :=
  .next (startDesc o.ring (fun d => d.opcode == 0x05) (fun d s =>
    match d.binding with
    | none => s
    | some b => if updateLegal s b o.ring d then runUpdate o.ring d.index s else endUpdate o.ring d.index .rejectState s) s)

/-- The status of an UPDATE whose engines have finished (R362). -/
def updateStatus (d : Desc) : Status :=
  if d.job.engines.any EngineWork.failed then .faultUnresolved
  else if d.job.bitmap ≠ 0 then .numericFallback
  else .ok

/-- An engine has finished its layers, or was declined and holds nothing any more. -/
def EngineWork.over (s : State) (r : RingId) (i : Nat) (e : EngineWork) : Bool :=
  (e.layers.isEmpty || e.failed) && !outstanding s (.update r i e.tile)

/-- UPDATE_FINISH (R362): an UPDATE completes when every engine has finished its layers. -/
def execUpdateFinish (o : DescForm) (s : State) : Result :=
  match s.desc o.ring o.index with
  | none => .next s
  | some d =>
    if d.opcode ≠ 0x05 ∨ !d.running then .next s
    else
      let s := runUpdate o.ring o.index s
      match s.desc o.ring o.index with
      | none => .next s
      | some d =>
        if d.running && d.job.phase == 1 && d.job.engines.all (EngineWork.over s o.ring o.index) then
          .next (endUpdate o.ring o.index (updateStatus d) s)
        else .next s

end Sys2Proof.Machine
end

