-- ==== Sys2Proof/Machine/Drain.lean ====
section
/-!
DEFINITION. DRAIN and RESTORE (R363 to R365, R367, R372 to R374).
-/

namespace Sys2Proof.Machine

/-! ## What a DRAIN copies (R363) -/

/-- DST_VA of a DRAIN. -/
def Desc.drainDst (d : Desc) : Nat := d.num 56 8

/-- A length padded to a multiple of 64. -/
def padded (n : Nat) : Nat := (n + 63) / 64 * 64

/-- The tensors of a layer that a DRAIN of step s copies: the read buffers of PARAM and of each state tensor. -/
def drainTensors (e : List PByte) (s : Nat) : List (Nat × Nat) := (layerReads e s).eraseIdx 1

/-- Every tensor of a DRAIN in order: first va and length. -/
def Desc.drainList (d : Desc) : List (Nat × Nat) := d.job.entries.flatMap fun e => drainTensors e d.step

/-- The bytes that a DRAIN copies before its commit record. -/
def Desc.drainTotal (d : Desc) : Nat := (d.drainList.map fun t => padded t.2).sum

/-- Where the copy's byte `pos` comes from: the va and the tensor bytes left, or the padding bytes left. -/
def drainPlace : List (Nat × Nat) → Nat → Option (Nat × Nat) × Nat
  | [], _ => (none, 0)
  | (va, len) :: r, pos =>
    if padded len ≤ pos then drainPlace r (pos - padded len)
    else if pos < len then (some (va + pos, len - pos), 0)
    else (none, padded len - pos)

/-- The ends of the layers in the copy, cumulative. -/
def drainEnds (s : Nat) : (base : Nat) → List (List PByte) → List Nat
  | _, [] => []
  | base, e :: r =>
    let n := base + ((drainTensors e s).map fun t => padded t.2).sum
    n :: drainEnds s n r

/-- The check of R364 on the UPDATEs in execution, made when the DRAIN starts. -/
def drainFree (s : State) (b : BindingId) (r : RingId) (d : Desc) : Bool :=
  !(runningOthers s b 0x05 r d.index).any fun x =>
    x.2.step == (d.step + 1) % 2 ^ 64 && x.2.namesAny d.firstLayer d.layerCount

/-- The checks of R364 on the entries. -/
def drainLegal (d : Desc) : Bool := d.job.entries.all fun e => entryOk e && stepFits e d.step

/-- The commit record (Table 13-5). -/
def commitRecord (s : State) (b : BindingId) (d : Desc) (opened : DWord) : List PByte :=
  marked (anyPsn d.job.data || d.job.entries.any anyPsn)
    (bytesOf 8 opened ++ bytesOfNat 8 d.step ++ bytesOfNat 4 d.firstLayer ++ bytesOfNat 4 d.layerCount
      ++ bytesOfNat 8 d.job.data.length ++ shake256 16 (plain d.job.data) ++ bytesOf 8 (s.bnd b).seed
      ++ bytesOfNat 2 s.mgmt.mid.toNat ++ List.replicate 6 0)

/-- A job goes to another phase; what it read and the translations it held are forgotten. -/
def toPhase (r : RingId) (i : Nat) (n : Nat) (s : State) : State := engineDone (.job r i) r i (s.modJob r i fun j => { j with phase := n })

/-- One request of the copy: a tensor is read up to the end of a 512-byte block, or its padding joins, until all is here that the next
512-byte block of the destination lacks, and that is written (R363, R389). -/
def drainCopy (r : RingId) (i : Nat) (b : BindingId) (d : Desc) (s : State) : Bool × State :=
  let who := Who.job r i
  let pos := d.job.pos
  let n := blockLen (d.drainDst + pos) (d.drainTotal - pos)
  let mark (l : List PByte) : List PByte := if d.job.entries.any anyPsn then marked true (plain l) else l
  if d.job.data.length < pos + n then
    match drainPlace d.drainList d.job.data.length with
    | (some (src, left), _) =>
      (match engineRead who b src (blockLen src left) s with
      | (some l, s) => if jobErr s r i then (false, s) else (true, readAhead r i l s)
      | (none, s) => (false, s))
    | (none, pad) => (true, readAhead r i (clean (List.replicate pad 0)) s)
  else if linksFull s then (false, s)
  else match engineWrite who b (d.drainDst + pos) (mark ((d.job.data.drop pos).take n)) s with
    | (true, s) => (true, advanceJob r i n s)
    | (false, s) => (false, s)

/-- One step of a DRAIN: entries (phase 0), zero commit record (1), its performance (2), the copy (3), its performance (4), the
breath (5), the commit record (6), its performance (7). -/
def drainStep (r : RingId) (i : Nat) (s : State) : Bool × State :=
  match jobState s r i with
  | none => (false, s)
  | some (d, b) =>
    let who := Who.job r i
    let commit := d.drainDst + d.drainTotal
    if d.job.err then (false, s)
    else match d.job.phase with
      | 0 =>
        if d.job.entries.length < d.layerCount then
          (match engineRead who b (d.entryVa (d.firstLayer + d.job.entries.length)) 256 s with
          | (some l, s) => (true, engineDone who r i (s.modJob r i fun j => { j with entries := j.entries ++ [l] }))
          | (none, s) => (false, s))
        else if drainLegal d then
          (true, toPhase r i 1 (s.modJob r i fun j => { j with counts := drainEnds d.step 0 j.entries }))
        else (false, endJob r i .rejectState s)
      | 1 =>
        if linksFull s then (false, s)
        else (match engineWriteAll who b commit (clean (List.replicate 64 0)) s with
          | (true, s) => (true, toPhase r i 2 s)
          | (false, s) => (false, s))
      | 2 => if outstanding s who then (false, s) else (true, toPhase r i 3 s)
      | 3 => if d.drainTotal ≤ d.job.pos then (true, toPhase r i 4 s) else drainCopy r i b d s
      | 4 => if outstanding s who then (false, s) else (false, toPhase r i 5 s)
      | 6 => (match d.job.named with
        | none => (false, s)
        | some t =>
          if linksFull s then (false, s)
          else match engineWriteAll who b commit (commitRecord s b d t) s with
            | (true, s) => (true, toPhase r i 7 s)
            | (false, s) => (false, s))
      | 7 => (false, if outstanding s who then s else endJob r i .ok s)
      | _ => (false, s)

/-- A DRAIN goes on as far as it can. -/
def runDrain (r : RingId) (i : Nat) (s : State) : State :=
  let s := repeatStep (drainStep r i) (2 ^ 50) s
  if jobErr s r i then endJob r i .hwError s else s

/-- DRAIN (R363, R364). -/
def execDrain (o : RingForm) (s : State) : Result :=
  .next (startDesc o.ring (fun d => d.opcode == 0x06) (fun d s => match d.binding with
    | some b => if drainFree s b o.ring d then runDrain o.ring d.index s else endJob o.ring d.index .rejectState s
    | none => s) s)

/-- A DRAIN whose copy is performed: it waits for the next breath that opens (R364). -/
def Desc.awaitsBreath (d : Desc) : Bool := d.running && d.opcode == 0x06 && d.job.phase == 5

/-- The DRAINs that commit in a breath which opens now. -/
def drainsDue (s : State) : List RingDesc := s.allDescs.filter fun x => x.2.awaitsBreath

/-- The breath that opened is the one in which the DRAINs that waited for it write their commit records (R44, R364). -/
def commitDrains (opened : DWord) (due : List RingDesc) (s : State) : State :=
  due.foldl (fun s x => match s.desc x.1 x.2.index with
    | some d =>
      if d.awaitsBreath then
        runDrain x.1 x.2.index (s.modJob x.1 x.2.index fun j => { j with phase := 6, named := some opened })
      else s
    | none => s) s

/-! ## RESTORE (R372 to R374) -/

/-- The record keeps Table 13-7. -/
def restoreRecordOk (seed : DWord) (l : List PByte) : Bool :=
  recNum l 0 2 == 1 && recNum l 2 2 == 0 && recNum l 4 4 != 0 && recNum l 16 4 != 0 && decide (recNum l 20 4 ≤ 128)
    && recNum l 24 8 % 4096 == 0 && recNum l 36 4 == 0 && recNum l 40 8 == seed.toNat && recNum l 48 16 == 0

/-- The layer entry that a RESTORE lists n-th. -/
def restoreEntryVa (l : List PByte) (n : Nat) : Nat := recNum l 24 8 + 2048 + 256 * (recNum l 32 4 + n)

/-- The checks of R373. -/
def restoreLegal (s : State) (b : BindingId) (r : RingId) (d : Desc) : Bool :=
  let rec_ := d.job.data
  let names (x : RingDesc) : Bool := x.2.namesAny (recNum rec_ 32 4) (recNum rec_ 20 4)
  !bindingRuns s b && restoreRecordOk (s.bnd b).seed rec_ && decide (d.num 48 4 < recNum rec_ 4 4)
    && !(runningOthers s b 0x05 r d.index).any names && !(runningOthers s b 0x06 r d.index).any names
    && d.job.entries.all entryOk

/-- Installing a position: rpos in every core of the binding, LAST_RPOS (R374). -/
def installPos (b : BindingId) (p : DWord) (s : State) : State :=
  let s := (coresOf (s.bnd b).sections).foldl (fun s c => s.modCore c fun k => { k with vec := { k.vec with rpos := p } }) s
  s.modLog b fun l => { l with lastRpos := p }

/-- What a RESTORE does when its checks have passed: SEED_SKEW, or the installation (R374). -/
def restoreOutcome (r : RingId) (i : Nat) (b : BindingId) (d : Desc) (s : State) : Bool × State :=
  let derived := derivedPos d
  let rewind := d.raw.getLsbD (8 * 52)
  if derived ≠ BitVec.ofNat 64 (d.num 56 8) ∧ !rewind then (false, endJob r i .seedSkew s)
  else (true, toPhase r i 2 (installPos b derived s))

/-- One step of a RESTORE: record (phase 0), entries and checks (1), STEP_DONE of each entry (2), their performance (3). -/
def restoreStep (r : RingId) (i : Nat) (s : State) : Bool × State :=
  match jobState s r i with
  | none => (false, s)
  | some (d, b) =>
    let who := Who.job r i
    let l := d.job.data
    let count := recNum l 20 4
    if d.job.err then (false, s)
    else match d.job.phase with
      | 0 =>
        (match engineRead who b (d.num 32 8) 64 s with
        | (some x, s) => (true, toPhase r i 1 (s.modJob r i fun j => { j with data := x }))
        | (none, s) => (false, s))
      | 1 =>
        if !restoreLegal s b r d then (false, endJob r i .rejectState s)
        else if d.job.entries.length < count then
          (match engineRead who b (restoreEntryVa l d.job.entries.length) 256 s with
          | (some x, s) => (true, engineDone who r i (s.modJob r i fun j => { j with entries := j.entries ++ [x] }))
          | (none, s) => (false, s))
        else restoreOutcome r i b d s
      | 2 =>
        if count ≤ d.job.pos then (true, toPhase r i 3 s)
        else if linksFull s then (false, s)
        else (match engineWrite who b (restoreEntryVa l d.job.pos + 136)
            (clean (bytesOfNat 8 ((d.num 40 8 + 2 ^ 64 - 1) % 2 ^ 64))) s with
          | (true, s) => (true, engineDone who r i (s.modJob r i fun j => { j with pos := j.pos + 1 }))
          | (false, s) => (false, s))
      | _ => (false, if outstanding s who then s else endJob r i .ok s)

/-- A RESTORE goes on as far as it can. -/
def runRestore (r : RingId) (i : Nat) (s : State) : State :=
  let s := repeatStep (restoreStep r i) 1024 s
  if jobErr s r i then endJob r i .hwError s else s

/-- RESTORE (R372 to R374). -/
def execRestore (o : RingForm) (s : State) : Result :=
  .next (startDesc o.ring (fun d => d.opcode == 0x0D) (fun d s => runRestore o.ring d.index s) s)

end Sys2Proof.Machine
end

