-- ==== Sys2Proof/Machine/Binding.lean ====
section
/-!
DEFINITION. BIND, UNBIND and the keys (R295, R325 to R347, R332, R345, R442).
-/

namespace Sys2Proof.Machine

/-! ## Keys (R332, R345) -/

/-- A slot's key changes: CHANGES, STAMP and SRC follow. -/
def changeKey (k : SlotId) (key : KeyId) (src : BitVec 2) (s : State) : State :=
  let x := s.slot k
  s.setSlot k { x with key := some key, src := src, changes := satAdd x.changes 1, stamp := s.time.count }

/-- Retire a slot: a fresh random key replaces its key (R332). -/
def retireKey (k : SlotId) (s : State) : State :=
  changeKey k (.fresh s.nextKey) 0 { s with nextKey := s.nextKey + 1 }

/-! ## BIND (R334 to R337) -/

def Desc.bindSections (d : Desc) : BitVec 64 := BitVec.ofNat 64 (d.num 32 8)
def Desc.bindPlots (d : Desc) : BitVec 256 := BitVec.ofNat 256 (d.num 40 32)
def Desc.bindPorts (d : Desc) : BitVec 18 := BitVec.ofNat 18 (d.num 72 3)
def Desc.bindIl (d : Desc) : BitVec 2 := BitVec.ofNat 2 (d.num 75 1)
def Desc.bindSeed (d : Desc) : DWord := BitVec.ofNat 64 (d.num 88 8)
def Desc.stubVa (d : Desc) : Nat := d.num 96 8
def Desc.stubLen (d : Desc) : Nat := d.num 104 4

/-- The plots of the group of a plot under an interleave form (R263). -/
def plotGroup (il : BitVec 2) (p : Nat) : List Nat :=
  match il.toNat with
  | 1 => (indices 2).map fun i => p / 16 * 16 + p % 8 + 8 * i
  | 2 => (indices 8).map fun i => p / 64 * 64 + p % 8 + 8 * i
  | _ => (indices 32).map fun i => p % 8 + 8 * i

/-- The plots are a union of whole groups. -/
def wholeGroups (il : BitVec 2) (plots : BitVec 256) : Bool :=
  (indices 256).all fun p => !plots.getLsbD p || (plotGroup il p).all fun q => plots.getLsbD q

/-- A binding holds something that a BIND of another binding names (R325). -/
def claims (d : Desc) (x : Binding) : Bool :=
  decide (x.state ≠ .free) && (decide (x.sections &&& d.bindSections ≠ 0) || decide (x.plots &&& d.bindPlots ≠ 0)
    || decide (x.ports &&& d.bindPorts ≠ 0) || (bindSlots d).any fun k => x.keys.contains k)

/-- Check 6 of Table 12-6: a named section has no site, or a named port is out of service. -/
def unavailable (s : State) (d : Desc) : Bool :=
  ((indices 64).any fun sec => d.bindSections.getLsbD sec && !hasSite s (BitVec.ofNat 4 (sec / 4)))
    || (indices 18).any fun p => d.bindPorts.getLsbD p && decide ((s.port (BitVec.ofNat 5 p)).state = .failed)

/-- Walk a page of a BIND's stub: no TLB keeps anything of it, and no fault record is written. -/
def walkStub (b : BindingId) (va : Nat) (s : State) : Option Leaf × State :=
  if 2 ^ 48 ≤ va then (none, s)
  else match walkTables hubSource [] b va (perfCount 0x08 16 (some b) 1 s) with
    | (.leaf l, _, s) => (some l, s)
    | (.fault .tablePoison level pa, _, s) => (none, tablePoison none b pa level s)
    | (.fault _ _ _, _, s) => (none, s)

/-- Check 7: the probe of the stub's pages, with the named sections as the binding's. What it reads and reports stays. -/
def probeStub (b : BindingId) (d : Desc) (s : State) : Bool × State :=
  let old := (s.bnd b).sections
  let (ok, s) := (pieces 4096 (d.stubLen / 4096 + 2) d.stubVa d.stubLen).foldl (fun (a : Bool × State) p =>
    if a.1 then
      match walkStub b p.1 a.2 with
      | (some _, s) => (true, s)
      | (none, s) => (false, s)
    else a) (true, s.modBnd b fun x => { x with sections := d.bindSections })
  (ok, s.modBnd b fun x => { x with sections := old })

/-- Checks 2 to 4 of Table 12-6: REJECT_FORMAT. -/
def bindFormat (s : State) (b : BindingId) (d : Desc) : Bool :=
  let x := (s.bnd b).xlat
  palvanValid x.root.toNat && decide (6 ≤ x.fqSize.toNat ∧ x.fqSize.toNat ≤ 16) && (bindSlots d).contains x.tkey
    && wholeGroups d.bindIl d.bindPlots

/-- Checks 5 and 6: REJECT_STATE. -/
def bindFree (s : State) (b : BindingId) (d : Desc) : Bool :=
  !(s.binds.entries.any fun e => decide (e.1 ≠ b.toNat) && claims d e.2) && !unavailable s d

/-- Steps 1 and 2 of R336: the resources are the binding's, and xcfg says so in its cores. -/
def claimAll (b : BindingId) (d : Desc) (s : State) : State :=
  let s := s.modBnd b fun x => { x with
    state := .binding
    stamp := s.time.count
    sections := d.bindSections
    ports := d.bindPorts
    il := d.bindIl
    plots := d.bindPlots
    keys := bindSlots d
    seed := d.bindSeed
    log := .reset }
  let s := (bindSlots d).foldl (fun s k => s.setSlot k { s.slot k with owned := true, binding := b }) s
  (coresOf d.bindSections).foldl (fun s c =>
    s.modCore c fun k => { k with ctl := { k.ctl with xcfg := ⟨true, b, d.bindIl, false⟩ } }) s

/-- One block of the stub copy (step 3 of R336): it never parks; a fault is an error fatal to the binding. -/
def stubStep (r : RingId) (i : Nat) (s : State) : Bool × State :=
  match jobState s r i with
  | none => (false, s)
  | some (d, b) =>
    let who := Who.job r i
    let va := d.stubVa + d.job.pos
    if d.job.err || decide (d.stubLen ≤ d.job.pos) then (false, s)
    else if d.job.xl.any fun l => l.maps va then
      let n := blockLen va (min (d.stubLen - d.job.pos) (4096 - va % 4096))
      match engineRead who b va n s with
      | (some l, s) =>
        if jobErr s r i then (false, s)
        else
          let s := (coresOf d.bindSections).foldl (fun s c => s.modCore c fun k => k.codeWrite d.job.pos l) s
          (true, dropReturned who (s.modJob r i fun j => { j with pos := j.pos + n }))
      | (none, s) => (false, s)
    else match walkStub b va s with
      | (some l, s) => (true, s.modJob r i fun j => { j with xl := [l] })
      | (none, s) => (false, engineError who (some b) (BitVec.ofNat 64 va) s)

/-- The stub copy goes on as far as it can. -/
def runBind (r : RingId) (i : Nat) (s : State) : State := repeatStep (stubStep r i) 0x40000 s

/-- BIND (R335, R336). -/
def execBind (o : RingForm) (s : State) : Result :=
  .next (startDesc o.ring (fun d => d.opcode == 0x09) (fun d s =>
    match d.binding with
    | none => s
    | some b =>
      if !bindFormat s b d then endJob o.ring d.index .rejectFormat s
      else if !bindFree s b d then endJob o.ring d.index .rejectState s
      else match probeStub b d s with
        | (true, s) => runBind o.ring d.index (claimAll b d s)
        | (false, s) => endJob o.ring d.index .rejectState s) s)

/-- A binding enters a state now (R329). -/
def enterBind (b : BindingId) (st : BindState) (s : State) : State :=
  s.modBnd b fun x => { x with state := st, stamp := s.time.count }

/-- BIND_FINISH (R336, R337): the copied stub makes the binding BOUND; an error sends it to its scrub with HW_ERROR. -/
def execBindFinish (o : DescForm) (s : State) : Result :=
  match jobState s o.ring o.index with
  | none => .next s
  | some (d, b) =>
    if d.opcode ≠ 0x09 then .next s
    else if d.job.err then .next (enterBind b .scrubbing (endJob o.ring o.index .hwError s))
    else if d.stubLen ≤ d.job.pos then .next (endJob o.ring o.index .ok (enterBind b .bound s))
    else .next s

/-! ## UNBIND (R338 to R343) -/

/-- The faults that an UNBIND ends without an answer, each once (R340). -/
def faultsEnded (x : Binding) : Nat :=
  let live := x.parks.filter fun p => decide (p.park.answer = .open)
  let noted (f : FaultRec) : Bool := live.any fun p => decide (p.park.seq = some f.seq)
  live.length + (x.xlat.coll.filter fun f => !noted f).length
    + (x.xlat.hold.length - (live.filter fun p => p.park.seq.isNone).length)

/-- A descriptor of any opcode ends with a status that it does not choose itself; for an UPDATE with a declined engine FAULT_UNRESOLVED goes
before ABORTED (R362). -/
def endAny (r : RingId) (i : Nat) (st : Status) (s : State) : State :=
  match s.desc r i with
  | none => s
  | some d => match d.opcode with
    | 0x01 => endLaunch r i st s
    | 0x05 => endUpdate r i (if st = .aborted ∧ d.job.engines.any EngineWork.failed then .faultUnresolved else st) s
    | _ => endJob r i st s

/-- The running descriptors of a binding but the UNBIND itself. -/
def runningOf (s : State) (b : BindingId) : List RingDesc :=
  s.allDescs.filter fun x => x.2.running && decide (x.2.binding = some b) && x.2.opcode != 0x0A

/-- Step 1 (R339, R340): parked engines and their descriptors end, cores stop, running LAUNCHes complete ABORTED. -/
def stopBinding (r : RingId) (i : Nat) (b : BindingId) (s : State) : State :=
  let x := s.bnd b
  let dropped := faultsEnded x
  let parked := x.parks.filterMap fun p => if p.park.answer = .open then p.who.descriptor else none
  let s := parked.foldl (fun s p => endAny p.1 p.2 .aborted s) s
  let s := (coresOf x.sections).foldl (fun s c => quiesceCore c s) s
  let s := (runningOf s b).foldl (fun s y => if y.2.opcode == 0x01 then endLaunch y.1 y.2.index .aborted s else s) s
  s.modBnd b fun x => { x with
    state := .quiescing
    stamp := s.time.count
    parks := []
    xlat := { x.xlat with coll := [], hold := [] }
    log := { x.log with arm := none }
    faultsDropped := satAdd 0 dropped
    aborted := 0
    unbind := some (r, i)
    cutDone := false
    cutCount := 0 }

/-- UNBIND (R338 to R340). -/
def execUnbind (o : RingForm) (s : State) : Result :=
  .next (startDesc o.ring (fun d => d.opcode == 0x0A) (fun d s =>
    match d.binding with
    | some b => stopBinding o.ring d.index b s
    | none => s) s)

/-- UNBIND_TIMEOUT (R339, R341): what still runs 800 µs after the start is cut, and its descriptors are counted. -/
def execUnbindTimeout (o : BindForm) (s : State) : Result :=
  let b := o.binding
  let x := s.bnd b
  if x.state ≠ .quiescing ∨ x.cutDone then .next s
  else
    let l := runningOf s b
    let s := l.foldl (fun s y => endAny y.1 y.2.index .aborted s) s
    let s := (coresOf x.sections).foldl (fun s c => if (s.core c).ctl.stopping then stopCore c s else s) s
    .next (s.modBnd b fun x => { x with
      cutDone := true, cutCount := l.length, aborted := satAdd 0 l.length, parks := [], xlat := { x.xlat with coll := [], hold := [] } })

/-- Forget a request. -/
def dropReq (id : Nat) (s : State) : State := { s with hub := { s.hub with reqs := s.hub.reqs.filter fun q => q.id != id } }

/-- HOST_RETIRE_TIMEOUT (R341): a host request unretired 50 µs after the cut retires as an error, code 0x0022, and the fill that made it
ends with it. -/
def execHostRetireTimeout (o : ReqForm) (s : State) : Result :=
  match s.hub.reqs.find? fun q => q.id == o.id with
  | some q => match q.binding with
    | some b =>
      if (s.bnd b).state = .quiescing ∧ (s.bnd b).cutDone ∧ paRegion q.pa = 1 ∧ q.data = none then
        let s₀ := s
        let s := match q.who with
          | .fill t line => s.modTile t fun x => { x with fills := x.fills.filter fun f => f.pa / 64 != line }
          | _ => s
        .next (sendWaiting s₀ (markErrBind (some b) (report 2 6 0x0022 0 (some b) (BitVec.ofNat 64 (paOffset q.pa)) [] (dropReq q.id s))))
      else .next s
    | none => .next s
  | none => .next s

/-- Remove what a walker holds of a binding. -/
def Walker.forget (b : BindingId) (w : Walker) : Walker where
  tlb := w.tlb.filter fun e => decide (e.binding ≠ b)
  cache := w.cache.filter fun e => decide (e.binding ≠ b)
  walks := w.walks.filter fun e => decide (e.binding ≠ b)

/-- A tile's L2 slices of a binding's sections, invalid and zero, with nothing written back; its walker forgets the binding
(R342). -/
def scrubTile (b : BindingId) (t : TileId) (s : State) : State :=
  let held (i : Nat) : Bool := (s.bnd b).sections.getLsbD (4 * t.toNat + i % 4)
  let lines := (s.tile t).sectors.entries.filterMap fun e => match e.2 with
    | some x => if held x.slice.toNat then some e.1 else none
    | none => none
  let s := lines.foldl (fun s n => l2Drop t n s) s
  s.modTile t fun q => { q with
    sets := q.sets.keep fun k => !held (k / 8192)
    fills := q.fills.filter fun f => decide (f.binding ≠ some b)
    fresh := q.fresh.filter fun n => (q.sector n.1).isSome
    walker := q.walker.forget b }

/-- Binding reset of every section (R342). -/
def scrubSections (b : BindingId) (s : State) : State :=
  let cores := coresOf (s.bnd b).sections
  let s := (indices 16).foldl (fun s t => scrubTile b (BitVec.ofNat 4 t) s) s
  let s := cores.foldl (fun s c => s.setCore c .reset) s
  { s with hub := { s.hub with
      walker := s.hub.walker.forget b
      reqs := s.hub.reqs.filter fun q => decide (q.binding ≠ some b) } }

/-- Step 4 (R343): the slots are retired and released; the binding is FREE. An UNBIND's finish also resets the translation registers
(R294) and clears the binding's ERR_BIND bit (R442). -/
def releaseBinding (b : BindingId) (s : State) : State :=
  let x := s.bnd b
  let s := x.keys.foldl (fun s k =>
    let s := retireKey k s
    s.setSlot k { s.slot k with owned := false, binding := 0 }) s
  let kept : Binding := { Binding.reset with
    stamp := s.time.count
    faultsDropped := x.faultsDropped
    aborted := x.aborted }
  if x.unbind.isSome then
    { s with err := { s.err with bind := s.err.bind &&& ~~~(BitVec.ofNat 64 (2 ^ b.toNat)) } }.setBnd b kept
  else s.setBnd b { kept with xlat := { x.xlat with coll := [], hold := [] } }

/-- Every descriptor of a binding has ended, its cores have stopped, and every request that its cores and engines have sent has retired
(R339, R341): a read or write that has left, a fill of an L2 slice, a merging-buffer entry that has begun to drain. -/
def quiet (s : State) (b : BindingId) : Bool :=
  (runningOf s b).isEmpty && !(s.hub.reqs.any fun q => decide (q.binding = some b) && q.data.isNone)
    && (coresOf (s.bnd b).sections).all (fun c => !(s.core c).ctl.stopping && !(s.core c).mem.mbuf.any MergeEntry.begun)
    && !(indices 16).any fun t => (s.tile (BitVec.ofNat 4 t)).fills.any fun f => decide (f.binding = some b)

/-- The substitutions of failed cores that wait for the sections now free (R451). -/
def substituteWaiting (sections : BitVec 64) (s : State) : State :=
  (coresOf sections).foldl (fun s c => substituteCore c s) s

/-- SCRUB (R341 to R343, R337): at the end of step 2 an UNBIND enters SCRUBBING; in SCRUBBING steps 3 and 4 release the binding, substitute
the failed cores of its sections (R451) and finish the UNBIND, or end a BIND that failed (notes/assumptions/23.md). -/
def execScrub (o : BindForm) (s : State) : Result :=
  let b := o.binding
  let x := s.bnd b
  if !computeOn s then .next s
  else match x.state with
  | .quiescing => if quiet s b then .next (enterBind b .scrubbing s) else .next s
  | .scrubbing =>
    let s := substituteWaiting x.sections (releaseBinding b (scrubSections b s))
    .next (match x.unbind with
      | some (r, i) => finishDesc r i .ok (bytesOfNat 4 x.cutCount) s
      | none => s)
  | _ => .next s

/-! ## REKEY (R344, R345) -/

/-- SLOT and RETIRE_ONLY of a REKEY. -/
def Desc.rekeySlot (d : Desc) : SlotId := BitVec.ofNat 8 (d.num 32 1)
def Desc.retireOnly (d : Desc) : Bool := d.raw.getLsbD (8 * 33)

/-- The slot is the binding's. -/
def holdsSlot (s : State) (d : Desc) : Bool := match d.binding with
  | some b => (s.bnd b).keys.contains d.rekeySlot
  | none => false

/-- The key that a record unwraps to (Table 12-8, R345). -/
def unwrapped (s : State) (rec_ : BitVec 640) : Option (BitVec 512) :=
  let n := rec_.toNat
  if bitsOf n 0 16 = 1 ∧ bitsOf n 16 16 = 0 ∧ bitsOf n 32 32 = s.mgmt.kekGen.toNat then
    match s.mgmt.kek with
    | some k => (keyUnwrap (bytesOf 32 k) (bytesOfNat 72 (n / 2 ^ 64))).map fun l => BitVec.ofNat 512 (natOfBytes l)
    | none => none
  else none

/-- Start a REKEY with RETIRE_ONLY = 0 at a ring's start point (R344, R345): the key record is read at KEY_PA, where the host returns
`record`, and its key installed. -/
def startRekey (r : RingId) (record : Option (BitVec 640)) (s : State) : State :=
  startDesc r (fun d => d.opcode == 0x0B && !d.retireOnly) (fun d s =>
    if !holdsSlot s d then endJob r d.index .rejectState s
    else
      let s := perfCount 0x32 0 d.binding 80 (emit (.hostRead s.hub.nextReq (BitVec.ofNat 64 (d.num 40 8)) 80) s)
      let s := { s with hub := { s.hub with nextReq := s.hub.nextReq + 1 } }
      match record.bind (unwrapped s) with
      | some k => endJob r d.index .ok (changeKey d.rekeySlot (.unwrapped k) 1 s)
      | none => endJob r d.index .rejectState s) s

/-- REKEY with RETIRE_ONLY = 0 (R344, R345). -/
def execRekey (o : RekeyForm) (s : State) : Result := .next (startRekey o.ring o.record s)

/-- REKEY with RETIRE_ONLY = 1 (R332, R345). -/
def execRetireOnly (o : RingForm) (s : State) : Result :=
  .next (startDesc o.ring (fun d => d.opcode == 0x0B && d.retireOnly) (fun d s =>
    if holdsSlot s d then endJob o.ring d.index .ok (retireKey d.rekeySlot s) else endJob o.ring d.index .rejectState s) s)

end Sys2Proof.Machine
end

