-- ==== Sys2Proof/Machine/Branch.lean ====
section
/-!
DEFINITION. Branches, jumps and hardware loops (R73, R74, R77, R79, R80; Table 03-9).
-/

namespace Sys2Proof.Machine

/-- The target of a displacement in words from pc, modulo 128 KiB (R73). -/
def wordTarget {w : Nat} (pc : BitVec 17) (disp : BitVec w) : BitVec 17 := pc + (disp.signExtend 17 <<< 2)

/-- The address of the instruction after pc, as a link value. -/
def linkOf (pc : BitVec 17) : Word := (pc + 4).setWidth 32

/-- A conditional branch, taken where `test` holds of g[ra] and g[rb]. -/
def branchIf (o : BForm) (test : Word → Word → Bool) (s : State) : Result :=
  issue o.core o.th none [o.ra, o.rb] [] []
    (fun s =>
      let th := s.thread o.core o.th
      if test (th.rg o.ra) (th.rg o.rb) then s.modThread o.core o.th (branchThread (wordTarget th.pc o.disp))
      else retire o.core o.th false s) s

/-- BEQ (R73). -/
def execBeq (o : BForm) (s : State) : Result := branchIf o (fun a b => a == b) s

/-- BNE (R73). -/
def execBne (o : BForm) (s : State) : Result := branchIf o (fun a b => a != b) s

/-- The target of a JALR: g[ra] + 4 · sext(fn). -/
def jalrTarget (o : JalrForm) (s : State) : Word := (s.thread o.core o.th).rg o.ra + (o.fn.signExtend 32 <<< 2)

/-- What makes a JALR illegal: a nonzero rb, or a target with a nonzero bit in [31:17] or [1:0] (R67, R74). -/
def jalrBad (o : JalrForm) (s : State) : Option Cause :=
  let t := jalrTarget o s
  if nonzero o.z then some (.sync 3 2 0)
  else if t.toNat / 2 ^ 17 ≠ 0 ∨ t.toNat % 4 ≠ 0 then some (.sync 3 6 (t.setWidth 64))
  else none

/-- JALR (R73, R74). -/
def execJalr (o : JalrForm) (s : State) : Result :=
  issueWith o.core o.th (jalrBad o s) none [o.ra] [] []
    (fun s =>
      let th := s.thread o.core o.th
      s.modThread o.core o.th fun q => branchThread ((jalrTarget o s).setWidth 17) (q.wg o.rd (linkOf th.pc))) s

/-- JAL (R73): the link goes to g31. -/
def execJal (o : JForm) (s : State) : Result :=
  issue o.core o.th none [] [] []
    (fun s => s.modThread o.core o.th fun q => branchThread (wordTarget q.pc o.disp) (q.wg 31 (linkOf q.pc))) s

/-! ## LOOP -/

/-- Loop k of a thread is active (R77). -/
def Thread.loopActive (th : Thread) (k : Nat) : Bool := th.lc.get 0 k != 0

/-- The condition of R80 that a LOOP meets, in the order listed there. -/
def loopFault (th : Thread) (lvl len : Nat) : Option (BitVec 8) :=
  let last := th.pc.toNat + 4 * len
  lowestSub [
    (decide (len < 2), 1),
    (lvl == 3, 2),
    (th.loopActive lvl, 3),
    ((indices 3).any fun k => decide (lvl < k) && th.loopActive k, 4),
    ((indices 3).any fun k => decide (k < lvl) && th.loopActive k && decide ((th.le.get 0 k).toNat < last), 5),
    (decide (0x1FFFC < last), 6)]

/-- A LOOP takes effect: with a count of zero its body is skipped, as though its last word had completed (R77). -/
def openLoop (lvl len : Nat) (count : Word) (th : Thread) : Thread :=
  let last := th.pc + BitVec.ofNat 17 (4 * len)
  let th := { th with
    lb := th.lb.set 0 lvl ((th.pc + 4).setWidth 32)
    le := th.le.set 0 lvl (last.setWidth 32)
    lc := th.lc.set 0 lvl count }
  if count = 0 then
    let (n, th) := loopNext th last
    { th.tick false with pc := n, stepOver := false }
  else retireThread false th

/-- LOOP (R77, R80). -/
def execLoop (o : LoopForm) (s : State) : Result :=
  issue o.core o.th (if nonzero o.z then some 2 else none) [o.ra] [] []
    (fun s =>
      let th := s.thread o.core o.th
      match loopFault th o.lvl.toNat o.len.toNat with
      | some sub => raise o.core o.th (.sync 15 sub 0) th.pc s
      | none => s.modThread o.core o.th (openLoop o.lvl.toNat o.len.toNat (th.rg o.ra))) s

end Sys2Proof.Machine
end

