-- ==== Sys2Proof/Machine/Bore.lean ====
section
/-!
DEFINITION. The panel grid and the Bore: positions (R12, R13), links and channels (R20, R410), routes (R21).
-/

namespace Sys2Proof.Machine

/-- A node of the Bore: a tile site 0-17, a Palvan stack 0-31, or one of the hub die's nodes H0 and H1. -/
inductive BoreNode where
  | site (n : Nat) | stack (n : Nat) | hub (n : Nat)
deriving DecidableEq, Repr

/-- A grid position: row y 0-5 and column x 0-8. -/
abbrev Place := Nat × Nat

/-- Column of home site n (R13). -/
def homeColumn (n : Nat) : Nat := if n % 8 < 4 then n % 8 else n % 8 + 1

/-- Row and column of a tile site (Table 01-1). -/
def sitePlace (site : BitVec 5) : Place :=
  let n := site.toNat
  if n = 16 then (1, 4) else if n = 17 then (4, 4) else (if n < 8 then 1 else 4, homeColumn n)

/-- Row and column of a stack: beside home site n lie stack 2n in the outer row and stack 2n + 1 in the inner one (R13). -/
def stackPlace (st : Nat) : Place :=
  (match decide (st < 16), st % 2 with
    | true, 0 => 0
    | true, _ => 2
    | false, 0 => 5
    | false, _ => 3, homeColumn (st / 2))

/-- The places of a node. -/
def BoreNode.place : BoreNode → Place
  | .site n => sitePlace (BitVec.ofNat 5 n)
  | .stack n => stackPlace n
  | .hub n => (2 + n, 4)

/-- Every node of the grid. -/
def boreNodes : List BoreNode :=
  ((indices 18).map .site) ++ ((indices 32).map .stack) ++ [.hub 0, .hub 1]

/-- The node at a position; (4, 0) and (4, 5) hold none (R12). -/
def nodeAt (p : Place) : Option BoreNode := boreNodes.find? fun n => n.place == p

/-- Bridge channels of the horizontal link from column x of a row to the next (Table 01-3). -/
def acrossChannels (y : Nat) : Nat := if y = 1 ∨ y = 4 then 4 else if y = 2 ∨ y = 3 then 1 else 0

/-- Channels of the vertical link from row y of a column to the next (Table 01-3); in column 4 that from row 2 is H0 to H1. -/
def downChannels (x y : Nat) : Nat :=
  if x = 4 then (if y = 1 ∨ y = 2 ∨ y = 3 then 2 else 0) else if y = 1 ∨ y = 3 then 2 else 1

/-- Those of them that are bridge channels: H0 to H1 lies inside the hub die (R410). -/
def bridgesDown (x y : Nat) : Nat := if x = 4 ∧ y = 2 then 0 else downChannels x y

/-- The ends of the 140 bridge channels, in their order: horizontal links by row and then by x, then vertical links by column and then by
y (R410). -/
def boreChannels : List (Place × Place) :=
  ((indices 6).flatMap fun y => (indices 8).flatMap fun x => List.replicate (acrossChannels y) ((y, x), (y, x + 1)))
    ++ (indices 9).flatMap fun x => (indices 5).flatMap fun y => List.replicate (bridgesDown x y) ((y, x), (y + 1, x))

/-- The tile site at a position. -/
def siteAt (p : Place) : Option Byte := match nodeAt p with
  | some (.site n) => some (BitVec.ofNat 8 n)
  | _ => none

/-- The site at one end of a channel, 0xFF where both ends are hub die or stack nodes (Table 17-3, code 0x0032). The manual does not say which
end of two sites: `second` does. -/
def channelSite (ch : Nat) (second : Bool) : Byte := match boreChannels[ch]? with
  | some (a, b) => match siteAt a, siteAt b with
    | some m, some n => if second then n else m
    | some m, none => m
    | none, some n => n
    | none, none => 0xFF
  | none => 0xFF

/-- The positions from one to another in a row or column, the first left out. -/
def stretch (a b : Nat) : List Nat := if a ≤ b then (indices (b - a)).map fun i => a + 1 + i else (indices (a - b)).map fun i => a - 1 - i

/-- The route of a request, hop by hop: along the requester's row to the destination column, then along that column (R21). -/
def requestRoute (a b : Place) : List Place :=
  ((stretch a.2 b.2).map fun x => (a.1, x)) ++ (stretch a.1 b.1).map fun y => (y, b.2)

/-- The hub die's node that a node of row y is served by: H0 for rows 0-2, H1 for rows 3-5 (R21). -/
def hubNode (y : Nat) : BoreNode := .hub (if y < 3 then 0 else 1)

/-- The route of a response: that of its request in reverse (R21). -/
def responseRoute (a b : Place) : List Place := (a :: requestRoute a b).reverse.drop 1

end Sys2Proof.Machine
end

