-- ==== Sys2Proof/Machine/Time.lean ====
section
/-!
DEFINITION. Beat time: qualification, discipline states, corrections and jumps, breath registers (R29 to R43, R491). The breath
itself opens in Breath.lean.
-/

namespace Sys2Proof.Machine

/-- Ticks of a second (R29). -/
def second : Nat := 16000000000

/-- Change the time block. -/
def State.modTime (s : State) (f : TimeState → TimeState) : State := { s with time := f s.time }

/-- Enter HOLDOVER: the bound in force is kept and grows from now; the counter runs on the panel timebase (R37). -/
def enterHoldover (s : State) : State :=
  s.modTime fun t => { t with disc := .holdover, bound := uncert s, holdSince := t.count, slewing := false }

/-- The sources that LOCKED needs are all present (Table 02-4). -/
def TimeState.allOk (t : TimeState) : Bool := t.ppsOk && t.tenOk && t.ptpOk

/-- The bound of a discipline state in ns (Table 02-4). -/
def boundOf (d : Discipline) : Nat := if d = .locked then 2 else 50

/-- The present sources give the discipline state: LOCKED needs all three; PTP needs PTP with BEAT_PPS or BEAT_10M absent, and from
HOLDOVER a bound that has grown to 50 ns (Table 02-4, R37). -/
def mayEnter (s : State) (d : Discipline) : Bool :=
  if d = .locked then s.time.allOk
  else s.time.ptpOk && !s.time.allOk && (decide (s.time.disc ≠ .holdover) || decide (50 ≤ uncert s))

/-- Enter LOCKED or PTP at its bound; the slew goes on (R38). A jump that waited is over (DESIGN CHOICE: JUMP_PEND stays 1 from
JUMP_ACCEPT to this point, notes/assumptions/45.md). -/
def enterDisciplined (d : Discipline) (s : State) : State :=
  s.modTime fun t => { t with
    disc := d
    bound := boundOf d
    slewing := true
    jumpPend := false
    jumpOk := false }

/-- The state's bound in ticks of 62.5 ps: a difference below it enters the state (R38). -/
def boundTicks (d : Discipline) : Nat := 16 * boundOf d

/-- What is left of the goal when a source is lost: with PTP lost none, with BEAT_PPS or BEAT_10M lost at most PTP (R37, R491). -/
def TimeState.lowerGoal (ptp : Bool) (t : TimeState) : TimeState :=
  if ptp then { t with goal := none, diff := none, slewing := false }
  else if t.goal = some .locked then
    { t with goal := some .ptp, slewing := t.slewing && (decide (t.disc ≠ .holdover) || (t.jumpOk && !t.jumpDir)) }
  else t

/-- A lost source ends LOCKED; the loss of PTP also ends PTP (R37). -/
def sourceLost (ptp : Bool) (s : State) : State :=
  let s := if s.time.disc = .locked ∨ (ptp ∧ s.time.disc = .ptp) then (enterHoldover s).modTime fun t => { t with lost := true } else s
  s.modTime (TimeState.lowerGoal ptp)

/-- BEAT_PPS_EDGE (R491): three consecutive edges in time qualify BEAT_PPS. -/
def execBeatPpsEdge (o : QualForm) (s : State) : Result :=
  if !hostAlive s then .next s
  else
    let n := if o.inTime ∧ s.time.ppsEdges ≠ 0 then s.time.ppsEdges + 1 else 1
    .next (s.modTime fun t => { t with ppsEdges := n, ppsOk := t.ppsOk || decide (3 ≤ n) })

/-- PPS_LOSS (R37). -/
def execPpsLoss (s : State) : Result :=
  if !hostAlive s then .next s
  else .next ((sourceLost false s).modTime fun t => { t with ppsOk := false, ppsEdges := 0 })

/-- BEAT_10M_QUALIFY (R491). -/
def execBeat10mQualify (s : State) : Result :=
  if !hostAlive s then .next s else .next (s.modTime fun t => { t with tenOk := true })

/-- BEAT_10M_LOSS (R37). -/
def execBeat10mLoss (s : State) : Result :=
  if !hostAlive s then .next s else .next ((sourceLost false s).modTime fun t => { t with tenOk := false })

/-- PTP_MESSAGE (R491): two consecutive messages, the second in time, qualify PTP. -/
def execPtpMessage (o : QualForm) (s : State) : Result :=
  if !hostAlive s then .next s
  else
    let n := if o.inTime ∧ s.time.ptpMsgs ≠ 0 then s.time.ptpMsgs + 1 else 1
    .next (s.modTime fun t => { t with ptpMsgs := n, ptpOk := t.ptpOk || decide (2 ≤ n) })

/-- PTP_LOSS (R37). -/
def execPtpLoss (s : State) : Result :=
  if !hostAlive s then .next s
  else .next ((sourceLost true s).modTime fun t => { t with ptpOk := false, ptpMsgs := 0 })

/-- The descriptors of every ring with their ring numbers, for R41. -/
def missSkipped (s : State) : State :=
  s.allDescs.foldl (fun s x =>
    if x.2.started.isNone && !x.2.ended && deadlinePassed s x.2 then finishDesc x.1 x.2.index .deadlineMissed [] s else s) s

/-- A forward step of the counter (R41): not-befores inside the span make their descriptors eligible, deadlines inside it are
missed, breaths inside it do not open. One whose not-before is the count that the step reaches waits for the breath that opens there (R47).
The counter never decreases (R31). -/
def stepForward (target : Nat) (s : State) : State :=
  let c := BitVec.ofNat 64 (max s.time.count.toNat (min target (2 ^ 64 - 1)))
  let s := s.modTime fun t => { t with count := c }
  let waits := breathing s && breathDue s
  let s := { s with rings := s.rings.mapListed .reset fun _ q => { q with descs := q.descs.map fun d =>
      { d with eligible := d.eligible || decide (d.notBefore < c.toNat) || (d.notBefore == c.toNat && !waits) } } }
  missSkipped s

/-- A difference above 1 µs waits for acceptance in HOLDOVER, and an event is logged (R40). -/
def jumpPending (diff : Int) (s : State) : State :=
  let s := if s.time.disc = .holdover then s else enterHoldover s
  logEvent 2 1 (Config.eventCode 1) []
    (s.modTime fun t => { t with jumpPend := true, jumpDir := decide (0 < diff), jumpOk := false, slewing := false })

/-- The counter goes toward the source: a difference below the bound of the state that the sources give enters that state at once, one of
at most 1 µs is slewed, and a larger one waits for acceptance (R38, R40). -/
def approach (d : Discipline) (diff : Int) (s : State) : State :=
  if diff.natAbs < boundTicks d ∧ mayEnter s d then enterDisciplined d s
  else if diff.natAbs ≤ 16000 then s.modTime fun t => { t with slewing := true }
  else jumpPending diff s

/-- The forward step of the counter to the source at a second edge (R39, R40): where the source is no longer ahead the counter stays (R31).
What difference is left after it is dealt with as any other. -/
def stepToSource (target : Int) (d : Discipline) (s : State) : State :=
  let s := stepForward target.toNat s
  let left := target - s.time.count.toNat
  approach d left (s.modTime fun t => { t with diff := some left, jumpPend := false, jumpOk := false })

/-- The source time at a second edge: the named second's count plus DELAY (R35), plus what the counter's edge is late. DESIGN CHOICE: DELAY
is added after PTP time alone too (notes/assumptions/45.md). -/
def sourceTime (t : TimeState) (o : CrossingForm) : Int :=
  ((o.second.toNat : Int) - t.epoch.toNat) * second + t.skew.toInt + o.lateTicks.toNat

/-- TIME_CROSSING (R39, R40, R35, R491): the edge measures the difference and settles the state that the qualified sources give; first
acquisition, return from HOLDOVER, the accepted jump, or a later difference is dealt with. In FREE only the first such edge steps unaccepted;
an accepted backward jump slews again where the loss of PTP had stopped it. -/
def execTimeCrossing (o : CrossingForm) (s : State) : Result :=
  let t := s.time
  let target := sourceTime t o
  let diff := target - t.count.toNat
  let d : Discipline := if t.allOk then .locked else .ptp
  if !hostAlive s ∨ t.expired ∨ !t.ptpOk then .next s
  else
    let m := s.modTime fun t => { t with diff := some diff, goal := some d, acquired := true }
    match t.disc with
    | .unset => .next s
    | .free => if 0 < diff ∧ !t.acquired then .next (stepToSource target d m) else .next (approach d diff m)
    | .holdover =>
      if t.jumpPend then
        if !t.jumpOk then .next m
        else if t.jumpDir then .next (stepToSource target d m)
        else .next (m.modTime fun t => { t with slewing := true })
      else if d = .locked ∨ 50 ≤ uncert s then .next (approach d diff m)
      else .next m
    | _ => .next (if d = t.disc ∧ diff.natAbs ≤ 16000 then m.modTime fun t => { t with slewing := true } else approach d diff m)

/-- A write of 1 to JUMP_ACCEPT (R40): the pending jump is accepted, a backward one slews from now on; without one it has no effect. -/
def acceptJump (s : State) : State :=
  if s.time.jumpPend then s.modTime fun t => { t with jumpOk := true, slewing := !t.jumpDir } else s

/-- JUMP_ACCEPT (R40, R473). -/
def execJumpAccept (s : State) : Result := if bar0Open s then .next (acceptJump s) else .next s

/-- SLEW_LOCK (R38): the slewed difference lies below the bound of the state that the sources give, and the state is entered. -/
def execSlewLock (s : State) : Result :=
  match s.time.diff, s.time.goal with
  | some diff, some d =>
    if hostAlive s ∧ s.time.slewing ∧ diff.natAbs < boundTicks d ∧ mayEnter s d then .next (enterDisciplined d s) else .next s
  | _, _ => .next s

/-- HOLDOVER_TO_PTP (R37): with PTP current and BEAT_PPS or BEAT_10M not, the bound has grown to 50 ns; the counter goes toward the PTP time
as the last second edge measured it, and PTP is entered where the difference lies below its bound (R38, R40). -/
def execHoldoverToPtp (s : State) : Result :=
  match s.time.diff, s.time.goal with
  | some diff, some .ptp =>
    if hostAlive s ∧ s.time.disc = .holdover ∧ !s.time.jumpPend ∧ mayEnter s .ptp then .next (approach .ptp diff s) else .next s
  | _, _ => .next s

/-- COUNTER_EXPIRED (R31). -/
def execCounterExpired (s : State) : Result :=
  if s.time.count = BitVec.allOnes 64 then .next (s.modTime fun t => { t with expired := true }) else .next s

/-- The accepted values of BREATH_PERIOD and BREATH_LEN (R43). -/
def acceptedPeriod (t : TimeState) : BitVec 14 := t.periodPend.getD t.period

def acceptedLen (t : TimeState) : BitVec 8 := t.lenPend.getD t.len

/-- A write to BREATH_PERIOD (R43). -/
def writePeriod (v : Word) (s : State) : State :=
  let p := bitsOf v.toNat 0 14
  if 250 ≤ p ∧ p ≤ 16000 ∧ (acceptedLen s.time).toNat * 2 ≤ p then
    s.modTime fun t => { t with periodPend := some (BitVec.ofNat 14 p), acceptedAt := t.count }
  else s.modTime fun t => { t with cfgRej := true }

/-- A write to BREATH_LEN (R43). -/
def writeLen (v : Word) (s : State) : State :=
  let n := bitsOf v.toNat 0 8
  if 5 ≤ n ∧ n ≤ 200 ∧ n * 2 ≤ (acceptedPeriod s.time).toNat then
    s.modTime fun t => { t with lenPend := some (BitVec.ofNat 8 n), acceptedAt := t.count }
  else s.modTime fun t => { t with cfgRej := true }

/-- BREATH_PERIOD (R43, R473). -/
def execBreathPeriod (o : WriteForm) (s : State) : Result := if bar0Open s then .next (writePeriod o.val s) else .next s

/-- BREATH_LEN (R43, R473). -/
def execBreathLen (o : WriteForm) (s : State) : Result := if bar0Open s then .next (writeLen o.val s) else .next s

/-- The first second boundary at least 1 ms after a beat time (R43). -/
def changeAt (acceptedAt : Nat) : Nat := (acceptedAt + 16000000 + second - 1) / second * second

/-- BREATH_SCHEDULE_CHANGE (R43): accepted values take effect together; a breath open meanwhile keeps its length. -/
def execBreathScheduleChange (s : State) : Result :=
  let t := s.time
  if hostAlive s ∧ (t.periodPend.isSome ∨ t.lenPend.isSome) ∧ changeAt t.acceptedAt.toNat ≤ t.count.toNat then
    .next (s.modTime fun t => { t with
      period := acceptedPeriod t
      len := acceptedLen t
      periodPend := none
      lenPend := none })
  else .next s

/-- BREATH_NEXT: the opening of the next breath under the schedule in force, the present count where the breath of this count has not
opened yet (R42, R43). -/
def breathNext (s : State) : Nat :=
  let p := s.time.period.toNat * 16000
  if breathDue s then s.time.count.toNat else (s.time.count.toNat / p + 1) * p

end Sys2Proof.Machine
end

