-- ==== Sys2Proof/Machine/Power.lean ====
section
/-!
DEFINITION. The 48 V input, activity credits, throttle levels and the power registers (R396 to R409, R419). The switch-offs of R396
stand in Life.lean.
-/

namespace Sys2Proof.Machine

/-- Change the power block. -/
def State.modPower (s : State) (f : PowerState → PowerState) : State := { s with power := f s.power }

/-- Record the measured input, in 10 mV. -/
def setInput (v : BitVec 16) (s : State) : State := s.modMgmt fun m => { m with input := v }

/-! ## Input voltage (R396, R397, R464) -/

/-- What under-voltage and over-voltage share: NMI bit 0, level 7, DRAINING with the CAUSE bit; RISING and SELFTEST hold their
sequence, which starts again at firmware verification (R464). -/
def inputAlarm (cause : BitVec 8) (s : State) : State :=
  let s := s.modPower fun p => { p with hold7 := true }
  let s := if s.mod.state = .rising ∨ s.mod.state = .selftest then s.modMod fun m => { m with
    held := true, reverify := m.reverify || decide (m.state = .selftest) } else s
  toDraining cause (assertNmi 1 s)

/-- UNDER_VOLTAGE (R397): input below 40 V for 50 µs. -/
def execUnderVoltage (o : VoltForm) (s : State) : Result :=
  if s.mod.state = .off ∨ 4000 ≤ o.vin.toNat then .next s
  else .next (inputAlarm 0x02 ((setInput o.vin s).modPower fun p => { p with uv := true, uvSeen := true }))

/-- OVER_VOLTAGE (R397): input above 60 V for 50 µs. -/
def execOverVoltage (o : VoltForm) (s : State) : Result :=
  if s.mod.state = .off ∨ o.vin.toNat ≤ 6000 then .next s
  else .next (inputAlarm 0x04 ((setInput o.vin s).modPower fun p => { p with ov := true, ovSeen := true }))

/-- The input lies within 40-60 V. -/
def inRange (v : BitVec 16) : Bool := decide (4000 ≤ v.toNat ∧ v.toNat ≤ 6000)

/-- VOLTAGE_RECOVERY (R397): the input has stayed within 40-60 V for 1 s, and UV and OV clear. -/
def execVoltageRecovery (o : VoltForm) (s : State) : Result :=
  if s.mod.state = .off || !inRange o.vin then .next s
  else .next ((setInput o.vin s).modPower fun p => { p with
    uv := false, ov := false, hold7 := false, clearAt := if p.uv || p.ov then s.time.count else p.clearAt })

/-- UV or OV holds the start-up sequence: until both have been clear for 1 s (R464). -/
def startHeld (s : State) : Bool :=
  s.mod.held && (s.power.uv || s.power.ov || decide ((s.time.count - s.power.clearAt).toNat < second))

/-! ## Activity credits (R398 to R402) -/

/-- A logical tile occupies a site: a pending one as long as its sections are bound, which run on there (R28, R452). -/
def tileActive (s : State) (t : TileId) : Bool := hasSite s t || ((s.tile t).pend && !(s.tile t).retired && !tileFree s t)

/-- The logical tiles that are active. -/
def activeTiles (s : State) : List TileId := ((indices 16).map (BitVec.ofNat 4)).filter (tileActive s)

/-- A core has a delivering instruction started or queued. -/
def Core.delivering (k : Core) : Bool :=
  k.mat.queue.any (fun i => i.op.delivers) || k.mat.started.any fun r => r.i.op.delivers

/-- A tile's request, 16 or 0 (R398). -/
def tileRequest (s : State) (t : TileId) : BitVec 5 := if (tileCores t).any fun c => (s.core c).delivering then 16 else 0

/-- REQUEST_SAMPLE (R398): 16,000 ticks before an interval opens, every active tile's request is sampled and crosses as telemetry, whose heartbeat it carries (R417). -/
def execRequestSample (s : State) : Result :=
  if !computeOn s || decide (s.time.count.toNat % 32000 ≠ 16000) then .next s
  else
    let s := (activeTiles s).foldl (fun s t => s.modTile t fun x => { x with req := tileRequest s t }) s
    .next (s.modMod fun m => { m with heartbeatLost := false })

/-- Grant cap of a level (Table 15-2). -/
def grantCap (level : Nat) : Nat := 16 - 2 * level

/-- Clock cap of a level in MHz (Table 15-2). -/
def clockCap (level : Nat) : Nat := if level ≤ 1 then 1800 else 1900 - 100 * level

/-- A tile's level (R405): the highest of its contributions, 7 under R397. -/
def tileLevel (s : State) (t : TileId) : Nat :=
  let x := s.tile t
  if s.power.hold7 then 7 else max x.thermal.toNat (max x.neighbour.toNat s.power.contrib.toNat)

/-- The budget B for n active tiles under a limit in W (R402): (1,450 + Σ (60 + 16.875 · g)) × 7,600 / 6,730 ≤ limit, in eighths of
a watt. -/
def budget (n limit : Nat) : Nat := (limit * 53840 / 7600 - 11600 - 480 * n) / 135

/-- One round of R401's loop: a step to each tile that wants one, in order, while the budget lasts. Tiles are (number, want, grant);
the last number served is kept. -/
def grantRound : List (Nat × Nat × Nat) → (avail : Nat) → (last : Option Nat) → List (Nat × Nat × Nat) × Nat × Option Nat
  | [], avail, last => ([], avail, last)
  | (t, want, g) :: r, avail, last =>
    if g < want ∧ 0 < avail then
      let x := grantRound r (avail - 1) (some t)
      ((t, want, g + 1) :: x.1, x.2)
    else
      let x := grantRound r avail last
      ((t, want, g) :: x.1, x.2)

/-- The loop of R401: a grant is at most 16, so 16 rounds deal every step. -/
def grantLoop : Nat → List (Nat × Nat × Nat) → Nat → Option Nat → List (Nat × Nat × Nat) × Option Nat
  | 0, l, _, last => (l, last)
  | n + 1, l, avail, last =>
    let x := grantRound l avail last
    grantLoop n x.1 x.2.1 x.2.2

/-- The active tiles in ascending order from `ptr`, wrapping. -/
def tilesFrom (s : State) (ptr : BitVec 4) : List TileId :=
  ((indices 16).map fun i => ptr + BitVec.ofNat 4 i).filter (tileActive s)

/-- The effective limit in W (R402). -/
def effectiveLimit (s : State) : Nat := min s.power.limitNow.toNat s.power.oplimNow.toNat

/-- The input power measured at the last opening, in mW (R402, R409). -/
def measuredPower (s : State) : Nat := s.power.vin.toNat * s.power.iin.toNat

/-- The grants of the next interval and the rotated ptr (R401). -/
def grantsOf (s : State) : List (Nat × Nat × Nat) × BitVec 4 :=
  let order := tilesFrom s s.power.ptr
  let want (t : TileId) := min (s.tile t).req.toNat (min ((s.tile t).grant.toNat + 2) (grantCap (tileLevel s t)))
  let b := budget order.length (effectiveLimit s)
  let x := grantLoop 16 (order.map fun t => (t.toNat, want t, 0)) b none
  let next (t : Nat) : BitVec 4 := (tilesFrom s (BitVec.ofNat 4 t + 1)).headD 0
  (x.1, if x.1.any fun e => decide (e.2.2 < e.2.1) then (match x.2 with
    | some t => next t
    | none => s.power.ptr) else s.power.ptr)

/-- The limits written at least 4 µs before the opening at `now` come into force (R402). -/
def settleLimit (now : DWord) (cur : BitVec 13) (l : List (Nat × DWord)) : BitVec 13 × List (Nat × DWord) :=
  let old := l.filter fun e => decide (64000 ≤ (now - e.2).toNat)
  let new := l.filter fun e => !decide (64000 ≤ (now - e.2).toNat)
  (match old.getLast? with
    | some e => BitVec.ofNat 13 e.1
    | none => cur, new)

/-- THROTTLE_MESSAGE (R398, R417): the Bellows computes the next interval's grants and levels, and they cross. The measured input of
the message is the Bellows' own. A new limit applies from the next interval that opens at least 4 µs after its write (R402). -/
def execThrottleMessage (o : IntervalForm) (s : State) : Result :=
  if !computeOn s then .next s
  else
    let s := setInput o.vin s
    let opens : DWord := BitVec.ofNat 64 ((s.time.count.toNat / 32000 + 1) * 32000)
    let (dl, dp) := settleLimit opens s.power.limitNow s.power.limitPend
    let (ol, op) := settleLimit opens s.power.oplimNow s.power.oplimPend
    let s := s.modPower fun p => { p with limitNow := dl, limitPend := dp, oplimNow := ol, oplimPend := op }
    let (l, ptr) := grantsOf s
    let entry (t : Nat) : Nat := match l.find? fun e => e.1 == t with
      | some e => e.2.2 + 32 * tileLevel s (BitVec.ofNat 4 t)
      | none => 32 * tileLevel s (BitVec.ofNat 4 t)
    .next (s.modPower fun p => { p with ptr := ptr, message := some ((indices 16).map entry), silent := false })

/-! ## Regions (R403, R406, R407) -/

/-- Two active tiles are neighbours: horizontally adjacent sites in row 1 or row 4 (R407). -/
def neighbours (s : State) (a b : TileId) : Bool :=
  let x := sitePlace (siteOf s a)
  let y := sitePlace (siteOf s b)
  tileActive s a && tileActive s b && x.1 == y.1 && (x.2 + 1 == y.2 || y.2 + 1 == x.2)

/-- The voltage a tile chooses, 550-800 mV in steps of 5 (R406). -/
def ownVoltage (t : TileId) (level : Nat) : Nat := 550 + 5 * (Config.voltageChoice t.toNat level % 51)

/-- The highest clock of a voltage, 1,200-1,800 MHz in steps of 25, under the level's cap (R403, R406). -/
def ownClock (voltage level : Nat) : Nat := min (1200 + 25 * (Config.clockOfVoltage voltage % 25)) (clockCap level)

/-- The voltage of a tile: raised where a neighbour's choice exceeds it by more than 150 mV (R407). -/
def tileVoltage (s : State) (t : TileId) : Nat :=
  (activeTiles s).foldl (fun v u =>
    if neighbours s t u then max v (ownVoltage u (s.tile u).level.toNat - 150) else v) (ownVoltage t (s.tile t).level.toNat)

/-- A tile's level takes effect: a change pends the throttle notice on its threads (R405, R102). -/
def applyLevel (t : TileId) (level : BitVec 3) (s : State) : State :=
  if (s.tile t).level = level then s
  else
    let s := s.modTile t fun x => { x with level := level }
    { s with cores := s.cores.mapListed .reset fun c k =>
        if c / 32 = t.toNat then k.pendAll 21 (fun th => { th with thrPend := some level }) else k }

/-- BELLOWS_INTERVAL (R398, R401, R405, R409): an interval opens at a multiple of 32,000 ticks; grants and levels that crossed take effect, and the measured
fields are updated. -/
def execBellowsInterval (o : IntervalForm) (s : State) : Result :=
  if !computeOn s || decide (s.time.count.toNat % 32000 ≠ 0) then .next s
  else
    let s := (setInput o.vin s).modPower fun p => { p with vin := o.vin, iin := o.iin }
    let s := o.temps.foldl (fun s m => s.modTile m.tile fun x => { x with temp := m.temp }) s
    let s := match s.power.message with
      | some msg => (activeTiles s).foldl (fun s (t : TileId) =>
          let e := msg.getD t.toNat 0
          applyLevel t (BitVec.ofNat 3 (e / 32)) (s.modTile t fun x => { x with grant := BitVec.ofNat 5 (e % 32) })) s
      | none => s
    let s := s.modPower fun p => { p with message := none }
    .next ((activeTiles s).foldl (fun s t => s.modTile t fun x => { x with
      vdd := BitVec.ofNat 10 (tileVoltage s t)
      clk := BitVec.ofNat 11 (ownClock (ownVoltage t x.level.toNat) (if s.power.silent then 7 else x.level.toNat)) }) s)

/-- THROTTLE_SILENCE (R419): three intervals without a throttle message; every tile applies grant 2 and the clock cap of level 7
until messages return. -/
def execThrottleSilence (s : State) : Result :=
  if !computeOn s then .next s
  else
    let s := s.modPower fun p => { p with silent := true }
    .next ((activeTiles s).foldl (fun s t => s.modTile t fun x => { x with
      grant := 2, clk := BitVec.ofNat 11 (ownClock (ownVoltage t x.level.toNat) 7) }) s)

/-! ## Contributions (R402, R404, R407) -/

/-- One up, at most 7. -/
def up (v : BitVec 3) : BitVec 3 := if v = 7 then 7 else v + 1

/-- One down, at least 0. -/
def down (v : BitVec 3) : BitVec 3 := if v = 0 then 0 else v - 1

/-- POWER_OVER (R402): over the limit by more than 5 % for 50 intervals. -/
def execPowerOver (s : State) : Result :=
  if computeOn s && decide (1050 * effectiveLimit s < measuredPower s) then
    .next (s.modPower fun p => { p with overLim := true, contrib := up p.contrib })
  else .next s

/-- POWER_RELIEF (R402): below 95 % of the limit. -/
def execPowerRelief (s : State) : Result :=
  if computeOn s && decide (measuredPower s < 950 * effectiveLimit s) then .next (s.modPower fun p => { p with contrib := down p.contrib })
  else .next s

/-- THERMAL_RISE (R404): at or above 100 °C. -/
def execThermalRise (o : TileSel) (s : State) : Result :=
  if computeOn s && decide (100 ≤ (s.tile o.tile).temp.toNat) then .next (s.modTile o.tile fun x => { x with thermal := up x.thermal })
  else .next s

/-- THERMAL_FALL (R404): at or below 95 °C. -/
def execThermalFall (o : TileSel) (s : State) : Result :=
  if computeOn s && decide ((s.tile o.tile).temp.toNat ≤ 95) then .next (s.modTile o.tile fun x => { x with thermal := down x.thermal })
  else .next s

/-- By how much a tile exceeds another, in K; 0 where it does not. -/
def excess (s : State) (hot cool : TileId) : Nat := (s.tile hot).temp.toNat - (s.tile cool).temp.toNat

/-- NEIGHBOUR_RISE (R407): over 20 K, or over 15 K while the contribution is nonzero. -/
def execNeighbourRise (o : NeighbourForm) (s : State) : Result :=
  let x := s.tile o.hot
  if computeOn s && neighbours s o.hot o.cool
      && (decide (20 < excess s o.hot o.cool) || (decide (15 < excess s o.hot o.cool) && decide (x.neighbour ≠ 0))) then
    .next (s.setTile o.hot { x with neighbour := up x.neighbour })
  else .next s

/-- NEIGHBOUR_FALL (R407): 15 K or less. -/
def execNeighbourFall (o : NeighbourForm) (s : State) : Result :=
  if computeOn s && neighbours s o.hot o.cool && decide (excess s o.hot o.cool ≤ 15) then
    .next (s.modTile o.hot fun x => { x with neighbour := down x.neighbour })
  else .next s

/-! ## Registers (R409) -/

/-- A write to PWR_LIMIT: 1,000-7,600 W; the new limit applies 4 µs later (R402, R409). -/
def writePwrLimit (v : Word) (s : State) : State :=
  let l := bitsOf v.toNat 0 13
  if 1000 ≤ l ∧ l ≤ 7600 then
    s.modPower fun p => { p with limit := BitVec.ofNat 13 l, limitPend := p.limitPend ++ [(l, s.time.count)] }
  else s.modPower fun p => { p with cfgRej := true }

/-- PWR_LIMIT (R409, R473). -/
def execPwrLimit (o : WriteForm) (s : State) : Result :=
  if bar0Open s then .next (writePwrLimit o.val s) else .next s

/-- PWR_OPLIM (R409): the operator's limit, set through the controller. -/
def execPwrOplim (o : WriteForm) (s : State) : Result :=
  if controllerUp s && counterRuns s then
    .next (s.modPower fun p => { p with
      oplim := BitVec.ofNat 13 o.val.toNat
      oplimPend := p.oplimPend ++ [(bitsOf o.val.toNat 0 13, s.time.count)] })
  else .next s

end Sys2Proof.Machine
end

