-- ==== Sys2Proof/Machine/Errors.lean ====
section
/-!
DEFINITION. The error ring and its registers (R445 to R447, R493).
-/

namespace Sys2Proof.Machine

/-- Change the error summary block. -/
def State.modErr (s : State) (f : ErrState → ErrState) : State := { s with err := f s.err }

/-- Free entries of the error ring (R446). -/
def ErrState.room (e : ErrState) : Nat := 2 ^ e.size.toNat - (e.tail - e.head).toNat

/-- The 60 bytes of a record below its PHASE word (Table 17-2). -/
def recordBytes (r : ErrRec) : List Byte :=
  bytesOf 8 r.stamp ++ bytesOf 4 r.seq ++ [r.cls.setWidth 8, r.unitKind] ++ bytesOf 2 r.code ++ bytesOf 2 r.unit
    ++ bytesOf 2 r.binding ++ bytesOf 4 r.count ++ bytesOf 8 r.addr ++ bytesOf 8 r.first
    ++ (r.detail ++ List.replicate 20 0).take 20

/-- Host address of entry n of the error ring (R446). -/
def ErrState.entry (e : ErrState) (n : Nat) : DWord := BitVec.ofNat 64 (e.base.toNat * 4096 + 64 * (n % 2 ^ e.size.toNat))

/-- Write a record to the next entry: ERR_TAIL advances and the vector is sent (R446). -/
def writeRecord (r : ErrRec) (s : State) : State :=
  let n := s.err.tail.toNat
  let s := hostWrite none (s.err.entry n) (clean (recordBytes r ++ phaseWord n s.err.size.toNat)) s
  sendMsix s.err.msix (s.modErr fun e => { e with tail := e.tail + 1 })

/-- Remove the newest corrected record of the hold buffer; none where it holds none. -/
def dropNewestCorrected : List ErrRec → Option (List ErrRec)
  | [] => none
  | r :: l => match dropNewestCorrected l with
    | some l' => some (r :: l')
    | none => if r.cls = 0 then some l else none

/-- A record waits in the hold buffer of 256, or is dropped (R446). -/
def holdRecord (r : ErrRec) (e : ErrState) : ErrState :=
  let e := { e with ovf := true }
  if e.hold.length < 256 then { e with hold := e.hold ++ [r] }
  else if r.cls = 0 then { e with ceDrop := satAdd e.ceDrop 1 }
  else match dropNewestCorrected e.hold with
    | some l => { e with hold := l ++ [r], ceDrop := satAdd e.ceDrop 1 }
    | none => { e with ucDrop := satAdd e.ucDrop 1 }

/-- ERROR_RECORD_WRITE (R446): the oldest record goes to the ring where it is enabled and has room; otherwise a newly formed one
goes to the hold buffer. -/
def execErrorRecordWrite (s : State) : Result :=
  let ready := s.err.en && decide (0 < s.err.room) && hostAlive s
  match s.err.hold, s.err.formed with
  | h :: hs, [] => if ready then .next (writeRecord h (s.modErr fun e => { e with hold := hs })) else .next s
  | h :: hs, f :: fs =>
    if ready then .next (writeRecord h (s.modErr fun e => { e with hold := hs }))
    else .next (s.modErr fun e => holdRecord f { e with formed := fs })
  | [], f :: fs =>
    if ready then .next (writeRecord f (s.modErr fun e => { e with formed := fs }))
    else .next (s.modErr fun e => holdRecord f { e with formed := fs })
  | [], [] => .next s

/-- ERROR_RING_WR_ERR (R446, R493): the ring disables itself, the record waits in the hold buffer, and code 0x0023 is reported. -/
def execErrorRingWrErr (s : State) : Result :=
  if s.err.en && decide (0 < s.err.room) && hostAlive s && !(s.err.hold.isEmpty && s.err.formed.isEmpty) then
    let addr := s.err.entry s.err.tail.toNat
    let s := s.modErr fun e =>
      let e := { e with wrErr := true, en := false }
      match e.hold, e.formed with
      | [], f :: fs => holdRecord f { e with formed := fs }
      | _, _ => e
    .next (report 2 6 0x0023 0 none addr [3, 0, 0, 0] s)
  else .next s

/-- CE_MERGE_WINDOW (R445): a window that has been open for 1 ms ends and its record is formed. -/
def execCeMergeWindow (o : IndexForm) (s : State) : Result :=
  match s.err.windows[o.idx]? with
  | some w =>
    if 16000000 ≤ (s.time.count - w.first).toNat then
      .next (formRecord w (s.modErr fun e => { e with windows := e.windows.eraseIdx o.idx }))
    else .next s
  | none => .next s

/-- A write to ERR_CFG (R447, R305). -/
def writeErrCfg (v : Word) (s : State) : State :=
  let en := v.getLsbD 31
  let msix := BitVec.ofNat 11 (bitsOf v.toNat 16 11)
  let size := BitVec.ofNat 5 (bitsOf v.toNat 0 5)
  s.modErr fun e =>
    if e.en then (if en then { e with cfgRej := true } else { e with en := false, msix := msix, size := size })
    else if en then
      (if 6 ≤ size.toNat ∧ size.toNat ≤ 16 then { e with en := true, msix := msix, size := size, head := 0, tail := 0 }
      else { e with cfgRej := true })
    else { e with msix := msix, size := size }

/-- ERR_CFG (R447, R473). -/
def execErrCfg (o : WriteForm) (s : State) : Result :=
  if bar0Open s then .next (writeErrCfg o.val s) else .next s

/-- A write to ERR_HEAD (R447, R305). -/
def writeErrHead (h : Word) (s : State) : State :=
  s.modErr fun e => if (h - e.head).toNat ≤ (e.tail - e.head).toNat then { e with head := h } else { e with headRej := true }

/-- ERR_HEAD (R447); writable in FAULTED too (R473). -/
def execErrHead (o : WriteForm) (s : State) : Result :=
  if barsAnswer s then .next (writeErrHead o.val s) else .next s

end Sys2Proof.Machine
end

