-- ==== Sys2Proof/Machine/Kick.lean ====
section
/-!
DEFINITION. What goes on when something awaited arrives: walks, fills, host reads, merging buffers, L2 operations, and the stacks' own
events (R94, R249, R253, R260, R261, R266, R269, R272, R281, R479).
-/

namespace Sys2Proof.Machine

/-! ## Going on -/

/-- A running descriptor's engine goes on as far as it can. -/
def runJobAlone (r : RingId) (i : Nat) (s : State) : State :=
  match s.desc r i with
  | none => s
  | some d =>
    if !d.running then s
    else match d.opcode with
      | 0x01 => runLaunch r i s
      | 0x02 => runMove r i s
      | 0x03 => runFill r i s
      | 0x04 => runCollect r i s
      | 0x05 => runUpdate r i s
      | 0x06 => runDrain r i s
      | 0x07 => runLogmark r i s
      | 0x09 => runBind r i s
      | 0x0D => runRestore r i s
      | _ => s

/-- The log record of a running descriptor of a binding is still to be written. -/
def logWaits (s : State) (b : BindingId) (d : Desc) : Bool :=
  d.running && decide (d.binding = some b) && match d.job.log with
    | some l => !l.written && !l.performed && !olderLog s b l.ticket
    | none => false

/-- The oldest log record of a binding that is still to be written goes on: whether it has been written. -/
def logTurn (b : BindingId) (s : State) : Bool × State :=
  match s.allDescs.find? fun x => logWaits s b x.2 with
  | none => (false, s)
  | some x =>
    let s := runJobAlone x.1 x.2.index s
    (match s.desc x.1 x.2.index with
    | some d => !logWaits s b d
    | none => true, s)

/-- The log records of a binding go on, in the order of n (R366). -/
def runLogs (b : Option BindingId) (s : State) : State :=
  match b with
  | some b => repeatStep (logTurn b) (s.allDescs.length + 1) s
  | none => s

/-- The work of a descriptor goes on, and the log records that waited for its own. -/
def runJob (r : RingId) (i : Nat) (s : State) : State :=
  match s.desc r i with
  | none => s
  | some d =>
    let s := runJobAlone r i s
    if d.job.log.isSome then runLogs d.binding s else s

/-- Every running descriptor's engines go on. -/
def runJobs (s : State) : State := s.allDescs.foldl (fun s x => runJob x.1 x.2.index s) s

/-- The running UPDATEs go on. -/
def runUpdates (s : State) : State := s.allDescs.foldl (fun s x => if x.2.opcode == 0x05 then runJob x.1 x.2.index s else s) s

/-- LAUNCH_FINISH (R317, R240, R318): once every launched core has finished, the histogram and the final completion follow. A finished
core's merging buffer drains as a FENCE.G would drain it. The log records that waited for the LAUNCH's go on (R366). -/
def execLaunchFinish (o : DescForm) (s : State) : Result :=
  match jobState s o.ring o.index with
  | none => .next s
  | some (d, b) =>
    let logs (s : State) : State := if d.job.log.isSome then runLogs (some b) s else s
    if d.opcode ≠ 0x01 then .next s
    else if d.job.phase ≠ 1 then .next (logs (runLaunch o.ring o.index s))
    else
      let s := (d.underLaunch s o.ring).foldl (fun s c =>
        if (s.core c).ctl.finished then s.modCore c Core.drainAll else s) s
      let s := runLaunchLog o.ring o.index s
      if (d.underLaunch s o.ring).all (coreOver s) && (logDone s o.ring o.index || jobErr s o.ring o.index) then
        .next (logs (runHistogram o.ring o.index (s.modJob o.ring o.index fun j => { j with phase := 2 })))
      else .next (logs s)

/-- What a maker of requests does when one of them has retired or its walk has ended. Queues go on at their own commands. -/
def kick (who : Who) (s : State) : State :=
  match who with
  | .writeback _ => s
  | .flush _ _ _ => s
  | .evict t line => match (s.tile t).fills.find? fun f => f.pa / 64 == line with
    | some f => runUpdates (sendFill t f s)
    | none => runUpdates s
  | .mbuf c => kickCore c (drainOldest c s)
  | .fill _ _ => s
  | _ => match who.descriptor, who.core with
    | some (r, i), _ => runJob r i s
    | none, some c => kickCore c s
    | none, none => s

/-! ## Walks and fills -/

/-- WALK (R272, R281): one of the up to 8 walks that a walker runs ends. -/
def execWalk (o : WalkForm) (s : State) : Result :=
  let l := if o.hub then s.hub.walker.walks else (s.tile o.tile).walker.walks
  match l[o.idx]? with
  | some w =>
    if 8 ≤ o.idx then .next s
    else
      let rest := l.eraseIdx o.idx
      let s := if o.hub then { s with hub := { s.hub with walker := { s.hub.walker with walks := rest } } }
        else s.modTile o.tile fun q => { q with walker := { q.walker with walks := rest } }
      .next (kick w.who (doWalk w s))
  | none => .next s

/-- The cores of a tile and the UPDATEs go on, now that a sector is here. -/
def kickTile (t : TileId) (s : State) : State := runUpdates ((tileCores t).foldl (fun s c => kickCore c s) s)

/-- A sector arrives: it is installed in the slice that asked for it, unless a write of it all has come meanwhile (R246, R253, R257), or its
line has lost its way: the access then asks again, since a fill is sent only after what it evicts (R254). -/
def installFill (t : TileId) (f : Fill) (l : List PByte) (s : State) : State :=
  if ((s.tile t).sector (f.pa / 64)).isSome || f.stale
      || (((s.tile t).sets.get .reset (setKey f.slice (f.pa / 256))).find (f.pa / 256)).isNone then s
  else l2Install t (f.pa / 64)
    { slice := f.slice
      data := lineOf (plain l)
      dirty := false
      psn := anyPsn l
      key := f.key
      sharers := 0
      binding := f.binding } s

/-- L2_FILL (R253, R254): a missing sector arrives from its target. -/
def execL2Fill (o : FillForm) (s : State) : Result :=
  match (s.tile o.tile).fills[o.idx]? with
  | none => .next s
  | some f =>
    match fillArrived o.tile f s with
    | (none, s) => .next s
    | (some l, s) =>
      let s := installFill o.tile f l (dropReturned (.fill o.tile (f.pa / 64)) s)
      let s := f.users.foldl (fun s u => keepOld u.1 u.2 s) s
      let s := s.modTile o.tile fun q => { q with
        fills := q.fills.filter (fun g => g.pa != f.pa)
        fresh := q.fresh ++ f.waits.map fun w => (f.pa / 64, w) }
      .next (kickTile o.tile s)

/-- HOST_READ_COMPLETION (R94): the bytes of a read of host memory reach the core or engine that asked for them. -/
def execHostReadCompletion (o : HostDataForm) (s : State) : Result :=
  match (sentReads s).find? fun q => q.id == o.id with
  | some q =>
    if q.who = .nobody then .next (sendWaiting s (dropReq q.id s))
    else
      let l := clean ((o.bytes ++ List.replicate q.len 0).take q.len)
      .next (sendWaiting s (kick q.who { s with hub := { s.hub with
        reqs := s.hub.reqs.map fun x => if x.id = q.id then { x with data := some l } else x } }))
  | none => .next s

/-! ## Merging buffer and range operations -/

/-- MERGE_DRAIN (R249): the oldest entry, if it must drain, is performed at its target. -/
def execMergeDrain (o : CoreForm) (s : State) : Result := .next (kickCore o.core (drainOldest o.core s))

/-- MERGE_IDLE_TIMEOUT (R249): 64 cycles without a store entering; every entry must drain. -/
def execMergeIdleTimeout (o : CoreForm) (s : State) : Result := .next (s.modCore o.core Core.drainAll)

/-- L2WB (R261). -/
def execL2wb (o : CoreForm) (s : State) : Result := .next (startRangeOp o.core 1 s)

/-- L2INV (R261). -/
def execL2inv (o : CoreForm) (s : State) : Result := .next (startRangeOp o.core 2 s)

/-- L2WB then L2INV (R261). -/
def execL2wbL2inv (o : CoreForm) (s : State) : Result := .next (startRangeOp o.core 3 s)

/-- L2_OP_COMPLETE (R261): BUSY clears once every write-back that the operation sent has been performed. -/
def execL2OpComplete (o : CoreForm) (s : State) : Result :=
  if (s.core o.core).mem.win.busy && !outstanding s (.writeback o.core) then
    .next (kickCore o.core (s.modCore o.core fun k => { k with mem := { k.mem with win := { k.mem.win with busy := false } } }))
  else .next s

/-! ## The stacks -/

/-- A read of a unit corrects up to 4 symbols of it, or poisons it where it is uncorrectable and not yet poisoned; `scrub` for the patrol scrub, which
works for no binding (R266). -/
def readFinds (stack : BitVec 5) (unit : BitVec 31) (b : Option BindingId) (scrub : Bool) (found : ScrubFinding) (s : State) :
    State :=
  let a := stack.toNat * 2 ^ 37 + unit.toNat * 64
  let pa := localPa s (offsetOf s a)
  if s.stk.psn.get false (a / 64) then s
  else match found with
    | .clean => s
    | .corrected n =>
      if n = 0 then s
      else if n.toNat ≤ 4 then report 0 2 0x0002 (stack.setWidth 16) b pa [n.setWidth 8] s
      else poisonUnit a pa b scrub s
    | .uncorrectable => poisonUnit a pa b scrub s

/-- PATROL_SCRUB (R266). -/
def execPatrolScrub (o : ScrubForm) (s : State) : Result :=
  if computeOn s then .next (readFinds o.stack o.unit none true o.found s) else .next s

/-- The stack admits up to `n` requests of a source, and its queue takes what the node holds. -/
def StackPort.admitSectors (src n : Nat) (p : StackPort) : StackPort :=
  let all := p.queued.get 0 src + p.atNode.get 0 src - n
  { p with queued := p.queued.set 0 src (min all 256), atNode := p.atNode.set 0 src (all - 256) }

/-- The next waiting source after `owner`, in order of number and wrapping (R269). -/
def StackPort.next (p : StackPort) : Nat :=
  (((indices 17).map fun i => (p.owner.toNat + 1 + i) % 17).find? p.waits).getD 0

/-- A source beyond the 17 of R268: a tile, or 16 for the hub. -/
def admissionBad (o : AdmissionForm) : Bool := o.arrived.any fun x => decide (17 ≤ x.1.toNat)

/-- ADMISSION_SLOT (R268, R269): requests reach the stack, and it admits some. With one source waiting there are no slots; else the
slot's owner has them, and the slot passes on after 2,048 sectors or when the owner has nothing waiting. Without power on the Bore no request
reaches a stack (R23). -/
def execAdmissionSlot (o : AdmissionForm) (s : State) : Result :=
  if admissionBad o then .fault .noSuchUnit
  else if !computeOn s then .next s
  else
  let p := o.arrived.foldl (fun p x => p.arrive x.1.toNat x.2) (s.stk.ports.get .reset o.stack.toNat)
  let put (p : StackPort) : State := { s with stk := { s.stk with ports := s.stk.ports.set .reset o.stack.toNat p } }
  match p.sources with
  | [] => .next (put { p with admitted := 0 })
  | [x] => .next (put { p.admitSectors x o.admitted with admitted := 0 })
  | _ =>
    let n := min o.admitted (min (2048 - p.admitted) (p.queued.get 0 p.owner.toNat + p.atNode.get 0 p.owner.toNat))
    let p : StackPort := { p.admitSectors p.owner.toNat n with admitted := p.admitted + n }
    if p.admitted < 2048 ∧ p.waits p.owner.toNat then .next (put p)
    else .next (perfCount 0x12 o.stack.toNat none 1 (put { p with owner := BitVec.ofNat 5 p.next, admitted := 0 }))

end Sys2Proof.Machine
end

