-- ==== Sys2Proof/Machine/Xsync.lean ====
section
/-!
DEFINITION. XSYNC: invalidation, write-back, retirement, and the driver's answers to faults (R117, R182, R284 to R286, R292, R293).
-/

namespace Sys2Proof.Machine

/-! ## Fields (Table 10-5, Table 11-13) -/

def Desc.xInv (d : Desc) : Bool := d.raw.getLsbD (8 * 32)
def Desc.xAll (d : Desc) : Bool := d.raw.getLsbD (8 * 32 + 1)
def Desc.xFlush (d : Desc) : Bool := d.raw.getLsbD (8 * 32 + 2)
def Desc.xResume (d : Desc) : Bool := d.raw.getLsbD (8 * 32 + 3)
def Desc.xDecline (d : Desc) : Bool := d.raw.getLsbD (8 * 32 + 4)

/-- The range's first byte and length. -/
def Desc.xVa (d : Desc) : Nat := d.num 40 8
def Desc.xLen (d : Desc) : Nat := 4096 * d.num 36 4

/-- Whether an XSYNC withdraws the translation of a leaf. -/
def Desc.drops (d : Desc) (l : Leaf) : Bool := d.xAll || l.meets d.xVa (d.xVa + d.xLen)

/-- The counts of an XSYNC: resumed, declined, not found, written back. -/
def addCount (r : RingId) (i : Nat) (n k : Nat) (s : State) : State :=
  s.modJob r i fun j => { j with counts := (indices 4).map fun m => j.counts.getD m 0 + if m = n then k else 0 }

/-! ## Step 1 (R285) -/

/-- A walker drops the range's entries; a walk-cache entry's span is that of its level (R278). -/
def Walker.drop (d : Desc) (b : BindingId) (w : Walker) : Walker :=
  let spans (e : WalkEntry) : Bool :=
    let n := levelSize e.level.toNat
    d.xAll || (decide (e.prefixBits * n < d.xVa + d.xLen) && decide (d.xVa < (e.prefixBits + 1) * n))
  { w with
    tlb := w.tlb.filter fun e => !(decide (e.binding = b) && d.drops e.leaf)
    cache := w.cache.filter fun e => !(decide (e.binding = b) && spans e) }

/-- A translation that an XSYNC withdraws while it is in use. -/
def Desc.ages (d : Desc) (l : Leaf) : Leaf := if d.drops l then { l with old := true } else l

/-- The engines of a descriptor drop the translations of the range; requests under way keep theirs (R286). -/
def forgetLeaves (d : Desc) (b : BindingId) (s : State) : State :=
  s.allDescs.foldl (fun s x =>
    if x.2.running && decide (x.2.binding = some b) then
      let keep (xl : List Leaf) : List Leaf := xl.filter fun l => !d.drops l || l.old
      s.modJob x.1 x.2.index fun j => { j with
        xl := keep j.xl
        log := j.log.map fun l => { l with xl := keep l.xl }
        engines := j.engines.map fun e => { e with xl := keep e.xl } }
    else s) s

/-- A core drops the range's TLB entries; what its stores and its probed instructions hold stays until they have done (R126, R286). -/
def Core.withdraw (d : Desc) (b : BindingId) (k : Core) : Core :=
  { k with
    mem := { k.mem with
      tlb := k.mem.tlb.filter fun e => !(decide (e.binding = b) && d.drops e.leaf)
      mbuf := k.mem.mbuf.map fun e => { e with leaves := e.leaves.map d.ages } }
    vec := { k.vec with started := k.vec.started.map fun r => { r with xl := r.xl.map d.ages } }
    mat := { k.mat with started := k.mat.started.map fun r => { r with xl := r.xl.map d.ages } } }

/-- A tile drops the range's entries; a sector being filled keeps the translation that asked for it. -/
def Tile.withdraw (d : Desc) (b : BindingId) (q : Tile) : Tile :=
  { q with
    walker := q.walker.drop d b
    fills := q.fills.map fun f => if f.binding = some b then { f with users := f.users.map fun u => (u.1, d.ages u.2) } else f }

/-- INV: every TLB and walk cache drops the binding's entries of the range. -/
def dropRange (d : Desc) (b : BindingId) (s : State) : State :=
  let s := (coresOf (s.bnd b).sections).foldl (fun s c => s.modCore c (Core.withdraw d b)) s
  let s := (indices 16).foldl (fun s t => s.modTile (BitVec.ofNat 4 t) (Tile.withdraw d b)) s
  forgetLeaves d b { s with hub := { s.hub with
    walker := s.hub.walker.drop d b
    reqs := s.hub.reqs.map fun q => if q.binding = some b then { q with leaf := q.leaf.map d.ages } else q } }

/-- The phase that follows retirement: 3 while a DECLINE is to be done, 4 while a RESUME is; without either the XSYNC completes. -/
def afterRetirement (r : RingId) (d : Desc) (s : State) : State :=
  if d.xDecline then s.modJob r d.index fun j => { j with phase := 3 }
  else if d.xResume then s.modJob r d.index fun j => { j with phase := 4 }
  else endJob r d.index .ok s

/-- INV (R284, R285): an XSYNC starts; its first step drops the range's translations. -/
def execInv (o : RingForm) (s : State) : Result :=
  .next (startDesc o.ring (fun d => d.opcode == 0x08) (fun d s =>
    match d.binding with
    | none => s
    | some b =>
      let s := addCount o.ring d.index 0 0 s
      if d.xInv then
        (dropRange d b s).modJob o.ring d.index fun j => { j with phase := if d.xFlush then 1 else 2 }
      else afterRetirement o.ring d s) s)

/-- The first running XSYNC of a ring that has reached a phase. -/
def xsyncAt (s : State) (r : RingId) (phase : Nat) : Option (Desc × BindingId) :=
  match (s.ring r).descs.find? fun d => d.running && d.opcode == 0x08 && d.job.phase == phase with
  | some d => match d.binding with
    | some b => some (d, b)
    | none => none
  | none => none

/-! ## Step 2 -/

/-- L2F (R285): the slices of the binding's sections write back and invalidate the sectors of the old frame. -/
def execL2f (o : RingForm) (s : State) : Result :=
  match xsyncAt s o.ring 1 with
  | none => .next s
  | some (d, b) =>
    let old := d.num 48 8
    let hit (line : Nat) : Bool := d.xAll || (decide (old < 64 * line + 64) && decide (64 * line < old + d.xLen))
    let (n, s) := (indices 16).foldl (fun (a : Nat × State) t =>
      let tile := BitVec.ofNat 4 t
      let lines := (a.2.tile tile).sectors.entries.filterMap fun e => match e.2 with
        | some x => if hit e.1 && (s.bnd b).sections.getLsbD (4 * t + x.slice.toNat) then some (e.1, x.dirty) else none
        | none => none
      lines.foldl (fun (a : Nat × State) l => (a.1 + bit l.2, sectorOp 3 (.flush o.ring d.index tile) tile l.1 a.2)) a) (0, s)
    .next ((addCount o.ring d.index 3 n s).modJob o.ring d.index fun j => { j with phase := 2 })

/-! ## Step 3 (R286) -/

/-- Some engine of the binding still holds a translation that the XSYNC dropped, a request that used one has not retired, or a write-back
of its L2F has not. -/
def holdsDropped (s : State) (b : BindingId) (r : RingId) (d : Desc) : Bool :=
  let held (l : List Leaf) : Bool := l.any fun x => x.old && d.drops x
  (s.hub.reqs.any fun q => decide (q.binding = some b) && q.data.isNone && held q.leaf.toList)
    || (s.hub.reqs.any fun q => match q.who with
      | .flush x i _ => decide (x = r ∧ i = d.index)
      | _ => false)
    || ((coresOf (s.bnd b).sections).any fun c =>
      let k := s.core c
      held k.mem.held || (k.mem.mbuf.any fun e => held e.leaves) || (k.vec.started.any fun r => held r.xl)
        || k.mat.started.any fun r => held r.xl)
    || ((indices 16).any fun t => (s.tile (BitVec.ofNat 4 t)).fills.any fun f =>
      decide (f.binding = some b) && held (f.users.map Prod.snd))
    || s.allDescs.any fun x => x.2.running && decide (x.2.binding = some b)
      && (held x.2.job.xl || held ((x.2.job.log.map LogRec.xl).getD []) || x.2.job.engines.any fun e => held e.xl)

/-- XSYNC_RETIREMENT (R285, R286). -/
def execXsyncRetirement (o : RingForm) (s : State) : Result :=
  match xsyncAt s o.ring 2 with
  | none => .next s
  | some (d, b) =>
    if holdsDropped s b o.ring d then .next s else .next (afterRetirement o.ring d s)

/-! ## Step 4 (R292, R293) -/

/-- The engines of a binding parked on a sequence number that the driver has not answered. A stalled engine parks once its record has
been written, so not while the collector holds it (R292). -/
def parkedOn (s : State) (b : BindingId) (n : Word) : List Parked :=
  (s.bnd b).parks.filter fun p => decide (p.park.seq = some n) && decide (p.park.answer = .open)
    && !(p.park.stalled && (s.bnd b).xlat.coll.any fun f => decide (f.seq = n))

/-- Record the driver's answer to a park. -/
def answerPark (b : BindingId) (p : Parked) (a : Answer) (s : State) : State :=
  s.modBnd b fun x => { x with parks := x.parks.map fun q => if q = p then { q with park := { q.park with answer := a } } else q }

/-- The resume notice of h0 (R102): its number is the payload. -/
def noteResume (c : CoreId) (n : Word) (s : State) : State :=
  s.modThread c 0 fun th => if th.run && th.eien.getLsbD 19 then { th with rsmPend := some n } else th

/-- A parked engine goes on (Table 10-8); a park that an NMI has set aside keeps the answer for its return, and its notice pends now
(R117). -/
def resumePark (b : BindingId) (n : Word) (p : Parked) (s : State) : State :=
  if p.park.aside then
    let s := answerPark b p .resumed s
    match p.who with
    | .scalar c => noteResume c n s
    | _ => s
  else
    let s := unpark b p.who s
    match p.who with
    | .scalar c => resumeScalar c (noteResume c n s)
    | .vector c => noteResume c n s
    | .matrix c => noteResume c n s
    | .job r i => runJob r i (s.modJob r i fun j => { j with xl := [] })
    | .record r i => runJob r i (modRec r i (fun l => { l with xl := [] }) s)
    | .update r i t => runJob r i (modHeld r i t (fun _ => []) s)
    | _ => s

/-- A declined fault of a queue's head is raised on h0 (Table 10-8, R182). -/
def declineHead (c : CoreId) (matrix : Bool) (p : Park) (s : State) : State :=
  let k := s.core c
  let vec : BitVec 5 := if p.write then 6 else 5
  if matrix then
    match k.mat.started, k.mat.queue with
    | h :: _, _ => raiseM c h vec 5 p.va s
    | [], i :: q => s.modCore c fun k => (k.setM q [MRun.fresh i]).addQCause ⟨true, vec, 5, p.va, true, i.pc⟩
    | [], [] => s
  else
    match k.vec.started, k.vec.queue with
    | h :: _, _ => raiseV c h vec 5 p.va s
    | [], i :: q => s.modCore c fun k => (k.setV q [VRun.fresh i]).addQCause ⟨false, vec, 5, p.va, true, i.pc⟩
    | [], [] => s

/-- A LAUNCH whose fault is declined: its copy, so that no core starts, or its histogram (R240, R316). -/
def declineLaunch (r : RingId) (i : Nat) (s : State) : State :=
  runLaunch r i (releaseEngine r i (s.modJob r i fun j => { j with declined := true, phase := if j.phase = 0 then 4 else 3 }))

/-- A log record beside a LAUNCH whose fault is declined is not written; its cores run regardless (R368). -/
def declineRecord (r : RingId) (i : Nat) (n : Word) (s : State) : State :=
  let s := s.modJob r i fun j => { j with
    seq := n, declined := true, log := j.log.map fun l => { l with performed := true, xl := [] } }
  runJob r i (releaseRecord r i s)

/-- A declined descriptor completes FAULT_UNRESOLVED with the fault's SEQ (Table 10-8). -/
def declineJob (r : RingId) (i : Nat) (n : Word) (s : State) : State :=
  let s := s.modJob r i fun j => { j with seq := n, xl := [] }
  match s.desc r i with
  | none => s
  | some d =>
    let s := if d.opcode = 0x01 then declineLaunch r i s else endJob r i .faultUnresolved s
    if d.job.log.isSome then runLogs d.binding s else s

/-- A declined update engine does no more; while the table is read the UPDATE completes with no layer updated (R360, R362). -/
def declineUpdate (r : RingId) (i : Nat) (t : TileId) (n : Word) (s : State) : State :=
  let s := modHeld r i t (fun _ => []) (s.modJob r i fun j => { j with seq := n })
  match s.desc r i with
  | none => s
  | some d => if d.job.phase = 0 then endUpdate r i .faultUnresolved s else modEngine r i t (fun e => { e with failed := true }) s

/-- A parked engine's fault is declined (Table 10-8). -/
def declinePark (b : BindingId) (n : Word) (p : Parked) (s : State) : State :=
  if p.park.aside then answerPark b p .declined s
  else match p.who with
    | .scalar c => retryScalar c (answerPark b p .declined s)
    | .vector c => declineHead c false p.park (unpark b p.who s)
    | .matrix c => declineHead c true p.park (unpark b p.who s)
    | .job r i => declineJob r i n (unpark b p.who s)
    | .record r i => declineRecord r i n (unpark b p.who s)
    | .update r i t => declineUpdate r i t n (unpark b p.who s)
    | _ => s

/-- Act on the `m` numbers from `n` on: every engine parked on one is answered and counted in place `k`, a number without one in
place 2 (R293). -/
def answerRange (r : RingId) (i : Nat) (b : BindingId) (k : Nat) (act : Word → Parked → State → State) (n m : Nat) (s : State) :
    State :=
  (indices m).foldl (fun s j =>
    let seq := BitVec.ofNat 32 (n + j)
    match parkedOn s b seq with
    | [] => addCount r i 2 1 s
    | l => addCount r i k l.length (l.foldl (fun s p => act seq p s) s)) s

/-- DECLINE (R285, R293). -/
def execDecline (o : RingForm) (s : State) : Result :=
  match xsyncAt s o.ring 3 with
  | none => .next s
  | some (d, b) =>
    let s := answerRange o.ring d.index b 1 (declinePark b) (d.num 64 4) (d.num 68 2) s
    if d.xResume then .next (s.modJob o.ring d.index fun j => { j with phase := 4 }) else .next (endJob o.ring d.index .ok s)

/-- RESUME (R285, R293). -/
def execResume (o : RingForm) (s : State) : Result :=
  match xsyncAt s o.ring 4 with
  | none => .next s
  | some (d, b) =>
    let s := answerRange o.ring d.index b 0 (resumePark b) (d.num 56 4) (d.num 60 2) s
    .next (endJob o.ring d.index .ok s)

end Sys2Proof.Machine
end

