-- ==== Sys2Proof/Machine/Links.lean ====
section
/-!
DEFINITION. The Sutrum links: ports and lanes, link packets and replay, routing and the route hold, the home of remote requests
(R375 to R389, R393, R413).
-/

namespace Sys2Proof.Machine

/-! ## Requests that retire -/

/-- The request of this module that a response from `m` with a transfer id answers. -/
def requestOf (s : State) (m : ModuleId) (tid : BitVec 16) (write : Bool) : Option Req :=
  s.hub.reqs.find? fun q => decide (paRegion q.pa = 0 ∧ paModule q.pa = m ∧ q.tid = tid ∧ q.write = write ∧ q.data = none)

/-- A read's bytes are here, or are forgotten where its descriptor has ended meanwhile or its maker has abandoned it. -/
def deliverRead (q : Req) (l : List PByte) (s : State) : State :=
  let gone := match q.who.descriptor with
    | some (r, i) => (match s.desc r i with
      | some d => d.ended
      | none => true)
    | none => decide (q.who = Who.nobody)
  if gone then dropReq q.id s
  else kick q.who { s with hub := { s.hub with reqs := s.hub.reqs.map fun x => if x.id = q.id then { x with data := some l } else x } }

/-- A remote request retires as an error: a read with zero bytes marked poisoned and its record, a write as though performed; a
descriptor's request ends its descriptor HW_ERROR (R386). -/
def retireError (q : Req) (s : State) : State :=
  if q.write then kick q.who (engineError q.who q.binding q.pa (loseBytes q.who q.len (dropReq q.id s)))
  else
    deliverRead q (List.replicate q.len (0, true)) (engineError q.who q.binding q.pa (linkReadError q.port q.binding q.pa s))

/-- The request that a packet of this module carries. -/
def carried (s : State) (p : Packet) : Option Req :=
  if p.src = s.mgmt.mid then
    match p.type with
    | .rd => requestOf s p.dst p.tid false
    | .wr => requestOf s p.dst p.tid true
    | .colOpen => requestOf s p.dst p.tid true
    | .colData => requestOf s p.dst p.tid true
    | _ => none
  else none

/-- Send a packet that waited: its request notes the port, or retires as an error where no port is UP. A forwarded request is
answered ERR_CPL then, a response discarded (R384). A request of this module that has retired or stopped meanwhile is sent no more (R386,
R393). -/
def sendAgain (p : Packet) (s : State) : State :=
  let q := carried s p
  if isRequest p.type && decide (p.src = s.mgmt.mid) && q.isNone then s
  else match routePort s p.dst p.addr.toNat with
  | some i =>
    let s := sendOn i p (q.bind Req.binding) s
    (match q with
    | some q => { s with hub := { s.hub with reqs := s.hub.reqs.map fun x => if x.id = q.id then { x with port := some i } else x } }
    | none => s)
  | none => match q with
    | some q => retireError q s
    | none => if isRequest p.type && decide (p.src ≠ s.mgmt.mid) then respond .errCpl p [] false s else s

/-! ## The route hold (R383) -/

/-- The requests sent toward held modules that no peer has acknowledged yet. -/
def sentUnder (s : State) (ids : List ModuleId) : List (ModuleId × BitVec 5 × BitVec 12) :=
  s.links.ports.entries.flatMap fun e => e.2.replay.filterMap fun p =>
    if ids.contains p.dst && isRequest p.type then some (p.dst, BitVec.ofNat 5 e.1, p.lseq) else none

/-- New requests toward modules are held from now on, with those that still wait for a slot. -/
def holdRoutes (ids : List ModuleId) (s : State) : State :=
  let new := ids.filter fun m => !s.links.holdIds.contains m
  let mine (x : Slot) : Bool := ids.contains x.pkt.dst && isRequest x.pkt.type
  let waits := s.links.ports.entries.flatMap fun e => (e.2.waiting.filter mine).map Slot.pkt
  { s with links := { s.links with
      holdIds := s.links.holdIds ++ new
      held := s.links.held ++ waits
      ports := s.links.ports.mapListed .reset fun _ q => { q with waiting := q.waiting.filter fun x => !mine x }
      oldSent := s.links.oldSent ++ (sentUnder s ids).filter fun x => !s.links.oldSent.contains x } }

/-- The modules whose route names a port. -/
def routedOver (s : State) (i : BitVec 5) : List ModuleId :=
  (s.links.routes.entries.filter fun e => e.2.v && e.2.ports.getLsbD i.toNat).map fun e => BitVec.ofNat 12 e.1

/-- A packet sent under the old set is still in its port's replay buffer. -/
def unacked (s : State) (x : ModuleId × BitVec 5 × BitVec 12) : Bool :=
  (s.port x.2.1).replay.any fun p => decide (p.lseq = x.2.2 ∧ p.dst = x.1)

/-- ROUTE_HOLD_RELEASE (R383): the modules with nothing unacknowledged of the old set take new requests; those held go first, in
order. -/
def execRouteHoldRelease (s : State) : Result :=
  let old := s.links.oldSent.filter (unacked s)
  let free := s.links.holdIds.filter fun m => !old.any fun x => decide (x.1 = m)
  let go := s.links.held.filter fun p => free.contains p.dst
  let s := { s with links := { s.links with
    holdIds := s.links.holdIds.filter fun m => !free.contains m
    oldSent := old
    held := s.links.held.filter fun p => !free.contains p.dst } }
  .next (runJobs (go.foldl (fun s p => sendAgain p s) s))

/-- A port leaves UP: new requests on its routes are held, and what its peer had not acknowledged goes again on the new set
(R383). -/
def leaveUp (i : BitVec 5) (st : PortState) (s : State) : State :=
  let p := s.port i
  let s := s.setPort i { p with
    state := st, replay := [], naks := none, asks := none, waiting := [], reqCredit := 0, rspCredit := 0, share := 0 }
  if p.state = .up then
    let ids := routedOver s i
    holdRoutes ids ((p.replay ++ p.waiting.map Slot.pkt).foldl (fun s x => sendAgain x s) s)
  else s

/-- ROUTE_DATA (R381, R383): the selected entry; a changed set is held. -/
def writeRouteData (v : Word) (s : State) : State :=
  let m := s.links.sel
  let new : Route := ⟨v.getLsbD 31, v.setWidth 18⟩
  if s.links.routes.get .reset m.toNat = new then s
  else
    let s := holdRoutes [m] s
    { s with links := { s.links with routes := s.links.routes.set .reset m.toNat new } }

/-- ROUTE_DATA (R381, R383, R473). -/
def execRouteData (o : WriteForm) (s : State) : Result := if bar0Open s then .next (writeRouteData o.val s) else .next s

/-! ## Ports and lanes (R377, R378) -/

/-- A data lane of a port fails: its traffic moves to lane 8, or the port enters FAILED where lane 8 already replaces one. -/
def failLane (i : BitVec 5) (lane : BitVec 4) (s : State) : State :=
  let s := revertStep 2 i.toNat s
  match s.spares.laneOf i with
  | none =>
    if lane = 8 then modLane 2 i.toNat 8 (fun x => { x with failed := true }) s
    else if laneOut s 2 i.toNat 8 then
      spareRecord 0x0041 4 4 (i.setWidth 16) (lane.setWidth 8) 0 0 (leaveUp i .failed s)
    else
      let s := (s.modPort i fun p => { p with failedLane := some lane }).modSpares fun m => { m with lanes := m.lanes ++ [(i, lane)] }
      refreshDegraded (spareRecord 0x0040 4 4 (i.setWidth 16) (lane.setWidth 8) 0 0 s)
  | some l =>
    if l = lane then s else spareRecord 0x0041 4 4 (i.setWidth 16) (lane.setWidth 8) 0 0 (leaveUp i .failed s)

/-- A port with a link of its own: 0 to 17 (R375). -/
def portBad (i : BitVec 5) : Bool := decide (18 ≤ i.toNat)

/-- LANE_FAILURE (R377, R413). -/
def execLaneFailure (o : LaneForm) (s : State) : Result :=
  if portBad o.port || decide (9 ≤ o.lane.toNat) then .fault .noSuchUnit
  else if computeOn s then .next (failLane o.port o.lane s)
  else .next s

/-- A training has ended: every one after the first counts in RETRAINS. -/
def Port.trainingEnds (p : Port) : Port :=
  { p with trained := true, retrains := if p.trained then satAdd p.retrains 1 else p.retrains }

/-- PORT_TRAINING_DONE (R378, R380, R383): the port enters UP with the peer it found and its failed lane on lane 8, link sequence numbers start
again, and each side grants the other its credits. -/
def execPortTrainingDone (o : TrainForm) (s : State) : Result :=
  if portBad o.port then .fault .noSuchUnit
  else
    let p := s.port o.port
    if p.state ≠ .training then .next s
    else
      let s := holdRoutes (routedOver s o.port) s
      let s := emit (.link o.port (BitVec.allOnes 12) none (Config.portCredits false) (Config.portCredits true)) s
      .next (s.setPort o.port { p.trainingEnds with
        state := .up
        peerMid := o.peer
        peerPort := o.peerPort
        failedLane := s.spares.laneOf o.port
        fails := 0
        txSeq := 0
        rxSeq := 0
        naks := none
        asks := none })

/-- TRAINING_FAILURE (R378): the third in a row sends the port to FAILED; else it trains again. -/
def execTrainingFailure (o : PortForm) (s : State) : Result :=
  if portBad o.port then .fault .noSuchUnit
  else
    let p := s.port o.port
    if p.state ≠ .training then .next s
    else
      let n := p.fails + 1
      .next (s.setPort o.port { p.trainingEnds with fails := n, state := if 3 ≤ n then .failed else .training })

/-- PEER_SIGNAL_LOSS (Table 14-1): no peer signal; the port is DOWN. -/
def execPeerSignalLoss (o : PortForm) (s : State) : Result :=
  if portBad o.port then .fault .noSuchUnit
  else match (s.port o.port).state with
    | .up => .next (leaveUp o.port .down s)
    | .training => .next (leaveUp o.port .down s)
    | _ => .next s

/-- What a port does when it comes into service: it trains from SELFTEST onward (Table 18-6), and stays in DOWN while the module has
no id (R437). -/
def portStart (s : State) : PortState :=
  match s.mod.state with
  | .selftest | .service | .serving | .draining => if s.mgmt.mid = 0xFFF then .down else .training
  | _ => .off

/-- PEER_SIGNAL_DETECT (R378): a DOWN port in service trains, if the module has an id (R437). -/
def execPeerSignalDetect (o : PortForm) (s : State) : Result :=
  if portBad o.port then .fault .noSuchUnit
  else if (s.port o.port).state = .down ∧ (s.port o.port).en then .next (s.modPort o.port fun p => { p with state := portStart s })
  else .next s

/-- A write to PORT_CTL: EN 0 takes the port out of service, EN from 0 to 1 trains it again (R378). -/
def writePortCtl (i : BitVec 5) (v : Word) (s : State) : State :=
  let p := s.port i
  let en := v.getLsbD 0
  if !en then leaveUp i .off (s.setPort i { p with en := false })
  else if p.en then s
  else s.setPort i { p with en := true, fails := 0, state := portStart s }

/-- PORT_CTL (R378, R473). -/
def execPortCtl (o : PortWrite) (s : State) : Result :=
  if portBad o.port then .fault .noSuchUnit
  else if bar0Open s then .next (writePortCtl o.port o.val s)
  else .next s

/-- PORT_ERR as it reads. -/
def Port.errWord (p : Port) : Nat := p.fecCorr.toNat * 2 ^ 32 + p.retries.toNat * 2 ^ 16 + p.retrains.toNat

/-- PORT_ERR (R378, R471): a read returns and clears the counters that lie in the bytes read. -/
def execPortErr (o : PortRead) (s : State) : Result :=
  if portBad o.port then .fault .noSuchUnit
  else if !barsAnswer s || !(o.low || o.high) then .next s
  else
    let p := s.port o.port
    let v := p.errWord
    let value := if o.low && o.high then v else if o.low then v % 2 ^ 32 else v / 2 ^ 32
    .next (emit (.bar0 (BitVec.ofNat 64 value)) (s.setPort o.port { p with
      fecCorr := if o.high then 0 else p.fecCorr
      retries := if o.low then 0 else p.retries
      retrains := if o.low then 0 else p.retrains }))

/-! ## Link packets (R380) -/

/-- The port retrains. -/
def retrain (i : BitVec 5) (s : State) : State := leaveUp i .training s

/-- One more of a kind of request for an LSEQ in a row. -/
def countSame (lseq : BitVec 12) (x : Option (BitVec 12 × Nat)) : BitVec 12 × Nat :=
  match x with
  | some (l, n) => if l = lseq then (l, n + 1) else (lseq, 1)
  | none => (lseq, 1)

/-- Ask the peer for an LSEQ again; the sixteenth time in a row the port retrains. -/
def askAgain (i : BitVec 5) (lseq : BitVec 12) (s : State) : State :=
  let p := s.port i
  let x := countSame lseq p.asks
  let s := emit (.link i (p.rxSeq - 1) (some lseq) 0 0) (s.setPort i { p with asks := some x })
  if 16 ≤ x.2 then retrain i s else s

/-- Packets not acknowledged by `ack`, which covers every packet up to it. -/
def afterAck (ack : BitVec 12) (l : List Packet) : List Packet :=
  if l.any fun p => decide (p.lseq = ack) then (l.dropWhile fun p => decide (p.lseq ≠ ack)).drop 1 else l

/-- What an intact packet brings to its port besides: an acknowledgement, corrected codewords, credits (R378, R380). -/
def linkNews (ack : BitVec 12) (fec requests responses : Nat) (p : Port) : Port :=
  let l := afterAck ack p.replay
  { p with
    replay := l
    naks := if l.length < p.replay.length then none else p.naks
    fecCorr := satAdd p.fecCorr fec
    reqCredit := p.reqCredit + requests
    rspCredit := p.rspCredit + responses }

/-- A port is above 1,000 corrections or replays in the second in hand (code 0x0004). -/
def Port.noisy (p : Port) : Bool := decide (1000 < p.secCorr) || decide (1000 < p.secReplays)

/-- Count corrections and replays in the second in hand, which begins at the first of them after the last has ended; a port that goes above
1,000 of either is reported once in that second (code 0x0004). -/
def countLink (i : BitVec 5) (corrections replays : Nat) (s : State) : State :=
  let p := s.port i
  let p := if second ≤ (s.time.count - p.secStart).toNat then { p with secStart := s.time.count, secCorr := 0, secReplays := 0 } else p
  let q := { p with secCorr := p.secCorr + corrections, secReplays := p.secReplays + replays }
  let s := s.setPort i q
  if !p.noisy && q.noisy then
    report 0 4 0x0004 (i.setWidth 16) none 0 (bytesOfNat 4 q.secCorr ++ bytesOfNat 4 q.secReplays) s
  else s

/-- Count replays, in RETRIES too (R378). -/
def countReplays (i : BitVec 5) (n : Nat) (s : State) : State :=
  countLink i 0 n (perfCount 0x22 i.toNat none n (s.modPort i fun p => { p with retries := satAdd p.retries n }))

/-- A packet is accepted or not by its LSEQ: the next one is, and its buffer's credit goes back; an older one is acknowledged again; a later
one is discarded, and the missing one asked for unless it has been. -/
def arrive (o : PacketForm) (body : State → State) (s : State) : Result :=
  let i := o.port
  let p := o.pkt
  if portBad i then .fault .noSuchUnit
  else if (s.port i).state ≠ .up then .next s
  else
    let s := pumpPort i (countLink i o.fec 0 (s.modPort i (linkNews p.ack o.fec 0 0)))
    let q := s.port i
    if p.lseq = q.rxSeq then
      let s := s.setPort i { q with rxSeq := q.rxSeq + 1, asks := none }
      let req := isRequest p.type
      let s := perfCount 0x21 i.toNat none p.payload.length (emit (.link i p.lseq none (bit req) (bit !req)) s)
      .next (body s)
    else if 2048 ≤ (p.lseq - q.rxSeq).toNat then .next (emit (.link i (q.rxSeq - 1) none 0 0) s)
    else if q.asks.map Prod.fst = some q.rxSeq then .next s
    else .next (askAgain i q.rxSeq s)

/-- A packet of a reserved TYPE or SIZE is discarded and counts a retry (Table 14-3). -/
def discard (i : BitVec 5) (s : State) : State := s.modPort i fun p => { p with retries := satAdd p.retries 1 }

/-- The peer asks for the packets from an LSEQ on: they go again in order; the sixteenth time in a row the port retrains. -/
def replayFrom (i : BitVec 5) (lseq : BitVec 12) (s : State) : State :=
  let p := s.port i
  let l := p.replay.dropWhile fun x => decide (x.lseq ≠ lseq)
  let x := countSame lseq p.naks
  let s := countReplays i l.length (s.setPort i { p with naks := some x })
  if 16 ≤ x.2 then retrain i s else l.foldl (fun s q => emit (.packet i { q with ack := p.rxSeq - 1 }) s) s

/-- A LINK packet announces a step on a lane: where the peer has the lower module id, this module follows (R411), under its own CAL_CTL.EN and
in SERVICE and SERVING (R412). -/
def followStep (i : BitVec 5) (lane : BitVec 4) (s : State) : State :=
  let serves := decide (s.mod.state = .service) || decide (s.mod.state = .serving)
  if serves && decide ((s.port i).peerMid.toNat < s.mgmt.mid.toNat) && s.cal.en.getLsbD 1 && decide (lane.toNat < 9)
      && (s.cal.groups.get .reset (groupKey 2 i.toNat)).step.isNone && !laneOut s 2 i.toNat lane.toNat then
    beginStep 2 i.toNat lane.toNat s
  else s

/-- LINK (R380): acknowledgement, credits, and a replay request if it carries one; packets that waited for a credit go. A step that it
announces is followed (R411). -/
def execLink (o : LinkForm) (s : State) : Result :=
  if portBad o.port then .fault .noSuchUnit
  else if (s.port o.port).state ≠ .up then .next s
  else
    let s := countLink o.port o.fec 0 (s.modPort o.port (linkNews o.ack o.fec o.requests o.responses))
    let s := match o.replay with
      | some n => replayFrom o.port n s
      | none => s
    let s := match o.cal with
      | some lane => followStep o.port lane s
      | none => s
    .next (runJobs (pumpPort o.port s))

/-- CRC_FAILURE (R380): a packet fails its CRC or its codeword, and its LSEQ is asked for again. -/
def execCrcFailure (o : CrcForm) (s : State) : Result :=
  if portBad o.port then .fault .noSuchUnit
  else if (s.port o.port).state ≠ .up then .next s
  else .next (askAgain o.port o.lseq s)

/-! ## Routing and the home (R384, R387) -/

/-- Pass a packet on toward its DST, held while its route is held, or refuse it (R383, R384). -/
def forwardPacket (p : Packet) (s : State) : State :=
  let refuse (s : State) : State := if isRequest p.type then respond .errCpl p [] false s else s
  if p.hops = 7 then refuse s
  else match sendPacket { p with hops := p.hops + 1 } none s with
    | (.nowhere, s) => refuse s
    | (_, s) => s

/-- The home refuses an address (R387). -/
def homeRefuses (p : Packet) : Bool := decide (2 ^ 48 ≤ p.addr.toNat) || !palvanValid p.addr.toNat

/-- A reserved SIZE. -/
def sizeReserved (p : Packet) : Bool := decide (5 ≤ p.size.toNat)

/-- The home has performed a transfer of a source (R383). -/
def performedOf (s : State) (m : ModuleId) : List (BitVec 16) := s.hub.performed.get [] m.toNat

/-- Remember a transfer performed: the last 4,096 of its source. -/
def remember (p : Packet) (s : State) : State :=
  { s with hub := { s.hub with performed := s.hub.performed.set [] p.src.toNat ((p.tid :: performedOf s p.src).take 4096) } }

/-- The payload of a packet by its SIZE. -/
def payloadOf (p : Packet) : List Byte := (p.payload ++ List.replicate 512 0).take (sizeBytes p.size)

/-- Perform a read at the stacks (R387); one performed before has had its response, which the links deliver, and is not performed again
(R383, notes/assumptions/28.md). -/
def homeRead (p : Packet) (s : State) : State :=
  if homeRefuses p then respond .errCpl p [] false s
  else if (performedOf s p.src).contains p.tid then s
  else
    let (l, s) := palvanRead hubSource p.addr.toNat (sizeBytes p.size) p.key none (remember p s)
    respond .rdCpl p (plain l) (anyPsn l) s

/-- Perform a write at the stacks and acknowledge it; one performed before is only acknowledged (R383, R387). -/
def homeWrite (p : Packet) (s : State) : State :=
  if homeRefuses p then respond .errCpl p [] false s
  else if (performedOf s p.src).contains p.tid then respond .wrAck p [] false s
  else
    let off := p.addr.toNat
    let s := if p.size = 1 then writeUnit hubSource (off / 64 * 64) p.key none p.mask (payloadOf p) p.psn s
      else palvanWrite hubSource off (marked p.psn (payloadOf p)) p.key none s
    respond .wrAck p [] false (remember p s)

/-- What a packet for this module or another does once accepted; `here` where it is for this one. -/
def routed (want : PacketType) (o : PacketForm) (here : State → State) (s : State) : Result :=
  if portBad o.port then .fault .noSuchUnit
  else if o.pkt.type = want then
    arrive o (fun s =>
      if sizeReserved o.pkt then discard o.port s
      else if o.pkt.dst = s.mgmt.mid then here s
      else forwardPacket o.pkt s) s
  else match o.pkt.type with
    | .reserved _ => arrive o (discard o.port) s
    | _ => .next s

/-- RD (R384, R387). -/
def execRd (o : PacketForm) (s : State) : Result := routed .rd o (homeRead o.pkt) s

/-- WR (R384, R387). -/
def execWr (o : PacketForm) (s : State) : Result := routed .wr o (homeWrite o.pkt) s

/-- RD_CPL (R382, R386): read data returns to its requester, poisoned where PSN is set (Table 17-6). -/
def execRdCpl (o : PacketForm) (s : State) : Result :=
  routed .rdCpl o (fun s => match requestOf s o.pkt.src o.pkt.tid false with
    | some q => deliverRead q (marked o.pkt.psn ((o.pkt.payload ++ List.replicate q.len 0).take q.len)) s
    | none => s) s

/-- WR_ACK (R387, R393): a write has been performed, or a COL_OPEN or COL_DATA accepted. -/
def execWrAck (o : PacketForm) (s : State) : Result :=
  routed .wrAck o (fun s => match requestOf s o.pkt.src o.pkt.tid true with
    | some q =>
      let s := dropReq q.id s
      kick q.who (match q.who with
        | .job r i => collectAnswer r i o.pkt.src (Sending.ack o.pkt.tid) s
        | _ => s)
    | none => s) s

/-- ERR_CPL (R386). -/
def execErrCpl (o : PacketForm) (s : State) : Result :=
  routed .errCpl o (fun s => match (requestOf s o.pkt.src o.pkt.tid false).or (requestOf s o.pkt.src o.pkt.tid true) with
    | some q => retireError q s
    | none => s) s

/-- COL_OPEN (R393, R383). -/
def execColOpen (o : PacketForm) (s : State) : Result :=
  routed .colOpen o (fun s =>
    if (performedOf s o.pkt.src).contains o.pkt.tid then respond .wrAck o.pkt [] false s
    else receiveOpen o.pkt (if (matchCollect s o.pkt).isSome then remember o.pkt s else s)) s

/-- COL_DATA (R394, R383). -/
def execColData (o : PacketForm) (s : State) : Result :=
  routed .colData o (fun s =>
    if (performedOf s o.pkt.src).contains o.pkt.tid then respond .wrAck o.pkt [] false s
    else receiveCol o.pkt (remember o.pkt s)) s

/-- COL_NAK (R393): the COL_OPEN goes again later. -/
def execColNak (o : PacketForm) (s : State) : Result :=
  routed .colNak o (fun s => match requestOf s o.pkt.src o.pkt.tid true with
    | some q =>
      let s := dropReq q.id s
      (match q.who with
      | .job r i => collectAnswer r i o.pkt.src (Sending.nak o.pkt.tid) s
      | _ => s)
    | none => s) s

/-- REQUEST_TIMEOUT (R386): 100 µs after its last sending without an answer. -/
def execRequestTimeout (o : ReqForm) (s : State) : Result :=
  match s.hub.reqs.find? fun q => q.id == o.id with
  | some q =>
    if paRegion q.pa = 0 ∧ !isLocal s q.pa ∧ q.data = none then
      let mine (p : Packet) : Bool := decide (p.dst = paModule q.pa ∧ p.tid = q.tid ∧ p.src = s.mgmt.mid)
      .next (retireError q (withdraw mine s))
    else .next s
  | none => .next s

end Sys2Proof.Machine
end

