-- ==== Sys2Proof/Machine/Reset.lean ====
section
/-!
DEFINITION. Firmware banks, the KEK, cold and warm reset, the switch-off into FAULTED (R428 to R431, R434, R443, R457, R462, R465 to
R469, R475).
-/

namespace Sys2Proof.Machine

/-! ## Firmware banks (R428 to R431) -/

/-- Bytes lo to lo + n − 1 of an image's header (Table 16-7). -/
def headerNum (h : BitVec 768) (lo n : Nat) : Nat := bitsOf h.toNat (8 * lo) (8 * n)

/-- VERSION and SVN of the image in a bank. -/
def Bank.version (x : Bank) : Word := BitVec.ofNat 32 (headerNum x.header 8 4)
def Bank.svn (x : Bank) : Byte := BitVec.ofNat 8 (headerNum x.header 12 1)

/-- Bank A where `b` is false, bank B where it is true. -/
def Firmware.bank (f : Firmware) (b : Bool) : Bank := if b then f.b else f.a

def Firmware.setBank (f : Firmware) (b : Bool) (x : Bank) : Firmware := if b then { f with b := x } else { f with a := x }

/-- A bank that may become active: not marked failed, its SVN at or above the counter (R430, R431). -/
def Firmware.usable (f : Firmware) (b : Bool) : Bool := !(f.bank b).failed && decide (f.counter.toNat ≤ (f.bank b).svn.toNat)

/-- A bank that waits becomes active, if its SVN is still at or above the counter. -/
def Firmware.activate (f : Firmware) : Firmware :=
  if f.pend && f.usable (!f.active) then { f with active := !f.active, pend := false } else { f with pend := false }

/-- A start of the active bank, which has not reached its target yet. -/
def Firmware.countStart (f : Firmware) : Firmware :=
  f.setBank f.active { f.bank f.active with fails := (f.bank f.active).fails + 1 }

/-- The active bank has reached its target. -/
def Firmware.reached (f : Firmware) : Firmware := f.setBank f.active { f.bank f.active with fails := 0 }

/-- The verification at a start (R430): a bank that fails it, or that failed to reach its target on 3 starts in a row, is marked
failed, and the other becomes active where it verifies and qualifies; false where neither does. `bad` and `otherBad` tell whether the active
and the other bank fail the checks of signature and digest. -/
def Firmware.verify (bad otherBad : Bool) (f : Firmware) : Bool × Firmware :=
  let x := f.bank f.active
  if !bad && f.usable f.active && decide (x.fails ≤ 3) then (true, f)
  else
    let f := f.setBank f.active { x with failed := true }
    let f := if otherBad then f.setBank (!f.active) { f.bank (!f.active) with failed := true } else f
    if f.usable (!f.active) then (true, { f with active := !f.active }.countStart) else (false, f)

/-- The rollback counter rises to the active bank's SVN (R431). -/
def Firmware.advance (f : Firmware) : Firmware :=
  if f.counter.toNat < (f.bank f.active).svn.toNat then { f with counter := (f.bank f.active).svn } else f

/-- A firmware component, 1 to 4. -/
def State.fw (s : State) (c : Nat) : Firmware := s.mgmt.fw.get .reset c

/-- Change the firmware components of a list. -/
def modFw (l : List Nat) (f : Firmware → Firmware) (s : State) : State :=
  l.foldl (fun s c => s.modMgmt fun m => { m with fw := m.fw.modify .reset c f }) s

/-- The components that a reset of the compute side starts. -/
def computeFw : List Nat := [2, 3, 4]

/-! ## Measurements (R433) -/

/-- A SHAKE256 digest of 512 bits. -/
def digest512 (l : List Byte) : BitVec 512 := BitVec.ofNat 512 (natOfBytes (shake256 64 l))

/-- What is measured of an image: its header of Table 16-7 and its payload. -/
def Bank.bytes (x : Bank) : List Byte := bytesOf 96 x.header ++ bytesOf 1280 x.sig ++ x.payload

/-- An item of Table 16-8 is measured. -/
def measure (i : Nat) (x : BitVec 512) (s : State) : State := s.modMgmt fun m => { m with measured := m.measured.set 0 i x }

/-- The active image of a component is measured as it is loaded. -/
def measureImage (c : Nat) (s : State) : State := measure c (digest512 ((s.fw c).bank (s.fw c).active).bytes) s

/-- The site map and the spare map, as numbers: what item 6 covers. -/
def mapNumbers (s : State) : List Nat :=
  ((indices 16).map fun t => (siteOf s (BitVec.ofNat 4 t)).toNat) ++ s.spares.sites.map BitVec.toNat ++ s.spares.cores.map BitVec.toNat
    ++ (s.spares.rows.flatMap fun r => [r.1, r.2.toNat]) ++ (s.spares.bore.flatMap fun r => [r.1.toNat, r.2.toNat])
    ++ s.spares.lanes.flatMap fun r => [r.1.toNat, r.2.toNat]

/-- The pairing record, as numbers: what item 7 covers. -/
def PairRecord.numbers (p : PairRecord) : List Nat :=
  [p.install.toNat, p.mid.toNat, p.epoch.toNat] ++ match p.lldp with
    | some (c, n) => [c, n]
    | none => []

/-- The pairing record, and the rollback counters and bank selections, are measured (items 7 and 8). -/
def measureRecords (s : State) : State :=
  let fw := (indices 4).flatMap fun c => [(s.fw (c + 1)).counter.toNat, bit (s.fw (c + 1)).active]
  measure 8 (Config.itemDigest 8 fw) (measure 7 (Config.itemDigest 7 ((s.mgmt.pairRec.map PairRecord.numbers).getD [])) s)

/-- The measurements, index 1 first; the security ROM never changes. -/
def measurements (s : State) : List (BitVec 512) :=
  (indices 8).map fun k => if k = 4 then Config.itemDigest 5 [] else s.mgmt.measured.get 0 (k + 1)

/-! ## The KEK (R434, R467) -/

/-- The KEK is destroyed and KEK_GEN increments. -/
def destroyKek (s : State) : State := s.modMgmt fun m => { m with kek := none, kekGen := satAdd m.kekGen 1 }

/-! ## Cold reset (R467, R475) -/

/-- A tile after a reset: its place and its core map stay (R467). -/
def Tile.afterReset (t : Tile) : Tile :=
  { Tile.reset with
    site := t.site
    pend := t.pend
    retired := t.retired
    spareCore := t.spareCore
    corePend := t.corePend }

/-- The hub die after a reset; the model's numbers of host reads go on, so that an answer to an old one finds none. -/
def Hub.afterReset (h : Hub) : Hub := { Hub.reset with nextReq := h.nextReq }

/-- A stack unpowered: its contents are lost, its channel map stays. -/
def Stacks.lost (x : Stacks) : Stacks :=
  { Stacks.reset with
    era := x.era + 1
    ports := x.ports.mapListed .reset fun _ p => { StackPort.reset with spared := p.spared, lost := p.lost } }

/-- The mailbox registers at their reset values (R426): what waits in the controller stays, for a response is never dropped (R427). -/
def Mailbox.cleared (b : Mailbox) : Mailbox := { Mailbox.reset with responses := b.responses, events := b.events }

/-- The facility side at entry to STANDBY: the pairing check begins (R436), and the identity registers are loaded (R438). -/
def MgmtState.standby (m : MgmtState) : MgmtState :=
  { m with
    mb := m.mb.cleared
    spdm := .reset
    pairing := .checking
    mid := (m.pairRec.map PairRecord.mid).getD 0xFFF
    install := (m.pairRec.map PairRecord.install).getD 0 }

/-- The module control block at its reset values, with the pins and settings of the facility side. -/
def ModBlock.cold (m : ModBlock) : ModBlock :=
  { ModBlock.reset with
    state := m.state
    prev := m.prev
    autoOn := m.autoOn
    facEn := m.facEn
    perstLow := m.perstLow }

/-- Every part of the compute side, and every register of BAR0, at its cold reset value; what Table 18-8 keeps is kept. Every key slot
is retired (R332). -/
def coldState (s : State) : State :=
  { s with
    time := .cold ((s.mgmt.pairRec.map PairRecord.epoch).getD 0)
    mod := s.mod.cold
    pcie := .reset
    rings := .empty
    cqs := .empty
    binds := .empty
    slots := .empty
    keyBase := s.nextKey
    nextKey := s.nextKey + 256
    cores := .empty
    tiles := s.tiles.mapListed .reset fun _ t => t.afterReset
    stk := s.stk.lost
    hub := s.hub.afterReset
    links := .reset
    power := .reset
    cal := .reset
    mgmt := s.mgmt.standby
    err := { ErrState.reset with degraded := s.err.degraded }
    perf := .reset }

/-- Entry to STANDBY (R457, R436): the compute side is off, and pending banks of `fw` become active, those of a cold reset alone (R430);
component 1's counter advances (R431). -/
def enterStandby (fw : List Nat) (s : State) : State :=
  measureRecords (modFw [1] Firmware.advance (modFw fw Firmware.activate (coldState (enterState .standby s))))

/-- A cold reset down to STANDBY: the KEK is destroyed too (R467), and a new channel key is agreed (R418). -/
def coldReset (s : State) : State :=
  destroyKek ((enterStandby [1, 2, 3, 4] s).modMgmt fun m => { m with channelKey := m.channelKey + 1 })

/-- Entry to OFF: nothing is powered, and what is volatile on the facility side is lost. -/
def enterOff (s : State) : State :=
  let s := coldState (enterState .off s)
  s.modMgmt fun m => { m with
    kek := none
    restarting := false
    mismatch := false
    alert := false
    leak := false
    flow := false
    warning := false
    hot := false
    hostEid := 0
    mb := .reset
    lldp := none }

/-- Entry to RISING: the active banks of components 2 to 4 start (R430). -/
def enterRising (s : State) : State := modFw computeFw Firmware.countStart (enterState .rising s)

/-! ## Warm reset (R458, R465 to R467, R475) -/

/-- Stop every core as R339 stops cores. -/
def stopAllCores (s : State) : State := s.cores.entries.foldl (fun s e => stopCore (BitVec.ofNat 9 e.1) s) s

/-- A slot that a warm reset retires and releases (R332, R475). -/
def KeySlot.warm (now : DWord) (k : KeySlot) : KeySlot :=
  { owned := false
    binding := 0
    src := 0
    changes := satAdd k.changes 1
    stamp := now
    key := none }

/-- All 256 slots retired at a warm reset. -/
def retireAllSlots (s : State) : State :=
  let now := s.time.count
  { s with
    slots := (indices 256).foldl (fun (t : Table KeySlot) k => t.modify .reset k (KeySlot.warm now)) s.slots
    keyBase := s.nextKey
    nextKey := s.nextKey + 256 }

/-- Every calibration step in progress is reverted (R45). -/
def revertAllSteps (c : CalState) : CalState :=
  { c with
    groups := c.groups.mapListed .reset fun _ g => { g with step := none }
    lanes := c.lanes.mapListed .reset fun _ l => { l with active := false } }

/-- The error block after a warm reset: the counters and DEGRADED stay (R447); records that wait are dropped with their numbers. -/
def ErrState.warm (e : ErrState) : ErrState :=
  { ErrState.reset with cnt := e.cnt, degraded := e.degraded, windows := e.windows }

/-- The module control block after a warm reset of a kind (R458). -/
def ModBlock.warm (kind : BitVec 2) (m : ModBlock) (held : Bool) : ModBlock :=
  { m with
    cause := 0
    cmdRej := false
    recovery := false
    lastReset := kind
    drainAt := 0
    held := held
    reverify := false }

/-- What a warm reset clears (R466, R467, R475, R270). -/
def warmState (kind : BitVec 2) (s : State) : State :=
  let s := retireAllSlots (stopAllCores s)
  { s with
    mod := s.mod.warm kind (s.power.uv || s.power.ov)
    pcie := .reset
    rings := .empty
    cqs := .empty
    binds := .empty
    cores := .empty
    tiles := s.tiles.mapListed .reset fun _ t =>
      { t with sectors := .empty, sets := .empty, fills := [], fresh := [], walker := .reset }
    hub := s.hub.afterReset
    links := .reset
    power := { s.power with overLim := false, cfgRej := false, ovSeen := false, uvSeen := false }
    cal := revertAllSteps s.cal
    mgmt := { s.mgmt with mb := s.mgmt.mb.cleared, spdm := .reset }
    err := s.err.warm
    perf := .reset }

/-- A warm reset is possible: RISING to DRAINING; one that is under way in RISING takes up a second (R465). -/
def warmResets (s : State) : Bool := computeOn s && !(decide (s.mod.state = .rising) && decide (s.mod.lastReset ≠ 0))

/-- A warm reset of a kind (Table 18-7). -/
def warmReset (kind : BitVec 2) (s : State) : State :=
  if warmResets s then enterRising (modFw computeFw Firmware.activate (warmState kind s)) else s

/-! ## The switch-off into FAULTED (R443, R469) -/

/-- Every started descriptor completes HW_ERROR. -/
def endAllDescs (s : State) : State :=
  s.allDescs.foldl (fun s x => if x.2.running then endAny x.1 x.2.index .hwError s else s) s

/-- The tiles, stacks, Bore and Sutrum PHYs lose power (R456). -/
def switchOff (s : State) : State :=
  { s with
    cores := .empty
    tiles := s.tiles.mapListed .reset fun _ t =>
      { t with sectors := .empty, sets := .empty, fills := [], fresh := [], walker := .reset }
    stk := s.stk.lost
    binds := s.binds.mapListed .reset fun _ b => { b with parks := [], unbind := none }
    hub := { s.hub with reqs := [], walker := .reset, engines := .empty }
    links := { s.links with
      ports := s.links.ports.mapListed .reset fun _ p => { p with
        state := .off, replay := [], waiting := [], reqCredit := 0, rspCredit := 0, share := 0, naks := none, asks := none, calLane := none }
      holdIds := []
      oldSent := []
      held := [] }
    cal := revertAllSteps s.cal }

/-- The module enters FAULTED with CAUSE bits (R443, R469); bit 6 is an error fatal to the module. -/
def enterFaulted (bits : BitVec 8) (s : State) : State :=
  if computeOn s then
    let s := switchOff (endAllDescs (stopAllCores s))
    let s := s.modErr fun e => { e with fatal := e.fatal || bits.getLsbD 6 }
    addCause bits (enterState .faulted s)
  else if s.mod.state = .faulted then
    addCause bits (s.modErr fun e => { e with fatal := e.fatal || bits.getLsbD 6 })
  else s

/-- A condition that leads to DRAINING also from RISING and SELFTEST (R464: the watchdog). -/
def forceDraining (bits : BitVec 8) (s : State) : State :=
  if s.mod.state = .rising ∨ s.mod.state = .selftest then addCause bits (enterState .draining s) else toDraining bits s

/-- A condition of an orderly stop: the NMI with SUB bit [2] and DRAINING (R421, R422); in RISING and SELFTEST the compute side is
switched off at once (R464). -/
def orderlyStop (bits : BitVec 8) (s : State) : State :=
  if s.mod.state = .rising ∨ s.mod.state = .selftest then enterStandby [] s
  else if computeOn s then toDraining bits (assertNmi 4 s)
  else toDraining bits s

end Sys2Proof.Machine
end

