-- ==== Sys2Proof/Machine/Life.lean ====
section
/-!
DEFINITION. The life of the module: power, start-up, commands, resets, facility conditions, fatal errors (R14, R396, R404, R421 to R423,
R430, R442, R443, R457 to R469, R492).
-/

namespace Sys2Proof.Machine

/-! ## Power and start-up (R457, R462 to R464) -/

/-- The security block verifies component 1 at a start of the controller, which then runs from the bank that qualifies, or from the recovery
firmware where none does (R430); the counter advances when it reaches STANDBY (R431). -/
def startController (o : StartForm) (s : State) : State :=
  let x := (s.fw 1).countStart.verify o.bankFails o.otherFails
  let s := measureImage 1 (s.modMgmt fun m => { m with fw := m.fw.set .reset 1 (if o.reached then x.2.reached.advance else x.2) })
  if x.1 then s else s.modMod fun m => { m with recovery := true }

/-- A start of the controller in a restart: the bank that waits takes effect (R423), its content being as it was accepted. -/
def startAgain (reached : Bool) (s : State) : State := startController ⟨false, false, reached⟩ (modFw [1] Firmware.activate s)

/-- FAC_EN_ASSERT (Table 18-2): OFF to STANDBY with the input at or above 36 V, once the controller has started. The return after OFF is a cold
reset (Table 18-7). -/
def execFacEnAssert (o : FacEnForm) (s : State) : Result :=
  if s.mod.state ≠ .off then .next s
  else
    let s := s.modMod fun m => { m with facEn := true }
    if o.vin.toNat < 3600 then .next s
    else if !o.start.reached then .next (startController o.start (modFw [1] Firmware.activate s))
    else .next (startController o.start (coldReset (setInput o.vin s)))

/-- FAC_EN_DEASSERT (Table 18-2): any state to OFF, by the pin, or with the pin still asserted by an input that was measured below 30 V. -/
def execFacEnDeassert (s : State) : Result :=
  let s := s.modMod fun m => { m with facEn := m.facEn && decide (m.state ≠ .off) && decide (s.mgmt.input.toNat < 3000) }
  if s.mod.state = .off then .next s else .next (enterOff s)

/-- A condition of Table 16-3 is in force. -/
def conditionInForce (s : State) : Bool := s.mgmt.leak || s.mgmt.flow || s.mgmt.warning || s.mgmt.hot

/-- POWERON (Table 18-2). -/
def execPoweron (s : State) : Result :=
  if decide (s.mod.state = .standby) && controllerUp s && decide (s.mgmt.pairing ≠ .checking) && inRange s.mgmt.input
      && !conditionInForce s then .next (enterRising s)
  else .next s

/-- Verify and load the active bank of components 2 to 4; RECOVERY is set where none qualifies, or where the controller itself runs from the
recovery firmware (R430). -/
def verifyAll (o : RisingForm) (s : State) : State :=
  let s := computeFw.foldl (fun s c =>
    let x := (s.fw c).verify (o.bankFails.getLsbD (c - 2)) (o.otherFails.getLsbD (c - 2))
    let s := measureImage c (s.modMgmt fun m => { m with fw := m.fw.set .reset c x.2 })
    if x.1 then s else s.modMod fun m => { m with recovery := true }) s
  measureRecords (if ((s.fw 1).bank (s.fw 1).active).failed then s.modMod fun m => { m with recovery := true } else s)

/-- Every port in service trains, or waits in DOWN without a module id (R378, R437). -/
def startPorts (s : State) : State :=
  (indices 18).foldl (fun s i =>
    let n := BitVec.ofNat 5 i
    if (s.port n).en then s.modPort n fun p => { p with state := portStart s } else s) s

/-- The maps are loaded, and measured as item 6 (R433, R462). -/
def loadMaps (s : State) : State :=
  measure 6 (Config.itemDigest 6 (mapNumbers s)) (s.modMod fun m => { m with mapLoaded := true })

/-- RISING_COMPLETE (R462, R464, R465): not while UV or OV holds the sequence, nor while PERST# holds its warm reset. In SELFTEST it ends the
firmware verification at which the sequence started again after UV or OV (R464). -/
def execRisingComplete (o : RisingForm) (s : State) : Result :=
  let verified := loadMaps (verifyAll o (s.modMod fun m => { m with held := false, reverify := false }))
  match s.mod.state with
  | .rising => .next (if startHeld s || s.mod.perstHeld then s else startPorts (enterState .selftest verified))
  | .selftest => .next (if startHeld s || !s.mod.reverify then s else verified)
  | _ => .next s

/-- Enter SERVING: the rollback counters of components 2 to 4 advance (R431). -/
def enterServing (s : State) : State := modFw computeFw Firmware.advance (enterState .serving s)

/-- A unit that the module does not have. -/
def FailedUnit.bad : FailedUnit → Bool
  | .row _ _ row => decide (33 ≤ row.toNat)
  | .channel _ ch => decide (34 ≤ ch.toNat)
  | _ => false

/-- A unit fails self-test (R463). -/
def failUnit (u : FailedUnit) (s : State) : State := match u with
  | .core c => failCore c s
  | .row c a row => failRow c a row s
  | .channel st ch => failChannel st.toNat ch s
  | .tile t => failTile t s

/-- The spare-mapping step: every substitution takes effect (R463). -/
def substituteAll (s : State) : State :=
  let tiles := (indices 16).map (BitVec.ofNat 4)
  let s := tiles.foldl (fun s t => (tileCores t).foldl (fun s c => substituteCore c s) s) s
  tiles.foldl (fun s t => substituteTile t s) s

/-- A round of self-test: units fail, and the spare-mapping step makes their substitutions (R463). -/
def selftestRound (l : List FailedUnit) (s : State) : State := substituteAll (l.foldl (fun s u => failUnit u s) s)

/-- SELFTEST_COMPLETE (R462 to R464): what was pending before is substituted first, then the units that failed, then in turn those that the
self-test of sites just substituted finds. -/
def execSelftestComplete (o : SelftestForm) (s : State) : Result :=
  if (o.failed :: o.again).any fun l => l.any FailedUnit.bad then .fault .noSuchUnit
  else if s.mod.state ≠ .selftest ∨ s.mod.held ∨ s.mod.reverify then .next s
  else
    let s := (o.failed :: o.again).foldl (fun s l => selftestRound l s) (substituteAll s)
    let s := modFw computeFw Firmware.reached s
    .next (if s.mod.bootSvc || s.mod.recovery then enterState .service s else enterServing s)

/-! ## Commands (R458 to R460) -/

/-- The way out of DRAINING to SERVICE and SERVING (Table 18-5). -/
def drainingEnds (s : State) : Bool :=
  decide (s.mod.cause &&& 0xF8 = 0) && !s.power.uv && !s.power.ov

/-- Command n is permitted in the present state, and its conditions are met (R459, R460). -/
def permitted (n : Nat) (s : State) : Bool :=
  if s.mod.cause &&& 0x30 ≠ 0 then false
  else match n, s.mod.state with
    | 1, .serving => !anyRuns s
    | 1, .draining => !anyRuns s && drainingEnds s
    | 2, .service => !s.mod.recovery && !anyRuns s
    | 2, .draining => !s.mod.recovery && !anyRuns s && drainingEnds s
    | 3, .service => true
    | 3, .serving => true
    | 4, .service => true
    | 4, .serving => true
    | 4, .draining => decide (s.mod.cause &&& 0xF0 = 0) && (!s.mod.cause.getLsbD 3 || !s.mod.heartbeatLost)
    | _, _ => false

/-- What a permitted command does. -/
def perform (n : Nat) (s : State) : State := match n with
  | 1 => enterState .service s
  | 2 => enterServing s
  | 3 => toDraining 0x01 s
  | _ => warmReset 1 s

/-- A write of command n, 1 to 15, to MOD_CMD (R459): DRAIN in DRAINING has no effect, and what is not permitted sets CMD_REJ. `f` is
what the write changes beside it. -/
def command (n : Nat) (f : ModBlock → ModBlock) (s : State) : State :=
  if permitted n s then perform n (s.modMod f)
  else if n = 3 ∧ s.mod.state = .draining then s
  else s.modMod fun m => { m with cmdRej := true }

/-- A write to MOD_CMD (Table 18-3). -/
def writeModCmd (v : Word) (s : State) : State :=
  let f (m : ModBlock) : ModBlock := { m with bootSvc := v.getLsbD 7 }
  let n := bitsOf v.toNat 0 4
  if n = 0 then s.modMod f else command n f s

/-- ENTER_SERVICE (R459). -/
def execEnterService (s : State) : Result := if barsAnswer s then .next (command 1 id s) else .next s

/-- ENTER_SERVING (R459). -/
def execEnterServing (s : State) : Result := if barsAnswer s then .next (command 2 id s) else .next s

/-- CMD_DRAIN (R459). -/
def execCmdDrain (s : State) : Result := if barsAnswer s then .next (command 3 id s) else .next s

/-- WARM_RESET (R459, R466). -/
def execWarmReset (s : State) : Result := if barsAnswer s then .next (command 4 id s) else .next s

/-! ## Other resets (R465) -/

/-- REDFISH_WARM_RESET. -/
def execRedfishWarmReset (s : State) : Result := if controllerUp s then .next (warmReset 3 s) else .next s

/-- PERST: the assertion of PERST#; the warm reset that it makes or joins is held while PERST# is low. -/
def execPerst (s : State) : Result :=
  if s.mod.perstLow then .next s
  else
    let s := warmReset 2 (s.modMod fun m => { m with perstLow := true })
    .next (s.modMod fun m => { m with perstHeld := decide (m.state = .rising) })

/-- PERST_DEASSERT. -/
def execPerstDeassert (s : State) : Result := .next (s.modMod fun m => { m with perstLow := false, perstHeld := false })

/-- HOT_RESET: the link is up only while PERST# is high. -/
def execHotReset (s : State) : Result := if s.mod.perstLow then .next s else .next (warmReset 2 s)

/-- FLR. -/
def execFlr (s : State) : Result := if s.mod.perstLow then .next s else .next (warmReset 2 s)

/-- POWERCYCLE: a cold reset through STANDBY, from STANDBY too (Table 18-7). -/
def execPowercycle (s : State) : Result := if controllerUp s then .next (coldReset s) else .next s

/-- Ticks since entry to DRAINING. -/
def drainingFor (s : State) : Nat := (s.time.count - s.mod.drainAt).toNat

/-- Every binding is FREE. -/
def allFree (s : State) : Bool := s.binds.entries.all fun e => decide (e.2.state = .free)

/-- ORDERLY_STOP_END (R460): every binding FREE, 2 s, or 200 ms after a leak. It is no cold reset of Table 18-7: the KEK stays. -/
def execOrderlyStopEnd (s : State) : Result :=
  let stopping := decide (s.mod.state = .draining) && decide (s.mod.cause &&& 0x30 ≠ 0)
  let ended := allFree s || decide (2 * second ≤ drainingFor s)
    || (s.mod.cause.getLsbD 5 && decide (second / 5 ≤ drainingFor s))
  if stopping && ended then .next (enterStandby [] s) else .next s

/-! ## Facility conditions (R396, R404, R421 to R423) -/

/-- FAC_ALERT# is driven low. -/
def driveAlert (s : State) : State := s.modMgmt fun m => { m with alert := true }

/-- STOP (R422): the Redfish action. -/
def execStop (s : State) : Result := if controllerUp s && computeOn s then .next (orderlyStop 0x10 s) else .next s

/-- LEAK (R421): the Bellows acts whether or not the controller is running. -/
def execLeak (s : State) : Result :=
  if s.mod.state = .off then .next s
  else .next (orderlyStop 0x20 (driveAlert (s.modMgmt fun m => { m with leak := true })))

/-- COOLANT_FLOW_LOW (R421). -/
def execCoolantFlowLow (s : State) : Result :=
  if controllerUp s then .next (orderlyStop 0x10 (driveAlert (s.modMgmt fun m => { m with flow := true }))) else .next s

/-- COOLANT_WARNING (R421). -/
def execCoolantWarning (s : State) : Result :=
  if controllerUp s then .next (mgmtEvent 1 0x10 (driveAlert (s.modMgmt fun m => { m with warning := true }))) else .next s

/-- CLKREQ#, WAKE# and FAC_ALERT# are driven low (Tables 20-2 and 20-3): CLKREQ# from RISING onward, WAKE# never, FAC_ALERT# while the
facility side is powered and a condition holds it. -/
def clkreqLow (s : State) : Bool := counterRuns s

def wakeLow (_ : State) : Bool := false

def facAlertLow (s : State) : Bool := decide (s.mod.state ≠ .off) && s.mgmt.alert

/-- COOLANT_WARNING_CLEARED (R421): a leak still holds FAC_ALERT# low. -/
def execCoolantWarningCleared (s : State) : Result :=
  if controllerUp s then .next (s.modMgmt fun m => { m with warning := false, flow := false, alert := m.leak }) else .next s

/-- The Bellows or the controller meets an input or converter limit: code 0x0034 goes to the event log, and the compute side is
switched off (R396, R421, R446). -/
def facilityLimit (s : State) : State :=
  if computeOn s ∨ s.mod.state = .faulted then enterFaulted 0xC0 (reportFacility 7 0x0034 0 [0xFF] s) else s

/-- INPUT_LIMIT (R396): below 36 V or above 63 V; below 30 V the facility side goes off too (Table 18-2). -/
def execInputLimit (o : VoltForm) (s : State) : Result :=
  if s.mod.state = .off ∨ (3600 ≤ o.vin.toNat ∧ o.vin.toNat ≤ 6300) then .next s
  else if o.vin.toNat < 3000 then .next (enterOff (setInput o.vin s))
  else .next (facilityLimit (setInput o.vin s))

/-- CONVERTER_OVERTEMP (R421). -/
def execConverterOvertemp (s : State) : Result := if controllerUp s then .next (facilityLimit (s.modMgmt fun m => { m with hot := true })) else .next s

/-- A tile at 110 °C: code 0x0031 (R404, R446). -/
def overTemp (t : TileId) (s : State) : State :=
  if computeOn s then enterFaulted 0x40 (reportFacility 1 0x0031 (t.setWidth 16) [(siteOf s t).setWidth 8] s) else s

/-- TILE_OVERTEMP (R404): at or above 110 °C for 1 ms. -/
def execTileOvertemp (o : TileSel) (s : State) : Result :=
  .next (if 110 ≤ (s.tile o.tile).temp.toNat then overTemp o.tile s else s)

/-- WATCHDOG (R422): 100 ms without a heartbeat; suspended while the controller restarts (R423). -/
def execWatchdog (s : State) : Result :=
  if computeOn s && !s.mgmt.restarting then
    .next (forceDraining 0x08 (assertNmi 2 (s.modMod fun m => { m with heartbeatLost := true })))
  else .next s

/-- WATCHDOG_SWITCH_OFF (R422): a further 100 ms without one. -/
def execWatchdogSwitchOff (s : State) : Result :=
  if computeOn s && !s.mgmt.restarting && s.mod.heartbeatLost then .next (enterFaulted 0x80 s) else .next s

/-- The controller restarts (R423). -/
def restartController (mismatch : Bool) (s : State) : State :=
  if controllerUp s then s.modMgmt fun m => { m with restarting := true, mismatch := mismatch } else s

/-- LOCKSTEP_MISMATCH (R423). In a restart it ends a start that has not reached STANDBY, and another begins (R430). -/
def execLockstepMismatch (s : State) : Result :=
  if s.mod.state ≠ .off ∧ s.mgmt.restarting then .next ((startAgain false s).modMgmt fun m => { m with mismatch := true })
  else .next (restartController true s)

/-- CONTROLLER_RESTART (R423, R430). -/
def execControllerRestart (s : State) : Result := .next (restartController false s)

/-! ## Errors fatal to the module (R443) -/

/-- FATAL_ERROR (R443, Table 17-3). -/
def execFatalError (o : FatalForm) (s : State) : Result :=
  match o.kind with
  | .router site =>
    if 18 ≤ site.toNat then .fault .noSuchUnit
    else if computeOn s then .next (enterFaulted 0x40 (report 3 3 0x0030 0xFFFF none 0 [site.setWidth 8] s))
    else .next s
  | .overTemp t => .next (overTemp t s)
  | .channel ch second =>
    if 140 ≤ ch.toNat then .fault .noSuchUnit
    else if computeOn s then .next (enterFaulted 0x40 (report 3 3 0x0032 (ch.setWidth 16) none 0 [channelSite ch.toNat second] s))
    else .next s
  | .hub => if computeOn s then .next (enterFaulted 0x40 (report 3 5 0x0033 0 none 0 [0xFF] s)) else .next s
  | .input => .next (facilityLimit s)

/-! ## Errors fatal to a binding, and host requests (R442, R492) -/

/-- A read of host memory that ends in a PCIe error: a core's data is poisoned, zero or as received, with code 0x0017; an engine's
descriptor meets code 0x0021. -/
def hostReadError (q : Req) (poisoned : Option (List Byte)) (s : State) : State :=
  let bytes := ((poisoned.getD []) ++ List.replicate q.len 0).take q.len
  let host := BitVec.ofNat 64 (paOffset q.pa)
  let s := match q.who.descriptor with
    | some _ => engineError q.who q.binding q.pa s
    | none => report 1 6 0x0017 0 q.binding host [0] s
  deliverRead q (marked true bytes) s

/-- HOST_REQUEST_ERROR (R492). -/
def execHostRequestError (o : HostErrorForm) (s : State) : Result :=
  match o.what with
  | .read id p =>
    (match (sentReads s).find? fun q => q.id == id with
    | some q => .next (sendWaiting s (hostReadError q p s))
    | none => .next s)
  | .write c addr =>
    let b := if (s.core c).ctl.xcfg.bound then some (coreBinding s c) else none
    if computeOn s then .next (report 1 6 0x0017 0 b addr [1] s) else .next s

/-- The BIND of a binding in its step 3 meets an error fatal to the binding (R337). -/
def failBind (b : Option BindingId) (s : State) : State :=
  (s.allDescs.filter fun x => x.2.running && x.2.opcode == 0x09 && decide (x.2.binding = b) && b.isSome).foldl (fun s x =>
    s.modJob x.1 x.2.index fun j => { j with err := true }) s

/-- A core's state meets an uncorrectable error (code 0x0020): it is stopped, counts as finished, and fails (R442, Table 17-5). -/
def coreError (c : CoreId) (file : BitVec 2) (s : State) : State :=
  let b := if (s.core c).ctl.xcfg.bound then some (coreBinding s c) else none
  let s := report 2 0 0x0020 (c.setWidth 16) b 0 [file.setWidth 8] s
  let s := (quiesceCore c s).modCore c fun k => { k with ctl := { k.ctl with failed := true, finished := true } }
  runUpdates (failCore c (failBind b (markErrBind b s)))

/-- A descriptor's work meets an error fatal to its binding: it completes HW_ERROR (R442). A LAUNCH that has started its cores completes when
they have finished, with its histogram (R240, R317). -/
def descError (r : RingId) (d : Desc) (pa : DWord) (s : State) : State :=
  let s := markErrBind d.binding (report 2 5 0x0021 0 d.binding pa (bytesOf 4 d.tag) s)
  let s := match d.opcode with
    | 0x09 => s.modJob r d.index fun j => { j with err := true }
    | 0x0A => s
    | 0x01 =>
      if d.job.phase = 0 then endAny r d.index .hwError s
      else runLaunch r d.index (s.modJob r d.index fun j => { j with err := true })
    | _ => endAny r d.index .hwError s
  if d.job.log.isSome then runLogs d.binding s else s

/-- A double-bit error of a 64-bit word of a data local store: the word is poisoned, code 0x0011 (R242). -/
def dataStoreError (c : CoreId) (word : Nat) (s : State) : State :=
  let b := if (s.core c).ctl.xcfg.bound then some (coreBinding s c) else none
  report 1 0 0x0011 (c.setWidth 16) b (BitVec.ofNat 64 (s.mgmt.mid.toNat * 2 ^ 52 + 2 * 2 ^ 48 + c.toNat * 2 ^ 20 + 8 * word)) []
    (s.modCore c fun k => { k with mem := { k.mem with dlsPoison := k.mem.dlsPoison.set false word true } })

/-- A double-bit error of a 64-bit word of an instruction local store: both of its instruction words raise vector 4 when fetched
(R242, R101). -/
def instrStoreError (c : CoreId) (word : Nat) (s : State) : State :=
  s.modCore c fun k => { k with mem := { k.mem with
    badParity := (k.mem.badParity.set false (2 * word) true).set false (2 * word + 1) true } }

/-- A double-bit error of a sector that a tile's L2 holds: the sector is poisoned, code 0x0011 (R251). -/
def sectorError (t : TileId) (line : Nat) (s : State) : State :=
  match (s.tile t).sector line with
  | none => s
  | some x => report 1 1 0x0011 (t.setWidth 16) x.binding (BitVec.ofNat 64 (64 * line)) []
      (s.modTile t fun q => { q with sectors := q.sectors.set none line (some { x with psn := true }) })

/-- A started instruction that accumulates into an accumulator tile of an array, its accumulation begun. -/
def accumulates (k : Core) (a acc : Nat) : Option MRun :=
  k.mat.started.find? fun r => r.probed && (r.i.op == .mma || r.i.op == .mvm || r.i.op == .mvmt) && r.i.accNames.contains (a, acc)

/-- An array's residue mismatch: the accumulator tile's PSN, code 0x0012, vector 20 with subcode 3 and eaddr 0 (R448). -/
def residueError (c : CoreId) (a : BitVec 2) (row : BitVec 5) (acc : BitVec 4) (s : State) : State :=
  match (if (s.core c).frozen then none else accumulates (s.core c) a.toNat acc.toNat) with
  | none => s
  | some r =>
    let s := s.modCore c fun k => k.modAcc a.toNat acc.toNat fun t => { t with psn := true }
    poisonCause c true 3 0 r.i.pc
      (report 1 0 0x0012 (c.setWidth 16) (some (coreBinding s c)) 0 [a.setWidth 8, row.setWidth 8, acc.setWidth 8] s)

/-- A lane of a Bore channel fails: the spare lane carries it, or the error is fatal to the module (class 5 of Table 17-5). The idle spare
lane itself goes out of service. -/
def boreLaneError (ch : BitVec 8) (lane : BitVec 6) (second : Bool) (s : State) : State :=
  if s.spares.bore.any fun x => x.1 == ch && x.2 == lane then s
  else if s.spares.bore.any (fun x => x.1 == ch) || (lane.toNat < 32 && laneOut s 1 ch.toNat 32) then
    enterFaulted 0x40 (report 3 3 0x0032 (ch.setWidth 16) none 0 [channelSite ch.toNat second]
      (spareRecord 0x0041 5 3 (ch.setWidth 16) (lane.setWidth 8) 0 0 s))
  else if lane.toNat < 32 then failBore ch.toNat lane.toNat s
  else modLane 1 ch.toNat 32 (fun x => { x with failed := true }) (revertStep 1 ch.toNat s)

/-- A Bore channel that does not exist: 140 of them, of 32 data lanes and a spare (Table 15-5). -/
def hwErrorBad (o : HwErrorForm) : Bool := match o.what with
  | .boreLane ch lane _ => decide (140 ≤ ch.toNat) || decide (33 ≤ lane.toNat)
  | _ => false

/-- HW_ERROR (R442), and the corrected and deferred errors that no other command brings (R441). -/
def execHwError (o : HwErrorForm) (s : State) : Result :=
  if hwErrorBad o then .fault .noSuchUnit
  else if !computeOn s then .next s
  else match o.what with
    | .corrected kind unit b addr syndrome => .next (report 0 kind 0x0001 unit b addr (bytesOf 8 syndrome) s)
    | .dataStore c word => .next (dataStoreError c word.toNat s)
    | .instrStore c word => .next (instrStoreError c word.toNat s)
    | .sector t line => .next (sectorError t line s)
    | .stackRead st unit b found => .next (readFinds st unit b false found s)
    | .residue c a row acc => .next (residueError c a row acc s)
    | .boreLane ch lane second => .next (boreLaneError ch lane second s)
    | .core c file => .next (coreError c file s)
    | .site t => .next (failTile t s)
    | .descriptor r i pa => (match s.desc r i with
      | some d => if d.running then .next (descError r d pa s) else .next s
      | none => .next s)

end Sys2Proof.Machine
end

