-- ==== Sys2Proof/Machine/Breath.lean ====
section
/-!
DEFINITION. Breaths and live calibration (R42, R44, R45, R102, R410 to R415).
-/

namespace Sys2Proof.Machine

/-! ## Link groups (Table 15-5) -/

/-- Groups of a KIND; 0 for a KIND that names none. -/
def groupCount (kind : Nat) : Nat := match kind with
  | 1 => 140
  | 2 => 18
  | 3 => 32
  | _ => 0

/-- Data lanes of a KIND. -/
def dataLanes (kind : Nat) : Nat := if kind = 2 then 8 else 32

/-- Lanes of a KIND, spares included. -/
def allLanes (kind : Nat) : Nat := match kind with
  | 1 => 33
  | 2 => 9
  | 3 => 34
  | _ => 0

/-- Step maximum of a KIND in µs. -/
def stepMax (kind : Nat) : Nat := match kind with
  | 1 => 12
  | 2 => 30
  | _ => 20

/-- A spare of a group carries a failed lane. -/
def spareUsed (s : State) (kind group lane : Nat) : Bool := match kind with
  | 1 => s.spares.bore.any fun x => x.1 == BitVec.ofNat 8 group
  | 2 => (s.spares.laneOf (BitVec.ofNat 5 group)).isSome
  | _ => (s.stk.ports.get .reset group).spared.any fun x => x.2 == BitVec.ofNat 6 lane

/-- The lanes of a group's rotation (R410): the data lanes in service, ascending, then the spares that carry nothing. -/
def rotation (s : State) (kind group : Nat) : List Nat :=
  (indices (allLanes kind)).filter fun l =>
    !laneOut s kind group l && (decide (l < dataLanes kind) || !spareUsed s kind group l)

/-- A spare of the group carries nothing (R413). -/
def spareFree (s : State) (kind group : Nat) : Bool := (rotation s kind group).any fun l => decide (dataLanes kind ≤ l)

/-- The lane whose turn it is. -/
def turn (l : List Nat) (next : Nat) : Nat := (l.find? fun x => decide (next ≤ x)).getD (l.headD 0)

/-- A calibration step may start in a group, in a breath of `len` µs that opens now (R412, R413, R415). On a Sutrum port the module with the
lower module id starts it (R411). -/
def stepStarts (s : State) (len kind group : Nat) : Bool :=
  decide (group < groupCount kind) && s.cal.en.getLsbD (kind - 1) && decide (stepMax kind + 2 ≤ len)
    && (s.cal.groups.get .reset (groupKey kind group)).step.isNone && spareFree s kind group
    && (kind != 2 || (decide ((s.port (BitVec.ofNat 5 group)).state = .up)
      && decide (s.mgmt.mid.toNat < (s.port (BitVec.ofNat 5 group)).peerMid.toNat)))

/-- A step starts on the lane whose turn it is; a LINK packet tells the peer of a Sutrum port (R411). -/
def startStep (len : Nat) (g : GroupForm) (s : State) : State :=
  let kind := g.kind.toNat
  let group := g.group.toNat
  if !stepStarts s len kind group then s
  else
    let lane := turn (rotation s kind group) (s.cal.groups.get .reset (groupKey kind group)).next.toNat
    let s := if kind = 2 then emit (.calStep (BitVec.ofNat 5 group) (BitVec.ofNat 4 lane)) s else s
    beginStep kind group lane s

/-! ## The breath (R42, R44) -/

/-- Descriptors whose not-before has come become eligible; those whose not-before is this opening name the breath (R46, R47). -/
def admitNamed (s : State) : State :=
  let now := s.time.count.toNat
  { s with rings := s.rings.mapListed .reset fun _ q => { q with descs := q.descs.map fun d =>
      { d with
        eligible := d.eligible || decide (d.notBefore ≤ now)
        named := d.started.isNone && d.notBefore == now && now != 0 } } }

/-- The beat alarm pends (R102). -/
def beatAlarm (s : State) : State :=
  let now := s.time.count
  { s with cores := s.cores.mapListed .reset fun _ k => k.pendAll 16 fun th => { th with beatPend := some now } }

/-- A telemetry sample reaches the controller, stamped with the breath's opening time: the compute-side sensors of Table 16-2, numbered 0 to
303, and every counter (R44, R420). A sensor that the command does not list reads as before. -/
def sample (l : List Reading) (s : State) : State :=
  s.modMgmt fun m => { m with
    sampled := s.time.count
    counters := s.perf.cnt
    errorCounts := s.err.cnt
    sensors := l.foldl (fun t r => if r.sensor.toNat < 304 then t.set 0 r.sensor.toNat r.value else t) m.sensors }

/-- The state that a command leads to. -/
def reached (x : Result) (s : State) : State := match x with
  | .next t => t
  | _ => s

/-- Start the descriptor at a ring's start point by its opcode, if its conditions are met (R308); `record` is what the host returns to a
REKEY. -/
def startAt (r : RingId) (record : Option (BitVec 640)) (s : State) : State :=
  match (s.ring r).startPoint with
  | none => s
  | some d =>
    let o : RingForm := ⟨r⟩
    match d.opcode with
    | 0x00 => reached (execNop o s) s
    | 0x01 => reached (execLaunch o s) s
    | 0x02 => reached (execMove o s) s
    | 0x03 => reached (execFill o s) s
    | 0x04 => reached (execCollect o s) s
    | 0x05 => reached (execUpdate o s) s
    | 0x06 => reached (execDrain o s) s
    | 0x07 => if d.logAuto then reached (execLogmarkAuto o s) s else reached (execLogmark o s) s
    | 0x08 => reached (execInv o s) s
    | 0x09 => reached (execBind o s) s
    | 0x0A => reached (execUnbind o s) s
    | 0x0B => if d.retireOnly then reached (execRetireOnly o s) s else reached (execRekey ⟨r, record⟩ s) s
    | 0x0C => reached (execDescriptorFence o s) s
    | 0x0D => reached (execRestore o s) s
    | 0x0E => reached (execProbe o s) s
    | _ => s

/-- The descriptors that name the breath start, ahead of every other start point and in ring order, as long as one is ready (R44, R308).
Each REKEY with a key record takes the next of `records`; none is left reads as an error of its host read. -/
def startNamed : Nat → List (Option (BitVec 640)) → State → State
  | 0, _, s => s
  | n + 1, records, s =>
    match (readyPoints s).find? fun x => x.2.named with
    | none => s
    | some x =>
      let reads := x.2.opcode == 0x0B && !x.2.retireOnly
      startNamed n (if reads then records.drop 1 else records) (startAt x.1 (records.headD none) s)

/-- The breath's opening is over: a descriptor that named it and could not start waits for the round robin as any other (R308). -/
def forgetNames (s : State) : State :=
  { s with rings := s.rings.mapListed .reset fun _ q => { q with descs := q.descs.map fun d => { d with named := false } } }

/-- A calibration step that is still in progress has missed its breath's close: it is reverted (R45). -/
def revertSteps (s : State) : State :=
  s.cal.groups.entries.foldl (fun s e => revertStep (e.1 / 256) (e.1 % 256) s) s

/-- BREATH_OPEN (R42): telemetry with its heartbeat, named descriptors (at most 16,384 are accepted), drain commits, calibration steps, in this
order (R44). -/
def execBreathOpen (o : BreathForm) (s : State) : Result :=
  if !breathing s || !breathDue s then .next s
  else
    let now := s.time.count
    let len := s.time.len
    let s := revertSteps s
    let s := (s.modTime fun t => { t with openBreath := some (now, len) }).modMod fun m => { m with heartbeatLost := false }
    let due := drainsDue s
    let s := forgetNames (startNamed 16384 o.records (beatAlarm (admitNamed (sample o.readings s))))
    let s := commitDrains now due s
    if s.mod.state = .service ∨ s.mod.state = .serving then .next (o.steps.foldl (fun s g => startStep len.toNat g s) s)
    else .next s

/-! ## Calibration steps (R45, R412 to R415) -/

/-- The instant, 2 µs before the open breath closes, at which a step is reverted, has come (R45). -/
def stepsClose (s : State) : Bool := match s.time.openBreath with
  | some (t, len) => decide (t.toNat + (len.toNat - 2) * 16000 ≤ s.time.count.toNat)
  | none => false

/-- CAL_REVERT (R45). -/
def execCalRevert (o : GroupForm) (s : State) : Result :=
  if stepsClose s then .next (revertStep o.kind.toNat o.group.toNat s) else .next s

/-- UNITKIND of a calibrated group (Table 17-2). -/
def calUnit (kind : Nat) : Byte := match kind with
  | 1 => 3
  | 2 => 4
  | _ => 2

/-- A lane that fell below a minimum three times in a row is treated as failed (R414): a data lane takes its spare, an idle spare goes
out of service. -/
def failCalLane (kind group lane : Nat) (s : State) : State :=
  let s := modLane kind group lane (fun x => { x with failed := true }) s
  if dataLanes kind ≤ lane ∧ kind ≠ 3 then s
  else match kind with
    | 1 => failBore group lane s
    | 2 => failLane (BitVec.ofNat 5 group) (BitVec.ofNat 4 lane) s
    | _ => failChannel group (BitVec.ofNat 6 lane) s

/-- A margin lies below its minimum. -/
def belowMin (s : State) (o : CalDoneForm) : Bool :=
  decide (o.vmargin.toNat < s.cal.minV.toNat ∨ o.hmargin.toNat < s.cal.minH.toNat)

/-- A step raises a drift alarm (R414). -/
def drifts (s : State) (o : CalDoneForm) : Bool := decide (s.cal.drift.toNat < o.phase.toInt.natAbs) || belowMin s o

/-- A drift alarm: counted, a management event, and the corrected error 0x0003. -/
def driftAlarm (lane : Nat) (o : CalDoneForm) (s : State) : State :=
  let s := modLane o.kind.toNat o.group.toNat lane (fun x => { x with alarms := satAdd x.alarms 1 }) s
  report 0 (calUnit o.kind.toNat) 0x0003 (o.group.setWidth 16) none 0
    [o.kind.setWidth 8, BitVec.ofNat 8 lane, o.vmargin, o.hmargin, o.phase] (mgmtEvent 1 0x20 s)

/-- The results of a lane's step. -/
def CalLane.record (o : CalDoneForm) (now : DWord) (low : Bool) (x : CalLane) : CalLane :=
  { x with
    steps := satAdd x.steps 1
    hmargin := o.hmargin
    vmargin := o.vmargin
    phase := o.phase
    active := false
    stamp := now
    low := if low then x.low + 1 else 0 }

/-- CAL_STEP_DONE (R414); a step that has not finished 2 µs before the breath closes is reverted instead (R45). -/
def execCalStepDone (o : CalDoneForm) (s : State) : Result :=
  let kind := o.kind.toNat
  let group := o.group.toNat
  if stepsClose s then .next (revertStep kind group s)
  else match (s.cal.groups.get .reset (groupKey kind group)).step with
  | none => .next s
  | some l =>
    let lane := l.toNat
    let s := modGroup kind group (fun x => { x with step := none }) s
    let s := if kind = 2 then s.modPort (BitVec.ofNat 5 group) fun p => { p with calLane := none } else s
    let s := modLane kind group lane (CalLane.record o s.time.count (belowMin s o)) s
    let s := if drifts s o then driftAlarm lane o s else s
    .next (if 3 ≤ (s.lane kind group lane).low then failCalLane kind group lane s else s)

/-- A write to CAL_CTL (Table 15-6). -/
def writeCalCtl (v : Word) (s : State) : State :=
  let n := v.toNat
  { s with cal := { s.cal with
    minV := BitVec.ofNat 8 (bitsOf n 24 8)
    minH := BitVec.ofNat 8 (bitsOf n 16 8)
    drift := BitVec.ofNat 8 (bitsOf n 8 8)
    en := BitVec.ofNat 3 (bitsOf n 0 3) } }

/-- CAL_CTL (R414, R415, R473). -/
def execCalCtl (o : WriteForm) (s : State) : Result := if bar0Open s then .next (writeCalCtl o.val s) else .next s

end Sys2Proof.Machine
end

