-- ==== Sys2Proof/Machine/Faults.lean ====
section
/-!
DEFINITION. The fault queue and the translation registers of a binding: collection, batches, head and configuration writes (R288
to R295, R493).
-/

namespace Sys2Proof.Machine

/-- Change a binding's translation registers. -/
def State.modXlat (s : State) (b : BindingId) (f : Xlat → Xlat) : State := s.modBnd b fun x => { x with xlat := f x.xlat }

/-- Code of Table 10-7. -/
def FaultCause.code : FaultCause → Nat
  | .notValid => 1
  | .badEntry => 2
  | .badTarget => 3
  | .writeDenied => 4
  | .vaRange => 5
  | .tablePoison => 6

/-- The 32 bytes of a fault record in entry n of a queue of 2^size (Table 10-6). -/
def faultBytes (b : BindingId) (n size : Nat) (f : FaultRec) : List Byte :=
  bytesOf 8 f.stamp ++ bytesOf 8 f.va ++ bytesOf 4 f.seq ++ bytesOf 2 b
    ++ bytesOfNat 2 (f.kind.toNat * 2 ^ 12 + f.unit.toNat)
    ++ [BitVec.ofNat 8 f.cause.code, BitVec.ofNat 8 (4 * f.level.toNat + 2 * bit f.write + bit f.probe), 0, 0]
    ++ phaseWord n size

/-- Free entries of a fault queue (R290). -/
def Xlat.room (x : Xlat) : Nat := 2 ^ x.fqSize.toNat - (x.fqTail - x.fqHead).toNat

/-- A batch is due: the queue has room, and the collector is full or its oldest record has waited 20 µs (R290). -/
def Xlat.due (x : Xlat) (now : DWord) : Bool :=
  !x.wrErr && decide (0 < x.room) && (match x.coll with
    | [] => false
    | f :: _ => decide (64 ≤ x.coll.length) || decide (320000 ≤ (now - f.since).toNat))

/-- Write the oldest records, as many as there is room for; FQ_TAIL advances past them and the vector is sent (R290). -/
def writeBatch (b : BindingId) (s : State) : State :=
  let x := (s.bnd b).xlat
  let batch := x.coll.take x.room
  let n := x.fqTail.toNat
  let s := (batch.zip (indices batch.length)).foldl (fun s p =>
    let i := n + p.2
    hostWrite (some b) (BitVec.ofNat 64 (x.fqBase.toNat * 4096 + 32 * (i % 2 ^ x.fqSize.toNat)))
      (clean (faultBytes b i x.fqSize.toNat p.1)) s) s
  sendMsix x.fqMsix (s.modXlat b fun x => { x with
    fqTail := x.fqTail + BitVec.ofNat 32 batch.length
    coll := x.coll.drop batch.length })

/-- FAULT_COLLECT (R289, R291): the oldest held fault enters the collector when a slot is free. -/
def execFaultCollect (o : BindForm) (s : State) : Result := .next (collectOne o.binding s)

/-- FAULT_BATCH (R290). -/
def execFaultBatch (o : BindForm) (s : State) : Result :=
  if (s.bnd o.binding).xlat.due s.time.count then .next (writeBatch o.binding s) else .next s

/-- FAULT_BATCH_WR_ERR (R290, R493): the batch is held, and code 0x0023 names the binding. -/
def execFaultBatchWrErr (o : BindForm) (s : State) : Result :=
  let x := (s.bnd o.binding).xlat
  if x.due s.time.count then
    let addr := BitVec.ofNat 64 (x.fqBase.toNat * 4096 + 32 * (x.fqTail.toNat % 2 ^ x.fqSize.toNat))
    let s := s.modXlat o.binding fun x => { x with wrErr := true }
    .next (markErrBind (some o.binding) (report 2 6 0x0023 (o.binding.setWidth 16) (some o.binding) addr
      ([2, 0] ++ bytesOf 2 o.binding) s))
  else .next s

/-- WR_ERR is cleared by a write of 1. The batch that failed is due from then on, as its oldest record waited long enough or the
collector was full: the collector writes it again from its first record, and that write too may end in a PCIe error (FAULT_BATCH,
FAULT_BATCH_WR_ERR; R290). -/
def clearWrErr (b : BindingId) (s : State) : State := s.modXlat b fun x => { x with wrErr := false }

/-- FQ_WR_ERR_CLEAR (R290); a W1C write, accepted from RISING on (R473). -/
def execFqWrErrClear (o : BindForm) (s : State) : Result :=
  if barsAnswer s then .next (clearWrErr o.binding s) else .next s

/-- A write of FQ_STATUS: its W1C bits (Table 10-9). -/
def writeFqStatus (b : BindingId) (v : Nat) (s : State) : State :=
  let s := s.modXlat b fun x => { x with
    cfgRej := x.cfgRej && bitsOf v 2 1 == 0
    headRej := x.headRej && bitsOf v 1 1 == 0
    ovf := x.ovf && bitsOf v 0 1 == 0 }
  if bitsOf v 3 1 = 1 then clearWrErr b s else s

/-- A write of FQ_HEAD (R295). -/
def writeFqHead (b : BindingId) (h : Word) (s : State) : State :=
  s.modXlat b fun x =>
    if (h - x.fqHead).toNat ≤ (x.fqTail - x.fqHead).toNat then { x with fqHead := h } else { x with headRej := true }

/-- FQ_HEAD (R295, R473). -/
def execFqHead (o : BindWrite) (s : State) : Result :=
  if bar0Open s then .next (writeFqHead o.binding o.val s) else .next s

/-- A configuration register of the block takes effect only while the binding is FREE (R295). -/
def writeXlatCfg (b : BindingId) (f : Xlat → Xlat) (s : State) : State :=
  if (s.bnd b).state = .free then s.modXlat b f else s.modXlat b fun x => { x with cfgRej := true }

/-- A register half replaced: the low or the high 32 bits of a 64-bit value, or all of it (R471). -/
def replaceHalf (old v : Nat) (wide high : Bool) : Nat :=
  if wide then v % 2 ^ 64
  else if high then v % 2 ^ 32 * 2 ^ 32 + old % 2 ^ 32
  else old / 2 ^ 32 * 2 ^ 32 + v % 2 ^ 32

/-- A 4-byte or an indivisible 8-byte write at offset `off` of a binding's block (Table 10-9, R470, R471). -/
def writeXlat1 (b : BindingId) (off : Nat) (wide : Bool) (v : Nat) (s : State) : State :=
  match off with
  | 0x00 => writeXlatCfg b (fun x => { x with
      root := BitVec.ofNat 48 (replaceHalf x.root.toNat v wide false % 2 ^ 48 / 2 ^ 13 * 2 ^ 13) }) s
  | 0x04 => writeXlatCfg b (fun x => { x with root := BitVec.ofNat 48 (replaceHalf x.root.toNat v false true % 2 ^ 48) }) s
  | 0x08 => writeXlatCfg b (fun x => { x with tkey := BitVec.ofNat 8 v }) s
  | 0x10 => writeXlatCfg b (fun x => { x with
      fqBase := BitVec.ofNat 52 (replaceHalf (x.fqBase.toNat * 4096) v wide false / 4096) }) s
  | 0x14 => writeXlatCfg b (fun x => { x with
      fqBase := BitVec.ofNat 52 (replaceHalf (x.fqBase.toNat * 4096) v false true / 4096) }) s
  | 0x18 => writeXlatCfg b (fun x => { x with
      fqMsix := BitVec.ofNat 11 (bitsOf v 16 11), fqSize := BitVec.ofNat 5 (bitsOf v 0 5) }) s
  | 0x20 => writeFqHead b (BitVec.ofNat 32 v) s
  | 0x28 => writeFqStatus b v s
  | _ => s

/-- A write of 4 or 8 bytes at offset `off` of a binding's block; 8 bytes over two 32-bit registers act as two writes, the lower
first (R470). In FAULTED only W1C fields take it (R473). -/
def writeXlat (b : BindingId) (off : Nat) (wide : Bool) (v : Nat) (s : State) : State :=
  if s.mod.state = .faulted then
    if off = 0x28 then writeFqStatus b v s else s
  else if wide then
    if off = 0x00 ∨ off = 0x10 then writeXlat1 b off true v s
    else writeXlat1 b (off + 4) false (v / 2 ^ 32) (writeXlat1 b off false (v % 2 ^ 32) s)
  else writeXlat1 b off false v s

/-- XLAT_WRITE (R294, R295): a naturally aligned write of 4 or 8 bytes (R470). -/
def execXlatWrite (o : XlatWriteForm) (s : State) : Result :=
  if barsAnswer s && o.off.toNat % (if o.wide then 8 else 4) == 0 then
    .next (writeXlat o.binding o.off.toNat o.wide o.val.toNat s)
  else .next s

/-- The registers of a binding's block as two 32-bit words at each multiple of 8 (Table 10-9). -/
def readXlat (s : State) (b : BindingId) (off : Nat) : Nat :=
  let y := s.bnd b
  let x := y.xlat
  match off with
  | 0x00 => x.root.toNat
  | 0x08 => x.tkey.toNat
  | 0x10 => x.fqBase.toNat * 4096
  | 0x18 => x.fqMsix.toNat * 2 ^ 16 + x.fqSize.toNat
  | 0x20 => x.fqTail.toNat * 2 ^ 32 + x.fqHead.toNat
  | 0x28 => x.seq.toNat * 2 ^ 32 + min x.hold.length 0xFFFF * 2 ^ 16 + x.coll.length * 2 ^ 8 + 8 * bit x.wrErr
      + 4 * bit x.cfgRej + 2 * bit x.headRej + bit x.ovf
  | _ => 0

end Sys2Proof.Machine
end

