-- ==== Sys2Proof/Machine/VectorQueue.lean ====
section
/-!
DEFINITION. The vector queue (R65, R89, R92, R131, R138, R139, R229): one meaning for each vector instruction, which checks its word and
enters the queue with what it captures.
-/

namespace Sys2Proof.Machine

/-! ## Entering the queue -/

/-- The number that the next entry of either queue takes (R93). -/
def Core.nextSeq (k : Core) : Nat :=
  (k.vecAll.map VInstr.seq ++ k.matAll.map MInstr.seq).foldl max 0 + 1

/-- An instruction with what the queue captures for every one (R89), its fields still to be named. -/
def VInstr.capture (k : Core) (op : VOp) : VInstr where
  op := op
  seq := k.nextSeq
  pc := (k.thread 0).pc
  vd := 0
  va := 0
  vb := 0
  vc := 0
  pm := 0
  s := false
  ci := false
  co := false
  zs := false
  h := false
  ga := 0
  gb := 0
  base := 0
  fcsr := (k.thread 0).fcsr
  fmt := (k.vec.vcfg).setWidth 4
  cfmt := (k.vec.vcfg >>> 4).setWidth 4
  vl := k.vec.vl.setWidth 11
  rm := k.vec.vxrm.setWidth 2
  rpos := k.vec.rpos
  cin := none

/-- FMT names an integer format now. -/
def Core.intFmt (k : Core) : Bool := (intOf (bitsOf k.vec.vcfg.toNat 0 4)).isSome

/-- The steps of rpos that an instruction takes as it enters (R229). -/
def VInstr.rposSteps (i : VInstr) : Nat := if i.draws ∧ fcsrRm i.fcsr = 6 then (i.vl.toNat + 63) / 64 else 0

/-- An instruction joins the vector queue, and h0 goes on. -/
def pushV (c : CoreId) (i : VInstr) (s : State) : State :=
  retire c 0 false (s.modCore c fun k => { k with vec := { k.vec with
    queue := k.vec.queue ++ [i]
    rpos := k.vec.rpos + BitVec.ofNat 64 i.rposSteps } })

/-- Issue a vector instruction: `bad` where a value is unassigned, `zero` where a field marked zero is not (R67); it is for h0 alone
(R64) and illegal while the queues are frozen (R122); with its queue full it waits (R92). `gs` are the g registers captured. -/
def enqueueV (c : CoreId) (t : ThreadId) (bad zero : Bool) (gs : List (BitVec 5)) (mk : Core → VInstr) (s : State) : Result :=
  let k := s.core c
  let sub := lowestSub [(bad, 1), (zero, 2), (decide (t ≠ 0), 4), (k.frozen, 7)]
  if sub.isNone && decide (16 ≤ k.vec.queue.length) then .next s
  else issue c t sub gs [] [] (fun s => pushV c (mk (s.core c)) s) s

/-- The fields of the vector format; an S form captures g[vb] (R138). -/
def vformInstr (o : VForm) (op : VOp) (k : Core) : VInstr :=
  { VInstr.capture k op with
    vd := o.vd, va := o.va, vb := o.vb, pm := o.pm, s := o.s, ga := (k.thread 0).rg o.va, gb := (k.thread 0).rg o.vb }

/-- The g register that an S form captures. -/
def vformScalarG (o : VForm) (s : State) : List (BitVec 5) := if o.s ∧ (s.core o.core).intFmt then [o.vb] else []

/-- An instruction that Tables 05-5, 05-6 and 05-11 mark S. -/
def vS (o : VForm) (op : VOp) (s : State) : Result :=
  enqueueV o.core o.th false false (vformScalarG o s) (vformInstr o op) s

/-- An instruction of one vector source: S and vb must be zero. -/
def vUnary (o : VForm) (op : VOp) (s : State) : Result := enqueueV o.core o.th o.s (nonzero o.vb) [] (vformInstr o op) s

/-- A compare: vd[4:3] must be zero. -/
def vCompare (o : VForm) (op : VOp) (s : State) : Result :=
  enqueueV o.core o.th false (decide (8 ≤ o.vd.toNat)) (vformScalarG o s) (vformInstr o op) s

/-- A narrowing clip, which requires S = 1. -/
def vClip (o : VForm) (op : VOp) (s : State) : Result := enqueueV o.core o.th (!o.s) false (vformScalarG o s) (vformInstr o op) s

/-- An instruction of VPERM, VXFER or the summaries, without an S form, that captures the g registers of `gs`; `zero` as for R67. -/
def vMove (o : VForm) (op : VOp) (zero : Bool) (gs : List (BitVec 5)) (s : State) : Result :=
  enqueueV o.core o.th o.s zero gs (vformInstr o op) s

/-- A slide by the vb field (Table 05-7). -/
def vSlideImm (o : VForm) (op : VOp) (s : State) : Result :=
  enqueueV o.core o.th o.s false [] (fun k => { vformInstr o op k with gb := o.vb.setWidth 32 }) s

/-- Predicate logic: predicate numbers below 8, pm zero (Table 05-8). -/
def vLogic (o : VForm) (op : VOp) (zero : Bool) (s : State) : Result :=
  vMove o op (zero || decide (8 ≤ o.vd.toNat) || decide (8 ≤ o.va.toNat) || decide (8 ≤ o.vb.toNat) || nonzero o.pm) [] s

/-- A summary of a predicate: its number is below 8. -/
def vSummary (o : VForm) (op : VOp) (s : State) : Result := vMove o op (decide (8 ≤ o.va.toNat)) [] s

/-- A fused multiply-add: a vector of three sources, or with f[vb] (majors 0x29 and 0x2B). -/
def vFused (o : VFmaForm) (op : VOp) (s : State) : Result :=
  enqueueV o.core o.th false false [] (fun k => { VInstr.capture k op with
    vd := o.vd, va := o.va, vb := o.vb, vc := o.vc, pm := o.pm, s := o.s }) s

/-- The fields of a scan or sum reduction. -/
def vscanInstr (o : VScanForm) (op : VOp) (k : Core) : VInstr :=
  { VInstr.capture k op with
    vd := o.vd, va := o.va, vb := o.vb, pm := o.pm, ci := o.ci, co := o.co, gb := (k.thread 0).rg o.vb }

/-- The g register that a carry-in captures. -/
def vscanCarryG (o : VScanForm) (s : State) : List (BitVec 5) :=
  if o.ci ∧ (s.core o.core).intFmt then [o.vb] else []

/-- A scan (Table 05-8). -/
def vScan (o : VScanForm) (op : VOp) (s : State) : Result :=
  enqueueV o.core o.th false (nonzero o.z) (vscanCarryG o s) (vscanInstr o op) s

/-! ## The instructions -/

/-- VFADD (Table 05-5). -/
def execVfadd (o : VForm) (s : State) : Result := vS o .fadd s

/-- VFSUB (Table 05-5). -/
def execVfsub (o : VForm) (s : State) : Result := vS o .fsub s

/-- VFMUL (Table 05-5). -/
def execVfmul (o : VForm) (s : State) : Result := vS o .fmul s

/-- VFMIN (Table 05-5). -/
def execVfmin (o : VForm) (s : State) : Result := vS o .fmin s

/-- VFMAX (Table 05-5). -/
def execVfmax (o : VForm) (s : State) : Result := vS o .fmax s

/-- VFSGNJ (Table 05-5). -/
def execVfsgnj (o : VForm) (s : State) : Result := vS o .fsgnj s

/-- VADD2 (Table 05-5). -/
def execVadd2 (o : VForm) (s : State) : Result := vS o .add2 s

/-- VFEXP (Table 05-5, R237). -/
def execVfexp (o : VForm) (s : State) : Result := vUnary o .fexp s

/-- VFLOG (Table 05-5, R237). -/
def execVflog (o : VForm) (s : State) : Result := vUnary o .flog s

/-- VFSIN (Table 05-5, R237). -/
def execVfsin (o : VForm) (s : State) : Result := vUnary o .fsin s

/-- VFCOS (Table 05-5, R237). -/
def execVfcos (o : VForm) (s : State) : Result := vUnary o .fcos s

/-- VFRSQRT (Table 05-5, R237). -/
def execVfrsqrt (o : VForm) (s : State) : Result := vUnary o .frsqrt s

/-- VFRCP (Table 05-5, R237). -/
def execVfrcp (o : VForm) (s : State) : Result := vUnary o .frcp s

/-- VCVT (R160). -/
def execVcvt (o : VForm) (s : State) : Result := vUnary o .cvt s

/-- VFMA (Table 05-5). -/
def execVfma (o : VFmaForm) (s : State) : Result := vFused o .fma s

/-- VFMS (Table 05-5). -/
def execVfms (o : VFmaForm) (s : State) : Result := vFused o .fms s

/-- VFNMA (Table 05-5). -/
def execVfnma (o : VFmaForm) (s : State) : Result := vFused o .fnma s

/-- VFNMS (Table 05-5). -/
def execVfnms (o : VFmaForm) (s : State) : Result := vFused o .fnms s

/-- VFMA2 (Table 05-5). -/
def execVfma2 (o : VFmaForm) (s : State) : Result := vFused o .fma2 s

/-- VADD (Table 05-6). -/
def execVadd (o : VForm) (s : State) : Result := vS o .add s

/-- VSUB (Table 05-6). -/
def execVsub (o : VForm) (s : State) : Result := vS o .sub s

/-- VMUL (Table 05-6). -/
def execVmul (o : VForm) (s : State) : Result := vS o .mul s

/-- VMULH (Table 05-6). -/
def execVmulh (o : VForm) (s : State) : Result := vS o .mulh s

/-- VMULHU (Table 05-6). -/
def execVmulhu (o : VForm) (s : State) : Result := vS o .mulhu s

/-- VAND (Table 05-6). -/
def execVand (o : VForm) (s : State) : Result := vS o .and s

/-- VOR (Table 05-6). -/
def execVor (o : VForm) (s : State) : Result := vS o .or s

/-- VXOR (Table 05-6). -/
def execVxor (o : VForm) (s : State) : Result := vS o .xor s

/-- VSLL (Table 05-6). -/
def execVsll (o : VForm) (s : State) : Result := vS o .sll s

/-- VSRL (Table 05-6). -/
def execVsrl (o : VForm) (s : State) : Result := vS o .srl s

/-- VSRA (Table 05-6). -/
def execVsra (o : VForm) (s : State) : Result := vS o .sra s

/-- VMIN (Table 05-6). -/
def execVmin (o : VForm) (s : State) : Result := vS o .min s

/-- VMAX (Table 05-6). -/
def execVmax (o : VForm) (s : State) : Result := vS o .max s

/-- VMINU (Table 05-6). -/
def execVminu (o : VForm) (s : State) : Result := vS o .minu s

/-- VMAXU (Table 05-6). -/
def execVmaxu (o : VForm) (s : State) : Result := vS o .maxu s

/-- VMERGE (Table 05-6). -/
def execVmerge (o : VForm) (s : State) : Result := vS o .merge s

/-- VSADD (R151, R152, Table 05-11). -/
def execVsadd (o : VForm) (s : State) : Result := vS o .sadd s

/-- VSADDU (R151, R152, Table 05-11). -/
def execVsaddu (o : VForm) (s : State) : Result := vS o .saddu s

/-- VSSUB (R151, R152, Table 05-11). -/
def execVssub (o : VForm) (s : State) : Result := vS o .ssub s

/-- VSSUBU (R151, R152, Table 05-11). -/
def execVssubu (o : VForm) (s : State) : Result := vS o .ssubu s

/-- VAADD (R151, R152, Table 05-11). -/
def execVaadd (o : VForm) (s : State) : Result := vS o .aadd s

/-- VAADDU (R151, R152, Table 05-11). -/
def execVaaddu (o : VForm) (s : State) : Result := vS o .aaddu s

/-- VASUB (R151, R152, Table 05-11). -/
def execVasub (o : VForm) (s : State) : Result := vS o .asub s

/-- VSMUL (R151, R152, Table 05-11). -/
def execVsmul (o : VForm) (s : State) : Result := vS o .smul s

/-- VSSRL (R151, R152, Table 05-11). -/
def execVssrl (o : VForm) (s : State) : Result := vS o .ssrl s

/-- VSSRA (R151, R152, Table 05-11). -/
def execVssra (o : VForm) (s : State) : Result := vS o .ssra s

/-- VNCLIP (R151, R152, Table 05-11). -/
def execVnclip (o : VForm) (s : State) : Result := vClip o .nclip s

/-- VNCLIPU (R151, R152, Table 05-11). -/
def execVnclipu (o : VForm) (s : State) : Result := vClip o .nclipu s

/-- VCEQ (Table 05-6). -/
def execVceq (o : VForm) (s : State) : Result := vCompare o .ceq s

/-- VCNE (Table 05-6). -/
def execVcne (o : VForm) (s : State) : Result := vCompare o .cne s

/-- VCLT (Table 05-6). -/
def execVclt (o : VForm) (s : State) : Result := vCompare o .clt s

/-- VCLE (Table 05-6). -/
def execVcle (o : VForm) (s : State) : Result := vCompare o .cle s

/-- VCLTU (Table 05-6). -/
def execVcltu (o : VForm) (s : State) : Result := vCompare o .cltu s

/-- VCLEU (Table 05-6). -/
def execVcleu (o : VForm) (s : State) : Result := vCompare o .cleu s

/-- VFCEQ (Table 05-6, R221). -/
def execVfceq (o : VForm) (s : State) : Result := vCompare o .fceq s

/-- VFCLT (Table 05-6, R221). -/
def execVfclt (o : VForm) (s : State) : Result := vCompare o .fclt s

/-- VFCLE (Table 05-6, R221). -/
def execVfcle (o : VForm) (s : State) : Result := vCompare o .fcle s

/-- VFCUN (Table 05-6, R221). -/
def execVfcun (o : VForm) (s : State) : Result := vCompare o .fcun s

/-- VSLIDEUP by g[vb] (R157). -/
def execVslideup (o : VForm) (s : State) : Result := vMove o .slideup false [o.vb] s

/-- VSLIDEDN by g[vb] (R157). -/
def execVslidedn (o : VForm) (s : State) : Result := vMove o .slidedn false [o.vb] s

/-- VSLIDEUPI by the vb field (R157). -/
def execVslideupi (o : VForm) (s : State) : Result := vSlideImm o .slideup s

/-- VSLIDEDNI by the vb field (R157). -/
def execVslidedni (o : VForm) (s : State) : Result := vSlideImm o .slidedn s

/-- VCOMPRESS (R157). -/
def execVcompress (o : VForm) (s : State) : Result := vMove o .compress false [] s

/-- VBCAST of g[va] (Table 05-7). -/
def execVbcast (o : VForm) (s : State) : Result := vMove o .bcast false [o.va] s

/-- VBCASTF of f[va] (Table 05-7). -/
def execVbcastf (o : VForm) (s : State) : Result := vMove o .bcastf false [] s

/-- VINSERT of g[va] at g[vb]; pm must be zero (Table 05-7). -/
def execVinsert (o : VForm) (s : State) : Result := vMove o .insert (nonzero o.pm) [o.va, o.vb] s

/-- VINSERTF of f[va] at g[vb]; pm must be zero (Table 05-7). -/
def execVinsertf (o : VForm) (s : State) : Result := vMove o .insertf (nonzero o.pm) [o.vb] s

/-- VSCANI (R154). -/
def execVscani (o : VScanForm) (s : State) : Result := vScan o .scani s

/-- VSCANX (R154). -/
def execVscanx (o : VScanForm) (s : State) : Result := vScan o .scanx s

/-- VSSCANI (R154). -/
def execVsscani (o : VScanForm) (s : State) : Result := vScan o .sscani s

/-- VSSCANX (R154). -/
def execVsscanx (o : VScanForm) (s : State) : Result := vScan o .sscanx s

/-- VSCAN2 (R154, R159). -/
def execVscan2 (o : VScanForm) (s : State) : Result := vScan o .scan2 s

/-- VRSUM (R156): fn is 0x00 or 0x10, and vd must be zero. -/
def execVrsum (o : VScanForm) (s : State) : Result :=
  enqueueV o.core o.th (o.co || nonzero o.z) (nonzero o.vd) (vscanCarryG o s) (vscanInstr o .rsum) s

/-- PAND (Table 05-8). -/
def execPand (o : VForm) (s : State) : Result := vLogic o .pand false s

/-- POR (Table 05-8). -/
def execPor (o : VForm) (s : State) : Result := vLogic o .por false s

/-- PXOR (Table 05-8). -/
def execPxor (o : VForm) (s : State) : Result := vLogic o .pxor false s

/-- PANDN (Table 05-8). -/
def execPandn (o : VForm) (s : State) : Result := vLogic o .pandn false s

/-- PNOT (Table 05-8): vb must be zero. -/
def execPnot (o : VForm) (s : State) : Result := vLogic o .pnot (nonzero o.vb) s

/-- VPCOUNT (R158). -/
def execVpcount (o : VForm) (s : State) : Result := vSummary o .pcount s

/-- VPANY (R158). -/
def execVpany (o : VForm) (s : State) : Result := vSummary o .pany s

/-- VPALL (R158). -/
def execVpall (o : VForm) (s : State) : Result := vSummary o .pall s

/-- VPFIRST (R158). -/
def execVpfirst (o : VForm) (s : State) : Result := vSummary o .pfirst s

/-- VEXTRACT (R158): pm must be zero. -/
def execVextract (o : VForm) (s : State) : Result := vMove o .extract (nonzero o.pm) [o.vb] s

/-- VEXTRACTF (R158): pm must be zero. -/
def execVextractf (o : VForm) (s : State) : Result := vMove o .extractf (nonzero o.pm) [o.vb] s

/-- A vector memory instruction with the va that R63 forms at queue entry (R65, R145). -/
def vmemInstr (o : VMemForm) (op : VOp) (k : Core) : VInstr :=
  { VInstr.capture k op with
    vd := o.vd, pm := o.pm, zs := o.zs, h := o.h, base := BitVec.ofNat 64 (spanVa k o.sp ((k.thread 0).rg o.ra)) }

/-- VLD (R145, Table 05-3): H must be zero. -/
def execVld (o : VMemForm) (s : State) : Result :=
  enqueueV o.core o.th false (nonzero o.z || o.h) [o.ra] (vmemInstr o .vld) s

/-- VST (R145, R150, Table 05-3): Z must be zero. -/
def execVst (o : VMemForm) (s : State) : Result :=
  enqueueV o.core o.th false (nonzero o.z || o.zs) [o.ra] (vmemInstr o .vst) s

end Sys2Proof.Machine
end

