-- ==== Sys2Proof/Machine/MatrixQueue.lean ====
section
/-!
DEFINITION. The matrix queue (R65, R81, R89, R92, R168, R169, R173, R191, R229): one meaning for each tile and array instruction, which
checks its two words and enters the queue with what it captures.
-/

namespace Sys2Proof.Machine

/-- An instruction with what the queue captures for every one, its fields still to be named. -/
def MInstr.capture (k : Core) (op : MOp) (shape : Word) : MInstr where
  op := op
  seq := k.nextSeq
  pc := (k.thread 0).pc
  shape := shape
  t := 0
  t1 := 0
  tb0 := 0
  tb1 := 0
  am := 0
  a := 0
  acc := 0
  v := 0
  zacc := false
  rel := false
  h := false
  base := 0
  scale := 0
  stride := 0
  fcsr := (k.thread 0).fcsr
  rpos := k.vec.rpos
  addrs := none

/-- The steps of rpos that an ACCRD in mode 6 takes as it enters (R229). -/
def MInstr.rposSteps (i : MInstr) : Nat :=
  if (i.op = .accrd ∨ i.op = .accrdV) ∧ i.mode = 6 then (shRows i.shape * shN i.shape + 63) / 64 else 0

/-- An active loop ends on the first word of the long-form instruction at pc (R81). -/
def Thread.loopSplits (th : Thread) : Bool :=
  (indices 3).any fun k => th.loopActive k && (th.le.get 0 k) == th.pc.setWidth 32

/-- A long-form instruction completes: a is its second word (R78), but a loop that ends on its first word faults with the loop
registers unchanged (R81). -/
def retireLong (c : CoreId) (s : State) : State :=
  let th := s.thread c 0
  if th.loopSplits then
    takeLater c 0 (.sync 15 7 0) (s.modThread c 0 fun th => { th.tick false with pc := th.pc + 8, stepOver := false })
  else
    let (n, th) := loopNext th (th.pc + 4)
    s.setThread c 0 { th.tick false with pc := n, stepOver := false }

/-- An instruction joins the matrix queue, and h0 goes on. -/
def pushM (c : CoreId) (i : MInstr) (s : State) : State :=
  retireLong c (s.modCore c fun k =>
    { k with
      mat := { k.mat with queue := k.mat.queue ++ [i] }
      vec := { k.vec with rpos := k.vec.rpos + BitVec.ofNat 64 i.rposSteps } })

/-- What the fetch and check of the shape word raises: bad parity, or a nonzero bit in a field marked zero (R67, R101, R169). -/
def shapeFault (c : CoreId) (shape zero : Word) (s : State) : Option (State → State) :=
  let pc := (s.thread c 0).pc
  if parityBad (s.core c) (pc + 4) then some (parityFault c 0 2 (pc + 4))
  else if shape &&& zero ≠ 0 then some (raise c 0 (.sync 3 2 0) pc)
  else none

/-- Issue a tile or array instruction: `zero` where a field of the first word marked zero is not, `noArray` where AM = 0, `mask` the bits of
the shape word that must be zero, `gs` the g registers captured. -/
def enqueueM (c : CoreId) (t : ThreadId) (zero noArray : Bool) (shape mask : Word) (gs : List (BitVec 5)) (mk : Core → MInstr)
    (s : State) : Result :=
  let k := s.core c
  let sub := lowestSub [(zero, 2), (noArray, Config.emptyMaskSub), (decide (t ≠ 0), 4), (k.frozen, 7)]
  let bad := sub.map fun n => Cause.sync 3 n 0
  let second := if bad.isSome then none else shapeFault c shape mask s
  if bad.isNone && second.isNone && decide (16 ≤ k.mat.queue.length) then .next s
  else issueWith c t bad second gs [] [] (fun s => pushM c (mk (s.core c)) s) s

/-! ## Tile memory (Table 06-7) -/

/-- A TLD, TST, TLDS or TSTS with the base that R174 forms and its stride. -/
def tileInstr (o : TileForm) (op : MOp) (k : Core) : MInstr :=
  { MInstr.capture k op o.shape with
    t := o.t
    base := BitVec.ofNat 64 (spanVa k o.sp ((k.thread 0).rg o.ra))
    stride := (k.thread 0).rg o.rb }

/-- A tile instruction that moves memory by base and stride. -/
def tileMove (o : TileForm) (op : MOp) (s : State) : Result :=
  enqueueM o.core o.th (nonzero o.z) false o.shape 0x000FF7FF [o.ra, o.rb] (tileInstr o op) s

/-- TLD (R174, R175). -/
def execTld (o : TileForm) (s : State) : Result := tileMove o .tld s

/-- TST (R174, R175). -/
def execTst (o : TileForm) (s : State) : Result := tileMove o .tst s

/-- TLDS (R176). -/
def execTlds (o : TileForm) (s : State) : Result := tileMove o .tlds s

/-- TSTS (R176). -/
def execTsts (o : TileForm) (s : State) : Result := tileMove o .tsts s

/-- TLDG (R177): ra names the address vector register, and rb must be zero. -/
def execTldg (o : TileForm) (s : State) : Result :=
  enqueueM o.core o.th (nonzero o.z || nonzero o.rb) false o.shape 0xC00FFFFF []
    (fun k => { MInstr.capture k .tldg o.shape with
      t := o.t, v := o.ra, base := (k.span o.sp).base, scale := (k.span o.sp).scale }) s

/-- TZERO (R178): ra, rb and sp must be zero. -/
def execTzero (o : TileForm) (s : State) : Result :=
  enqueueM o.core o.th (nonzero o.z || nonzero o.ra || nonzero o.rb || nonzero o.sp) false o.shape 0x000FFFFF []
    (fun k => { MInstr.capture k .tzero o.shape with t := o.t }) s

/-- TTAG (R178): rb and sp must be zero; ra is the destination. -/
def execTtag (o : TileForm) (s : State) : Result :=
  enqueueM o.core o.th (nonzero o.z || nonzero o.rb || nonzero o.sp) false o.shape 0xFFFFFFFF []
    (fun k => { MInstr.capture k .ttag o.shape with t := o.t, v := o.ra }) s

/-! ## Array instructions (Tables 07-2 to 07-5) -/

/-- A register field is nonzero although no array of `arrays` is in AM (R191). -/
def unusedField (am arrays : BitVec 4) (t : BitVec 3) : Bool := am &&& arrays == 0 && nonzero t

/-- MMA (R192). -/
def execMma (o : MmaForm) (s : State) : Result :=
  enqueueM o.core o.th
    (nonzero o.z || unusedField o.am 0x3 o.ta0 || unusedField o.am 0xC o.ta1 || unusedField o.am 0x5 o.tb0
      || unusedField o.am 0xA o.tb1)
    (o.am == 0) o.shape 0x00000800 []
    (fun k => { MInstr.capture k .mma o.shape with
      t := o.ta0, t1 := o.ta1, tb0 := o.tb0, tb1 := o.tb1, am := o.am, acc := o.acc, zacc := o.zacc }) s

/-- WLOAD (R195): T1, ACC and Z must be zero. -/
def execWload (o : WeightForm) (s : State) : Result :=
  enqueueM o.core o.th (nonzero o.z || nonzero o.t1 || nonzero o.acc || o.zacc) (o.am == 0) o.shape 0x000FFFFF []
    (fun k => { MInstr.capture k .wload o.shape with t := o.t0, am := o.am }) s

/-- An MVM or MVMT. -/
def xMove (o : WeightForm) (op : MOp) (s : State) : Result :=
  enqueueM o.core o.th (nonzero o.z || unusedField o.am 0x3 o.t0 || unusedField o.am 0xC o.t1) (o.am == 0) o.shape 0x000F0E00 []
    (fun k => { MInstr.capture k op o.shape with t := o.t0, t1 := o.t1, am := o.am, acc := o.acc, zacc := o.zacc }) s

/-- MVM (R196). -/
def execMvm (o : WeightForm) (s : State) : Result := xMove o .mvm s

/-- MVMT (R196). -/
def execMvmt (o : WeightForm) (s : State) : Result := xMove o .mvmt s

/-- An accumulator instruction: `zero` where a field that its fn leaves zero is not. -/
def accMove (o : AccForm) (op : MOp) (zero : Bool) (mask : Word) (s : State) : Result :=
  enqueueM o.core o.th (nonzero o.z || zero) false o.shape mask []
    (fun k => { MInstr.capture k op o.shape with a := o.a, acc := o.acc, t := o.t, v := o.v, rel := o.rel, h := o.h }) s

/-- ACCRD to a tile register (R203, R204). -/
def execAccrd (o : AccForm) (s : State) : Result := accMove o .accrd (nonzero o.v) 0x000F0600 s

/-- ACCRD to vector registers (R203). -/
def execAccrdVector (o : AccForm) (s : State) : Result := accMove o .accrdV (nonzero o.t) 0x030F0600 s

/-- ACCWR (R206). -/
def execAccwr (o : AccForm) (s : State) : Result := accMove o .accwr (nonzero o.t || o.rel || o.h) 0x030F07C0 s

/-- ACCFREE (R200). -/
def execAccfree (o : AccForm) (s : State) : Result :=
  accMove o .accfree (nonzero o.t || nonzero o.v || o.rel || o.h) 0xFFFFFFFF s

/-- ACCTAG (R200). -/
def execAcctag (o : AccForm) (s : State) : Result := accMove o .acctag (nonzero o.t || o.rel || o.h) 0xFFFFFFFF s

end Sys2Proof.Machine
end

