-- ==== Sys2Proof/Machine/Mgmt.lean ====
section
/-!
DEFINITION. The facility side toward host and operator: mailbox, firmware images, pairing, SPDM and the KEK (R418, R419, R423, R426 to
R438).
-/

namespace Sys2Proof.Machine

/-! ## The mailbox (R426, R427) -/

/-- Change the mailbox. -/
def State.modMb (s : State) (f : Mailbox → Mailbox) : State := s.modMgmt fun m => { m with mb := f m.mb }

/-- Bytes at an offset of a mailbox memory. -/
def storeBytes (m : Memory) (a : Nat) (l : List Byte) : Memory :=
  l.zipIdx.foldl (fun m x => Table.set 0 m (a + x.2) x.1) m

/-- A message enters MB_OUT. -/
def Mailbox.take (msg : List Byte) (b : Mailbox) : Mailbox :=
  { b with
    outData := storeBytes b.outData 0 (msg.take 4096)
    olen := BitVec.ofNat 13 (min msg.length 4096)
    outValid := true }

/-- The message that waits first: responses go before the controller's own messages. -/
def Mailbox.next (b : Mailbox) : Option (List Byte × Mailbox) :=
  match b.responses, b.events with
  | m :: r, _ => some (m, { b with responses := r })
  | [], m :: r => some (m, { b with events := r })
  | [], [] => none

/-- A waiting message enters MB_OUT when it is free, the channel is up and the controller runs (R419, R423, R427). -/
def deliverOut (s : State) : State :=
  let b := s.mgmt.mb
  if b.outValid || !b.link || !controllerUp s || !hostAlive s then s
  else match b.next with
    | some (m, b) => sendMsix b.msix (s.modMb fun _ => b.take m)
    | none => s

/-- A write of bytes to MB_IN at an offset (R427). -/
def writeMbIn (off : Nat) (l : List Byte) (s : State) : State :=
  s.modMb fun b => if b.inBusy then { b with rej := true } else { b with inData := storeBytes b.inData off l }

/-- ACK (R427): MB_OUT is released. -/
def ackOut (s : State) : State :=
  if s.mgmt.mb.outValid then deliverOut (s.modMb fun b => { b with outValid := false })
  else s.modMb fun b => { b with rej := true }

/-- MSIX, LEN and GO of a write to MB_CTL. It is ignored and sets REJ while IN_BUSY = 1, for it writes LEN, and where GO comes with a LEN
outside 1 to 4,096 (R427, notes/assumptions/36.md). -/
def Mailbox.control (v : Word) (b : Mailbox) : Mailbox :=
  let len : BitVec 13 := BitVec.ofNat 13 (bitsOf v.toNat 0 13)
  let go := v.getLsbD 31
  if b.inBusy || (go && (decide (len = 0) || decide (4096 < len.toNat))) then { b with rej := true }
  else { b with msix := BitVec.ofNat 11 (bitsOf v.toNat 16 11), len := len, inBusy := go }

/-- A write to MB_CTL (Table 16-6): its ACK is judged by itself. -/
def writeMbCtl (v : Word) (s : State) : State :=
  let s := s.modMb (Mailbox.control v)
  if v.getLsbD 30 then ackOut s else s

/-- GO (R427): a write to MB_CTL with GO = 1. -/
def execGo (o : WriteForm) (s : State) : Result :=
  if barsAnswer s then .next (writeMbCtl (o.val ||| 0x80000000) s) else .next s

/-- ACK (R427). -/
def execAck (s : State) : Result := if barsAnswer s then .next (ackOut s) else .next s

/-- The controller's EID (R426). -/
def controllerEid : Byte := 0x10

/-- The EID that a message in MB_IN assigns to the driver (R426): an MCTP control request Set Endpoint ID, of the layout of DSP0236 (PRESUMED,
notes/assumptions/36.md): byte 0 is message type 0, byte 2 command 1, byte 4 the EID. -/
def Mailbox.setsEid (b : Mailbox) : Option Byte :=
  let at_ (n : Nat) : Byte := Table.get 0 b.inData n
  if 5 ≤ b.len.toNat ∧ at_ 0 = 0 ∧ at_ 2 = 1 then some (at_ 4) else none

/-- MB_TAKE (R427): the controller takes MB_IN; a Set Endpoint ID assigns the driver's EID (R426). -/
def execMbTake (s : State) : Result :=
  if s.mgmt.mb.inBusy && s.mgmt.mb.link && controllerUp s && hostAlive s then
    .next (s.modMgmt fun m => { m with
      mb := { m.mb with inBusy := false }
      hostEid := m.mb.setsEid.getD m.hostEid })
  else .next s

/-- A message that the controller starts joins the queue of at most 64; the oldest is dropped for it, and an event record counts the
loss (R427). -/
def queueEvent (m : List Byte) (s : State) : State :=
  if s.mgmt.mb.events.length < 64 then s.modMb fun b => { b with events := b.events ++ [m] }
  else mgmtEvent 1 0x30 (s.modMb fun b => { b with events := b.events.drop 1 ++ [m] })

/-- MB_RESPONSE (R427). -/
def execMbResponse (o : MessageForm) (s : State) : Result :=
  if !controllerUp s || !hostAlive s then .next s
  else .next (deliverOut (if o.event then queueEvent o.bytes s
    else s.modMb fun b => { b with responses := b.responses ++ [o.bytes] }))

/-- MCTP_SILENCE (R419). -/
def execMctpSilence (s : State) : Result := if hostAlive s then .next (s.modMb fun b => { b with link := false }) else .next s

/-- MCTP_CHANNEL_UP (R419). -/
def execMctpChannelUp (s : State) : Result :=
  if hostAlive s then .next (deliverOut (s.modMb fun b => { b with link := true })) else .next s

/-- MCTP_AUTH_FAIL (R418): the message is discarded and logged. -/
def execMctpAuthFail (s : State) : Result := if controllerUp s then .next (mgmtEvent 1 0x31 s) else .next s

/-- CONTROLLER_RESTART_DONE (R423, R430): component 1's pending bank takes effect and its active bank is verified, the restart is logged
and kind 1 messages go on. -/
def execControllerRestartDone (s : State) : Result :=
  if s.mod.state ≠ .off ∧ s.mgmt.restarting then
    let mismatch := s.mgmt.mismatch
    let s := (startAgain true s).modMgmt fun m => { m with restarting := false, mismatch := false }
    .next (deliverOut (if mismatch then mgmtEvent 2 0x11 s else mgmtEvent 0 0x12 s))
  else .next s

/-! ## Firmware images (R428, R429) -/

/-- Bytes lo to lo + n − 1 of the header. -/
def imageNum (o : ImageForm) (lo n : Nat) : Nat := headerNum o.header lo n

def imageComponent (o : ImageForm) : Nat := imageNum o 4 1

/-- The payload has LENGTH bytes, and DIGEST is its SHAKE256 output (Table 16-7). -/
def digestHolds (o : ImageForm) : Bool :=
  imageNum o 16 8 == o.payload.length && imageNum o 24 64 == (digest512 o.payload).toNat

/-- The first check that fails, in the order of R429; 0 where none does. -/
def imageCheck (counter : Nat) (o : ImageForm) : Nat :=
  let named := decide (1 ≤ imageComponent o ∧ imageComponent o ≤ 4)
  let zero := imageNum o 5 3 == 0 && imageNum o 13 3 == 0 && imageNum o 88 8 == 0
  if !(imageNum o 0 4 == 0x4D584B46 && named && zero && decide (imageNum o 16 8 ≤ 60 * 2 ^ 20)) then 1
  else if !o.sigOk then 2
  else if !digestHolds o then 3
  else if imageNum o 12 1 < counter then 4
  else 0

/-- The inactive bank takes an image, and waits to become active (R430). -/
def Firmware.load (o : ImageForm) (f : Firmware) : Firmware :=
  { f.setBank (!f.active) ⟨o.header, o.sig, o.payload, false, 0⟩ with pend := true }

/-- FIRMWARE_IMAGE (R429): one update at a time; a second is refused while another is in progress. -/
def execFirmwareImage (o : ImageForm) (s : State) : Result :=
  if !controllerUp s then .next s
  else if o.during then .next (emit (.image (imageComponent o) 5) s)
  else
    let n := imageCheck (s.fw (imageComponent o)).counter.toNat o
    let s := emit (.image (imageComponent o) n) s
    .next (if n = 0 then modFw [imageComponent o] (Firmware.load o) s else s)

/-! ## Pairing (R435 to R438) -/

/-- Ports in service come up or go down with the module id (R437). -/
def portsFollowId (s : State) : State :=
  (indices 18).foldl (fun s i =>
    let n := BitVec.ofNat 5 i
    match (s.port n).state with
    | .down => if (s.port n).en then s.modPort n fun p => { p with state := portStart s } else s
    | .training => if s.mgmt.mid = 0xFFF then leaveUp n .down s else s
    | .up => if s.mgmt.mid = 0xFFF then leaveUp n .down s else s
    | _ => s) s

/-- TIME_EPOCH changes, and the discipline state with it (Table 02-4): UNSET for epoch 0, FREE where it was UNSET. -/
def TimeState.setEpoch (e : BitVec 48) (t : TimeState) : TimeState :=
  if e = 0 then { t with epoch := 0, disc := .unset, diff := none, goal := none, slewing := false, jumpPend := false, jumpOk := false }
  else { t with epoch := e, disc := if t.disc = .unset then .free else t.disc }

/-- Unpairing (R437). -/
def unpairNow (s : State) : State :=
  let s := s.modMgmt fun m => { m with
    pairRec := none
    mid := 0xFFF
    install := 0
    pairing := .unpaired
    attKey := m.attKey + 1 }
  mgmtEvent 1 0x32 (measureRecords (portsFollowId (destroyKek (s.modTime (TimeState.setEpoch 0)))))

/-- The states in which Pair and Unpair are accepted (R435). -/
def pairable (s : State) : Bool := decide (s.mod.state = .standby ∨ s.mod.state = .service)

/-- Refused with HTTP status 409 (R435). -/
def refusePairing (s : State) : State := emit (.redfish 409) s

/-- PAIR (R435, R438). -/
def execPair (o : PairForm) (s : State) : Result :=
  if !controllerUp s then .next s
  else if !pairable s || decide (s.mgmt.pairing ≠ .unpaired) || decide (o.mid = 0xFFF) then .next (refusePairing s)
  else
    let s := s.modMgmt fun m => { m with
      pairRec := some ⟨o.install, o.mid, o.epoch, m.lldp⟩
      mid := o.mid
      install := o.install
      pairing := .paired }
    .next (measureRecords (portsFollowId (s.modTime (TimeState.setEpoch o.epoch))))

/-- UNPAIR (R435, R437). -/
def execUnpair (s : State) : Result :=
  if !controllerUp s then .next s else if pairable s then .next (unpairNow s) else .next (refusePairing s)

/-- LLDPDU (R436): the first one in CHECKING is compared with the record. -/
def execLldpdu (o : LldpForm) (s : State) : Result :=
  if !controllerUp s then .next s
  else
    let ids := some (o.chassis, o.port)
    let same := decide (s.mgmt.pairRec.bind PairRecord.lldp = ids)
    let s := s.modMgmt fun m => { m with lldp := ids }
    if s.mgmt.pairing ≠ .checking then .next s
    else if same then .next (s.modMgmt fun m => { m with pairing := .paired })
    else .next (unpairNow s)

/-- PAIRING_TIMEOUT (R436): 60 s without an LLDPDU. -/
def execPairingTimeout (s : State) : Result :=
  if controllerUp s && decide (s.mgmt.pairing = .checking) then .next (unpairNow s) else .next s

/-! ## What the management interfaces show (R424, R425)

Redfish, PLDM and the service UART read the controller's state, as `bar0Read` reads the registers: no command of theirs changes it. -/

/-- A sensor of Table 16-2 as Redfish and PLDM Type 2 read it, while the controller runs. -/
def sensorReading (n : Nat) (s : State) : Option Word := if controllerUp s ∧ n < 412 then some (s.mgmt.sensors.get 0 n) else none

/-- The 64 bytes of a management event record (Table 16-4). -/
def EventRec.bytes (e : EventRec) : List Byte :=
  let beat := e.uncert.toNat * 2 ^ 8 + e.disc.toNat
  let data := e.data.take 44
  bytesOf 8 e.stamp ++ bytesOf 4 e.seq ++ [e.source, e.severity] ++ bytesOf 2 e.code ++ bytesOfNat 3 beat ++ [0]
    ++ data ++ List.replicate (44 - data.length) 0

/-- The event log as Redfish and the console of the service UART show it, oldest record first. -/
def eventLog (s : State) : List (List Byte) := if controllerUp s then s.mgmt.log.reverse.map EventRec.bytes else []

/-- Redfish ComponentIntegrity: the measurements that SPDM signs (R433). -/
def componentIntegrity (s : State) : List (BitVec 512) := if controllerUp s then measurements s else []

/-- The status that the console of the service UART shows: the module state's code. -/
def consoleStatus (s : State) : Option Nat := if controllerUp s then some s.mod.state.code else none

/-! ## SPDM (R433, R434) -/

/-- An SPDM request that is answered and changes nothing. -/
def answerSpdm (name : String) (s : State) : Result := if hostAlive s then .next (emit (.spdm name true) s) else .next s

/-- GET_VERSION (R433). -/
def execGetVersion (s : State) : Result := answerSpdm "GET_VERSION" s

/-- GET_CAPABILITIES (R433). -/
def execGetCapabilities (s : State) : Result := answerSpdm "GET_CAPABILITIES" s

/-- NEGOTIATE_ALGORITHMS (R433). -/
def execNegotiateAlgorithms (s : State) : Result := answerSpdm "NEGOTIATE_ALGORITHMS" s

/-- GET_DIGESTS (R433). -/
def execGetDigests (s : State) : Result := answerSpdm "GET_DIGESTS" s

/-- GET_CERTIFICATE (R433): the device identity key certifies the attestation key (R432). -/
def execGetCertificate (s : State) : Result :=
  answerSpdm "GET_CERTIFICATE" (if hostAlive s then emit (.certificate s.mgmt.deviceKey s.mgmt.attKey) s else s)

/-- CHALLENGE (R433): signed with the attestation key. -/
def execChallenge (s : State) : Result := answerSpdm "CHALLENGE" s

/-- GET_MEASUREMENTS (R433): the items of Table 16-8, signed with the attestation key. -/
def execGetMeasurements (s : State) : Result :=
  answerSpdm "GET_MEASUREMENTS" (if hostAlive s then emit (.measurements (measurements s) s.mgmt.attKey) s else s)

/-- Change the SPDM session. -/
def State.setSpdm (s : State) (x : Spdm) : State := s.modMgmt fun m => { m with spdm := x }

/-- KEY_EXCHANGE (R434). -/
def execKeyExchange (o : ExchangeForm) (s : State) : Result :=
  if hostAlive s then .next (emit (.spdm "KEY_EXCHANGE" true) (s.setSpdm ⟨true, false, o.suiteOk⟩)) else .next s

/-- FINISH (R433): the session that KEY_EXCHANGE began is open. -/
def execFinish (s : State) : Result :=
  if !hostAlive s then .next s
  else if s.mgmt.spdm.opening then
    .next (emit (.spdm "FINISH" true) (s.setSpdm { s.mgmt.spdm with opening := false, open_ := true }))
  else .next (emit (.spdm "FINISH" false) s)

/-- END_SESSION (R433). -/
def execEndSession (s : State) : Result :=
  if !hostAlive s then .next s
  else if s.mgmt.spdm.open_ then .next (emit (.spdm "END_SESSION" true) (s.setSpdm .reset))
  else .next (emit (.spdm "END_SESSION" false) s)

/-- SET_KEK is accepted: inside an open session of R434's suite, with KEK_GEN not saturated. -/
def kekAccepted (s : State) : Bool :=
  s.mgmt.spdm.open_ && s.mgmt.spdm.suiteOk && decide (s.mgmt.kekGen ≠ BitVec.allOnes 32)

/-- SET_KEK (R434). -/
def execSetKek (o : KekForm) (s : State) : Result :=
  if !hostAlive s then .next s
  else if kekAccepted s then
    .next (emit (.spdm "SET_KEK" true) (s.modMgmt fun m => { m with kek := some o.kek, kekGen := m.kekGen + 1 }))
  else .next (emit (.spdm "SET_KEK" false) s)

end Sys2Proof.Machine
end

