-- ==== Sys2Proof/Machine/Queues.lean ====
section
/-!
DEFINITION. What happens to threads and queues without an instruction: interrupts, the NMI, causes of queued instructions, and the start
and completion of queued instructions (R102, R114 to R118, R124, R140, R179, R216).
-/

namespace Sys2Proof.Machine

/-- INTERRUPT_ENTRY (R102, R114, R115, R117): at a boundary of a thread that neither waits for an access nor owes a cause of higher
rank. Only entry to its own vector clears the source: one that R110 diverts, or that halts the thread, leaves it
(notes/assumptions/16.md). -/
def execInterruptEntry (o : At) (s : State) : Result :=
  let k := s.core o.core
  let th := k.thread o.th
  let free := th.run && th.blocked.isNone && !th.took && !k.ctl.stopping && !longInProgress s o.core && !th.nmiDue && th.estat.getLsbD 0
    && !(decide (o.th = 0) && !k.causes.isEmpty)
  if th.owed.isSome then .next (takeOwed o.core o.th s)
  else match (if free then pendingInterrupt k o.th else none) with
  | some (vec, sub, ea) => match takeException o.core o.th ⟨vec, sub, ea, 0, false, true, 0⟩ th.pc false s with
    | some s => .next (tookCause o.core o.th (if framePlaced th then clearSource o.core o.th vec s else s))
    | none => .next s
  | none => .next s

/-- The NMI reaches one thread: it is latched inside the NMI handler, waits for a long operation or an access in flight, and is taken
otherwise, by a parked thread too (R114, R116, R117, R128). -/
def nmiThread (c : CoreId) (t : ThreadId) (s : State) : State :=
  let th := s.thread c t
  let parked := decide (t = 0) && isParked s (coreBinding s c) (.scalar c)
  if !th.run || !th.nmiReq || (s.core c).ctl.stopping then s
  else if th.owed.isSome then takeOwed c t s
  else if th.took then s
  else if th.estat.getLsbD 1 then
    s.modThread c t fun q => { q with nmiReq := false, estat := setBit 2 true q.estat }
  else if longInProgress s c || (th.blocked.isSome && !parked) then s
  else takeNmi c t s

/-- NMI_ENTRY (R114, R116). -/
def execNmiEntry (o : CoreForm) (s : State) : Result :=
  .next ((indices 4).foldl (fun s h => nmiThread o.core (BitVec.ofNat 2 h) s) s)

/-- The waiting cause that h0 takes: the vector queue's first (R124). -/
def nextCause (l : List QCause) : Option QCause := (l.find? fun q => !q.matrix).or l.head?

/-- Remove one cause. -/
def dropCause (q : QCause) (l : List QCause) : List QCause := l.erase q

/-- QUEUED_CAUSE_ENTRY (R115, R124). -/
def execQueuedCauseEntry (o : CoreForm) (s : State) : Result :=
  let k := s.core o.core
  let th := k.thread 0
  if th.owed.isSome then .next (takeOwed o.core 0 s)
  else if !th.run || th.waiting || th.took || k.ctl.stopping || th.blocked.isSome || longInProgress s o.core || th.nmiDue then .next s
  else match nextCause k.causes with
    | none => .next s
    | some q =>
      match takeException o.core 0 ⟨q.vec, q.sub, q.eaddr, 0, true, false, if q.matrix then 2 else 1⟩ th.pc false s with
      | some s => .next (tookCause o.core 0 (s.modCore o.core fun k => { k with causes := dropCause q k.causes }))
      | none => .next s

/-- VECTOR_START (R140 to R143, R126, R127, R134). -/
def execVectorStart (o : CoreForm) (s : State) : Result := .next (startVector o.core s)

/-- MATRIX_START (R172, R179, R207). -/
def execMatrixStart (o : CoreForm) (s : State) : Result := .next (startMatrix o.core s)

/-- An exception entry is pending on h0 under PM = 1, so that its core delivers without the gate (R400). -/
def entryPends (s : State) (c : CoreId) : Bool := pmOf s c && ((s.thread c 0).owed.isSome || causeDue (s.core c) 0)

/-- QUEUED_COMPLETE (R124, R137, R216, R399): fences that waited for it go on. -/
def execQueuedComplete (o : QueuedForm) (s : State) : Result :=
  let n := o.idx.toNat
  .next (kickCore o.core (if o.matrix then completeMatrix o.core n (entryPends s o.core) s else completeVector o.core n s))

end Sys2Proof.Machine
end

