-- ==== Sys2Proof/Machine/Regs.lean ====
section
/-!
DEFINITION. The register map and the BARs: every BAR0 register as it reads and as it takes a write, BAR2, the BAR4 window, the
performance counters (R297 to R299, R470 to R480).
-/

namespace Sys2Proof.Machine

/-! ## The BAR4 window (R299) -/

/-- The window is open. -/
def bar4Open (s : State) : Bool := s.pcie.en && decide (s.pcie.il ≠ 0)

/-- The bytes of the BAR4 window: 1 to 256 GiB (R297). -/
def bar4Size (s : State) : Nat := 2 ^ (30 + min s.pcie.barSize.toNat 8)

/-- The physical offset of a BAR4 offset; bits of BASE below the window size are ignored (R299). -/
def bar4Offset (s : State) (off : BitVec 38) : Nat :=
  s.pcie.il.toNat * 2 ^ 42 + s.pcie.base.toNat * 2 ^ 30 / bar4Size s * bar4Size s + off.toNat % bar4Size s

/-- BAR4_READ (R299): directly at the stacks; a poisoned unit makes a poisoned completion (R449). In FAULTED the stacks have no power,
and an open window reads free bytes. -/
def execBar4Read (o : Bar4Read) (s : State) : Result :=
  if !barsAnswer s || decide (bar4Size s ≤ o.off.toNat) then .next s
  else if !bar4Open s then .next (emit (.bar4 (List.replicate o.len.toNat 0) false) s)
  else if !computeOn s then
    let (v, s) := draw s
    .next (emit (.bar4 (bytesOfNat o.len.toNat v) false) s)
  else
    let (l, s) := palvanRead hubSource (bar4Offset s o.off) o.len.toNat s.pcie.key none s
    .next (emit (.bar4 (plain l) (anyPsn l)) s)

/-- BAR4_WRITE (R299): stacks without power keep nothing (R467). -/
def execBar4Write (o : Bar4Write) (s : State) : Result :=
  if !barsAnswer s || !bar4Open s || !computeOn s || decide (bar4Size s ≤ o.off.toNat) then .next s else .next (palvanWrite hubSource (bar4Offset s o.off) (clean o.bytes) s.pcie.key none s)

/-- A write to BAR4_WIN or to a half of it (Table 11-3, R471). -/
def writeBar4Win (v : Nat) (wide high : Bool) (s : State) : State :=
  let p := s.pcie
  let old := p.key.toNat * 2 ^ 56 + p.il.toNat * 2 ^ 54 + p.base.toNat * 2 ^ 30 + bit p.en
  let n := replaceHalf old v wide high
  { s with pcie := { p with
    key := BitVec.ofNat 8 (bitsOf n 56 8)
    il := BitVec.ofNat 2 (bitsOf n 54 2)
    base := BitVec.ofNat 12 (bitsOf n 30 12)
    en := bitsOf n 0 1 == 1 } }

/-! ## Performance counters (R478, R480) -/

/-- Change the performance counters. -/
def State.modPerf (s : State) (f : PerfState → PerfState) : State := { s with perf := f s.perf }

/-- FREEZE := 1: every counter holds, and PERF_SNAP is stamped. -/
def freezeCounters (s : State) : State := s.modPerf fun p => { p with freeze := true, snap := s.time.count }

/-- CLEAR: every counter is zero, and PERF_SNAP is stamped. -/
def clearCounters (s : State) : State := s.modPerf fun p => { p with cnt := .empty, snap := s.time.count }

/-- FREEZE (R480). -/
def execFreeze (s : State) : Result := if bar0Open s then .next (freezeCounters s) else .next s

/-- CLEAR (R478). -/
def execClear (s : State) : Result := if bar0Open s then .next (clearCounters s) else .next s

/-- A write to PERF_CTL (Table 19-4). -/
def writePerfCtl (v : Word) (s : State) : State :=
  let s := if v.getLsbD 31 then freezeCounters s else s.modPerf fun p => { p with freeze := false }
  if v.getLsbD 30 then clearCounters s else s

/-- A write to PERF_SEL n (Table 19-4): its reserved bits read zero. -/
def writePerfSel (n : Nat) (v : Word) (s : State) : State :=
  s.modPerf fun p => { p with sel := p.sel.set 0 n (v &&& 0xFFFF00FF) }

/-- PERF_SEL (R480). -/
def execPerfSel (o : PerfSelForm) (s : State) : Result :=
  if bar0Open s then .next (writePerfSel o.n.toNat o.val s) else .next s

/-- A write to PERF_CNT n or to a half of it, with the events of the same cycle added (R480). -/
def writePerfCnt (n v : Nat) (wide high : Bool) (events : Nat) (s : State) : State :=
  let counts := !s.perf.freeze && perfCounts (s.perf.sel.get 0 n)
  let written := replaceHalf (s.perf.cnt.get 0 n).toNat v wide high
  s.modPerf fun p => { p with cnt := p.cnt.set 0 n (BitVec.ofNat 64 (written + if counts then events else 0)) }

/-- PERF_CNT (R480). -/
def execPerfCnt (o : PerfCntForm) (s : State) : Result :=
  if bar0Open s then .next (writePerfCnt o.n.toNat o.val.toNat o.wide o.high o.events s) else .next s

/-! ## Writes to BAR0 (R7, R470 to R474) -/

/-- SQ_BASE and CQ_BASE and ERR_BASE take a write while their ring is disabled, SQ_BASE while it is idle too (R301, R305, R447). -/
def writeSqBase (r : RingId) (v : Nat) (wide high : Bool) (s : State) : State :=
  s.modRing r fun q => if !q.en && q.idle then { q with base := BitVec.ofNat 52 (replaceHalf (q.base.toNat * 4096) v wide high / 4096) }
    else { q with cfgRej := true }

def writeCqBase (c : CqId) (v : Nat) (wide high : Bool) (s : State) : State :=
  s.modCq c fun q => if !q.en then { q with base := BitVec.ofNat 52 (replaceHalf (q.base.toNat * 4096) v wide high / 4096) }
    else { q with cfgRej := true }

def writeErrBase (v : Nat) (wide high : Bool) (s : State) : State :=
  s.modErr fun e => if !e.en then { e with base := BitVec.ofNat 52 (replaceHalf (e.base.toNat * 4096) v wide high / 4096) }
    else { e with cfgRej := true }

/-- A write to CAL_SEL (Table 15-6). -/
def writeCalSel (v : Word) (s : State) : State :=
  { s with cal := { s.cal with
    selKind := BitVec.ofNat 3 (bitsOf v.toNat 16 3)
    selGroup := BitVec.ofNat 8 (bitsOf v.toNat 8 8)
    selLane := BitVec.ofNat 6 (bitsOf v.toNat 0 6) } }

/-- A flag that a W1C write leaves set. -/
def w1c (v : Word) (n : Nat) (flag : Bool) : Bool := flag && !v.getLsbD n

/-- The W1C fields of the 32-bit register at an offset. -/
def clearW1c (off : Nat) (v : Word) (s : State) : State :=
  if off = 0x1000 then s.modMod fun m => { m with cmdRej := w1c v 14 m.cmdRej }
  else if off = 0x160C then s.modPower fun p => { p with
    overLim := w1c v 5 p.overLim, cfgRej := w1c v 4 p.cfgRej, ovSeen := w1c v 3 p.ovSeen, uvSeen := w1c v 2 p.uvSeen }
  else if off = 0x2028 then s.modTime fun t => { t with lost := w1c v 11 t.lost, cfgRej := w1c v 10 t.cfgRej }
  else if 0x10000 ≤ off ∧ off < 0x30000 ∧ off % 32 = 0x0C then
    s.modRing (BitVec.ofNat 12 ((off - 0x10000) / 32)) fun q => { q with
      fetchErr := w1c v 5 q.fetchErr, dbRej := w1c v 4 q.dbRej, cfgRej := w1c v 3 q.cfgRej }
  else if 0x30000 ≤ off ∧ off < 0x38000 ∧ off % 32 = 0x0C then
    s.modCq (BitVec.ofNat 10 ((off - 0x30000) / 32)) fun q => { q with
      wrErr := w1c v 4 q.wrErr, cfgRej := w1c v 3 q.cfgRej, headRej := w1c v 2 q.headRej, ovf := w1c v 1 q.ovf }
  else if off = 0x7000C then
    s.modErr fun e => { e with
      wrErr := w1c v 4 e.wrErr, cfgRej := w1c v 3 e.cfgRej, headRej := w1c v 2 e.headRej, ovf := w1c v 1 e.ovf }
  else s

/-- The writes that FAULTED admits beside W1C fields: ERR_HEAD, CQ_HEAD, the mailbox (R473). -/
def writeAlways (off : Nat) (v : Word) (s : State) : State :=
  if off = 0x70010 then writeErrHead v s
  else if 0x30000 ≤ off ∧ off < 0x38000 ∧ off % 32 = 0x10 then writeCqHead (BitVec.ofNat 10 ((off - 0x30000) / 32)) v s
  else if 0x80000 ≤ off ∧ off < 0x81000 then writeMbIn (off - 0x80000) (bytesOf 4 v) s
  else if off = 0x82000 then writeMbCtl v s
  else if off = 0x82004 then s.modMb fun b => { b with rej := w1c v 2 b.rej }
  else s

/-- A 32-bit write to a register of a ring entry, of a port or of a counter. -/
def writeArray (off : Nat) (v : Word) (s : State) : State :=
  if 0x1200 ≤ off ∧ off < 0x1440 ∧ off % 32 = 0x10 then writePortCtl (BitVec.ofNat 5 ((off - 0x1200) / 32)) v s
  else if 0x10000 ≤ off ∧ off < 0x30000 then
    let r : RingId := BitVec.ofNat 12 ((off - 0x10000) / 32)
    if off % 32 = 0 then writeSqBase r v.toNat false false s
    else if off % 32 = 4 then writeSqBase r v.toNat false true s
    else if off % 32 = 8 then writeSqCfg r v s
    else if off % 32 = 0x18 ∧ v.getLsbD 0 then s.modRing r fun q => { q with barrier := false }
    else s
  else if 0x30000 ≤ off ∧ off < 0x38000 then
    let c : CqId := BitVec.ofNat 10 ((off - 0x30000) / 32)
    if off % 32 = 0 then writeCqBase c v.toNat false false s
    else if off % 32 = 4 then writeCqBase c v.toNat false true s
    else if off % 32 = 8 then writeCqCfg c v s
    else s
  else if 0xF1000 ≤ off ∧ off < 0xF1400 then
    let n := (off - 0xF1000) / 16
    if off % 16 = 0 then writePerfSel n v s
    else if off % 16 = 8 then writePerfCnt n v.toNat false false 0 s
    else if off % 16 = 0xC then writePerfCnt n v.toNat false true 0 s
    else s
  else s

/-- The other 32-bit writes: RW and WO fields, none of them in FAULTED. -/
def writeOrdinary (off : Nat) (v : Word) (s : State) : State :=
  if off = 0x1010 then writeModCmd v s
  else if off = 0x1080 then writeBar4Win v.toNat false false s
  else if off = 0x1084 then writeBar4Win v.toNat false true s
  else if off = 0x1100 then { s with links := { s.links with sel := BitVec.ofNat 12 v.toNat } }
  else if off = 0x1104 then writeRouteData v s
  else if off = 0x1600 then writePwrLimit v s
  else if off = 0x1700 then writeCalSel v s
  else if off = 0x1718 then writeCalCtl v s
  else if off = 0x2010 then s.modTime fun t => { t with skew := BitVec.ofNat 24 v.toNat }
  else if off = 0x2018 then writePeriod v s
  else if off = 0x2020 then writeLen v s
  else if off = 0x2028 then (if v.getLsbD 9 then acceptJump s else s)
  else if off = 0x70000 then writeErrBase v.toNat false false s
  else if off = 0x70004 then writeErrBase v.toNat false true s
  else if off = 0x70008 then writeErrCfg v s
  else if off = 0xF0000 then writePerfCtl v s
  else writeArray off v s

/-- A 4-byte write to BAR0. In FAULTED only R473's writes take effect; a MOD_CMD write is rejected there (R469). -/
def write32 (off : Nat) (v : Word) (s : State) : State :=
  let s := writeAlways off v (clearW1c off v s)
  if s.mod.state ≠ .faulted then writeOrdinary off v s
  else if off = 0x1010 then s.modMod fun m => { m with cmdRej := true }
  else s

/-- An 8-byte write to BAR0: indivisible for a 64-bit register, else two 4-byte writes, the lower address first (R470, R471). -/
def write64 (off : Nat) (v : DWord) (s : State) : State :=
  let ok := decide (s.mod.state ≠ .faulted)
  let keep (f : State → State) : State := if ok then f s else s
  if off = 0x1080 then keep (writeBar4Win v.toNat true false)
  else if 0x10000 ≤ off ∧ off < 0x30000 ∧ off % 32 = 0 then
    keep (writeSqBase (BitVec.ofNat 12 ((off - 0x10000) / 32)) v.toNat true false)
  else if 0x30000 ≤ off ∧ off < 0x38000 ∧ off % 32 = 0 then
    keep (writeCqBase (BitVec.ofNat 10 ((off - 0x30000) / 32)) v.toNat true false)
  else if off = 0x70000 then keep (writeErrBase v.toNat true false)
  else if 0xF1000 ≤ off ∧ off < 0xF1400 ∧ off % 16 = 8 then keep (writePerfCnt ((off - 0xF1000) / 16) v.toNat true false 0)
  else write32 (off + 4) (v.extractLsb' 32 32) (write32 off (v.setWidth 32) s)

/-- A write to BAR0 of `size` bytes: anything but a naturally aligned write of 4 or 8 bytes is ignored (R470). -/
def writeBar0 (off size : Nat) (v : DWord) (s : State) : State :=
  if (size ≠ 4 ∧ size ≠ 8) ∨ off % size ≠ 0 then s
  else if 0x50000 ≤ off ∧ off < 0x51000 then
    writeXlat (BitVec.ofNat 6 ((off - 0x50000) / 64)) (off % 64) (size == 8) v.toNat s
  else if size = 8 then write64 off v s
  else write32 off (v.setWidth 32) s

/-- A write to BAR2 (R297, R303): the doorbell pages, the MSI-X table; the PBA and every other offset ignore it. -/
def writeBar2 (off size : Nat) (v : DWord) (s : State) : State :=
  if off < 0x1000000 then
    let r : RingId := BitVec.ofNat 12 (off / 4096)
    if off % 4096 = 0 ∧ (size = 4 ∨ size = 8) then ringDoorbell r (v.setWidth 32) s
    else s.modRing r fun q => { q with dbRej := true }
  else if 0x1000000 ≤ off ∧ off < 0x1008000 ∧ (size = 4 ∨ size = 8) ∧ off % size = 0 then
    { s with pcie := { s.pcie with msixTable := storeBytes s.pcie.msixTable (off - 0x1000000) (bytesOf size v) } }
  else s

/-- The size of BAR4, as the exponent of 1 GiB: 0 to 8 (Tables 11-1 and 11-2); any other value is no size, and ignored. -/
def writeBarSize (v : DWord) (s : State) : State :=
  if v.toNat ≤ 8 then { s with pcie := { s.pcie with barSize := v.setWidth 4 } } else s

/-- The power state of the function: D0, or D3hot where bit 0 is 1 (Table 11-1). -/
def writePowerState (v : DWord) (s : State) : State := { s with pcie := { s.pcie with d3hot := v.getLsbD 0 } }

/-- REG_WRITE (R7, R470, R473). Configuration space answers in D3hot too. -/
def execRegWrite (o : RegWriteForm) (s : State) : Result :=
  match o.space with
  | .bar0 => if barsAnswer s then .next (writeBar0 o.off.toNat o.size.toNat o.val s) else .next s
  | .bar2 => if barsAnswer s then .next (writeBar2 o.off.toNat o.size.toNat o.val s) else .next s
  | .barSize => if hostAlive s && !s.mod.perstLow then .next (writeBarSize o.val s) else .next s
  | .powerState => if hostAlive s && !s.mod.perstLow then .next (writePowerState o.val s) else .next s

/-! ## Reads of BAR0 (R298, R470, R474) -/

/-- MOD_STATE (Table 18-3). -/
def readModState (s : State) : Nat :=
  let m := s.mod
  m.cause.toNat * 2 ^ 16 + bit m.cmdRej * 2 ^ 14 + bit m.recovery * 2 ^ 13 + m.lastReset.toNat * 2 ^ 10 + m.prev.code * 2 ^ 4
    + m.state.code

/-- SITE_MAP0 and SITE_MAP1 (Table 01-2): the identity map until the recorded one is written (R14, R16). -/
def readSiteMap (s : State) (first : Nat) : Nat :=
  natOfBytes ((indices 8).map fun n =>
    let t : TileId := BitVec.ofNat 4 (first + n)
    if s.mod.mapLoaded then (siteOf s t).setWidth 8 else t.setWidth 8)

/-- BEAT_STATUS (Table 02-3). -/
def readBeatStatus (s : State) : Nat :=
  let t := s.time
  uncert s * 2 ^ 16 + bit t.jumpDir * 2 ^ 13 + bit t.expired * 2 ^ 12 + bit t.lost * 2 ^ 11 + bit t.cfgRej * 2 ^ 10
    + bit t.jumpPend * 2 ^ 8 + bit t.ptpOk * 2 ^ 5 + bit t.tenOk * 2 ^ 4 + bit t.ppsOk * 2 ^ 3 + t.disc.code.toNat

/-- SPARE of PORT_STATUS: what lane 8 carries (Table 14-1). -/
def Port.spare (p : Port) : Nat := match p.failedLane, p.calLane with
  | some l, _ => l.toNat
  | none, some _ => 8
  | none, none => 15

/-- A port's registers at an 8-byte offset of its block (Table 14-1). -/
def readPort (p : Port) (off : Nat) : Nat := match off with
  | 0x00 => p.peerMid.toNat * 2 ^ 52 + p.peerPort.toNat * 2 ^ 47 + p.spare * 2 ^ 40 + p.state.code
  | 0x08 => p.errWord
  | 0x10 => bit p.en
  | _ => 0

/-- TILE_REGION (Table 15-4). -/
def readRegion (t : Tile) : Nat :=
  t.temp.toNat * 2 ^ 48 + t.vdd.toNat * 2 ^ 36 + t.clk.toNat * 2 ^ 24 + t.level.toNat * 2 ^ 16 + t.grant.toNat * 2 ^ 8 + t.req.toNat

/-- The power registers at an 8-byte offset from 0x1600 (Table 15-4). -/
def readPower (s : State) (off : Nat) : Nat :=
  let p := s.power
  if off = 0 then p.oplim.toNat * 2 ^ 32 + p.limit.toNat
  else if off = 8 then
    (32 * bit p.overLim + 16 * bit p.cfgRej + 8 * bit p.ovSeen + 4 * bit p.uvSeen + 2 * bit p.ov + bit p.uv) * 2 ^ 32
      + p.vin.toNat * 2 ^ 16 + p.iin.toNat
  else readRegion (s.tile (BitVec.ofNat 4 ((off - 16) / 8)))

/-- The lane that CAL_SEL names, if it names one (R415). -/
def selectedLane (s : State) : Option CalLane :=
  let k := s.cal.selKind.toNat
  let g := s.cal.selGroup.toNat
  let l := s.cal.selLane.toNat
  if g < groupCount k ∧ l < allLanes k then some { s.lane k g l with failed := laneOut s k g l } else none

/-- CAL_DATA of a lane (Table 15-6). -/
def CalLane.data (x : CalLane) : Nat :=
  x.steps.toNat * 2 ^ 48 + x.hmargin.toNat * 2 ^ 40 + x.vmargin.toNat * 2 ^ 32 + x.phase.toNat * 2 ^ 24 + x.alarms.toNat * 2 ^ 8
    + 2 * bit x.failed + bit x.active

/-- The calibration registers at an 8-byte offset from 0x1700. -/
def readCal (s : State) (off : Nat) : Nat :=
  let c := s.cal
  match off with
  | 0x00 => c.selKind.toNat * 2 ^ 16 + c.selGroup.toNat * 2 ^ 8 + c.selLane.toNat
  | 0x08 => ((selectedLane s).map CalLane.data).getD 0
  | 0x10 => ((selectedLane s).map fun x => x.stamp.toNat).getD 0
  | 0x18 => c.minV.toNat * 2 ^ 24 + c.minH.toNat * 2 ^ 16 + c.drift.toNat * 2 ^ 8 + c.en.toNat
  | _ => 0

/-- The time block at an 8-byte offset from 0x2000 (Table 02-1). -/
def readTime (s : State) (off : Nat) : Nat :=
  let t := s.time
  match off with
  | 0x00 => t.count.toNat
  | 0x08 => t.epoch.toNat
  | 0x10 => t.skew.toNat
  | 0x18 => (acceptedPeriod t).toNat
  | 0x20 => (acceptedLen t).toNat
  | 0x28 => readBeatStatus s
  | 0x30 => breathNext s
  | _ => 0

/-- A submission ring entry at an 8-byte offset (Table 11-4). -/
def readSq (q : SubRing) (off : Nat) : Nat := match off with
  | 0x00 => q.base.toNat * 4096
  | 0x08 =>
    (128 * bit q.idle + 64 * bit q.barrier + 32 * bit q.fetchErr + 16 * bit q.dbRej + 8 * bit q.cfgRej) * 2 ^ 32
      + bit q.en * 2 ^ 31 + bit q.mod * 2 ^ 30 + q.binding.toNat * 2 ^ 24 + q.cq.toNat * 2 ^ 14 + q.size.toNat
  | 0x10 => q.ci.toNat * 2 ^ 32 + q.pi.toNat
  | _ => 0

/-- STALL: the first completion that waits finds too few free entries (Table 11-5). -/
def CompRing.stalls (q : CompRing) : Bool := match q.waiting with
  | c :: _ => q.en && decide (q.room < c.need)
  | [] => false

/-- A completion ring entry at an 8-byte offset (Table 11-5). -/
def readCq (q : CompRing) (off : Nat) : Nat := match off with
  | 0x00 => q.base.toNat * 4096
  | 0x08 =>
    (128 * bit q.stalls + 16 * bit q.wrErr + 8 * bit q.cfgRej + 4 * bit q.headRej + 2 * bit q.ovf) * 2 ^ 32
      + bit q.en * 2 ^ 31 + q.msix.toNat * 2 ^ 16 + q.size.toNat
  | 0x10 => q.tail.toNat * 2 ^ 32 + q.head.toNat
  | _ => 0

/-- A binding table entry at an 8-byte offset (Table 12-3). -/
def readBinding (b : Binding) (off : Nat) : Nat := match off with
  | 0x00 => b.state.code
  | 0x08 => b.stamp.toNat
  | 0x10 => b.sections.toNat
  | 0x18 => (if b.state = .free then 0 else b.il.toNat) * 2 ^ 32 + b.ports.toNat
  | 0x20 => bitsOf b.plots.toNat 0 64
  | 0x28 => bitsOf b.plots.toNat 64 64
  | 0x30 => bitsOf b.plots.toNat 128 64
  | 0x38 => bitsOf b.plots.toNat 192 64
  | 0x40 => b.keys.length * 2 ^ 32 + natOfBytes b.keys
  | 0x48 => b.seed.toNat
  | 0x50 => b.faultsDropped.toNat * 2 ^ 32 + b.aborted.toNat
  | _ => 0

/-- A key slot at an 8-byte offset (Table 12-5). -/
def readSlot (k : KeySlot) (off : Nat) : Nat :=
  if off = 0 then bit k.owned * 2 ^ 31 + (if k.owned then k.binding.toNat else 0) * 2 ^ 24 + k.src.toNat * 2 ^ 16 + k.changes.toNat
  else k.stamp.toNat

/-- The error summary at an 8-byte offset from 0x7_0000 (Table 17-4). -/
def readErr (s : State) (off : Nat) : Nat :=
  let e := s.err
  match off with
  | 0x00 => e.base.toNat * 4096
  | 0x08 =>
    (bit e.fatal * 2 ^ 15 + bit (decide (exhausted s ≠ 0)) * 2 ^ 14 + (exhausted s).toNat * 2 ^ 8 + 16 * bit e.wrErr + 8 * bit e.cfgRej
      + 4 * bit e.headRej + 2 * bit e.ovf) * 2 ^ 32 + bit e.en * 2 ^ 31 + e.msix.toNat * 2 ^ 16 + e.size.toNat
  | 0x10 => e.tail.toNat * 2 ^ 32 + e.head.toNat
  | 0x18 => e.seq.toNat
  | 0x20 => (e.cnt.get 0 1).toNat * 2 ^ 32 + (e.cnt.get 0 0).toNat
  | 0x28 => (e.cnt.get 0 3).toNat * 2 ^ 32 + (e.cnt.get 0 2).toNat
  | 0x30 => e.ucDrop.toNat * 2 ^ 16 + e.ceDrop.toNat
  | 0x38 => e.bind.toNat
  | 0x40 => spareUse s
  | _ => 0

/-- Eight bytes of a byte memory. -/
def readBytes8 (m : Memory) (a : Nat) : Nat := natOfBytes ((indices 8).map fun i => Table.get 0 m (a + i))

/-- The mailbox at an 8-byte offset from 0x8_0000 (Table 16-6). -/
def readMailbox (b : Mailbox) (off : Nat) : Nat :=
  if off < 0x1000 then readBytes8 b.inData off
  else if off < 0x2000 then readBytes8 b.outData (off - 0x1000)
  else if off = 0x2000 then
    (b.olen.toNat * 2 ^ 16 + 8 * bit b.link + 4 * bit b.rej + 2 * bit b.outValid + bit b.inBusy) * 2 ^ 32
      + b.msix.toNat * 2 ^ 16 + b.len.toNat
  else 0

/-- The identity registers (Tables 01-2, 16-9, 19-3). -/
def readIdentity (s : State) (off : Nat) : Nat :=
  let m := s.mgmt
  match off with
  | 0x00 => (Config.panel.toNat * 2 ^ 8 + 0x01) * 2 ^ 32 + 0x3E5A0016
  | 0x08 => Config.serial.toNat
  | 0x10 => 0x00FF40122040CA0F
  | 0x18 => m.mid.toNat
  | 0x20 => m.pairing.code
  | 0x28 => m.kekGen.toNat
  | 0x30 => (Config.attKeyId m.attKey).toNat
  | 0x40 => bitsOf m.install.toNat 0 64
  | 0x48 => bitsOf m.install.toNat 64 64
  | 0x80 => readSiteMap s 0
  | 0x88 => readSiteMap s 8
  | _ => 0

/-- The performance registers at an 8-byte offset from 0xF_0000 (Table 19-4). -/
def readPerf (p : PerfState) (off : Nat) : Nat :=
  if off = 0 then bit p.freeze * 2 ^ 31
  else if off = 8 then p.snap.toNat
  else if 0x1000 ≤ off ∧ off < 0x1400 then
    if off % 16 = 0 then (p.sel.get 0 ((off - 0x1000) / 16)).toNat else (p.cnt.get 0 ((off - 0x1000) / 16)).toNat
  else 0

/-- The 8 bytes of BAR0 at a multiple of 8 (Table 19-1); zero where it names no register (R474). -/
def read64 (s : State) (off : Nat) : Nat :=
  if off < 0x1000 then readIdentity s off
  else if off = 0x1000 then readModState s
  else if off = 0x1008 then s.mod.stamp.toNat
  else if off = 0x1010 then bit s.mod.bootSvc * 2 ^ 7
  else if off = 0x1080 then
    s.pcie.key.toNat * 2 ^ 56 + s.pcie.il.toNat * 2 ^ 54 + s.pcie.base.toNat * 2 ^ 30 + bit s.pcie.en
  else if off = 0x1100 then
    let r := s.links.routes.get .reset s.links.sel.toNat
    (bit r.v * 2 ^ 31 + r.ports.toNat) * 2 ^ 32 + s.links.sel.toNat
  else if 0x1200 ≤ off ∧ off < 0x1440 then readPort (s.port (BitVec.ofNat 5 ((off - 0x1200) / 32))) (off % 32)
  else if 0x1600 ≤ off ∧ off < 0x1690 then readPower s (off - 0x1600)
  else if 0x1700 ≤ off ∧ off < 0x1720 then readCal s (off - 0x1700)
  else if 0x2000 ≤ off ∧ off < 0x2038 then readTime s (off - 0x2000)
  else if 0x10000 ≤ off ∧ off < 0x30000 then readSq (s.ring (BitVec.ofNat 12 ((off - 0x10000) / 32))) (off % 32)
  else if 0x30000 ≤ off ∧ off < 0x38000 then readCq (s.cq (BitVec.ofNat 10 ((off - 0x30000) / 32))) (off % 32)
  else if 0x40000 ≤ off ∧ off < 0x44000 then readBinding (s.bnd (BitVec.ofNat 6 ((off - 0x40000) / 256))) (off % 256)
  else if 0x50000 ≤ off ∧ off < 0x51000 then readXlat s (BitVec.ofNat 6 ((off - 0x50000) / 64)) (off % 64)
  else if 0x60000 ≤ off ∧ off < 0x61000 then readSlot (s.slot (BitVec.ofNat 8 ((off - 0x60000) / 16))) (off % 16)
  else if 0x70000 ≤ off ∧ off < 0x70048 then readErr s (off - 0x70000)
  else if 0x80000 ≤ off ∧ off < 0x82008 then readMailbox s.mgmt.mb (off - 0x80000)
  else if 0xF0000 ≤ off ∧ off < 0xF1400 then readPerf s.perf (off - 0xF0000)
  else 0

/-- What a read of BAR0 returns, where the BARs answer; in OFF and STANDBY the function is absent (R455). A read is naturally aligned, of 4
or 8 bytes; any other returns zero (R470). The clearing of RC fields is PORT_ERR's. -/
def bar0Read (s : State) (off size : Nat) : Option Nat :=
  if !barsAnswer s then none
  else some <| if size = 8 ∧ off % 8 = 0 then read64 s off
  else if size = 4 ∧ off % 4 = 0 then
    if off % 8 = 0 then read64 s off % 2 ^ 32 else read64 s (off - 4) / 2 ^ 32
  else 0

/-- What a read of BAR2 returns, where the BARs answer (R297, R303). -/
def bar2Read (s : State) (off size : Nat) : Option Nat :=
  if !barsAnswer s then none
  else some <| if off < 0x1000000 then
    if off % 4096 = 0 ∧ size = 8 then
      let q := s.ring (BitVec.ofNat 12 (off / 4096))
      q.ci.toNat * 2 ^ 32 + q.pi.toNat
    else 0
  else if 0x1000000 ≤ off ∧ off < 0x1008000 then
    natOfBytes ((indices size).map fun i => Table.get 0 s.pcie.msixTable (off - 0x1000000 + i))
  else if 0x1008000 ≤ off ∧ off < 0x1008100 then
    natOfBytes ((indices size).map fun i => Table.get 0 s.pcie.pba (off - 0x1008000 + i))
  else 0

end Sys2Proof.Machine
end

