-- ==== Sys2Proof/Machine/ScalarFp.lean ====
section
/-!
DEFINITION. Scalar floating point (R76, R221 to R223; Table 03-10).
-/

namespace Sys2Proof.Machine

/-- An operation of f[ra] and f[rb] into f[rd]. -/
def fpTwo (o : FForm) (f : Fmt → FEnv → Nat → Nat → FRes) (s : State) : Result :=
  issue o.core o.th none [] [o.ra, o.rb] [o.rd]
    (fun s =>
      let k := s.core o.core
      fpResult o.core o.th o.rd
        (f (scalarFmt o.dbl) (scalarEnv s o.core o.th) (k.fpRead o.th o.ra o.dbl) (k.fpRead o.th o.rb o.dbl)) s) s

/-- A comparison of f[ra] and f[rb] into g[rd]. -/
def fpTest (o : FForm) (x : FCmp) (s : State) : Result :=
  issue o.core o.th none [] [o.ra, o.rb] []
    (fun s =>
      let k := s.core o.core
      let r := fCompare (scalarFmt o.dbl) (scalarEnv s o.core o.th) x (k.fpRead o.th o.ra o.dbl) (k.fpRead o.th o.rb o.dbl)
      fpToG o.core o.th o.rd (bit r.1) r.2.1 r.2.2 s) s

/-- A fused multiply-add: `np` negates the product, `nc` the addend. -/
def fpFused (o : FmaForm) (np nc : Bool) (s : State) : Result :=
  issue o.core o.th none [] [o.ra, o.rb, o.rc] [o.rd]
    (fun s =>
      let r (x : BitVec 5) : Nat := (s.core o.core).fpRead o.th x o.dbl
      fpResult o.core o.th o.rd (fMadd (scalarFmt o.dbl) (scalarEnv s o.core o.th) np nc (r o.ra) (r o.rb) (r o.rc)) s) s

/-- A conversion of f[ra], read as FP64 where `src`, into f[rd]. -/
def fpConvert (o : FForm) (src : Bool) (s : State) : Result :=
  issue o.core o.th none [] [o.ra] [o.rd]
    (fun s => fpResult o.core o.th o.rd
      (fConvert (scalarFmt src) (scalarFmt !src) (scalarEnv s o.core o.th) ((s.core o.core).fpRead o.th o.ra src)) s) s

/-- f[ra] as an integer of 32 bits into g[rd] (R223). -/
def fpToInt (o : FForm) (signed : Bool) (s : State) : Result :=
  issue o.core o.th none [] [o.ra] []
    (fun s =>
      let r := fToInt (scalarFmt o.dbl) 32 signed (scalarEnv s o.core o.th) ((s.core o.core).fpRead o.th o.ra o.dbl)
      fpToG o.core o.th o.rd r.bits r.flags r.fl s) s

/-- g[ra] as an integer converted into f[rd]. -/
def fpFromInt (o : FForm) (signed : Bool) (s : State) : Result :=
  issue o.core o.th none [o.ra] [] [o.rd]
    (fun s => fpResult o.core o.th o.rd (intToF (scalarFmt o.dbl) (scalarEnv s o.core o.th)
      (intOfBits 32 signed ((s.thread o.core o.th).rg o.ra).toNat)) s) s

/-- FADD (R76). -/
def execFadd (o : FForm) (s : State) : Result := fpTwo o fAdd s

/-- FSUB (R76). -/
def execFsub (o : FForm) (s : State) : Result := fpTwo o fSub s

/-- FMUL (R76). -/
def execFmul (o : FForm) (s : State) : Result := fpTwo o fMul s

/-- FDIV (R76). -/
def execFdiv (o : FForm) (s : State) : Result := fpTwo o fDiv s

/-- FSQRT (R76): the square root of f[ra]. -/
def execFsqrt (o : FForm) (s : State) : Result :=
  issue o.core o.th none [] [o.ra] [o.rd]
    (fun s => fpResult o.core o.th o.rd
      (fSqrt (scalarFmt o.dbl) (scalarEnv s o.core o.th) ((s.core o.core).fpRead o.th o.ra o.dbl)) s) s

/-- FMIN: minimumNumber (R76). -/
def execFmin (o : FForm) (s : State) : Result := fpTwo o (fun f v a b => fMinMax f v false a b) s

/-- FMAX: maximumNumber (R76). -/
def execFmax (o : FForm) (s : State) : Result := fpTwo o (fun f v a b => fMinMax f v true a b) s

/-- FSGNJ: the magnitude of f[ra] with the sign of f[rb]; it raises no flag (R76, R214). -/
def execFsgnj (o : FForm) (s : State) : Result := fpTwo o (fun f _ a b => ⟨fSgnj f a b, 0, false⟩) s

/-- FEQ (R221). -/
def execFeq (o : FForm) (s : State) : Result := fpTest o .eq s

/-- FLT (R221). -/
def execFlt (o : FForm) (s : State) : Result := fpTest o .lt s

/-- FLE (R221). -/
def execFle (o : FForm) (s : State) : Result := fpTest o .le s

/-- FCLASS (R221, Table 08-4). -/
def execFclass (o : FForm) (s : State) : Result :=
  issue o.core o.th none [] [o.ra] []
    (fun s => fpToG o.core o.th o.rd (fClass (scalarFmt o.dbl) ((s.core o.core).fpRead o.th o.ra o.dbl)) 0 false s) s

/-- FMADD: a · b + c (R76). -/
def execFmadd (o : FmaForm) (s : State) : Result := fpFused o false false s

/-- FMSUB: a · b − c (R76). -/
def execFmsub (o : FmaForm) (s : State) : Result := fpFused o false true s

/-- FNMADD: −a · b + c (R76). -/
def execFnmadd (o : FmaForm) (s : State) : Result := fpFused o true false s

/-- FNMSUB: −a · b − c (R76). -/
def execFnmsub (o : FmaForm) (s : State) : Result := fpFused o true true s

/-- FCVT.D.S (R76): from FP32 to FP64. -/
def execFcvtDS (o : FForm) (s : State) : Result := fpConvert o false s

/-- FCVT.S.D (R76): from FP64 to FP32. -/
def execFcvtSD (o : FForm) (s : State) : Result := fpConvert o true s

/-- FCVT.W (R223). -/
def execFcvtW (o : FForm) (s : State) : Result := fpToInt o true s

/-- FCVT.WU (R223). -/
def execFcvtWu (o : FForm) (s : State) : Result := fpToInt o false s

/-- FCVT.FW (R76). -/
def execFcvtFw (o : FForm) (s : State) : Result := fpFromInt o true s

/-- FCVT.FWU (R76). -/
def execFcvtFwu (o : FForm) (s : State) : Result := fpFromInt o false s

/-- FMV.GF (R76): the bits of f[ra][31:0] into g[rd]. -/
def execFmvGf (o : FForm) (s : State) : Result :=
  issue o.core o.th none [] [o.ra] []
    (fun s => writeG o.core o.th o.rd false (((s.core o.core).rf o.th o.ra).setWidth 32) s) s

/-- FMV.FG (R76, R53): the bits of g[ra] into f[rd]. -/
def execFmvFg (o : FForm) (s : State) : Result :=
  issue o.core o.th none [o.ra] [] [o.rd]
    (fun s => retire o.core o.th false (s.modCore o.core fun k => k.wf o.th o.rd (((k.thread o.th).rg o.ra).setWidth 64))) s

end Sys2Proof.Machine
end

