-- ==== Sys2Proof/Machine/Dispatch.lean ====
section
/-! DEFINITION. Dispatch: one arm per command, each a direct call of its meaning. -/

namespace Sys2Proof.Machine

def exec (i : Instr) (s : State) : Host.Outcome State Fault Refusal :=
  match i with
  | .add o => Sys2Proof.Machine.execAdd o s
  | .sub o => Sys2Proof.Machine.execSub o s
  | .and o => Sys2Proof.Machine.execAnd o s
  | .or o => Sys2Proof.Machine.execOr o s
  | .xor o => Sys2Proof.Machine.execXor o s
  | .sll o => Sys2Proof.Machine.execSll o s
  | .srl o => Sys2Proof.Machine.execSrl o s
  | .sra o => Sys2Proof.Machine.execSra o s
  | .slt o => Sys2Proof.Machine.execSlt o s
  | .sltu o => Sys2Proof.Machine.execSltu o s
  | .mul o => Sys2Proof.Machine.execMul o s
  | .mulh o => Sys2Proof.Machine.execMulh o s
  | .mulhu o => Sys2Proof.Machine.execMulhu o s
  | .div o => Sys2Proof.Machine.execDiv o s
  | .divu o => Sys2Proof.Machine.execDivu o s
  | .rem o => Sys2Proof.Machine.execRem o s
  | .remu o => Sys2Proof.Machine.execRemu o s
  | .addi o => Sys2Proof.Machine.execAddi o s
  | .andi o => Sys2Proof.Machine.execAndi o s
  | .ori o => Sys2Proof.Machine.execOri o s
  | .xori o => Sys2Proof.Machine.execXori o s
  | .slti o => Sys2Proof.Machine.execSlti o s
  | .sltiu o => Sys2Proof.Machine.execSltiu o s
  | .slli o => Sys2Proof.Machine.execSlli o s
  | .srli o => Sys2Proof.Machine.execSrli o s
  | .srai o => Sys2Proof.Machine.execSrai o s
  | .lui o => Sys2Proof.Machine.execLui o s
  | .ld o => Sys2Proof.Machine.execLd o s
  | .st o => Sys2Proof.Machine.execSt o s
  | .ldx o => Sys2Proof.Machine.execLdx o s
  | .stx o => Sys2Proof.Machine.execStx o s
  | .span o => Sys2Proof.Machine.execSpan o s
  | .spanr o => Sys2Proof.Machine.execSpanr o s
  | .beq o => Sys2Proof.Machine.execBeq o s
  | .bne o => Sys2Proof.Machine.execBne o s
  | .jalr o => Sys2Proof.Machine.execJalr o s
  | .jal o => Sys2Proof.Machine.execJal o s
  | .fadd o => Sys2Proof.Machine.execFadd o s
  | .fsub o => Sys2Proof.Machine.execFsub o s
  | .fmul o => Sys2Proof.Machine.execFmul o s
  | .fdiv o => Sys2Proof.Machine.execFdiv o s
  | .fsqrt o => Sys2Proof.Machine.execFsqrt o s
  | .fmin o => Sys2Proof.Machine.execFmin o s
  | .fmax o => Sys2Proof.Machine.execFmax o s
  | .fsgnj o => Sys2Proof.Machine.execFsgnj o s
  | .feq o => Sys2Proof.Machine.execFeq o s
  | .flt o => Sys2Proof.Machine.execFlt o s
  | .fle o => Sys2Proof.Machine.execFle o s
  | .fclass o => Sys2Proof.Machine.execFclass o s
  | .fmadd o => Sys2Proof.Machine.execFmadd o s
  | .fmsub o => Sys2Proof.Machine.execFmsub o s
  | .fnmadd o => Sys2Proof.Machine.execFnmadd o s
  | .fnmsub o => Sys2Proof.Machine.execFnmsub o s
  | .fcvtDS o => Sys2Proof.Machine.execFcvtDS o s
  | .fcvtSD o => Sys2Proof.Machine.execFcvtSD o s
  | .fcvtW o => Sys2Proof.Machine.execFcvtW o s
  | .fcvtWu o => Sys2Proof.Machine.execFcvtWu o s
  | .fcvtFw o => Sys2Proof.Machine.execFcvtFw o s
  | .fcvtFwu o => Sys2Proof.Machine.execFcvtFwu o s
  | .fmvGf o => Sys2Proof.Machine.execFmvGf o s
  | .fmvFg o => Sys2Proof.Machine.execFmvFg o s
  | .loop o => Sys2Proof.Machine.execLoop o s
  | .lrW o => Sys2Proof.Machine.execLrW o s
  | .scW o => Sys2Proof.Machine.execScW o s
  | .lrxW o => Sys2Proof.Machine.execLrxW o s
  | .scxW o => Sys2Proof.Machine.execScxW o s
  | .trap o => Sys2Proof.Machine.execTrap o s
  | .eret o => Sys2Proof.Machine.execEret o s
  | .fence o => Sys2Proof.Machine.execFence o s
  | .fenceG o => Sys2Proof.Machine.execFenceG o s
  | .ifence o => Sys2Proof.Machine.execIfence o s
  | .patch o => Sys2Proof.Machine.execPatch o s
  | .csrr o => Sys2Proof.Machine.execCsrr o s
  | .csrw o => Sys2Proof.Machine.execCsrw o s
  | .csrs o => Sys2Proof.Machine.execCsrs o s
  | .csrc o => Sys2Proof.Machine.execCsrc o s
  | .wait o => Sys2Proof.Machine.execWait o s
  | .waitWake o => Sys2Proof.Machine.execWaitWake o s
  | .threadRun o => Sys2Proof.Machine.execThreadRun o s
  | .threadStop o => Sys2Proof.Machine.execThreadStop o s
  | .swi o => Sys2Proof.Machine.execSwi o s
  | .swiClr o => Sys2Proof.Machine.execSwiClr o s
  | .interruptEntry o => Sys2Proof.Machine.execInterruptEntry o s
  | .nmiEntry o => Sys2Proof.Machine.execNmiEntry o s
  | .queuedCauseEntry o => Sys2Proof.Machine.execQueuedCauseEntry o s
  | .vectorStart o => Sys2Proof.Machine.execVectorStart o s
  | .matrixStart o => Sys2Proof.Machine.execMatrixStart o s
  | .queuedComplete o => Sys2Proof.Machine.execQueuedComplete o s
  | .vfadd o => Sys2Proof.Machine.execVfadd o s
  | .vfsub o => Sys2Proof.Machine.execVfsub o s
  | .vfmul o => Sys2Proof.Machine.execVfmul o s
  | .vfmin o => Sys2Proof.Machine.execVfmin o s
  | .vfmax o => Sys2Proof.Machine.execVfmax o s
  | .vfsgnj o => Sys2Proof.Machine.execVfsgnj o s
  | .vadd2 o => Sys2Proof.Machine.execVadd2 o s
  | .vfexp o => Sys2Proof.Machine.execVfexp o s
  | .vflog o => Sys2Proof.Machine.execVflog o s
  | .vfsin o => Sys2Proof.Machine.execVfsin o s
  | .vfcos o => Sys2Proof.Machine.execVfcos o s
  | .vfrsqrt o => Sys2Proof.Machine.execVfrsqrt o s
  | .vfrcp o => Sys2Proof.Machine.execVfrcp o s
  | .vcvt o => Sys2Proof.Machine.execVcvt o s
  | .vfma o => Sys2Proof.Machine.execVfma o s
  | .vfms o => Sys2Proof.Machine.execVfms o s
  | .vfnma o => Sys2Proof.Machine.execVfnma o s
  | .vfnms o => Sys2Proof.Machine.execVfnms o s
  | .vfma2 o => Sys2Proof.Machine.execVfma2 o s
  | .vadd o => Sys2Proof.Machine.execVadd o s
  | .vsub o => Sys2Proof.Machine.execVsub o s
  | .vmul o => Sys2Proof.Machine.execVmul o s
  | .vmulh o => Sys2Proof.Machine.execVmulh o s
  | .vmulhu o => Sys2Proof.Machine.execVmulhu o s
  | .vand o => Sys2Proof.Machine.execVand o s
  | .vor o => Sys2Proof.Machine.execVor o s
  | .vxor o => Sys2Proof.Machine.execVxor o s
  | .vsll o => Sys2Proof.Machine.execVsll o s
  | .vsrl o => Sys2Proof.Machine.execVsrl o s
  | .vsra o => Sys2Proof.Machine.execVsra o s
  | .vmin o => Sys2Proof.Machine.execVmin o s
  | .vmax o => Sys2Proof.Machine.execVmax o s
  | .vminu o => Sys2Proof.Machine.execVminu o s
  | .vmaxu o => Sys2Proof.Machine.execVmaxu o s
  | .vmerge o => Sys2Proof.Machine.execVmerge o s
  | .vsadd o => Sys2Proof.Machine.execVsadd o s
  | .vsaddu o => Sys2Proof.Machine.execVsaddu o s
  | .vssub o => Sys2Proof.Machine.execVssub o s
  | .vssubu o => Sys2Proof.Machine.execVssubu o s
  | .vaadd o => Sys2Proof.Machine.execVaadd o s
  | .vaaddu o => Sys2Proof.Machine.execVaaddu o s
  | .vasub o => Sys2Proof.Machine.execVasub o s
  | .vsmul o => Sys2Proof.Machine.execVsmul o s
  | .vssrl o => Sys2Proof.Machine.execVssrl o s
  | .vssra o => Sys2Proof.Machine.execVssra o s
  | .vnclip o => Sys2Proof.Machine.execVnclip o s
  | .vnclipu o => Sys2Proof.Machine.execVnclipu o s
  | .vceq o => Sys2Proof.Machine.execVceq o s
  | .vcne o => Sys2Proof.Machine.execVcne o s
  | .vclt o => Sys2Proof.Machine.execVclt o s
  | .vcle o => Sys2Proof.Machine.execVcle o s
  | .vcltu o => Sys2Proof.Machine.execVcltu o s
  | .vcleu o => Sys2Proof.Machine.execVcleu o s
  | .vfceq o => Sys2Proof.Machine.execVfceq o s
  | .vfclt o => Sys2Proof.Machine.execVfclt o s
  | .vfcle o => Sys2Proof.Machine.execVfcle o s
  | .vfcun o => Sys2Proof.Machine.execVfcun o s
  | .vslideup o => Sys2Proof.Machine.execVslideup o s
  | .vslidedn o => Sys2Proof.Machine.execVslidedn o s
  | .vslideupi o => Sys2Proof.Machine.execVslideupi o s
  | .vslidedni o => Sys2Proof.Machine.execVslidedni o s
  | .vcompress o => Sys2Proof.Machine.execVcompress o s
  | .vbcast o => Sys2Proof.Machine.execVbcast o s
  | .vbcastf o => Sys2Proof.Machine.execVbcastf o s
  | .vinsert o => Sys2Proof.Machine.execVinsert o s
  | .vinsertf o => Sys2Proof.Machine.execVinsertf o s
  | .vscani o => Sys2Proof.Machine.execVscani o s
  | .vscanx o => Sys2Proof.Machine.execVscanx o s
  | .vsscani o => Sys2Proof.Machine.execVsscani o s
  | .vsscanx o => Sys2Proof.Machine.execVsscanx o s
  | .vscan2 o => Sys2Proof.Machine.execVscan2 o s
  | .vrsum o => Sys2Proof.Machine.execVrsum o s
  | .pand o => Sys2Proof.Machine.execPand o s
  | .por o => Sys2Proof.Machine.execPor o s
  | .pxor o => Sys2Proof.Machine.execPxor o s
  | .pandn o => Sys2Proof.Machine.execPandn o s
  | .pnot o => Sys2Proof.Machine.execPnot o s
  | .vpcount o => Sys2Proof.Machine.execVpcount o s
  | .vpany o => Sys2Proof.Machine.execVpany o s
  | .vpall o => Sys2Proof.Machine.execVpall o s
  | .vpfirst o => Sys2Proof.Machine.execVpfirst o s
  | .vextract o => Sys2Proof.Machine.execVextract o s
  | .vextractf o => Sys2Proof.Machine.execVextractf o s
  | .vld o => Sys2Proof.Machine.execVld o s
  | .vst o => Sys2Proof.Machine.execVst o s
  | .tld o => Sys2Proof.Machine.execTld o s
  | .tst o => Sys2Proof.Machine.execTst o s
  | .tldg o => Sys2Proof.Machine.execTldg o s
  | .tlds o => Sys2Proof.Machine.execTlds o s
  | .tsts o => Sys2Proof.Machine.execTsts o s
  | .tzero o => Sys2Proof.Machine.execTzero o s
  | .ttag o => Sys2Proof.Machine.execTtag o s
  | .mma o => Sys2Proof.Machine.execMma o s
  | .wload o => Sys2Proof.Machine.execWload o s
  | .mvm o => Sys2Proof.Machine.execMvm o s
  | .mvmt o => Sys2Proof.Machine.execMvmt o s
  | .accrd o => Sys2Proof.Machine.execAccrd o s
  | .accrdVector o => Sys2Proof.Machine.execAccrdVector o s
  | .accwr o => Sys2Proof.Machine.execAccwr o s
  | .accfree o => Sys2Proof.Machine.execAccfree o s
  | .acctag o => Sys2Proof.Machine.execAcctag o s
  | .rowSubstitution o => Sys2Proof.Machine.execRowSubstitution o s
  | .walk o => Sys2Proof.Machine.execWalk o s
  | .l2Fill o => Sys2Proof.Machine.execL2Fill o s
  | .mergeDrain o => Sys2Proof.Machine.execMergeDrain o s
  | .mergeIdleTimeout o => Sys2Proof.Machine.execMergeIdleTimeout o s
  | .l2wb o => Sys2Proof.Machine.execL2wb o s
  | .l2inv o => Sys2Proof.Machine.execL2inv o s
  | .l2wbL2inv o => Sys2Proof.Machine.execL2wbL2inv o s
  | .l2OpComplete o => Sys2Proof.Machine.execL2OpComplete o s
  | .patrolScrub o => Sys2Proof.Machine.execPatrolScrub o s
  | .admissionSlot o => Sys2Proof.Machine.execAdmissionSlot o s
  | .faultCollect o => Sys2Proof.Machine.execFaultCollect o s
  | .faultBatch o => Sys2Proof.Machine.execFaultBatch o s
  | .faultBatchWrErr o => Sys2Proof.Machine.execFaultBatchWrErr o s
  | .fqWrErrClear o => Sys2Proof.Machine.execFqWrErrClear o s
  | .fqHead o => Sys2Proof.Machine.execFqHead o s
  | .xlatWrite o => Sys2Proof.Machine.execXlatWrite o s
  | .beatPpsEdge o => Sys2Proof.Machine.execBeatPpsEdge o s
  | .ppsLoss => Sys2Proof.Machine.execPpsLoss s
  | .beat10mQualify => Sys2Proof.Machine.execBeat10mQualify s
  | .beat10mLoss => Sys2Proof.Machine.execBeat10mLoss s
  | .ptpMessage o => Sys2Proof.Machine.execPtpMessage o s
  | .ptpLoss => Sys2Proof.Machine.execPtpLoss s
  | .timeCrossing o => Sys2Proof.Machine.execTimeCrossing o s
  | .jumpAccept => Sys2Proof.Machine.execJumpAccept s
  | .slewLock => Sys2Proof.Machine.execSlewLock s
  | .holdoverToPtp => Sys2Proof.Machine.execHoldoverToPtp s
  | .counterExpired => Sys2Proof.Machine.execCounterExpired s
  | .breathPeriod o => Sys2Proof.Machine.execBreathPeriod o s
  | .breathLen o => Sys2Proof.Machine.execBreathLen o s
  | .breathScheduleChange => Sys2Proof.Machine.execBreathScheduleChange s
  | .breathOpen o => Sys2Proof.Machine.execBreathOpen o s
  | .calRevert o => Sys2Proof.Machine.execCalRevert o s
  | .calStepDone o => Sys2Proof.Machine.execCalStepDone o s
  | .calCtl o => Sys2Proof.Machine.execCalCtl o s
  | .doorbell o => Sys2Proof.Machine.execDoorbell o s
  | .descriptorFetch => Sys2Proof.Machine.execDescriptorFetch s
  | .descriptorAccept o => Sys2Proof.Machine.execDescriptorAccept o s
  | .fetchErr o => Sys2Proof.Machine.execFetchErr o s
  | .notBefore o => Sys2Proof.Machine.execNotBefore o s
  | .deadlineMissed o => Sys2Proof.Machine.execDeadlineMissed o s
  | .barrierAbort o => Sys2Proof.Machine.execBarrierAbort o s
  | .completionWrite o => Sys2Proof.Machine.execCompletionWrite o s
  | .completionWrErr o => Sys2Proof.Machine.execCompletionWrErr o s
  | .sqCfg o => Sys2Proof.Machine.execSqCfg o s
  | .sqResume o => Sys2Proof.Machine.execSqResume o s
  | .cqCfg o => Sys2Proof.Machine.execCqCfg o s
  | .cqHead o => Sys2Proof.Machine.execCqHead o s
  | .nop o => Sys2Proof.Machine.execNop o s
  | .descriptorFence o => Sys2Proof.Machine.execDescriptorFence o s
  | .probe o => Sys2Proof.Machine.execProbe o s
  | .launch o => Sys2Proof.Machine.execLaunch o s
  | .launchFinish o => Sys2Proof.Machine.execLaunchFinish o s
  | .move o => Sys2Proof.Machine.execMove o s
  | .fill o => Sys2Proof.Machine.execFill o s
  | .collect o => Sys2Proof.Machine.execCollect o s
  | .collectDeadline o => Sys2Proof.Machine.execCollectDeadline o s
  | .collectSum o => Sys2Proof.Machine.execCollectSum o s
  | .colOpenResend o => Sys2Proof.Machine.execColOpenResend o s
  | .update o => Sys2Proof.Machine.execUpdate o s
  | .updateFinish o => Sys2Proof.Machine.execUpdateFinish o s
  | .drain o => Sys2Proof.Machine.execDrain o s
  | .logmark o => Sys2Proof.Machine.execLogmark o s
  | .logmarkAuto o => Sys2Proof.Machine.execLogmarkAuto o s
  | .inv o => Sys2Proof.Machine.execInv o s
  | .l2f o => Sys2Proof.Machine.execL2f o s
  | .xsyncRetirement o => Sys2Proof.Machine.execXsyncRetirement o s
  | .resume o => Sys2Proof.Machine.execResume o s
  | .decline o => Sys2Proof.Machine.execDecline o s
  | .bind o => Sys2Proof.Machine.execBind o s
  | .bindFinish o => Sys2Proof.Machine.execBindFinish o s
  | .unbind o => Sys2Proof.Machine.execUnbind o s
  | .unbindTimeout o => Sys2Proof.Machine.execUnbindTimeout o s
  | .hostRetireTimeout o => Sys2Proof.Machine.execHostRetireTimeout o s
  | .scrub o => Sys2Proof.Machine.execScrub o s
  | .rekey o => Sys2Proof.Machine.execRekey o s
  | .retireOnly o => Sys2Proof.Machine.execRetireOnly o s
  | .restore o => Sys2Proof.Machine.execRestore o s
  | .rd o => Sys2Proof.Machine.execRd o s
  | .wr o => Sys2Proof.Machine.execWr o s
  | .rdCpl o => Sys2Proof.Machine.execRdCpl o s
  | .wrAck o => Sys2Proof.Machine.execWrAck o s
  | .errCpl o => Sys2Proof.Machine.execErrCpl o s
  | .colOpen o => Sys2Proof.Machine.execColOpen o s
  | .colData o => Sys2Proof.Machine.execColData o s
  | .colNak o => Sys2Proof.Machine.execColNak o s
  | .link o => Sys2Proof.Machine.execLink o s
  | .crcFailure o => Sys2Proof.Machine.execCrcFailure o s
  | .requestTimeout o => Sys2Proof.Machine.execRequestTimeout o s
  | .laneFailure o => Sys2Proof.Machine.execLaneFailure o s
  | .portTrainingDone o => Sys2Proof.Machine.execPortTrainingDone o s
  | .trainingFailure o => Sys2Proof.Machine.execTrainingFailure o s
  | .portCtl o => Sys2Proof.Machine.execPortCtl o s
  | .portErr o => Sys2Proof.Machine.execPortErr o s
  | .routeData o => Sys2Proof.Machine.execRouteData o s
  | .routeHoldRelease => Sys2Proof.Machine.execRouteHoldRelease s
  | .underVoltage o => Sys2Proof.Machine.execUnderVoltage o s
  | .overVoltage o => Sys2Proof.Machine.execOverVoltage o s
  | .voltageRecovery o => Sys2Proof.Machine.execVoltageRecovery o s
  | .inputLimit o => Sys2Proof.Machine.execInputLimit o s
  | .requestSample => Sys2Proof.Machine.execRequestSample s
  | .throttleMessage o => Sys2Proof.Machine.execThrottleMessage o s
  | .bellowsInterval o => Sys2Proof.Machine.execBellowsInterval o s
  | .throttleSilence => Sys2Proof.Machine.execThrottleSilence s
  | .powerOver => Sys2Proof.Machine.execPowerOver s
  | .powerRelief => Sys2Proof.Machine.execPowerRelief s
  | .thermalRise o => Sys2Proof.Machine.execThermalRise o s
  | .thermalFall o => Sys2Proof.Machine.execThermalFall o s
  | .tileOvertemp o => Sys2Proof.Machine.execTileOvertemp o s
  | .neighbourRise o => Sys2Proof.Machine.execNeighbourRise o s
  | .neighbourFall o => Sys2Proof.Machine.execNeighbourFall o s
  | .pwrLimit o => Sys2Proof.Machine.execPwrLimit o s
  | .watchdog => Sys2Proof.Machine.execWatchdog s
  | .watchdogSwitchOff => Sys2Proof.Machine.execWatchdogSwitchOff s
  | .stop => Sys2Proof.Machine.execStop s
  | .leak => Sys2Proof.Machine.execLeak s
  | .coolantFlowLow => Sys2Proof.Machine.execCoolantFlowLow s
  | .coolantWarning => Sys2Proof.Machine.execCoolantWarning s
  | .converterOvertemp => Sys2Proof.Machine.execConverterOvertemp s
  | .lockstepMismatch => Sys2Proof.Machine.execLockstepMismatch s
  | .controllerRestart => Sys2Proof.Machine.execControllerRestart s
  | .mctpAuthFail => Sys2Proof.Machine.execMctpAuthFail s
  | .mctpSilence => Sys2Proof.Machine.execMctpSilence s
  | .go o => Sys2Proof.Machine.execGo o s
  | .ack => Sys2Proof.Machine.execAck s
  | .mbTake => Sys2Proof.Machine.execMbTake s
  | .mbResponse o => Sys2Proof.Machine.execMbResponse o s
  | .firmwareImage o => Sys2Proof.Machine.execFirmwareImage o s
  | .pair o => Sys2Proof.Machine.execPair o s
  | .unpair => Sys2Proof.Machine.execUnpair s
  | .lldpdu o => Sys2Proof.Machine.execLldpdu o s
  | .pairingTimeout => Sys2Proof.Machine.execPairingTimeout s
  | .setKek o => Sys2Proof.Machine.execSetKek o s
  | .getVersion => Sys2Proof.Machine.execGetVersion s
  | .getCapabilities => Sys2Proof.Machine.execGetCapabilities s
  | .negotiateAlgorithms => Sys2Proof.Machine.execNegotiateAlgorithms s
  | .getDigests => Sys2Proof.Machine.execGetDigests s
  | .getCertificate => Sys2Proof.Machine.execGetCertificate s
  | .challenge => Sys2Proof.Machine.execChallenge s
  | .getMeasurements => Sys2Proof.Machine.execGetMeasurements s
  | .keyExchange o => Sys2Proof.Machine.execKeyExchange o s
  | .finish => Sys2Proof.Machine.execFinish s
  | .endSession => Sys2Proof.Machine.execEndSession s
  | .facEnAssert o => Sys2Proof.Machine.execFacEnAssert o s
  | .facEnDeassert => Sys2Proof.Machine.execFacEnDeassert s
  | .poweron => Sys2Proof.Machine.execPoweron s
  | .risingComplete o => Sys2Proof.Machine.execRisingComplete o s
  | .selftestComplete o => Sys2Proof.Machine.execSelftestComplete o s
  | .enterService => Sys2Proof.Machine.execEnterService s
  | .enterServing => Sys2Proof.Machine.execEnterServing s
  | .cmdDrain => Sys2Proof.Machine.execCmdDrain s
  | .warmReset => Sys2Proof.Machine.execWarmReset s
  | .redfishWarmReset => Sys2Proof.Machine.execRedfishWarmReset s
  | .perst => Sys2Proof.Machine.execPerst s
  | .hotReset => Sys2Proof.Machine.execHotReset s
  | .flr => Sys2Proof.Machine.execFlr s
  | .powercycle => Sys2Proof.Machine.execPowercycle s
  | .orderlyStopEnd => Sys2Proof.Machine.execOrderlyStopEnd s
  | .fatalError o => Sys2Proof.Machine.execFatalError o s
  | .hostRequestError o => Sys2Proof.Machine.execHostRequestError o s
  | .hwError o => Sys2Proof.Machine.execHwError o s
  | .coreSubstitution o => Sys2Proof.Machine.execCoreSubstitution o s
  | .tileSubstitution o => Sys2Proof.Machine.execTileSubstitution o s
  | .stackChannelCopy o => Sys2Proof.Machine.execStackChannelCopy o s
  | .errorRecordWrite => Sys2Proof.Machine.execErrorRecordWrite s
  | .ceMergeWindow o => Sys2Proof.Machine.execCeMergeWindow o s
  | .errorRingWrErr => Sys2Proof.Machine.execErrorRingWrErr s
  | .errCfg o => Sys2Proof.Machine.execErrCfg o s
  | .errHead o => Sys2Proof.Machine.execErrHead o s
  | .bar4Read o => Sys2Proof.Machine.execBar4Read o s
  | .bar4Write o => Sys2Proof.Machine.execBar4Write o s
  | .freeze => Sys2Proof.Machine.execFreeze s
  | .clear => Sys2Proof.Machine.execClear s
  | .perfSel o => Sys2Proof.Machine.execPerfSel o s
  | .perfCnt o => Sys2Proof.Machine.execPerfCnt o s
  | .regWrite o => Sys2Proof.Machine.execRegWrite o s
  | .perstDeassert => Sys2Proof.Machine.execPerstDeassert s
  | .peerSignalLoss o => Sys2Proof.Machine.execPeerSignalLoss o s
  | .peerSignalDetect o => Sys2Proof.Machine.execPeerSignalDetect o s
  | .mctpChannelUp => Sys2Proof.Machine.execMctpChannelUp s
  | .coolantWarningCleared => Sys2Proof.Machine.execCoolantWarningCleared s
  | .controllerRestartDone => Sys2Proof.Machine.execControllerRestartDone s
  | .pwrOplim o => Sys2Proof.Machine.execPwrOplim o s
  | .hostReadCompletion o => Sys2Proof.Machine.execHostReadCompletion o s

end Sys2Proof.Machine
end

