-- ==== Sys2Proof/Machine/Tick.lean ====
section
/-!
DEFINITION. The passage of beat time (R29, R30, R31), with the slew of R38, and the controller's own sampling (R420).
-/

namespace Sys2Proof.Machine

/-- One tick nearer to zero. -/
def nearer (d : Int) : Int := if 0 < d then d - 1 else if d < 0 then d + 1 else 0

/-- What the slew removes from the difference when the counter reaches `c` (R38): the rate changes by at most 50 ppm, so at most one tick of
the difference goes in 20,000 ticks of the counter; the rate itself is a free value. No tick of the counter is skipped or repeated. -/
def TimeState.slewTo (c : DWord) (t : TimeState) : TimeState :=
  if t.slewing ∧ c.toNat % 20000 = 0 ∧ Config.slewTakes c.toNat then { t with diff := t.diff.map nearer } else t

/-- The facility-side sensors, in the order of Table 16-2: coolant, leak detectors, 48 V input, converter, facility section, ambient. -/
def facilitySensors : List Nat := (List.range 108).map (304 + ·)

/-- What the controller sees in a sample of its sensors (R420). A leak that it senses no more, and a converter phase below 125 °C, are in
force no more (R421, R488); with the last of its causes FAC_ALERT# is released (notes/assumptions/31.md). -/
def MgmtState.sampleFacility (m : MgmtState) : MgmtState :=
  let read (n : Nat) : BitVec 32 := Config.facilitySensor n m.uptime
  let leak := m.leak && (List.range 8).any fun i => decide (read (310 + i) ≠ 0)
  { m with
    sensors := facilitySensors.foldl (fun t n => t.set 0 n (read n)) m.sensors
    leak := leak
    hot := m.hot && (List.range 24).any fun i => decide (125 ≤ (read (368 + i)).toNat)
    alert := m.alert && (leak || m.flow || m.warning) }

/-- A tick of the facility side, wherever it has power: every 10 ms the controller, unless it restarts, samples its sensors (R420, R423). -/
def MgmtState.tick (m : MgmtState) : MgmtState :=
  let m := { m with uptime := m.uptime + 1 }
  if m.uptime % 160000000 = 0 && !m.restarting then m.sampleFacility else m

/-- A tick of the facility side. -/
def facilityTick (s : State) : State := if s.mod.state = .off then s else { s with mgmt := s.mgmt.tick }

/-- One tick of the beat-time counter: it runs whenever the module is above STANDBY (R30) and stops at all ones (R31). -/
def beatTick (s : State) : State :=
  if s.mod.state = .off ∨ s.mod.state = .standby ∨ s.time.count = BitVec.allOnes 64 then s
  else { s with time := { (s.time.slewTo (s.time.count + 1)) with count := s.time.count + 1 } }

/-- One tick. -/
def tick (s : State) : State := beatTick (facilityTick s)

end Sys2Proof.Machine
end

