-- ==== Sys2Proof/Machine/Fetch.lean ====
section
/-!
DEFINITION. Fetching: the cores run the programs that stand in their instruction local stores (R66, R67, R73, R90).
-/

namespace Sys2Proof.Machine

/-- The instruction word at an offset of a core's instruction local store (R66, R73). -/
def wordAt (k : Core) (off : BitVec 17) : Word := BitVec.ofNat 32 (k.mem.istore.readNat off.toNat 4)

/-- A thread issues the instruction at its pc: its words come from the instruction local store, and a word that spells none is illegal
(R66, R67). -/
def fetchIssue (c : CoreId) (t : ThreadId) (s : State) : Result :=
  let k := s.core c
  let pc := (k.thread t).pc
  let w := wordAt k pc
  match Sys2Proof.decodeWord c t w (wordAt k (pc + 4)) with
  | some i => exec i s
  | none => issue c t (some (illegalSub w)) [] [] [] id s

/-- The thread is ready: its next instruction issues, which leaves the state other than it was (R90, notes/assumptions/1.md). -/
def issues (s : State) (c : CoreId) (t : ThreadId) : Bool := match fetchIssue c t s with
  | .next s' => decide (s' ≠ s)
  | _ => true

/-- The threads of a core in their order of issue, after the one that issued last (R90). -/
def threadsFrom (last : ThreadId) : List ThreadId := [last + 1, last + 2, last + 3, last]

/-- A core issues one instruction, of its first ready thread (R90). -/
def issueCore (c : CoreId) (s : State) : Result :=
  match (threadsFrom (s.core c).ctl.last).find? (issues s c) with
  | some t => fetchIssue c t (s.modCore c fun k => { k with ctl := { k.ctl with last := t } })
  | none => .next s

/-- The cores on which a thread runs. -/
def runningCores (s : State) : List CoreId :=
  (s.cores.entries.filter fun e => e.2.threads.entries.any fun x => x.2.run).map fun e => BitVec.ofNat 9 e.1

/-- What a step does when no command waits: beat time ticks, and one of the cores that run, or none, issues an instruction; a free value
says which (DESIGN CHOICE, notes/assumptions/1.md). -/
def idle (s : State) : Result :=
  let s := tick s
  let l := runningCores s
  let (n, s) := drawBelow (l.length + 1) s
  match l[n]? with
  | some c => issueCore c s
  | none => .next s

end Sys2Proof.Machine
end

