-- ==== Sys2Proof/WellFormed.lean ====
section
/-!
DEFINITION. The commands that name units the module has: 18 ports of 9 lanes (R375), arrays of 32 rows and a spare (R189), stacks of 32 channels and
two spares (R453), 140 Bore channels (Table 15-5), 18 sites (R14) and 17 sources of requests to a stack (R268).
-/

namespace Sys2Proof

/-- A unit that self-test may name (R463). -/
def FailedUnit.wf : FailedUnit → Bool
  | .row _ _ r => decide (r.toNat < 33)
  | .channel _ n => decide (n.toNat < 34)
  | .core _ => true
  | .tile _ => true

/-- A fatal error names a site or a Bore channel that exists (Table 17-3). -/
def FatalKind.wf : FatalKind → Bool
  | .router n => decide (n.toNat < 18)
  | .channel n _ => decide (n.toNat < 140)
  | .overTemp _ => true
  | .hub => true
  | .input => true

/-- A hardware error names a Bore channel and lane that exist (Table 15-5). -/
def HwWhat.wf : HwWhat → Bool
  | .boreLane ch lane _ => decide (ch.toNat < 140) && decide (lane.toNat < 33)
  | _ => true

/-- A port of the module (R375). -/
def portWf (i : BitVec 5) : Bool := decide (i.toNat < 18)

/-- The command names only units that exist; every other operand may hold any value. -/
def Instr.wf : Instr → Bool
  | .rowSubstitution o => decide (o.row.toNat < 33)
  | .stackChannelCopy o => decide (o.channel.toNat < 34)
  | .selftestComplete o => (o.failed :: o.again).all fun l => l.all FailedUnit.wf
  | .fatalError o => o.kind.wf
  | .hwError o => o.what.wf
  | .laneFailure o => portWf o.port && decide (o.lane.toNat < 9)
  | .portTrainingDone o => portWf o.port
  | .trainingFailure o => portWf o.port
  | .peerSignalLoss o => portWf o.port
  | .peerSignalDetect o => portWf o.port
  | .portCtl o => portWf o.port
  | .portErr o => portWf o.port
  | .rd o | .wr o | .rdCpl o | .wrAck o | .errCpl o | .colOpen o | .colData o | .colNak o => portWf o.port
  | .link o => portWf o.port
  | .crcFailure o => portWf o.port
  | .admissionSlot o => o.arrived.all fun x => decide (x.1.toNat < 17)
  | _ => true

end Sys2Proof
end

