-- ==== Sys2Proof/Safety.lean ====
section
/-!
DEFINITION. The terms in which claims are made: when a scalar instruction issues, what it leaves alone, and the conditions that every
run keeps.
-/

namespace Sys2Proof.Machine

/-! ## Issue and frames of scalar instructions -/

/-- Nothing keeps thread t from executing the instruction at its pc: it is ready (R90, R115), h0 waits for no queued register (R92), the
word's parity is good (Table 17-6), and no breakpoint matches (R103). -/
structure Issues (s : State) (c : CoreId) (t : ThreadId) (gs fs fw : List (BitVec 5)) : Prop where
  ready : ready s c t = true
  free : stalls (s.core c) t gs fs fw = false
  parity : parityBad (s.core c) (s.thread c t).pc = false
  step : breakpointAt (s.core c) t = none

/-- No hardware loop of the thread is active (R77). -/
def Loopless (th : Thread) : Prop := ∀ k < 3, th.lc.get 0 k = 0

/-- `t` is `s` with thread `x` in place of thread `th` of core `c`, once the instruction is over: only the pc, the loop counts and the
reservation's count (R78, R86) may differ from `x`, and with no active loop the pc is the next word's and the loop counts stay. -/
def Retires (s t : State) (c : CoreId) (th : ThreadId) (x : Thread) : Prop :=
  ∃ pc lc resv, t = s.setThread c th { x with pc := pc, lc := lc, resv := resv, stepOver := false, took := false } ∧
    (Loopless x → pc = x.pc + 4 ∧ lc = x.lc)

/-- `b` is `a` with `v` in g[rd], and g0 discards it (R52). -/
def WroteG (a b : Thread) (rd : BitVec 5) (v : Word) : Prop :=
  (∀ r, b.rg r = if r = rd ∧ r ≠ 0 then v else a.rg r) ∧ b = { a with g := b.g }

/-- The instruction's whole effect is `v` in g[rd], and the thread goes on. -/
def WritesG (s t : State) (c : CoreId) (th : ThreadId) (rd : BitVec 5) (v : Word) : Prop :=
  ∃ x, WroteG (s.thread c th) x rd v ∧ Retires s t c th x

/-- `b` is core `a` with `v` in f[rd] of thread th: on h0 bits [8191:64] of v[rd] stay (R53). -/
def WroteF (a b : Core) (th : ThreadId) (rd : BitVec 5) (v : DWord) : Prop :=
  (∀ r, b.rf th r = if r = rd then v else a.rf th r) ∧ (∀ r, b.rv r >>> 64 = a.rv r >>> 64) ∧
    (th = 0 → b = { a with vec := { a.vec with v := b.vec.v } }) ∧
    (th ≠ 0 → ∃ f, b = a.setThread th { a.thread th with f := f })

/-- The instruction's whole effect is `v` in f[rd], and the thread goes on. -/
def WritesF (s t : State) (c : CoreId) (th : ThreadId) (rd : BitVec 5) (v : DWord) : Prop :=
  ∃ k, WroteF (s.core c) k th rd v ∧ Retires (s.setCore c k) t c th (k.thread th)

/-- Nothing but core `c` differs. -/
def OnlyCore (s t : State) (c : CoreId) : Prop := t = { s with cores := t.cores } ∧ ∀ d, d ≠ c → t.core d = s.core d

/-- `b` is thread `a` once an instruction that writes none of its registers is over. -/
def WentOn (a b : Thread) : Prop :=
  b = { a with pc := b.pc, lc := b.lc, resv := b.resv, stepOver := false, took := false } ∧ (Loopless a → b.pc = a.pc + 4 ∧ b.lc = a.lc)

/-- The loop rule of R78 for an instruction whose last word is at `a`: the next pc and the loop counts after it, of which `lc` gives those
before. -/
def loopRule (lb le : Nat → Word) (a : BitVec 17) : List Nat → (Nat → Word) → BitVec 17 × (Nat → Word)
  | [], lc => (a + 4, lc)
  | k :: r, lc =>
    if lc k ≠ 0 ∧ le k = a.setWidth 32 then
      if 1 < (lc k).toNat then ((lb k).setWidth 17, Function.update lc k (lc k - 1))
      else loopRule lb le a r (Function.update lc k 0)
    else loopRule lb le a r lc

/-- Thread `x` goes on by R78 as though an instruction whose last word is at `a` had completed. -/
def FollowsLoopRule (x y : Thread) (a : BitVec 17) : Prop :=
  let n := loopRule (x.lb.get 0) (x.le.get 0) a [2, 1, 0] (x.lc.get 0)
  y.pc = n.1 ∧ ∀ k < 3, y.lc.get 0 k = n.2 k

/-- h0 has nothing queued or started; h1 to h3 have no queues. -/
def Quiet (s : State) (c : CoreId) (th : ThreadId) : Prop :=
  th = 0 → (s.core c).vec.queue = [] ∧ (s.core c).vec.started = [] ∧ (s.core c).mat.queue = [] ∧ (s.core c).mat.started = []

/-- A frame of thread `y` fits below its esp (R109). -/
def Framed (y : Thread) : Prop :=
  y.esp.toNat % 64 = 0 ∧ y.esplo.toNat + 64 ≤ y.esp.toNat ∧ 0x140 ≤ y.esp.toNat ∧ y.esp.toNat ≤ y.esphi.toNat + 1 ∧
    y.esp.toNat ≤ 0x100000

/-- The little-endian number that n bytes of a core's data local store hold at `a` (R4). -/
def dlsNum (k : Core) (a n : Nat) : Nat := k.mem.dls.readNat a n

/-- What an entry to vector `vec` on thread th of a core with nothing queued leaves when its frame fits below esp (R101, R106, R108, R109,
R112): `y` is the thread as it stood, `pc` the epc, `cause` the ecause; the frame's estat has PARK where `parked`, and BWS for vectors 12
and 13. Which interrupt sources pend and what an NMI sets aside is left to the caller. -/
def Entered (s t : State) (c : CoreId) (th : ThreadId) (y : Thread) (vec : Nat) (cause : Word) (ea : DWord) (pc : BitVec 17)
    (src : Nat) (parked : Bool) : Prop :=
  let n := y.esp.toNat - 64
  let z := t.thread c th
  let k := t.core c
  z = { y with
    pc := BitVec.ofNat 17 (0x100 + 32 * vec), epc := pc, ecause := cause, eaddr := ea, eprog := 0, esp := y.esp - 64
    estat := z.estat, resv := none, waiting := false, stepOver := false, blocked := none
    owed := none, took := z.took, nmiReq := z.nmiReq, nmiSrc := z.nmiSrc, aside := z.aside
    beatPend := z.beatPend, movPend := z.movPend, rsmPend := z.rsmPend, thrPend := z.thrPend } ∧
  (∀ i < 32, z.estat.getLsbD i =
    if i = 0 ∨ i = 13 ∨ i = 14 ∨ i = 15 then false
    else if i = 1 ∧ vec = 1 then true else if i = 8 ∧ th = 0 then true else y.estat.getLsbD i) ∧
  dlsNum k n 4 = pc.toNat ∧
  (∀ i < 32, (dlsNum k (n + 4) 4).testBit i =
    if i = 12 then pmOf s c else if i = 14 then parked
    else if i = 13 ∧ (vec = 12 ∨ vec = 13) then true else y.estat.getLsbD i) ∧
  dlsNum k (n + 8) 4 = cause.toNat ∧ dlsNum k (n + 12) 4 = 0 ∧ dlsNum k (n + 16) 8 = ea.toNat ∧
  dlsNum k (n + 24) 8 = (if th = 0 then src * 2 ^ 27 else 0) ∧ dlsNum k (n + 32) 8 = s.time.count.toNat ∧
  dlsNum k (n + 40) 4 = y.eien.toNat ∧ (∀ a, n + 44 ≤ a → a < n + 64 → k.mem.dls.read a = 0) ∧
  (∀ a, a < n ∨ n + 64 ≤ a → k.mem.dls.read a = (s.core c).mem.dls.read a) ∧
  (∀ h, h ≠ th → k.thread h = { s.thread c h with resv := (k.thread h).resv }) ∧
  k = { s.core c with
    threads := k.threads, mem := { (s.core c).mem with dls := k.mem.dls, dlsPoison := k.mem.dlsPoison }
    ctl := { (s.core c).ctl with swi := k.ctl.swi }, causes := k.causes } ∧
  (∀ d, d ≠ c → t.core d = s.core d) ∧ t = { s with cores := t.cores, binds := t.binds }

/-- An access of h0 of n bytes at `va`, within one 64-byte line, translates at once to Cached local Palvan memory: the core's TLB holds a leaf that maps it and permits it, nothing is
parked, and no watchpoint matches. -/
def HitsTlb (s : State) (c : CoreId) (va n : Nat) (write : Bool) (l : Leaf) : Prop :=
  va % 64 + n ≤ 64 ∧ va + n ≤ 2 ^ 48 ∧ isParked s (coreBinding s c) (.scalar c) = false ∧ (s.core c).mem.held = [] ∧
  inFlight s (.scalar c) (coreBinding s c) va write = none ∧
  tlbFind (s.core c).mem.tlb (coreBinding s c) va = some ⟨coreBinding s c, l⟩ ∧ l.maps va = true ∧ (write = true → l.w = true) ∧
  l.attr = 0 ∧ l.pa % 64 = l.va % 64 ∧ paRegion (l.addr va) = 0 ∧ isLocal s (l.addr va) = true ∧ watchAt (s.core c) 0 va n true write = none

/-- Command `i` completes in state `s` with a next state of which `P` holds. -/
def Completes (i : Instr) (s : State) (P : State → Prop) : Prop := ∃ t, exec i s = .next t ∧ P t

/-! ## Terms of the statements -/

/-- The bits that a write of a control register changes, for the registers of 32 bits that thread th may write whole (Tables 04-2 to 04-5,
05-2, 08-2; R55, R215: RM = 7 in `v` leaves RM). -/
def csrMask (th : ThreadId) (v : Word) : Nat → Option Word
  | 0x000 => some 0x2001
  | 0x001 => some (if th = 0 then 0x002F0000 else 0x002B0000)
  | 0x002 => some 0x1FFFC
  | 0x003 => some 0xFFF3FF1F
  | 0x006 | 0x007 | 0x008 | 0x009 | 0x020 | 0x021 | 0x022 | 0x024 | 0x025 | 0x026 | 0x028 | 0x029 | 0x02A => some 0xFFFFFFFF
  | 0x010 => some (if v.extractLsb' 12 3 = 7 then 0x00038FDF else 0x0003FFDF)
  | 0x011 => if th = 0 then some 0xFF else none
  | 0x012 => if th = 0 then some 0x7FF else none
  | 0x013 => if th = 0 then some 7 else none
  | _ => none

/-- The forms of VForm with an S form, with the operation each enters the queue as (Tables 05-5, 05-6, 05-11). -/
def scalarForms (o : VForm) : List (Instr × VOp) :=
  [(.vfadd o, .fadd), (.vfsub o, .fsub), (.vfmul o, .fmul), (.vfmin o, .fmin), (.vfmax o, .fmax), (.vfsgnj o, .fsgnj),
   (.vadd2 o, .add2), (.vadd o, .add), (.vsub o, .sub), (.vmul o, .mul), (.vmulh o, .mulh), (.vmulhu o, .mulhu), (.vand o, .and),
   (.vor o, .or), (.vxor o, .xor), (.vsll o, .sll), (.vsrl o, .srl), (.vsra o, .sra), (.vmin o, .min), (.vmax o, .max),
   (.vminu o, .minu), (.vmaxu o, .maxu), (.vmerge o, .merge), (.vsadd o, .sadd), (.vsaddu o, .saddu), (.vssub o, .ssub),
   (.vssubu o, .ssubu), (.vaadd o, .aadd), (.vaaddu o, .aaddu), (.vasub o, .asub), (.vsmul o, .smul), (.vssrl o, .ssrl),
   (.vssra o, .ssra)]

/-- The compares (Tables 05-5, 05-6). -/
def compareForms (o : VForm) : List (Instr × VOp) :=
  [(.vceq o, .ceq), (.vcne o, .cne), (.vclt o, .clt), (.vcle o, .cle), (.vcltu o, .cltu), (.vcleu o, .cleu), (.vfceq o, .fceq),
   (.vfclt o, .fclt), (.vfcle o, .fcle), (.vfcun o, .fcun)]

/-- The forms of one vector source (Table 05-5, R160). -/
def unaryForms (o : VForm) : List (Instr × VOp) :=
  [(.vfexp o, .fexp), (.vflog o, .flog), (.vfsin o, .fsin), (.vfcos o, .fcos), (.vfrsqrt o, .frsqrt), (.vfrcp o, .frcp),
   (.vcvt o, .cvt)]

/-- The vector fused multiply-adds (Table 05-5). -/
def fusedForms (o : VFmaForm) : List (Instr × VOp) :=
  [(.vfma o, .fma), (.vfms o, .fms), (.vfnma o, .fnma), (.vfnms o, .fnms), (.vfma2 o, .fma2)]

/-- The scans (Table 05-8). -/
def scanForms (o : VScanForm) : List (Instr × VOp) :=
  [(.vscani o, .scani), (.vscanx o, .scanx), (.vsscani o, .sscani), (.vsscanx o, .sscanx), (.vscan2 o, .scan2)]

/-- What predicate logic asks of its fields: predicate numbers, and pm zero (Table 05-8). -/
def logicOk (o : VForm) : Prop := o.vd.toNat < 8 ∧ o.va.toNat < 8 ∧ o.vb.toNat < 8 ∧ o.pm = 0

/-- VPERM, VXFER, summaries and predicate logic, with what R67 asks of their fields and the g registers that they capture (Tables 05-7 and 05-8). -/
def moveForms (o : VForm) : List (Instr × VOp × Prop × List (BitVec 5)) :=
  [(.vslideup o, .slideup, True, [o.vb]), (.vslidedn o, .slidedn, True, [o.vb]), (.vcompress o, .compress, True, []),
   (.vbcast o, .bcast, True, [o.va]), (.vbcastf o, .bcastf, True, []), (.vinsert o, .insert, o.pm = 0, [o.va, o.vb]),
   (.vinsertf o, .insertf, o.pm = 0, [o.vb]), (.vextract o, .extract, o.pm = 0, [o.vb]),
   (.vextractf o, .extractf, o.pm = 0, [o.vb]), (.vpcount o, .pcount, o.va.toNat < 8, []), (.vpany o, .pany, o.va.toNat < 8, []),
   (.vpall o, .pall, o.va.toNat < 8, []), (.vpfirst o, .pfirst, o.va.toNat < 8, []),
   (.pand o, .pand, logicOk o, []), (.por o, .por, logicOk o, []), (.pxor o, .pxor, logicOk o, []),
   (.pandn o, .pandn, logicOk o, []), (.pnot o, .pnot, logicOk o ∧ o.vb = 0, [])]

/-- `t` is `s` once an instruction has entered h0's vector queue of core c behind what it held, as an entry of which `P` holds; the entry
holds what the queue captures for every instruction (R89) and comes after all others in program order; `steps` of rpos are taken (R229). -/
def EntersVector (s t : State) (c : CoreId) (P : VInstr → Prop) : Prop :=
  let k := s.core c
  let k' := t.core c
  ∃ e steps, P e ∧ e.pc = (s.thread c 0).pc ∧ e.fcsr = (s.thread c 0).fcsr ∧ e.fmt = k.vec.vcfg.setWidth 4 ∧
    e.cfmt = k.vec.vcfg.extractLsb' 4 4 ∧ e.vl = k.vec.vl.setWidth 11 ∧ e.rm = k.vec.vxrm.setWidth 2 ∧ e.rpos = k.vec.rpos ∧
    (∀ i ∈ k.vecAll, i.seq < e.seq) ∧ (∀ i ∈ k.matAll, i.seq < e.seq) ∧
    k' = { k with
      threads := k'.threads
      vec := { k.vec with queue := k.vec.queue ++ [e], rpos := k.vec.rpos + BitVec.ofNat 64 steps } } ∧
    (steps = 0 ∨ (s.thread c 0).fcsr.extractLsb' 12 3 = 6 ∧ steps = (e.vl.toNat + 63) / 64) ∧
    WentOn (s.thread c 0) (t.thread c 0) ∧ OnlyCore s t c ∧ ∀ h, h ≠ 0 → t.thread c h = s.thread c h

/-- h0's vector queue takes an instruction now: it has room and is not frozen (R65, R92, R122). -/
def VectorRoom (s : State) (c : CoreId) : Prop :=
  (s.core c).frozen = false ∧ (s.core c).vec.queue.length < 16

/-- As EntersVector, for the matrix queue; the instruction is 8 bytes long, and no active loop ends on its first word (R66, R81). An ACCRD
whose mode is 6 takes one step of rpos for each 64 of its elements (R229). -/
def EntersMatrix (s t : State) (c : CoreId) (P : MInstr → Prop) : Prop :=
  let k := s.core c
  let k' := t.core c
  let x := s.thread c 0
  let y := t.thread c 0
  ∃ e steps, P e ∧ e.pc = x.pc ∧ e.fcsr = x.fcsr ∧ e.rpos = k.vec.rpos ∧
    (∀ i ∈ k.vecAll, i.seq < e.seq) ∧ (∀ i ∈ k.matAll, i.seq < e.seq) ∧
    k' = { k with
      threads := k'.threads, mat := { k.mat with queue := k.mat.queue ++ [e] }
      vec := { k.vec with rpos := k.vec.rpos + BitVec.ofNat 64 steps } } ∧
    (let rnd := bitsOf e.shape.toNat 6 3
     let mode := if rnd = 0 then (x.fcsr.extractLsb' 12 3).toNat else rnd - 1
     steps = if (e.op = .accrd ∨ e.op = .accrdV) ∧ mode = 6 then
       ((bitsOf e.shape.toNat 26 6 + 1) * (bitsOf e.shape.toNat 0 6 + 1) + 63) / 64 else 0) ∧
    y = { x with pc := y.pc, lc := y.lc, resv := y.resv, stepOver := false, took := false } ∧ FollowsLoopRule x y (x.pc + 4) ∧
    OnlyCore s t c ∧ ∀ h, h ≠ 0 → t.thread c h = s.thread c h

/-- h0's matrix queue takes a two-word instruction now. -/
def MatrixRoom (s : State) (c : CoreId) : Prop :=
  (s.core c).frozen = false ∧ (s.core c).mat.queue.length < 16 ∧ parityBad (s.core c) ((s.thread c 0).pc + 4) = false ∧
    ∀ k < 3, (s.thread c 0).lc.get 0 k ≠ 0 → (s.thread c 0).le.get 0 k ≠ (s.thread c 0).pc.setWidth 32

/-- No thread of any core is in an access or a fence that has not completed, no core is to stop, and no descriptor is accepted: an arrival
sets nothing else going (R91, R94, R304, R339). -/
def Still (s : State) : Prop :=
  (∀ c h, (s.thread c h).blocked = none) ∧ (∀ c, (s.core c).ctl.stopping = false) ∧ s.allDescs = []

/-- `t` is `s` but for core c, tile `n`, the stacks and the performance counters. -/
def OnlyMemory (s t : State) (c : CoreId) (n : TileId) : Prop :=
  t = { s with cores := t.cores, tiles := t.tiles, stk := t.stk, perf := t.perf } ∧
    (∀ d, tileOf d ≠ n → d ≠ c → t.core d = s.core d) ∧ ∀ m, m ≠ n → t.tile m = s.tile m

/-- `t` is `s` but for the translation registers of binding b, which are now `x`. -/
def OnlyXlat (s t : State) (b : BindingId) (x : Xlat) : Prop :=
  t = { s with binds := t.binds } ∧ t.bnd b = { s.bnd b with xlat := x } ∧ ∀ a, a ≠ b → t.bnd a = s.bnd a

/-- `t` is `s` but for submission ring r, which is now `q`. -/
def OnlyRing (s t : State) (r : RingId) (q : SubRing) : Prop :=
  t = { s with rings := t.rings } ∧ t.ring r = q ∧ ∀ x, x ≠ r → t.ring x = s.ring x

/-- `t` is `s` but for completion ring c, which is now `q`. -/
def OnlyCq (s t : State) (c : CqId) (q : CompRing) : Prop :=
  t = { s with cqs := t.cqs } ∧ t.cq c = q ∧ ∀ x, x ≠ c → t.cq x = s.cq x

/-- Descriptor `d` of ring r has finished with `st`: it is ended, and its final completion waits, the last of its completion ring (R306, R313,
Table 11-9). -/
def Finishes (s t : State) (r : RingId) (d : Desc) (st : Status) (detail : List Byte) : Prop :=
  (∃ c, (t.cq (s.ring r).cq).waiting = (s.cq (s.ring r).cq).waiting ++ [c] ∧ c.ring = r ∧ c.index = d.index ∧
    c.ringIndex = d.ringIndex ∧ c.tag = d.tag ∧
    c.status = st ∧ c.final = true ∧ c.detail = detail ∧ c.accepted = d.accepted ∧ c.opcode.toNat = d.opcode ∧ c.irq = d.flag 1 ∧
    (c.finished = s.time.count ∨ st = .rejectFormat ∧ c.finished = d.accepted)) ∧
  (∃ e, t.desc r d.index = some e ∧ e.ended = true ∧ e.raw = d.raw) ∧
  (∀ x, x ≠ (s.ring r).cq → t.cq x = s.cq x) ∧ ∀ x, x ≠ r → t.ring x = s.ring x

/-- Descriptor `d` stands at the start point of ring r and may start now, legally and within its deadline (R46 to R48, R308, R309, R321,
R494). -/
def Starts (s : State) (r : RingId) (d : Desc) (opcode : Nat) : Prop :=
  (s.ring r).startPoint = some d ∧ s.desc r d.index = some d ∧ d.opcode = opcode ∧ startable s r d = true ∧
    deadlinePassed s d = false ∧ legal s d = true

/-- The channels, spares and slots of every stack are those before; only where requests wait at a stack may more wait (R268). -/
def PortsStay (s t : State) : Prop :=
  ∀ n,
    let p := s.stk.ports.get .reset n
    let q := t.stk.ports.get .reset n
    q = { p with queued := q.queued, atNode := q.atNode } ∧ (p.sources = [] → q = p)

/-- The stacks hold what they held. -/
def StacksStay (s t : State) : Prop := t.stk = { s.stk with ports := t.stk.ports } ∧ PortsStay s t

/-- Where byte `va` of a range that leaf `l` maps lies in the stacks. -/
def placeOf (l : Leaf) (va : Nat) : Nat := stackAddr (paOffset (l.addr va))

/-- A hub engine's block of n bytes at `va`, whole 64-byte units within a 512-byte block, translates at once by leaf `l` of the hub TLB to
local Palvan memory; what is read lies on channels in service. -/
def HubMaps (s : State) (b : BindingId) (va n : Nat) (write : Bool) (l : Leaf) : Prop :=
  va + n ≤ 2 ^ 48 ∧ va % 64 = 0 ∧ n % 64 = 0 ∧ 0 < n ∧ va % 512 + n ≤ 512 ∧
    (∀ j < n, tlbFind s.hub.walker.tlb b (va + j) = some ⟨b, l⟩) ∧ (write = true → l.w = true ∧ l.old = false) ∧
    l.pa % 4096 = 0 ∧ l.va % 4096 = 0 ∧
    paRegion (l.addr va) = 0 ∧ isLocal s (l.addr va) = true ∧ palvanValid (paOffset (l.addr va)) = true ∧
    (write = false → ∀ j < n, channelLost s (placeOf l (va + j)) = false)

/-- Byte j of a range that leaf `l` maps as a read under the leaf's key slot gives it (R265, R333). -/
def readAt (s : State) (l : Leaf) (va : Nat) : Byte :=
  (unitBytes s (s.keyOf l.key) (placeOf l va / 64 * 64)).getD (placeOf l va % 64) 0

/-- The stacks hold `f j` at each byte j of n at `va` under leaf `l`, written with the key of its slot, and nothing else differs in
them. -/
def Wrote (s t : State) (l : Leaf) (va n : Nat) (f : Nat → Byte) : Prop :=
  (∀ j < n, t.stk.mem.read (placeOf l (va + j)) = f j ∧ t.stk.wrote.get none (placeOf l (va + j) / 64) = some (s.keyOf l.key)) ∧
    (∀ a, (∀ j < n, a ≠ placeOf l (va + j)) → t.stk.mem.read a = s.stk.mem.read a) ∧ PortsStay s t

/-- Descriptor `d` of ring r for binding b has not begun its work, and nothing holds its engine. -/
def FreshJob (s : State) (r : RingId) (d : Desc) (b : BindingId) : Prop :=
  d.binding = some b ∧ d.job = .reset ∧ outstanding s (.job r d.index) = false ∧ isParked s b (.job r d.index) = false ∧
    linksFull s = false ∧ (∀ q ∈ s.hub.reqs, q.who.descriptor ≠ some (r, d.index)) ∧
    ∀ i, ∀ f ∈ (s.tile i).fills, ∀ u ∈ f.users, u.1.descriptor ≠ some (r, d.index)

/-- Descriptor `d` of ring r for binding b works on, with no access under way, and nothing holds its engine. -/
def Works (s : State) (r : RingId) (d : Desc) (b : BindingId) (opcode : Nat) : Prop :=
  s.desc r d.index = some d ∧ d.opcode = opcode ∧ d.running = true ∧ d.binding = some b ∧ d.job.err = false ∧ d.job.xl = [] ∧
    (∀ i, ∀ f ∈ (s.tile i).fills, ∀ u ∈ f.users, u.1.descriptor ≠ some (r, d.index)) ∧ (∀ q ∈ s.hub.reqs, q.who.descriptor ≠ some (r, d.index)) ∧ isParked s b (.job r d.index) = false ∧ linksFull s = false

/-- A range of n bytes at `va` within a page translates at once, for the update engine of a tile, by leaf `l` of the tile's TLB, an
Uncached one, to local Palvan memory on channels in service. -/
def TileMaps (s : State) (i : TileId) (b : BindingId) (va n : Nat) (write : Bool) (l : Leaf) : Prop :=
  va + n ≤ 2 ^ 48 ∧ va % 4096 + n ≤ 4096 ∧ (∀ j < n, tlbFind (s.tile i).walker.tlb b (va + j) = some ⟨b, l⟩) ∧
    (write = true → l.w = true ∧ l.old = false) ∧ l.attr ≠ 0 ∧ l.pa % 4096 = 0 ∧ l.va % 4096 = 0 ∧ paRegion (l.addr va) = 0 ∧
    isLocal s (l.addr va) = true ∧ palvanValid (paOffset (l.addr va)) = true ∧ ∀ j < n, channelLost s (placeOf l (va + j)) = false

/-- The bytes that n addresses from `va` on under leaf `l` hold, with their poison marking. -/
def readList (s : State) (l : Leaf) (va n : Nat) : List PByte :=
  (indices n).map fun j => (readAt s l (va + j), s.stk.psn.get false (placeOf l (va + j) / 64))

/-- The tile's TLB, the tile's walk cache, and the like of the hub, without what an XSYNC of binding b drops (R278, R285). -/
def Dropped (d : Desc) (b : BindingId) (w x : Walker) : Prop :=
  (∀ e, e ∈ x.tlb ↔ e ∈ w.tlb ∧ ¬(e.binding = b ∧ d.drops e.leaf = true)) ∧
    (∀ e, e ∈ x.cache ↔ e ∈ w.cache ∧ ¬(e.binding = b ∧ (d.xAll = true ∨
      e.prefixBits * levelSize e.level.toNat < d.xVa + d.xLen ∧ d.xVa < (e.prefixBits + 1) * levelSize e.level.toNat))) ∧
    x.walks = w.walks

/-- `t` is `s` but for port i, which is now `p`. -/
def OnlyPort (s t : State) (i : BitVec 5) (p : Port) : Prop :=
  t = { s with links := { s.links with ports := t.links.ports } } ∧ t.port i = p ∧ ∀ j, j ≠ i → t.port j = s.port j

/-- One record was formed, that of an error of a class and code in a unit, with the next sequence number (R446). -/
def Recorded (s t : State) (cls : BitVec 3) (code unit : BitVec 16) : Prop :=
  ∃ e, t.err.formed = s.err.formed ++ [e] ∧ e.cls = cls ∧ e.code = code ∧ e.unit = unit ∧ e.seq = s.err.seq ∧ e.stamp = s.time.count

/-- Port `back` takes an answer to packet `p` at once: nothing waits there, and its peer has granted a credit (R380, R382, R385). -/
def CarriesAnswer (s : State) (p : Packet) (back : BitVec 5) : Prop :=
  routePort s p.src 0 = some back ∧ (s.port back).waiting = [] ∧ (s.port back).replay.length < 512 ∧ 0 < (s.port back).rspCredit

/-- `p` after it has left UP for state `st`: nothing waits, is kept for replay, or has been granted (R378, R380). -/
def LeftUp (p : Port) (st : PortState) : Port :=
  { p with state := st, replay := [], naks := none, asks := none, waiting := [], reqCredit := 0, rspCredit := 0, share := 0 }

/-- A request packet that port i accepts now, for this module, and the port that carries the answer: nothing waits on either, and the peer
takes a response (R380, R382, R384, R385). -/
def Served (s : State) (i : BitVec 5) (p : Packet) (back : BitVec 5) : Prop :=
  portWf i = true ∧ (s.port i).state = .up ∧ p.lseq = (s.port i).rxSeq ∧ p.dst = s.mgmt.mid ∧ p.size.toNat < 5 ∧
    (s.port i).waiting = [] ∧ CarriesAnswer s p back

/-- The answer to request packet `p` went out on a port after the acknowledgement of the packet, which gives its credit back. -/
def Answered (s t : State) (i : BitVec 5) (p : Packet) (back : BitVec 5) (ty : PacketType) (payload : List Byte)
    (psn : Bool) : Prop :=
  ∃ a, t.out = .packet back a :: .link i p.lseq none 1 0 :: s.out ∧ a.type = ty ∧ a.dst = p.src ∧ a.src = p.dst ∧ a.tid = p.tid ∧
    a.payload = payload ∧ a.psn = psn

/-- A lane's results and its group's step in the calibration registers. -/
def laneOf (s : State) (kind group lane : Nat) : CalLane := s.cal.lanes.get .reset (laneKey kind group lane)

/-- The module goes from the state it is in to `st` now (R457, R458). -/
def Goes (s t : State) (st : ModState) : Prop :=
  t.mod.state = st ∧ t.mod.prev = s.mod.state

/-- What the host and the cores had set up is gone: rings, bindings, cores, the window, the performance counters (R467). -/
def Cleared (t : State) : Prop :=
  t.cores = .empty ∧ t.rings = .empty ∧ t.cqs = .empty ∧ t.binds = .empty ∧ t.pcie = .reset ∧ t.perf = .reset ∧ t.hub.tokens = .empty ∧
    (∀ m, t.links.routes.get .reset m = .reset) ∧ t.err.en = false ∧ t.err.formed = [] ∧ t.err.hold = []

/-- `t` is `s` after a cold reset down to a state of no computing: the stacks' contents and the time are gone too, and every slot holds a key
that no slot held before (R332, R467, R475). -/
def ColdCleared (s t : State) : Prop :=
  Cleared t ∧ t.stk.mem = .empty ∧ t.stk.wrote = .empty ∧ t.stk.psn = .empty ∧ t.power = .reset ∧ t.time.count = 0 ∧ t.time.skew = 0 ∧
    t.time.epoch = (s.mgmt.pairRec.map PairRecord.epoch).getD 0 ∧ t.mod.cause = 0 ∧ t.mod.lastReset = 0 ∧ t.mod.stamp = 0 ∧
    (∀ k : SlotId, t.slot k = .reset ∧ t.keyOf k = .fresh (s.nextKey + k.toNat)) ∧ t.nextKey = s.nextKey + 256 ∧
    (∀ i, siteOf t i = siteOf s i ∧ ∀ line, (t.tile i).sector line = none) ∧ t.spares = s.spares ∧ t.out = s.out

/-- A warm reset of a kind: time, the KEK, the error counters and what the stacks hold stay (R466, R467, R475). -/
def WarmCleared (s t : State) (kind : BitVec 2) : Prop :=
  Goes s t .rising ∧ t.mod.lastReset = kind ∧ t.mod.cause = 0 ∧ t.mod.recovery = false ∧ Cleared t ∧ t.time = s.time ∧
    t.mgmt.kek = s.mgmt.kek ∧ t.mgmt.kekGen = s.mgmt.kekGen ∧ t.mgmt.pairRec = s.mgmt.pairRec ∧ t.spares = s.spares ∧
    (∀ k, t.slot k = { KeySlot.reset with changes := satAdd (s.slot k).changes 1, stamp := s.time.count } ∧
      t.keyOf k = .fresh (s.nextKey + k.toNat)) ∧ (s.cores = .empty → t.stk = s.stk ∧ t.err.cnt = s.err.cnt)

/-- The compute side is switched off with CAUSE bits `bits` (R443, R456, R469). -/
def SwitchedOff (s t : State) (bits : BitVec 8) : Prop :=
  Goes s t .faulted ∧ t.mod.cause = s.mod.cause ||| bits ∧ t.mod.stamp = s.time.count ∧ t.err.fatal = (s.err.fatal || bits.getLsbD 6) ∧
    t.cores = .empty ∧ t.stk.mem = .empty ∧ t.stk.wrote = .empty ∧ t.hub.reqs = [] ∧
    (∀ i, (t.port i).state = .off) ∧ (∀ i line, (t.tile i).sector line = none) ∧
    (∀ r d, s.desc r d.index = some d → d.running = true → ∃ e, t.desc r d.index = some e ∧ e.ended = true) ∧ t.time = s.time

/-- What every step keeps: the stacks' memory is in canonical form; the event log holds at most 65,536 records (R424), the mailbox queue at
most 64 messages (R427), the error hold buffer at most 256 records (R446). -/
def Inv (s : State) : Prop :=
  s.stk.mem.wf = true ∧ s.mgmt.log.length ≤ 65536 ∧ s.mgmt.mb.events.length ≤ 64 ∧ s.err.hold.length ≤ 256

/-- The rows of Table 03-2, first to last. -/
def addressRow (a : Nat) : Nat :=
  if a < 0x100000 then 0 else if a < 0x120000 then 1 else if a < 0x200000 then 2 else if a < 0x210000 then 3 else 4

end Sys2Proof.Machine
end

