-- ==== Sys2Proof/Certificates/Slice0/Obligations.lean ====
section
/-!
DEFINITION. The statements for the provers. Each docstring says what its statement claims and names the rules that it rests on.
-/

open Sys2Proof Sys2Proof.Machine

/-- ADD, SUB, AND, OR, XOR, SLL, SRL, SRA, SLT, SLTU, MUL, MULH and MULHU issue, write the result of Table 03-6 to g[rd] (g0 discards it),
and go on; every other register, control register, unit and byte of the module stays. (R68, R52, R78, 03_control_core.md) -/
def Obligations.IntegerRegisterResults : Prop :=
  ∀ (o : RForm) (s : State), Issues s o.core o.th [o.ra, o.rb] [] [] →
    let a := (s.thread o.core o.th).rg o.ra
    let b := (s.thread o.core o.th).rg o.rb
    let gives (i : Instr) (v : Word) : Prop := Completes i s fun t => WritesG s t o.core o.th o.rd v
    gives (.add o) (a + b) ∧ gives (.sub o) (a - b) ∧ gives (.and o) (a &&& b) ∧ gives (.or o) (a ||| b) ∧
    gives (.xor o) (a ^^^ b) ∧ gives (.sll o) (a <<< b.setWidth 5) ∧ gives (.srl o) (a >>> b.setWidth 5) ∧
    gives (.sra o) (a.sshiftRight' (b.setWidth 5)) ∧
    gives (.slt o) (if a.slt b then 1 else 0) ∧ gives (.sltu o) (if a < b then 1 else 0) ∧ gives (.mul o) (a * b) ∧
    gives (.mulh o) (((a.signExtend 64 * b.signExtend 64) >>> 32).setWidth 32) ∧
    gives (.mulhu o) (((a.setWidth 64 * b.setWidth 64) >>> 32).setWidth 32)

/-- DIV, DIVU, REM and REMU write their result to g[rd] for every divisor: all ones or the dividend for a divisor of zero, and the wrapped
quotient for the overflowing pair. ADDI, ANDI, ORI, XORI, SLTI, SLTIU and LUI write the result of Table 03-6; SLLI, SRLI and SRAI do where
bits [15:5] of the immediate are zero. Cycles are outside the model (log entry 2). (R68, R69, R52, 03_control_core.md) -/
def Obligations.DivisionAndImmediateResults : Prop :=
  (∀ (o : RForm) (s : State), Issues s o.core o.th [o.ra, o.rb] [] [] →
    let a := (s.thread o.core o.th).rg o.ra
    let b := (s.thread o.core o.th).rg o.rb
    let gives (i : Instr) (v : Word) : Prop := Completes i s fun t => WritesG s t o.core o.th o.rd v
    gives (.div o) (if b = 0 then BitVec.allOnes 32 else a.sdiv b) ∧
    gives (.divu o) (if b = 0 then BitVec.allOnes 32 else a.udiv b) ∧
    gives (.rem o) (if b = 0 then a else a.srem b) ∧
    gives (.remu o) (if b = 0 then a else a.umod b)) ∧
  ∀ (o : IForm) (s : State), Issues s o.core o.th [o.ra] [] [] →
    let a := (s.thread o.core o.th).rg o.ra
    let sext : Word := o.imm.signExtend 32
    let zext : Word := o.imm.setWidth 32
    let gives (i : Instr) (v : Word) : Prop := Completes i s fun t => WritesG s t o.core o.th o.rd v
    gives (.addi o) (a + sext) ∧ gives (.andi o) (a &&& zext) ∧ gives (.ori o) (a ||| zext) ∧ gives (.xori o) (a ^^^ zext) ∧
    gives (.slti o) (if a.slt sext then 1 else 0) ∧ gives (.sltiu o) (if a < sext then 1 else 0) ∧
    (Issues s o.core o.th [] [] [] → gives (.lui o) (zext <<< 16)) ∧
    (o.imm >>> 5 = 0 → gives (.slli o) (a <<< o.imm.setWidth 5) ∧ gives (.srli o) (a >>> o.imm.setWidth 5) ∧
      gives (.srai o) (a.sshiftRight' (o.imm.setWidth 5)))

/-- On a thread of h1 to h3 each of these instructions, with any fields and operands, raises vector 3 with a subcode of 1 to 4 and does
nothing else; where the frame fits, the thread enters the vector with the pc of the instruction. (R64) -/
def Obligations.QueueInstructionsTrapOffH0 : Prop :=
  ∀ (s : State) (c : CoreId) (th : ThreadId), th ≠ 0 → ready s c th = true → parityBad (s.core c) (s.thread c th).pc = false →
    let x := s.thread c th
    let illegal (i : Instr) : Prop := ∃ sub : BitVec 8, 1 ≤ sub.toNat ∧ sub.toNat ≤ 4 ∧
      exec i s = .next (raise c th (.sync 3 sub 0) x.pc s) ∧
      (Framed x → Entered s (raise c th (.sync 3 sub 0) x.pc s) c th x 3 (BitVec.ofNat 32 (sub.toNat * 256 + 3)) 0 x.pc 0 false)
    (∀ n ra rb scale z, illegal (.span ⟨c, th, n, ra, rb, scale, z⟩)) ∧ (∀ rd n sel z, illegal (.spanr ⟨c, th, rd, n, sel, z⟩)) ∧
    (∀ rd ra sp sz z, illegal (.ldx ⟨c, th, rd, ra, sp, sz, z⟩) ∧ illegal (.stx ⟨c, th, rd, ra, sp, sz, z⟩)) ∧
    (∀ rd ra rb sp z, illegal (.lrxW ⟨c, th, rd, ra, rb, sp, z⟩) ∧ illegal (.scxW ⟨c, th, rd, ra, rb, sp, z⟩)) ∧
    (∀ vd va vb pm sc,
      let o : VForm := ⟨c, th, vd, va, vb, pm, sc⟩
      (∀ p ∈ scalarForms o ++ compareForms o ++ unaryForms o, illegal p.1) ∧ (∀ p ∈ moveForms o, illegal p.1) ∧
      ∀ i ∈ [Instr.vnclip o, .vnclipu o, .vslideupi o, .vslidedni o], illegal i) ∧
    (∀ vd va vb vc pm sc, ∀ p ∈ fusedForms ⟨c, th, vd, va, vb, vc, pm, sc⟩, illegal p.1) ∧
    (∀ vd va vb pm ci co z, illegal (.vrsum ⟨c, th, vd, va, vb, pm, ci, co, z⟩) ∧
      ∀ p ∈ scanForms ⟨c, th, vd, va, vb, pm, ci, co, z⟩, illegal p.1) ∧
    (∀ vd ra sp zs pm z h, illegal (.vld ⟨c, th, vd, ra, sp, zs, pm, z, h⟩) ∧ illegal (.vst ⟨c, th, vd, ra, sp, zs, pm, z, h⟩)) ∧
    ∀ r ra rb sp z shape,
      let o : TileForm := ⟨c, th, r, ra, rb, sp, z, shape⟩
      ∀ i ∈ [Instr.tld o, .tst o, .tlds o, .tsts o, .tldg o], illegal i

/-- After an ADD or an ADDI the pc and the loop counts are those of the rule of R78, level by level from 2 down to 0; that a loop-back
takes lb modulo 2^17 is the choice of log entry 11. A LOOP that meets the conditions of R80 sets lb, le and lc of its level and leaves the
rest; with a count of zero the thread goes on as though the last word of the body had completed. (R77, R78, R80, 03_control_core.md) -/
def Obligations.HardwareLoops : Prop :=
  (
    ∀ (o : RForm) (p : IForm) (s : State),
      (Issues s o.core o.th [o.ra, o.rb] [] [] →
        Completes (.add o) s fun t => FollowsLoopRule (s.thread o.core o.th) (t.thread o.core o.th) (s.thread o.core o.th).pc) ∧
      (Issues s p.core p.th [p.ra] [] [] →
        Completes (.addi p) s fun t => FollowsLoopRule (s.thread p.core p.th) (t.thread p.core p.th) (s.thread p.core p.th).pc)) ∧
  (
    ∀ (o : LoopForm) (s : State), Issues s o.core o.th [o.ra] [] [] → o.z = 0 → 
      let x := s.thread o.core o.th
      let l := o.lvl.toNat
      let last := x.pc.toNat + 4 * o.len.toNat
      2 ≤ o.len.toNat → l < 3 → last ≤ 0x1FFFC → x.lc.get 0 l = 0 → (∀ k < 3, l < k → x.lc.get 0 k = 0) →
      (∀ j < l, x.lc.get 0 j ≠ 0 → last ≤ (x.le.get 0 j).toNat) →
      let opened := { x with
        lb := x.lb.set 0 l ((x.pc + 4).setWidth 32), le := x.le.set 0 l (BitVec.ofNat 32 last), lc := x.lc.set 0 l (x.rg o.ra) }
      Completes (.loop o) s fun t =>
        (∃ pc lc resv, t = s.setThread o.core o.th { opened with pc := pc, lc := lc, resv := resv, stepOver := false, took := false }) ∧
        FollowsLoopRule opened (t.thread o.core o.th) (if x.rg o.ra = 0 then BitVec.ofNat 17 last else x.pc))

/-- BEQ, BNE, JAL and JALR: a taken one puts the target in the pc and clears the count of every loop whose body does not hold the target,
and no loop count changes otherwise; JAL and JALR write the link of Table 03-9. That link and target are byte offsets modulo 128 KiB is
the reading of log entry 11. A branch that is not taken goes on. (R79, R73, 03_control_core.md) -/
def Obligations.BranchesAndJumps : Prop :=
  ∀ (s : State) (c : CoreId) (th : ThreadId),
    let x := s.thread c th
    let goes (i : Instr) (y : Thread) (target : BitVec 17) : Prop := Completes i s fun t =>
      (∃ lc resv, t = s.setThread c th { y with pc := target, lc := lc, resv := resv, stepOver := false, took := false }) ∧
      ∀ k < 3, (t.thread c th).lc.get 0 k =
        if target.toNat < (x.lb.get 0 k).toNat ∨ (x.le.get 0 k).toNat < target.toNat then 0 else x.lc.get 0 k
    let falls (i : Instr) : Prop := Completes i s fun t => Retires s t c th x
    (∀ ra rb disp, Issues s c th [ra, rb] [] [] →
      (x.rg ra = x.rg rb → goes (.beq ⟨c, th, ra, rb, disp⟩) x (x.pc + 4 * disp.signExtend 17) ∧ falls (.bne ⟨c, th, ra, rb, disp⟩)) ∧
      (x.rg ra ≠ x.rg rb → goes (.bne ⟨c, th, ra, rb, disp⟩) x (x.pc + 4 * disp.signExtend 17) ∧ falls (.beq ⟨c, th, ra, rb, disp⟩))) ∧
    (∀ disp, Issues s c th [] [] [] →
      ∃ y, WroteG x y 31 ((x.pc + 4).setWidth 32) ∧ goes (.jal ⟨c, th, disp⟩) y (x.pc + 4 * disp.signExtend 17)) ∧
    (∀ rd ra fn, Issues s c th [ra] [] [] →
      let target := x.rg ra + 4 * fn.signExtend 32
      target.toNat < 0x20000 → target.toNat % 4 = 0 →
      ∃ y, WroteG x y rd ((x.pc + 4).setWidth 32) ∧ goes (.jalr ⟨c, th, rd, ra, fn, 0⟩) y (target.setWidth 17))

/-- A JALR whose target has a nonzero bit in [31:17] or [1:0] takes vector 3 with the pc of the JALR, from the state as it was; where the
frame fits, rd and every other g register keep their values and epc names the JALR. (R74) -/
def Obligations.JumpsToIllegalTargetsTrap : Prop :=
  ∀ (o : JalrForm) (s : State), Issues s o.core o.th [o.ra] [] [] → o.z = 0 →
    let x := s.thread o.core o.th
    let target := x.rg o.ra + 4 * o.fn.signExtend 32
    target >>> 17 ≠ 0 ∨ target &&& 3 ≠ 0 →
    exec (.jalr o) s = .next (raise o.core o.th (.sync 3 6 (target.setWidth 64)) x.pc s) ∧
    (Quiet s o.core o.th → Framed x → Completes (.jalr o) s fun t =>
      Entered s t o.core o.th x 3 0x603 (target.setWidth 64) x.pc 0 false)

/-- Every scalar floating-point instruction, where no enabled flag traps, writes the value that the arithmetic of chapter 8 gives to f[rd]
or g[rd], accrues its flags into fcsr and leaves everything else; on h0 bits [8191:64] of the vector register stay. The signs of FNMADD
and FNMSUB and the format bit that FCVT.D.S and FCVT.S.D ignore are the readings of log entry 10. (R53, R76, R214, R216, R217, R221, R223,
08_numerics.md) -/
def Obligations.ScalarFpResults : Prop :=
  ∀ (s : State) (c : CoreId) (th : ThreadId) (rd ra rb rc : BitVec 5) (dbl : Bool),
    let x := s.thread c th
    let fm := scalarFmt dbl
    let env := scalarEnv s c th
    let f (r : BitVec 5) := (s.core c).fpRead th r dbl
    let o : FForm := ⟨c, th, rd, ra, rb, dbl⟩
    let m : FmaForm := ⟨c, th, rd, ra, rb, rc, dbl⟩
    let accrued (flags : BitVec 5) (fl : Bool) : Word := x.fcsr ||| flags.setWidth 32 ||| (if fl then 0x800 else 0)
    let quiet (flags : BitVec 5) (fl : Bool) : Prop := flags &&& (accrued flags fl >>> 6).setWidth 5 = 0
    let givesF (i : Instr) (r : FRes) : Prop := quiet r.flags r.fl → Completes i s fun t =>
      ∃ k, WroteF (s.core c) k th rd (BitVec.ofNat 64 r.bits) ∧
        Retires (s.setCore c k) t c th { k.thread th with fcsr := accrued r.flags r.fl }
    let givesG (i : Instr) (v : Nat) (flags : BitVec 5) (fl : Bool) : Prop := quiet flags fl → Completes i s fun t =>
      ∃ y, WroteG x y rd (BitVec.ofNat 32 v) ∧ Retires s t c th { y with fcsr := accrued flags fl }
    (Issues s c th [] [ra, rb] [rd] →
      givesF (.fadd o) (fAdd fm env (f ra) (f rb)) ∧ givesF (.fsub o) (fSub fm env (f ra) (f rb)) ∧
      givesF (.fmul o) (fMul fm env (f ra) (f rb)) ∧ givesF (.fdiv o) (fDiv fm env (f ra) (f rb)) ∧
      givesF (.fmin o) (fMinMax fm env false (f ra) (f rb)) ∧ givesF (.fmax o) (fMinMax fm env true (f ra) (f rb)) ∧
      givesF (.fsgnj o) ⟨fSgnj fm (f ra) (f rb), 0, false⟩) ∧
    (Issues s c th [] [ra] [rd] →
      givesF (.fsqrt o) (fSqrt fm env (f ra)) ∧
      givesF (.fcvtDS o) (fConvert fp32 fp64 env ((s.core c).fpRead th ra false)) ∧
      givesF (.fcvtSD o) (fConvert fp64 fp32 env ((s.core c).fpRead th ra true))) ∧
    (Issues s c th [] [ra, rb, rc] [rd] →
      givesF (.fmadd m) (fMadd fm env false false (f ra) (f rb) (f rc)) ∧
      givesF (.fmsub m) (fMadd fm env false true (f ra) (f rb) (f rc)) ∧
      givesF (.fnmadd m) (fMadd fm env true false (f ra) (f rb) (f rc)) ∧
      givesF (.fnmsub m) (fMadd fm env true true (f ra) (f rb) (f rc))) ∧
    (Issues s c th [] [ra, rb] [] →
      let test (i : Instr) (q : FCmp) : Prop :=
        let r := fCompare fm env q (f ra) (f rb)
        givesG i (if r.1 then 1 else 0) r.2.1 r.2.2
      test (.feq o) .eq ∧ test (.flt o) .lt ∧ test (.fle o) .le) ∧
    (Issues s c th [] [ra] [] →
      givesG (.fclass o) (fClass fm (f ra)) 0 false ∧
      (let r := fToInt fm 32 true env (f ra); givesG (.fcvtW o) r.bits r.flags r.fl) ∧
      (let r := fToInt fm 32 false env (f ra); givesG (.fcvtWu o) r.bits r.flags r.fl) ∧
      Completes (.fmvGf o) s fun t => WritesG s t c th rd (((s.core c).rf th ra).setWidth 32)) ∧
    (Issues s c th [ra] [] [rd] →
      givesF (.fcvtFw o) (intToF fm env (x.rg ra).toInt) ∧ givesF (.fcvtFwu o) (intToF fm env (x.rg ra).toNat) ∧
      Completes (.fmvFg o) s fun t => WritesF s t c th rd ((x.rg ra).setWidth 64))

/-- An LD within the data local store that meets no watchpoint and no poison writes the loaded bytes, extended as sz says, to g[rd] or
f[rd] and nothing else. An ST puts the low bytes of its register at the address and leaves every other byte of the store, every register
and every other unit; only reservations of threads may be dropped. (R53, R58, R70, R71, 03_control_core.md) -/
def Obligations.LocalLoadsAndStores : Prop :=
  (
    ∀ (o : MForm) (s : State), o.sz ≠ 7 → Issues s o.core o.th [o.ra] [] (if o.sz = 5 ∨ o.sz = 6 then [o.rd] else []) →
      let k := s.core o.core
      let a := ((s.thread o.core o.th).rg o.ra + o.disp.signExtend 32).toNat
      let n := szBytes o.sz
      let v := dlsNum k a n
      a + n ≤ 0x100000 → watchLocal k o.th a n false = none → (∀ i < n, k.mem.dlsPoison.get false ((a + i) / 8) = false) →
      let whole (w : Word) : Prop := Completes (.ld o) s fun t => WritesG s t o.core o.th o.rd w
      (o.sz = 0 → whole ((BitVec.ofNat 8 v).signExtend 32)) ∧ (o.sz = 1 → whole (BitVec.ofNat 32 v)) ∧
      (o.sz = 2 → whole ((BitVec.ofNat 16 v).signExtend 32)) ∧ (o.sz = 3 → whole (BitVec.ofNat 32 v)) ∧
      (o.sz = 4 → whole (BitVec.ofNat 32 v)) ∧
      (o.sz = 5 ∨ o.sz = 6 → Completes (.ld o) s fun t => WritesF s t o.core o.th o.rd (BitVec.ofNat 64 v))) ∧
  (
    ∀ (o : MForm) (s : State), o.sz ≠ 1 → o.sz ≠ 3 → o.sz ≠ 7 →
      let fp := o.sz = 5 ∨ o.sz = 6
      Issues s o.core o.th (if fp then [o.ra] else [o.ra, o.rd]) (if fp then [o.rd] else []) [] →
      let k := s.core o.core
      let x := s.thread o.core o.th
      let a := (x.rg o.ra + o.disp.signExtend 32).toNat
      let n := szBytes o.sz
      let v := if fp then (k.rf o.th o.rd).toNat else (x.rg o.rd).toNat
      a + n ≤ 0x100000 → watchLocal k o.th a n true = none →
      Completes (.st o) s fun t =>
        let k' := t.core o.core
        (∀ b, k'.mem.dls.read b = if a ≤ b ∧ b < a + n then BitVec.ofNat 8 (v / 256 ^ (b - a)) else k.mem.dls.read b) ∧
        OnlyCore s t o.core ∧
        k' = { k with threads := k'.threads, mem := { k.mem with dls := k'.mem.dls, dlsPoison := k'.mem.dlsPoison } } ∧
        WentOn x (t.thread o.core o.th) ∧
        ∀ h, h ≠ o.th → t.thread o.core h = { s.thread o.core h with resv := (t.thread o.core h).resv })

/-- An LD or ST whose first and last byte lie in different rows of Table 03-2 takes, from the state as it was, the fault of the row of its
last byte: vector 14 for a store into the instruction store, else a load or store access fault with a subcode of Table 04-6. That the
subcode is 0x02, and not the 0x01 of an R59 straddle, where the last byte lies in the control page is the reading of log entry 17. (R59,
R58, 03_control_core.md, 04_exceptions_and_progress.md) -/
def Obligations.StraddlingAccessesTrap : Prop :=
  ∀ (o : MForm) (s : State), Issues s o.core o.th [o.ra] [] (if o.sz = 5 ∨ o.sz = 6 then [o.rd] else []) →
    let x := s.thread o.core o.th
    let a := (x.rg o.ra + o.disp.signExtend 32).toNat
    let last := a + szBytes o.sz - 1
    let trap (i : Instr) (vec : BitVec 5) (sub : BitVec 8) : Prop :=
      exec i s = .next (raise o.core o.th (.sync vec sub (BitVec.ofNat 64 a)) x.pc (s.modThread o.core o.th fun th => { th with took := false }))
    last < 2 ^ 32 → addressRow a ≠ addressRow last →
    (o.sz ≠ 7 → trap (.ld o) 5 (if addressRow last = 3 then 2 else 1)) ∧
    (o.sz ≠ 1 → o.sz ≠ 3 → o.sz ≠ 7 →
      Issues s o.core o.th (if o.sz = 5 ∨ o.sz = 6 then [o.ra] else [o.ra, o.rd]) (if o.sz = 5 ∨ o.sz = 6 then [o.rd] else []) [] →
      (addressRow last = 1 → trap (.st o) 14 1) ∧
      (addressRow last ≠ 1 → trap (.st o) 6 (if addressRow last = 3 then 2 else 1)))

/-- SPAN with a scale of 0 to 6 writes base and scale of its span register and leaves the other fifteen; SPANR writes the low base, the
high base or the scale to g[rd]. (R54, R63, R70, 03_control_core.md) -/
def Obligations.SpanRegisters : Prop :=
  ∀ (s : State) (c : CoreId) (n : BitVec 4) (ra rb rd : BitVec 5) (scale : BitVec 3) (sel : BitVec 2),
    let x := s.thread c 0
    (Issues s c 0 [ra, rb] [] [] → scale ≠ 7 →
      Completes (.span ⟨c, 0, n, ra, rb, scale, 0⟩) s fun t =>
        (∀ m, (t.core c).span m = if m = n then ⟨(x.rg rb).append (x.rg ra), scale⟩ else (s.core c).span m) ∧
        OnlyCore s t c ∧ WentOn x (t.thread c 0) ∧ (∀ h, h ≠ 0 → t.thread c h = s.thread c h) ∧
        t.core c = { s.core c with threads := (t.core c).threads, ctl := { (s.core c).ctl with spans := (t.core c).ctl.spans } }) ∧
    (Issues s c 0 [] [] [] → sel ≠ 3 →
      Completes (.spanr ⟨c, 0, rd, n, sel, 0⟩) s fun t =>
        let p := (s.core c).span n
        WritesG s t c 0 rd (if sel = 0 then p.base.setWidth 32 else if sel = 1 then (p.base >>> 32).setWidth 32
          else p.scale.setWidth 32))

/-- An LDX of h0 that the TLB translates to Cached local memory, whose line the L1D holds unpoisoned and the merging buffer does not,
writes the loaded bytes to its register. An STX on such a page enters an empty merging buffer as one entry with the byte mask and the
bytes of its access. (R63, R244, R245, R247, R248, R250, R278, 09_memory_hierarchy.md) -/
def Obligations.BulkAccesses : Prop :=
  (
    ∀ (o : XForm) (s : State) (l : Leaf) (e : L1Line), o.th = 0 → o.z = 0 → o.sz ≠ 7 →
      Issues s o.core 0 [o.ra] [] (if o.sz = 5 ∨ o.sz = 6 then [o.rd] else []) →
      let k := s.core o.core
      let va := spanVa k o.sp ((s.thread o.core 0).rg o.ra)
      let n := szBytes o.sz
      let pa := (l.addr va).toNat
      HitsTlb s o.core va n false l → (∀ m ∈ k.mem.mbuf, m.line ≠ pa / 64) → k.l1Find (pa / 64) = some e → e.psn = false →
      let v := e.data.toNat / 2 ^ (8 * (pa % 64)) % 2 ^ (8 * n)
      Completes (.ldx o) s fun t =>
        (∀ r, (t.thread o.core 0).rg r = if r = o.rd ∧ r ≠ 0 ∧ o.sz.toNat < 5 then
            (if o.sz = 0 then (BitVec.ofNat 8 v).signExtend 32 else if o.sz = 2 then (BitVec.ofNat 16 v).signExtend 32
              else BitVec.ofNat 32 v)
          else (s.thread o.core 0).rg r) ∧
        (∀ r, (t.core o.core).rf 0 r = if r = o.rd ∧ 5 ≤ o.sz.toNat then BitVec.ofNat 64 v else k.rf 0 r) ∧
        (t.thread o.core 0).blocked = none ∧ OnlyCore s { t with hub := s.hub } o.core ∧
        (t.core o.core).mem = { k.mem with l1d := (t.core o.core).mem.l1d, tlb := (t.core o.core).mem.tlb }) ∧
  (
    ∀ (o : XForm) (s : State) (l : Leaf), o.th = 0 → o.z = 0 → o.sz ≠ 1 → o.sz ≠ 3 → o.sz ≠ 7 →
      let fp := o.sz = 5 ∨ o.sz = 6
      Issues s o.core 0 (if fp then [o.ra] else [o.ra, o.rd]) (if fp then [o.rd] else []) [] →
      let k := s.core o.core
      let x := s.thread o.core 0
      let va := spanVa k o.sp (x.rg o.ra)
      let n := szBytes o.sz
      let pa := (l.addr va).toNat
      let v := if fp then (k.rf 0 o.rd).toNat else (x.rg o.rd).toNat
      HitsTlb s o.core va n true l → k.mem.mbuf = [] →
      Completes (.stx o) s fun t =>
        (∃ data, (t.core o.core).mem.mbuf =
            [⟨pa / 64, 0, l.key, BitVec.ofNat 64 ((2 ^ n - 1) * 2 ^ (pa % 64)), data, false, false, false, [l]⟩] ∧
          data.toNat / 2 ^ (8 * (pa % 64)) % 2 ^ (8 * n) = v % 2 ^ (8 * n)) ∧
        WentOn x (t.thread o.core 0) ∧ OnlyCore s { t with hub := s.hub } o.core ∧
        (t.core o.core).mem = { k.mem with
          mbuf := (t.core o.core).mem.mbuf, l1d := (t.core o.core).mem.l1d, tlb := (t.core o.core).mem.tlb })

/-- LR.W and LRX.W load a word and reserve its 64-byte granule in the data local store or the L2. SC.W and SCX.W with a matching
reservation, of at most eight admitted instructions since, store the word and write 0; without one they write 1 and store nothing. Both
end the reservation. (R82, R83, R84, R85, R86, 03_control_core.md) -/
def Obligations.Reservations : Prop :=
  (
    ∀ (s : State) (c : CoreId) (th : ThreadId) (rd ra rb : BitVec 5),
      let k := s.core c
      let x := s.thread c th
      let a := (x.rg ra).toNat
      a % 4 = 0 → a < 0x100000 →
      (Issues s c th [ra] [] [] → watchAt k th a 4 false false = none →
        (∀ i < 4, k.mem.dlsPoison.get false ((a + i) / 8) = false) →
        Completes (.lrW ⟨c, th, rd, ra, rb, 0, 0⟩) s fun t =>
          WritesG s t c th rd (BitVec.ofNat 32 (dlsNum k a 4)) ∧
          (t.thread c th).resv = some { granule := a / 64, l2 := false, since := 0, clean := true }) ∧
      (Issues s c th [ra, rb] [] [] → watchAt k th a 4 false true = none →
        let holds := ∃ r, x.resv = some r ∧ r.granule = a / 64 ∧ r.l2 = false ∧ r.clean = true ∧ r.since ≤ 8
        (¬holds → Completes (.scW ⟨c, th, rd, ra, rb, 0, 0⟩) s fun t =>
          WritesG s t c th rd 1 ∧ (t.thread c th).resv = none) ∧
        (holds → Completes (.scW ⟨c, th, rd, ra, rb, 0, 0⟩) s fun t =>
          let k' := t.core c
          dlsNum k' a 4 = (x.rg rb).toNat ∧ (∀ b, b < a ∨ a + 4 ≤ b → k'.mem.dls.read b = k.mem.dls.read b) ∧
          (∃ y, WroteG x y rd 0 ∧ WentOn y (t.thread c th)) ∧ (t.thread c th).resv = none ∧
          OnlyCore s t c ∧ (∀ h, h ≠ th → t.thread c h = { s.thread c h with resv := (t.thread c h).resv }) ∧
          k' = { k with threads := k'.threads, mem := { k.mem with dls := k'.mem.dls, dlsPoison := k'.mem.dlsPoison } }))) ∧
  (
    ∀ (s : State) (c : CoreId) (rd ra rb : BitVec 5) (sp : BitVec 4) (l : Leaf) (e : Sector),
      let k := s.core c
      let x := s.thread c 0
      let va := spanVa k sp (x.rg ra)
      let pa := (l.addr va).toNat
      let o : LrForm := ⟨c, 0, rd, ra, rb, sp, 0⟩
      va % 4 = 0 → (∀ m ∈ k.mem.mbuf, m.line ≠ pa / 64) → (s.tile (tileOf c)).sector (pa / 64) = some e →
      (Issues s c 0 [ra] [] [] → HitsTlb s c va 4 false l → e.psn = false →
        Completes (.lrxW o) s fun t =>
          (∃ y, WroteG x y rd (BitVec.ofNat 32 (e.data.toNat / 2 ^ (8 * (pa % 64)))) ∧ WentOn y (t.thread c 0)) ∧
          (t.thread c 0).resv = some { granule := pa / 64, l2 := true, since := 0, clean := true } ∧
          (∀ n, (t.tile (tileOf c)).sector n = (s.tile (tileOf c)).sector n) ∧ t.stk = s.stk) ∧
      (Issues s c 0 [ra, rb] [] [] → HitsTlb s c va 4 true l →
        let holds := ∃ r, x.resv = some r ∧ r.granule = pa / 64 ∧ r.l2 = true ∧ r.clean = true ∧ r.since ≤ 8
        (¬holds → Completes (.scxW o) s fun t =>
          (∃ y, WroteG x y rd 1 ∧ WentOn y (t.thread c 0)) ∧ (t.thread c 0).resv = none ∧ t.tiles = s.tiles ∧ t.stk = s.stk) ∧
        (holds → Completes (.scxW o) s fun t =>
          (∃ y, WroteG x y rd 0 ∧ WentOn y (t.thread c 0)) ∧ (t.thread c 0).resv = none ∧ t.stk = s.stk ∧
          (∀ n, n ≠ pa / 64 → (t.tile (tileOf c)).sector n = (s.tile (tileOf c)).sector n) ∧
          ∃ e', (t.tile (tileOf c)).sector (pa / 64) = some e' ∧ e'.dirty = true ∧ e'.psn = e.psn ∧
            ∀ i < 64, e'.data.extractLsb' (8 * i) 8 =
              if pa % 64 ≤ i ∧ i < pa % 64 + 4 then (x.rg rb).extractLsb' (8 * (i - pa % 64)) 8 else e.data.extractLsb' (8 * i) 8)))

/-- FENCE and FENCE.G complete once the merging buffer, the range operation and the queues that they wait for are done. IFENCE puts the
queued patches into the instruction store in order; PATCH queues one; WAIT with an enabled source stops the thread; a pending interrupt or
NMI ends the wait. (R82, R87, R88, R98, R99, R258, 03_control_core.md) -/
def Obligations.FencesPatchesAndWaits : Prop :=
  ∀ (s : State) (c : CoreId) (th : ThreadId) (rd ra : BitVec 5) (arg : BitVec 12),
    let k := s.core c
    let x := s.thread c th
    let onward (t : State) : Prop := Retires s t c th x
    let drained := k.mem.mbuf = [] ∧ k.mem.win.busy = false ∧ outstanding s (.mbuf c) = false
    (Issues s c th [] [] [] →
      (drained → Completes (.fence ⟨c, th⟩) s onward) ∧
      (drained → Quiet s c 0 → writing s (.vector c) = false → writing s (.matrix c) = false →
        Completes (.fenceG ⟨c, th⟩) s onward) ∧
      (Completes (.ifence ⟨c, th⟩) s fun t =>
        (t.core c).mem.istore = x.patchQ.foldl (fun m p => m.writeNat p.1.toNat 4 p.2.toNat) k.mem.istore ∧
        WentOn { x with patchQ := [] } (t.thread c th) ∧ OnlyCore s t c ∧ (∀ h, h ≠ th → t.thread c h = s.thread c h) ∧
        t.core c = { k with threads := (t.core c).threads, mem := { k.mem with
          istore := (t.core c).mem.istore, badParity := (t.core c).mem.badParity } }) ∧
      (x.eien ≠ 0 → Completes (.wait ⟨c, th⟩) s fun t => Retires s t c th { x with waiting := true })) ∧
    (Issues s c th [ra, rd] [] [] → (x.rg ra).toNat % 4 = 0 → (x.rg ra).toNat ≤ 0x1FFFC → x.patchQ.length < 8 →
      Completes (.patch ⟨c, th, rd, ra, arg⟩) s fun t =>
        Retires s t c th { x with patchQ := x.patchQ ++ [((x.rg ra).setWidth 17, x.rg rd)] }) ∧
    (x.waiting = true → x.nmiReq = true ∨ x.estat.getLsbD 2 = true ∨ (pendingInterrupt k th).isSome →
      Completes (.waitWake ⟨c, th⟩) s fun t => t = s.setThread c th { x with waiting := false })

/-- A write of a 32-bit control register changes its writable bits to the written, set or cleared value, returns the old value in g[rd]
and leaves every other control register, and memory. A read gives the register; the low half of a 64-bit one also fills the shadow that
its high half reads. eaddr and rpos take a write of both halves at the write of the high half. (R55, R56, R89, R105, R133, R215, R32,
03_control_core.md, 04_exceptions_and_progress.md) -/
def Obligations.ControlRegisters : Prop :=
  (
    ∀ (o : SysForm) (s : State), Issues s o.core o.th [o.ra] [] [] → Quiet s o.core o.th →
      let x := s.thread o.core o.th
      let n := o.arg.toNat
      let old := csrValue s o.core o.th n
      Loopless x → (0x028 ≤ n → x.le.get 0 (n - 0x028) ≠ x.pc.setWidth 32) →
      let writes (i : Instr) (v : Word) : Prop := ∀ mask, csrMask o.th v n = some mask → Completes i s fun t =>
        (∀ r, (t.thread o.core o.th).rg r = if r = o.rd ∧ r ≠ 0 then old else x.rg r) ∧
        csrValue t o.core o.th n = (if n = 0 ∨ n = 0x010 then (old &&& ~~~mask) ||| (v &&& mask) else v &&& mask) ∧
        (∀ m, m ≠ n → csrValue t o.core o.th m = csrValue s o.core o.th m) ∧
        (t.thread o.core o.th).pc = x.pc + 4 ∧ OnlyCore s t o.core ∧ (∀ h, h ≠ o.th → t.thread o.core h = s.thread o.core h) ∧
        (t.core o.core).mem = (s.core o.core).mem ∧ (t.core o.core).mat = (s.core o.core).mat ∧
        (t.core o.core).vec.v = (s.core o.core).vec.v
      writes (.csrw o) (x.rg o.ra) ∧ writes (.csrs o) (old ||| x.rg o.ra) ∧ writes (.csrc o) (old &&& ~~~(x.rg o.ra))) ∧
  (
    ∀ (s : State) (c : CoreId) (th : ThreadId) (rd ra : BitVec 5), Issues s c th [] [] [] → Quiet s c th →
      let x := s.thread c th
      let read (n : BitVec 12) (v : Word) : Prop := Completes (.csrr ⟨c, th, rd, ra, n⟩) s fun t => WritesG s t c th rd v
      let readLow (n : BitVec 12) (v : DWord) : Prop := Completes (.csrr ⟨c, th, rd, ra, n⟩) s fun t =>
        ∃ y, WroteG x y rd (v.setWidth 32) ∧ Retires s t c th { y with shadow := (v >>> 32).setWidth 32 }
      read 0x001 x.eien ∧ read 0x002 (x.epc.setWidth 32) ∧ read 0x003 x.ecause ∧ read 0x006 x.eprog ∧ read 0x007 x.esp ∧
      read 0x008 x.esplo ∧ read 0x009 x.esphi ∧ read 0x010 x.fcsr ∧ read 0x01A (th.setWidth 32) ∧
      (∀ k < 3, read (BitVec.ofNat 12 (0x020 + k)) (x.lb.get 0 k) ∧ read (BitVec.ofNat 12 (0x024 + k)) (x.le.get 0 k) ∧
        read (BitVec.ofNat 12 (0x028 + k)) (x.lc.get 0 k)) ∧
      readLow 0x004 x.eaddr ∧ read 0x005 x.shadow ∧ readLow 0x018 s.time.count ∧ read 0x019 x.shadow ∧
      (th = 0 → read 0x011 (s.core c).vec.vcfg ∧ read 0x012 (s.core c).vec.vl ∧ read 0x013 (s.core c).vec.vxrm ∧
        readLow 0x015 (s.core c).vec.rpos ∧ read 0x016 x.shadow) ∧
      (Issues s c th [ra] [] [] →
        (Completes (.csrw ⟨c, th, rd, ra, 0x004⟩) s fun t =>
          (t.thread c th).eaddr = x.eaddr ∧ (t.thread c th).stagedEaddr = some (x.rg ra)) ∧
        (∀ lo, x.stagedEaddr = some lo → Completes (.csrw ⟨c, th, rd, ra, 0x005⟩) s fun t =>
          (t.thread c th).eaddr = x.rg ra ++ lo ∧ (t.thread c th).stagedEaddr = none) ∧
        (th = 0 → ∀ lo, x.stagedRpos = some lo → Completes (.csrw ⟨c, th, rd, ra, 0x016⟩) s fun t =>
          (t.core c).vec.rpos = x.rg ra ++ lo ∧ (t.thread c 0).stagedRpos = none)))

/-- THREAD_RUN starts the named threads of h1 to h3 that are stopped, at the start offset with cleared registers; THREAD_STOP stops those
it names; SWI sets and SWI_CLR clears the named bits; nothing else in the core changes. What a start leaves of the exception registers is
the choice of log entry 16. (R61, R62, R101, 03_control_core.md) -/
def Obligations.ControlPage : Prop :=
  ∀ (s : State) (c : CoreId) (v : Word),
    let k := s.core c
    (Completes (.threadRun ⟨c, v⟩) s fun t => OnlyCore s t c ∧ (t.core c) = { k with threads := (t.core c).threads } ∧
      ∀ h, let x := s.thread c h
        let y := t.thread c h
        if h ≠ 0 ∧ v.getLsbD h.toNat = true ∧ x.run = false then
          y.run = true ∧ y.pc = 0x100 ∧ (∀ r, y.rg r = 0) ∧ (h ≠ 0 → ∀ r, (t.core c).rf h r = 0) ∧ Loopless y ∧ y.estat = 0 ∧ y.fcsr = 0 ∧
          y.patchQ = x.patchQ ∧ y.resv = none ∧ y.waiting = false ∧
          y = { y with eien := x.eien, epc := x.epc, ecause := x.ecause, eaddr := x.eaddr, eprog := x.eprog, esp := x.esp
                       esplo := x.esplo, esphi := x.esphi, shadow := x.shadow, beatPend := x.beatPend, movPend := x.movPend
                       rsmPend := x.rsmPend, thrPend := x.thrPend }
        else y = x) ∧
    (Completes (.threadStop ⟨c, v⟩) s fun t => OnlyCore s t c ∧ (t.core c) = { k with threads := (t.core c).threads } ∧
      ∀ h, t.thread c h = if h ≠ 0 ∧ v.getLsbD h.toNat = true then
          { s.thread c h with run := false, waiting := false, patchQ := [], nmiReq := false, owed := none } else s.thread c h) ∧
    (Completes (.swi ⟨c, v⟩) s fun t => OnlyCore s t c ∧ (t.core c) = { k with ctl := { k.ctl with swi := (t.core c).ctl.swi } } ∧
      ∀ h : Fin 4, (t.core c).ctl.swi.getLsbD h = (k.ctl.swi.getLsbD h || v.getLsbD h)) ∧
    (Completes (.swiClr ⟨c, v⟩) s fun t => OnlyCore s t c ∧ (t.core c) = { k with ctl := { k.ctl with swi := (t.core c).ctl.swi } } ∧
      ∀ h : Fin 4, (t.core c).ctl.swi.getLsbD h = (k.ctl.swi.getLsbD h && !v.getLsbD h))

/-- With h0 quiet and a frame that fits, TRAP writes the frame below esp with the next pc under the loop rule (a loop-back takes lb modulo
2^17, log entry 11), its argument in ecause, the estat before, the time and eien; it goes to the vector, clears IE and sets QFRZ on h0.
NMI request and sources, a parked access set aside, pending notices, the control block and the causes of the core, the bindings, every
other register, byte and core stay. (R87, R78, R101, R106, R108, R109, R112, R115, 04_exceptions_and_progress.md) -/
def Obligations.TrapEntersVector11 : Prop :=
  ∀ (s : State) (o : SysForm),
    let x := s.thread o.core o.th
    let n := loopRule (x.lb.get 0) (x.le.get 0) x.pc [2, 1, 0] (x.lc.get 0)
    Issues s o.core o.th [] [] [] → Quiet s o.core o.th → Framed x →
    Completes (.trap o) s fun t => ∃ y lc, Entered s t o.core o.th y 11 (BitVec.ofNat 32 (o.arg.toNat * 2 ^ 20 + 11)) 0 n.1 0 false ∧
      y = { x with lc := lc } ∧ (∀ k < 3, lc.get 0 k = n.2 k) ∧
      (let z := t.thread o.core o.th
       z = { z with
         nmiReq := x.nmiReq, nmiSrc := x.nmiSrc, aside := x.aside, beatPend := x.beatPend, movPend := x.movPend, rsmPend := x.rsmPend
         thrPend := x.thrPend, took := false }) ∧
      (t.core o.core).ctl = (s.core o.core).ctl ∧ (t.core o.core).causes = (s.core o.core).causes ∧ t.binds = s.binds

/-- With h0 quiet and a frame that fits: an enabled pending interrupt of the lowest vector is entered and its source cleared; an NMI
enters vector 1 and clears its latch, or, inside an NMI handler, waits in NMIPEND; the one cause held for the queues enters its vector
with the queue that it came from. (R101, R102, R106, R108, R109, R114, R115, R116, 04_exceptions_and_progress.md) -/
def Obligations.InterruptAndNmiEntry : Prop :=
  ∀ (s : State) (c : CoreId) (th : ThreadId),
    let k := s.core c
    let x := s.thread c th
    x.run = true → x.blocked = none → x.owed = none → x.took = false → k.ctl.stopping = false → longInProgress s c = false →
    Quiet s c th → Framed x →
    (∀ vec sub ea, x.nmiDue = false → x.estat.getLsbD 0 = true → (th = 0 → k.causes = []) →
      pendingInterrupt k th = some (vec, sub, ea) →
      Completes (.interruptEntry ⟨c, th⟩) s fun t =>
        Entered s t c th x vec.toNat (BitVec.ofNat 32 (2 ^ 16 + sub.toNat * 2 ^ 8 + vec.toNat)) ea x.pc 0 false ∧
        (t.thread c th).nmiReq = x.nmiReq ∧ (pendingInterrupt (t.core c) th).map (fun p => p.1) ≠ some vec) ∧
    (x.nmiReq = true → (∀ h, h ≠ th → (s.thread c h).nmiReq = false) →
      (x.estat.getLsbD 1 = false → Completes (.nmiEntry ⟨c⟩) s fun t =>
        Entered s t c th x 1 (BitVec.ofNat 32 (2 ^ 16 + x.nmiSrc.toNat * 2 ^ 8 + 1)) 0 x.pc 0 false ∧
        (t.thread c th).nmiReq = false ∧ (t.thread c th).nmiSrc = 0) ∧
      (x.estat.getLsbD 1 = true → Completes (.nmiEntry ⟨c⟩) s fun t =>
        t = s.setThread c th { x with nmiReq := false, estat := x.estat ||| 4 })) ∧
    (∀ q, th = 0 → x.waiting = false → x.nmiDue = false → k.causes = [q] →
      Completes (.queuedCauseEntry ⟨c⟩) s fun t =>
        Entered s t c 0 x q.vec.toNat (BitVec.ofNat 32 (2 ^ 17 + q.sub.toNat * 2 ^ 8 + q.vec.toNat)) q.eaddr x.pc
          (if q.matrix then 2 else 1) false ∧ (t.core c).causes = [])

/-- With a valid frame at esp, nothing queued, no emergency and no latched NMI, ERET puts the pc and the estat of the frame into the
thread, adds 64 to esp, ends the reservation, steps over a breakpoint where BWS says so, and changes nothing else. (R104, R113, R116,
R123, 04_exceptions_and_progress.md) -/
def Obligations.EretRestores : Prop :=
  ∀ (s : State) (c : CoreId) (th : ThreadId),
    let k := s.core c
    let x := s.thread c th
    let e := x.esp.toNat
    let epc := dlsNum k e 4
    let st : Word := BitVec.ofNat 32 (dlsNum k (e + 4) 4)
    let qsw := dlsNum k (e + 24) 8
    Issues s c th [] [] [] → Quiet s c th → x.estat.getLsbD 15 = false → e % 64 = 0 → x.esplo.toNat ≤ e → 0x100 ≤ e → e + 63 ≤ x.esphi.toNat →
    e + 63 ≤ 0xFFFFF → epc < 0x20000 → epc % 4 = 0 → st &&& 0xFFFF06F8 = 0 → st.getLsbD 14 = false →
    qsw % 2 ^ 27 / 2 ^ 26 = 0 → qsw / 2 ^ 10 % 2 ^ 12 = 0 → qsw / 2 ^ 27 % 4 = 0 → qsw / 2 ^ 29 % 2 = 0 → x.estat.getLsbD 2 = false →
    Completes (.eret ⟨c, th⟩) s fun t =>
      let y := t.thread c th
      y = { x with pc := BitVec.ofNat 17 epc, estat := y.estat, esp := x.esp + 64, resv := none, stepOver := st.getLsbD 13,
                   took := false } ∧
      (∀ i < 32, y.estat.getLsbD i = if i = 2 ∨ i = 12 ∨ i = 8 ∧ th ≠ 0 then false else st.getLsbD i) ∧
      t = s.setThread c th y

/-- Shift immediates with bits set above [4:0], LDX on h1 to h3, an unassigned sz, loads from and stores to the wrong rows of Table 03-2,
a misaligned LR.W, a LOOP of length below 2, a ninth PATCH and a matching breakpoint each enter the vector and subcode of Table 04-6, with
the thread otherwise as it was. (R58, R64, R67, R80, R98, R99, R103, R108, R109, R115, 04_exceptions_and_progress.md) -/
def Obligations.ScalarTraps : Prop :=
  ∀ (s : State) (c : CoreId) (th : ThreadId),
    let k := s.core c
    let x := s.thread c th
    let traps (i : Instr) (vec sub : Nat) (ea : DWord) : Prop := Completes i s fun t =>
      Entered s t c th x vec (BitVec.ofNat 32 (sub * 256 + vec)) ea x.pc 0 false ∧ (t.thread c th).nmiReq = x.nmiReq
    Quiet s c th → Framed x →
    (∀ rd ra imm, Issues s c th [ra] [] [] → imm >>> 5 ≠ 0 →
      traps (.slli ⟨c, th, rd, ra, imm⟩) 3 2 0 ∧ traps (.srli ⟨c, th, rd, ra, imm⟩) 3 2 0 ∧
      traps (.srai ⟨c, th, rd, ra, imm⟩) 3 2 0) ∧
    (∀ rd ra sp sz, Issues s c th [ra] [] (if sz = 5 ∨ sz = 6 then [rd] else []) → th ≠ 0 → sz ≠ 7 →
      traps (.ldx ⟨c, th, rd, ra, sp, sz, 0⟩) 3 4 0) ∧
    (∀ rd ra disp, Issues s c th [ra] [] [] → traps (.ld ⟨c, th, rd, ra, 7, disp⟩) 3 1 0) ∧
    (∀ rd ra sz disp, sz.toNat < 5 → Issues s c th [ra] [] [] → let a := (x.rg ra + disp.signExtend 32).toNat
      0x120000 ≤ a → a + szBytes sz ≤ 0x200000 → traps (.ld ⟨c, th, rd, ra, sz, disp⟩) 5 1 (BitVec.ofNat 64 a)) ∧
    (∀ rd ra disp, Issues s c th [ra, rd] [] [] → let a := (x.rg ra + disp.signExtend 32).toNat
      0x100000 ≤ a → a + 4 ≤ 0x120000 → traps (.st ⟨c, th, rd, ra, 4, disp⟩) 14 1 (BitVec.ofNat 64 a)) ∧
    (∀ rd ra rb, Issues s c th [ra] [] [] → (x.rg ra).toNat % 4 ≠ 0 →
      traps (.lrW ⟨c, th, rd, ra, rb, 0, 0⟩) 7 1 ((x.rg ra).setWidth 64)) ∧
    (∀ lvl ra len, Issues s c th [ra] [] [] → len.toNat < 2 → traps (.loop ⟨c, th, lvl, ra, len, 0⟩) 15 1 0) ∧
    (∀ rd ra arg, Issues s c th [ra, rd] [] [] → (x.rg ra).toNat % 4 = 0 → (x.rg ra).toNat ≤ 0x1FFFC → 8 ≤ x.patchQ.length →
      traps (.patch ⟨c, th, rd, ra, arg⟩) 14 3 ((x.rg ra).setWidth 64)) ∧
    (ready s c th = true → stalls k th [] [] [] = false → parityBad k x.pc = false → x.stepOver = false → k.ctl.bp0.en = true →
      k.ctl.bp0.threads.getLsbD th.toNat = true → k.ctl.bp0.off = x.pc → ∀ rd ra imm, traps (.lui ⟨c, th, rd, ra, imm⟩) 12 0 0)

/-- Each arithmetic, compare, unary, move, permute, predicate, fused, scan, reduction and memory instruction of h0, with legal fields and
room in the queue, joins the end of the vector queue with its operation, its register fields, its captured g registers, span address,
fcsr, format, vl, vxrm and rpos; h0 goes on and nothing else changes. (R65, R67, R89, R92, R129, R160, R229, 05_vector_engine.md) -/
def Obligations.VectorInstructionsEnterTheirQueue : Prop :=
  (
    ∀ (s : State) (o : VForm), o.th = 0 → VectorRoom s o.core →
      let x := s.thread o.core 0
      let same (op : VOp) (e : VInstr) : Prop := e.op = op ∧ e.vd = o.vd ∧ e.va = o.va ∧ e.vb = o.vb ∧ e.pm = o.pm ∧ e.s = o.s ∧
        e.ga = x.rg o.va
      let enters (i : Instr) (op : VOp) (gs : List (BitVec 5)) : Prop := Issues s o.core 0 gs [] [] →
        Completes i s fun t => EntersVector s t o.core fun e => same op e ∧ e.gb = x.rg o.vb
      let scalar := if o.s = true ∧ (intOf ((s.core o.core).vec.vcfg.toNat % 16)).isSome = true then [o.vb] else []
      (∀ p ∈ scalarForms o, enters p.1 p.2 scalar) ∧
      (o.vd.toNat < 8 → ∀ p ∈ compareForms o, enters p.1 p.2 scalar) ∧
      (o.s = true → enters (.vnclip o) .nclip scalar ∧ enters (.vnclipu o) .nclipu scalar) ∧
      (o.s = false → o.vb = 0 → ∀ p ∈ unaryForms o, enters p.1 p.2 []) ∧
      (o.s = false → ∀ p ∈ moveForms o, p.2.2.1 → enters p.1 p.2.1 p.2.2.2) ∧
      (o.s = false → Issues s o.core 0 [] [] [] →
        (Completes (.vslideupi o) s fun t => EntersVector s t o.core fun e => same .slideup e ∧ e.gb = o.vb.setWidth 32) ∧
        (Completes (.vslidedni o) s fun t => EntersVector s t o.core fun e => same .slidedn e ∧ e.gb = o.vb.setWidth 32))) ∧
  (
    ∀ (s : State) (c : CoreId), VectorRoom s c →
      let x := s.thread c 0
      let int := (intOf ((s.core c).vec.vcfg.toNat % 16)).isSome = true
      (∀ vd va vb vc pm sc, Issues s c 0 [] [] [] →
        ∀ p ∈ fusedForms ⟨c, 0, vd, va, vb, vc, pm, sc⟩, Completes p.1 s fun t => EntersVector s t c fun e =>
            e.op = p.2 ∧ e.vd = vd ∧ e.va = va ∧ e.vb = vb ∧ e.vc = vc ∧ e.pm = pm ∧ e.s = sc) ∧
      (∀ vd va vb pm ci co, Issues s c 0 (if ci = true ∧ int then [vb] else []) [] [] →
        let enters (i : Instr) (op : VOp) : Prop := Completes i s fun t => EntersVector s t c fun e =>
          e.op = op ∧ e.vd = vd ∧ e.va = va ∧ e.vb = vb ∧ e.pm = pm ∧ e.ci = ci ∧ e.co = co ∧ e.gb = x.rg vb
        (∀ p ∈ scanForms ⟨c, 0, vd, va, vb, pm, ci, co, 0⟩, enters p.1 p.2) ∧
        (co = false → vd = 0 → enters (.vrsum ⟨c, 0, vd, va, vb, pm, ci, co, 0⟩) .rsum)) ∧
      (∀ vd ra sp zs pm h, Issues s c 0 [ra] [] [] →
        let base := BitVec.ofNat 64 (spanVa (s.core c) sp (x.rg ra))
        (Completes (.vld ⟨c, 0, vd, ra, sp, zs, pm, 0, false⟩) s fun t => EntersVector s t c fun e =>
          e.op = .vld ∧ e.vd = vd ∧ e.pm = pm ∧ e.zs = zs ∧ e.base = base) ∧
        (Completes (.vst ⟨c, 0, vd, ra, sp, false, pm, 0, h⟩) s fun t => EntersVector s t c fun e =>
          e.op = .vst ∧ e.vd = vd ∧ e.pm = pm ∧ e.h = h ∧ e.base = base)))

/-- Each two-word instruction of the tile registers and the arrays, with legal fields and a legal shape word, joins the end of the matrix
queue with its fields, its shape word and its captured address and stride. An ACCRD advances rpos by the groups that its rounding mode
draws; h0 goes on behind the second word under the loop rule (lb modulo 2^17, log entry 11), and nothing else changes. (R65, R66, R67,
R81, R89, R191, R229, 06_tile_registers.md, 07_matrix_arrays.md) -/
def Obligations.TileAndArrayInstructionsEnterTheirQueue : Prop :=
  ∀ (s : State) (c : CoreId) (shape : Word), MatrixRoom s c →
    let x := s.thread c 0
    (∀ t ra rb sp, Issues s c 0 [ra, rb] [] [] → shape &&& 0x000FF7FF = 0 →
      ∀ p ∈ ([(.tld, .tld), (.tst, .tst), (.tlds, .tlds), (.tsts, .tsts)] : List ((TileForm → Instr) × MOp)),
        Completes (p.1 ⟨c, 0, t, ra, rb, sp, 0, shape⟩) s fun u => EntersMatrix s u c fun e =>
          e.op = p.2 ∧ e.t = t ∧ e.shape = shape ∧ e.base = BitVec.ofNat 64 (spanVa (s.core c) sp (x.rg ra)) ∧ e.stride = x.rg rb) ∧
    (Issues s c 0 [] [] [] →
      (∀ t ra sp, shape &&& 0xC00FFFFF = 0 → Completes (.tldg ⟨c, 0, t, ra, 0, sp, 0, shape⟩) s fun u =>
        EntersMatrix s u c fun e => e.op = .tldg ∧ e.t = t ∧ e.v = ra ∧ e.shape = shape ∧
          e.base = ((s.core c).span sp).base ∧ e.scale = ((s.core c).span sp).scale) ∧
      (∀ t, shape &&& 0x000FFFFF = 0 → Completes (.tzero ⟨c, 0, t, 0, 0, 0, 0, shape⟩) s fun u =>
        EntersMatrix s u c fun e => e.op = .tzero ∧ e.t = t ∧ e.shape = shape) ∧
      (∀ t rd, Completes (.ttag ⟨c, 0, t, rd, 0, 0, 0, 0⟩) s fun u =>
        EntersMatrix s u c fun e => e.op = .ttag ∧ e.t = t ∧ e.v = rd) ∧
      (∀ am ta0 ta1 tb0 tb1 acc zacc, am ≠ 0 → (am &&& 3 = 0 → ta0 = 0) → (am &&& 0xC = 0 → ta1 = 0) → (am &&& 5 = 0 → tb0 = 0) →
        (am &&& 0xA = 0 → tb1 = 0) → shape &&& 0x800 = 0 →
        Completes (.mma ⟨c, 0, am, ta0, ta1, tb0, tb1, acc, zacc, 0, shape⟩) s fun u => EntersMatrix s u c fun e =>
          e.op = .mma ∧ e.t = ta0 ∧ e.t1 = ta1 ∧ e.tb0 = tb0 ∧ e.tb1 = tb1 ∧ e.am = am ∧ e.acc = acc ∧ e.zacc = zacc ∧
            e.shape = shape) ∧
      (∀ am t0, am ≠ 0 → shape &&& 0x000FFFFF = 0 → Completes (.wload ⟨c, 0, am, t0, 0, 0, false, 0, shape⟩) s fun u =>
        EntersMatrix s u c fun e => e.op = .wload ∧ e.t = t0 ∧ e.am = am ∧ e.shape = shape) ∧
      (∀ am t0 t1 acc zacc, am ≠ 0 → (am &&& 3 = 0 → t0 = 0) → (am &&& 0xC = 0 → t1 = 0) → shape &&& 0x000F0E00 = 0 →
        ∀ p ∈ ([(.mvm, .mvm), (.mvmt, .mvmt)] : List ((WeightForm → Instr) × MOp)),
          Completes (p.1 ⟨c, 0, am, t0, t1, acc, zacc, 0, shape⟩) s fun u => EntersMatrix s u c fun e =>
            e.op = p.2 ∧ e.t = t0 ∧ e.t1 = t1 ∧ e.am = am ∧ e.acc = acc ∧ e.zacc = zacc ∧ e.shape = shape) ∧
      (∀ a acc t v rel h, ∀ p ∈ ([(.accrd, .accrd, v = 0, 0x000F0600), (.accrdVector, .accrdV, t = 0, 0x030F0600),
          (.accwr, .accwr, t = 0 ∧ rel = false ∧ h = false, 0x030F07C0),
          (.accfree, .accfree, t = 0 ∧ v = 0 ∧ rel = false ∧ h = false, 0xFFFFFFFF),
          (.acctag, .acctag, t = 0 ∧ rel = false ∧ h = false, 0xFFFFFFFF)] : List ((AccForm → Instr) × MOp × Prop × Word)),
        p.2.2.1 → shape &&& p.2.2.2 = 0 →
          Completes (p.1 ⟨c, 0, a, acc, t, v, rel, h, 0, shape⟩) s fun u => EntersMatrix s u c fun e =>
            e.op = p.2.1 ∧ e.a = a ∧ e.acc = acc ∧ e.t = t ∧ e.v = v ∧ e.rel = rel ∧ e.h = h ∧ e.shape = shape))

/-- The first instruction of a queue, older than all that the other queue holds and legal at its start, leaves the queue and becomes the
one started instruction, at its first group or unit. On the vector side a VBCAST draws its value and a scan with CI reads f[vb]; on the
matrix side the tag of a register or an accumulator tile that the instruction names may change. Nothing else of the core or the module
changes. (R89, R93, R94, R119, R161, 05_vector_engine.md, 06_tile_registers.md) -/
def Obligations.QueueHeadsStart : Prop :=
  ∀ (s : State) (c : CoreId),
    let k := s.core c
    k.frozen = false → k.causes = [] → k.ctl.xcfg.pm = false → s.mod.state ≠ .service →
    (∀ i q, k.vec.queue = i :: q → k.vec.started = [] → i.check = none → (∀ m ∈ k.matAll, i.seq < m.seq) →
      Completes (.vectorStart ⟨c⟩) s fun t => OnlyCore s { t with free := s.free } c ∧ (i.op ≠ .bcast → t.free = s.free) ∧
        ∃ r, r.i = { i with cin := r.i.cin } ∧ r.group = 0 ∧ r.probed = true ∧
          t.core c = { k with vec := { k.vec with queue := q, started := [r] } }) ∧
    (∀ i q, k.mat.queue = i :: q → k.mat.started = [] → i.check k = none →
      (∀ v ∈ k.vecAll, i.seq < v.seq) →
      Completes (.matrixStart ⟨c⟩) s fun t => OnlyCore s t c ∧
        (let k' := t.core c
         (∃ r, r.i = i.gathered k ∧ r.pos = 0 ∧ r.probed = true ∧ k'.mat.queue = q ∧ k'.mat.started = [r]) ∧
         k' = { k with mat := k'.mat } ∧ (∀ r, r ≠ i.t → k'.treg r = k.treg r) ∧
         k'.treg i.t = { k.treg i.t with tag := (k'.treg i.t).tag } ∧
         ∀ a, k'.array a = { k.array a with acc := (k'.array a).acc } ∧
           ∀ b, b ≠ i.acc.toNat → (k'.array a).tile b = (k.array a).tile b))

/-- VADD, VAND, VOR and VXOR of an integer format write f of the two sources, wrapped, to every element below vl that the predicate admits
and leave the other elements and registers; TZERO zeroes rows and scale plane of its register and writes its tag. (R134, R136, R137, R164,
R178, 05_vector_engine.md, 06_tile_registers.md) -/
def Obligations.QueuedInstructionsComplete : Prop :=
  ∀ (s : State) (c : CoreId),
    let k := s.core c
    k.frozen = false → k.causes = [] → k.ctl.stopping = false → (∀ h, (s.thread c h).blocked = none) →
    (∀ who ∈ [Who.vector c, .matrix c], (∀ q ∈ s.hub.reqs, q.who ≠ who) ∧ ∀ f ∈ (s.tile (tileOf c)).fills, ∀ u ∈ f.users, u.1 ≠ who) →
    (∀ (i : VInstr) (xl : List Leaf) (f : Nat → Nat → Nat), k.vec.started = [{ VRun.fresh i with probed := true, xl := xl }] →
      i.check = none → i.int = true → (i.op, f) ∈ ([(.add, fun a b => a + b), (.and, fun a b => a &&& b),
        (.or, fun a b => a ||| b), (.xor, fun a b => a ^^^ b)] : List (VOp × (Nat → Nat → Nat))) →
      Completes (.queuedComplete ⟨c, false, 0⟩) s fun t =>
        let k' := t.core c
        (∀ e, e < 8192 / i.w → getE i.w e (k'.rv i.vd) =
          if e < i.vl.toNat ∧ (k.rp i.pm).getLsbD e = true then
            f (getE i.w e (k.rv i.va)) (if i.s then i.gb.toNat % 2 ^ i.w else getE i.w e (k.rv i.vb)) % 2 ^ i.w
          else getE i.w e (k.rv i.vd)) ∧
        (∀ r, r ≠ i.vd → k'.rv r = k.rv r) ∧
        k' = { k with threads := k'.threads, vec := { k.vec with v := k'.vec.v, started := [] } } ∧
        (∀ h, t.thread c h = s.thread c h) ∧ OnlyCore s { t with perf := s.perf } c) ∧
    (∀ (i : MInstr) (xl : List Leaf), k.mat.started = [{ MRun.fresh i with probed := true, xl := xl }] → i.op = .tzero →
      Completes (.queuedComplete ⟨c, true, 0⟩) s fun t =>
        let q := (t.core c).treg i.t
        (∀ r < 64, q.row r = 0 ∧ q.rowPsn r = false) ∧ q.scale = .empty ∧
        q.tag = 0xA0000000 ||| (i.shape.extractLsb' 26 6).setWidth 32 <<< 22 ||| (i.shape.extractLsb' 24 2).setWidth 32 <<< 20 |||
          (i.shape.extractLsb' 20 4).setWidth 32 <<< 16 ∧
        (∀ r, r ≠ i.t → (t.core c).treg r = k.treg r) ∧ (t.core c).mat.started = [] ∧ (t.core c).mat.queue = k.mat.queue ∧
        (t.core c).vec = k.vec ∧ (t.core c).mem = k.mem ∧ (∀ h, t.thread c h = s.thread c h) ∧ OnlyCore s t c)

/-- The idle timeout marks every entry; the oldest marked entry merges its masked bytes into the sector that holds its line. A range
operation on one held 64-byte line writes it back, invalidates it, or both; one that meets a running operation is rejected; its completion
clears BUSY. (R248, R249, R251, R257, R260, R261, 09_memory_hierarchy.md) -/
def Obligations.MergingBufferAndRangeOperations : Prop :=
  (
    ∀ (s : State) (c : CoreId), Still s →
      let k := s.core c
      (Completes (.mergeIdleTimeout ⟨c⟩) s fun t => OnlyCore s t c ∧
        t.core c = { k with mem := { k.mem with mbuf := k.mem.mbuf.map fun e => { e with drain := true } } }) ∧
      (∀ e r x, k.mem.mbuf = e :: r → e.drain = true ∨ 8 ≤ k.mem.mbuf.length → e.attr = 0 → (s.tile (tileOf c)).sector e.line = some x →
        Completes (.mergeDrain ⟨c⟩) s fun t => OnlyMemory s t c (tileOf c) ∧ t.stk = s.stk ∧ (t.core c).mem.mbuf = r ∧
          (∀ n, n ≠ e.line → (t.tile (tileOf c)).sector n = (s.tile (tileOf c)).sector n) ∧
          ∃ y, (t.tile (tileOf c)).sector e.line = some y ∧ y.dirty = true ∧ y.key = x.key ∧
            ∀ i < 64, y.data.extractLsb' (8 * i) 8 = if e.mask.getLsbD i = true then e.data.extractLsb' (8 * i) 8
              else x.data.extractLsb' (8 * i) 8)) ∧
  (
    ∀ (s : State) (c : CoreId), Still s →
      let k := s.core c
      let n := tileOf c
      let started (t : State) (op : BitVec 2) (busy : Bool) : Prop :=
        (t.core c).mem.win = { k.mem.win with busy := busy, skipped := 0, op := op }
      (k.mem.win.busy = true → ∀ i ∈ [Instr.l2wb ⟨c⟩, .l2inv ⟨c⟩, .l2wbL2inv ⟨c⟩], Completes i s fun t => OnlyCore s t c ∧
        t.core c = { k with mem := { k.mem with win := { k.mem.win with rej := true } } }) ∧
      (k.mem.win.busy = false → k.mem.win.len = 0 → ∀ p ∈ [(Instr.l2wb ⟨c⟩, 1#2), (.l2inv ⟨c⟩, 2), (.l2wbL2inv ⟨c⟩, 3)],
        Completes p.1 s fun t => started t p.2 false ∧ OnlyCore s t c) ∧
      (∀ l x, k.mem.win.busy = false → k.mem.win.len = 64 → k.mem.win.addr.toNat % 64 = 0 → l.attr = 0 →
        tlbFind (s.tile n).walker.tlb (coreBinding s c) k.mem.win.addr.toNat = some ⟨coreBinding s c, l⟩ →
        l.maps k.mem.win.addr.toNat = true →
        let pa := l.addr k.mem.win.addr.toNat
        let line := pa.toNat / 64
        pa.toNat % 64 = 0 → paRegion pa = 0 → isLocal s pa = true → (s.tile n).sector line = some x →
        let a := stackAddr (paOffset pa)
        let written (t : State) : Prop :=
          (∀ i < 64, t.stk.mem.read (a + i) = x.data.extractLsb' (8 * i) 8) ∧
          (∀ b, b < a ∨ a + 64 ≤ b → t.stk.mem.read b = s.stk.mem.read b) ∧ t.stk.psn.get false (a / 64) = x.psn
        let others (t : State) : Prop := OnlyMemory s t c n ∧ ∀ m, m ≠ line → (t.tile n).sector m = (s.tile n).sector m
        (x.dirty = true → Completes (.l2wb ⟨c⟩) s fun t => started t 1 true ∧ others t ∧ written t ∧
          (t.tile n).sector line = some { x with dirty := false }) ∧
        (Completes (.l2inv ⟨c⟩) s fun t => started t 2 true ∧ others t ∧ t.stk = s.stk ∧ (t.tile n).sector line = none) ∧
        (x.dirty = true → Completes (.l2wbL2inv ⟨c⟩) s fun t => started t 3 true ∧ others t ∧ written t ∧
          (t.tile n).sector line = none)) ∧
      (k.mem.win.busy = true → outstanding s (.writeback c) = false → Completes (.l2OpComplete ⟨c⟩) s fun t => OnlyCore s t c ∧
        t.core c = { k with mem := { k.mem with win := { k.mem.win with busy := false } } }))

/-- A finished walk enters its leaf in the tile TLB and the TLB of the core that asked; a fill puts the stacks bytes under its key into
the sector of its line with the poison of the unit; a host read completion gives its request the bytes it asked for. Nothing else in
memory changes. (R253, R265, R272, R278, R286, 09_memory_hierarchy.md, 10_translation.md) -/
def Obligations.WalksFillsAndHostReadsArrive : Prop :=
  ∀ (s : State), Still s →
    (∀ (n : TileId) (idx : Nat) (c : CoreId) (w : Walk) (l : Leaf), idx < 8 → (s.tile n).walker.walks[idx]? = some w →
      w.who = .vector c → tileOf c = n →
      let s' := perfCount 0x08 n.toNat (some w.binding) 1
        (s.modTile n fun q => { q with walker := { q.walker with walks := q.walker.walks.eraseIdx idx } })
      (walkTables (walkerSource (some n)) (s.tile n).walker.cache w.binding w.va.toNat s').1 = .leaf l → (w.write = true → l.w = true) →
      Completes (.walk ⟨false, n, idx⟩) s fun t =>
        (t.tile n).walker.walks = (s.tile n).walker.walks.eraseIdx idx ∧ ⟨w.binding, l⟩ ∈ (t.tile n).walker.tlb ∧
        ⟨w.binding, l⟩ ∈ (t.core c).mem.tlb ∧ t.stk.mem = s.stk.mem ∧ t.rings = s.rings ∧
        (t.bnd w.binding).parks = (s.bnd w.binding).parks) ∧
    (∀ (n : TileId) (idx : Nat) (f : Fill), (s.tile n).fills[idx]? = some f →
      let pa := BitVec.ofNat 64 f.pa
      let a := stackAddr (paOffset pa)
      f.pa < 2 ^ 64 → f.pa % 64 = 0 → paRegion pa = 0 → isLocal s pa = true → channelLost s a = false →
      outstanding s (.evict n (f.pa / 64)) = false → (s.tile n).sector (f.pa / 64) = none → (∀ u ∈ f.users, u.2.old = false) → f.stale = false →
      (((s.tile n).sets.get .reset (setKey f.slice (f.pa / 256))).find (f.pa / 256)).isSome = true →
      Completes (.l2Fill ⟨n, idx⟩) s fun t =>
        (∃ x, (t.tile n).sector (f.pa / 64) = some x ∧ lineBytes x.data = unitBytes s (s.keyOf f.key) a ∧
          x.psn = s.stk.psn.get false (a / 64) ∧ x.dirty = false ∧ x.key = f.key ∧ x.slice = f.slice) ∧
        (∀ m, m ≠ f.pa / 64 → (t.tile n).sector m = (s.tile n).sector m) ∧
        (∀ g ∈ (t.tile n).fills, g.pa ≠ f.pa) ∧ StacksStay s t ∧ t.cores = s.cores) ∧
    (∀ (q : Req) (c : CoreId) (bytes : List Byte), s.hub.reqs.find? (fun x => x.id == q.id) = some q → q.who = .vector c →
      paRegion q.pa = 1 → q.data = none → q.write = false → (hostReads s).length ≤ 768 →
      Completes (.hostReadCompletion ⟨q.id, bytes⟩) s fun t =>
        t = { s with hub := { s.hub with reqs := t.hub.reqs } } ∧
        t.hub.reqs.find? (fun x => x.id == q.id) =
          some { q with data := some (clean ((bytes ++ List.replicate q.len 0).take q.len)) }) ∧
    (∀ id bytes, (∀ q ∈ (hostReads s).take 768, q.id ≠ id) → Completes (.hostReadCompletion ⟨id, bytes⟩) s fun t => t = s)

/-- A scrub that corrects up to 4 symbols opens or feeds the merge window of code 0x0002; one that finds more poisons exactly its unit and
forms a record of code 0x0010 with the scrub mark. Requests that arrive wait in the queue of their source, at most 256, or at its node.
With two sources waiting, the owner keeps the slot below 2,048 admissions and else it goes to the next waiting source in rotation. The
requests come as operands, one sector each: the choice of log entry 43. (R266, R267, R268, R269, R445, R446, 09_memory_hierarchy.md) -/
def Obligations.StackScrubAndAdmission : Prop :=
  ∀ (s : State) (stack : BitVec 5) (unit : BitVec 31),
    let u := stack.toNat * 2 ^ 31 + unit.toNat
    let p := s.stk.ports.get .reset stack.toNat
    let q (t : State) := t.stk.ports.get .reset stack.toNat
    (computeOn s = true → s.stk.psn.get false u = false →
      (Completes (.patrolScrub ⟨stack, unit, .corrected 0⟩) s fun t => t = s) ∧
      (∀ n : BitVec 3, 1 ≤ n.toNat → n.toNat ≤ 4 → Completes (.patrolScrub ⟨stack, unit, .corrected n⟩) s fun t =>
        t = { s with err := t.err } ∧ t.err.cnt.get 0 0 = satAdd (s.err.cnt.get 0 0) 1 ∧
          ∃ w ∈ t.err.windows, w.code = 0x0002 ∧ w.unit = stack.setWidth 16) ∧
      (∀ f, f = .uncorrectable ∨ (∃ n : BitVec 3, 4 < n.toNat ∧ f = .corrected n) → Completes (.patrolScrub ⟨stack, unit, f⟩) s fun t =>
        (∀ v, t.stk.psn.get false v = (decide (v = u) || s.stk.psn.get false v)) ∧ t.stk.mem = s.stk.mem ∧
        t.err.cnt.get 0 1 = satAdd (s.err.cnt.get 0 1) 1 ∧ ∃ r, t.err.formed = s.err.formed ++ [r] ∧ r.code = 0x0010 ∧
          r.unit = stack.setWidth 16 ∧ r.detail = [1])) ∧
    (computeOn s = true →
     let total (p : StackPort) (i : Nat) : Nat := p.queued.get 0 i + p.atNode.get 0 i
     let only (t : State) : Prop := t = { s with stk := { s.stk with ports := t.stk.ports }, perf := t.perf }
     let own := p.owner.toNat
     (∀ (src : BitVec 5) m, src.toNat < 17 → Completes (.admissionSlot ⟨stack, [(src, m)], 0⟩) s fun t => only t ∧
        (∀ i, total (q t) i = total p i + if i = src.toNat then m else 0) ∧
        (q t).queued.get 0 src.toNat = min (total (q t) src.toNat) 256) ∧
     (∀ x n, p.sources = [x] → Completes (.admissionSlot ⟨stack, [], n⟩) s fun t => only t ∧
        (∀ i, total (q t) i = if i = x then total p x - n else total p i) ∧ (q t).owner = p.owner ∧ (q t).admitted = 0) ∧
     (∀ n, (∃ i j, i < j ∧ j < 17 ∧ p.waits i = true ∧ p.waits j = true) →
       (p.admitted + n < 2048 → n < total p own → Completes (.admissionSlot ⟨stack, [], n⟩) s fun t => only t ∧
          (∀ i, total (q t) i = if i = own then total p own - n else total p i) ∧ (q t).owner = p.owner ∧
          (q t).admitted = p.admitted + n) ∧
       ((2048 ≤ p.admitted + n ∧ n ≤ total p own) ∨ total p own ≤ n → own < 17 →
         Completes (.admissionSlot ⟨stack, [], n⟩) s fun t => only t ∧ (q t).admitted = 0 ∧
           (∀ i, total (q t) i = if i = own then total p own - min n (2048 - p.admitted) else total p i) ∧
           (q t).waits (q t).owner.toNat = true ∧
           ∀ i, 1 ≤ i → i < ((q t).owner.toNat + 17 - own - 1) % 17 + 1 → (q t).waits ((own + i) % 17) = false)))

/-- A fault enters the collector with the next sequence number; a due batch is written in order as far as there is room, with one vector;
a failed batch sets WR_ERR and reports, and the clear makes the batch due again, whose second write is a command of its own (the choice of
log entry 47). FQ_HEAD moves within what was written. Configuration writes take effect on a FREE binding and are rejected otherwise.
(R288, R289, R290, R291, R294, R295, R493, 10_translation.md) -/
def Obligations.TranslationRegistersAndFaultQueue : Prop :=
  (
    ∀ (s : State) (b : BindingId),
      let x := (s.bnd b).xlat
      let room := 2 ^ x.fqSize.toNat - (x.fqTail - x.fqHead).toNat
      let n := min x.coll.length room
      let batch (t : State) : Prop :=
        (t.bnd b).xlat = { x with wrErr := false, fqTail := x.fqTail + BitVec.ofNat 32 n, coll := x.coll.drop n } ∧
        t.out = .msix x.fqMsix :: ((x.coll.take n).mapIdx fun i f => Output.hostWrite
          (BitVec.ofNat 64 (x.fqBase.toNat * 4096 + 32 * ((x.fqTail.toNat + i) % 2 ^ x.fqSize.toNat)))
          (faultBytes b (x.fqTail.toNat + i) x.fqSize.toNat f) false).reverse ++ s.out ∧
        t = { s with binds := t.binds, out := t.out, perf := t.perf } ∧ ∀ a, a ≠ b → t.bnd a = s.bnd a
      (∀ f rest, x.hold = f :: rest → x.coll.length < 64 → Completes (.faultCollect ⟨b⟩) s fun t =>
        (t.bnd b).xlat = { x with
          hold := rest, coll := x.coll ++ [{ f with seq := x.seq, since := s.time.count }], seq := x.seq + 1 } ∧
        t = { s with binds := t.binds } ∧ ∀ a, a ≠ b → t.bnd a = s.bnd a) ∧
      (x.wrErr = false → 0 < room → (∃ f r, x.coll = f :: r ∧ (64 ≤ x.coll.length ∨ 320000 ≤ (s.time.count - f.since).toNat)) →
        Completes (.faultBatch ⟨b⟩) s batch ∧
        Completes (.faultBatchWrErr ⟨b⟩) s fun t => (t.bnd b).xlat = { x with wrErr := true } ∧
          t.err.bind.getLsbD b.toNat = true ∧ t.err.cnt.get 0 2 = satAdd (s.err.cnt.get 0 2) 1 ∧
          (∃ r, t.err.formed = s.err.formed ++ [r] ∧ r.code = 0x0023 ∧ r.cls = 2 ∧ r.unit = b.setWidth 16 ∧
            r.addr = BitVec.ofNat 64 (x.fqBase.toNat * 4096 + 32 * (x.fqTail.toNat % 2 ^ x.fqSize.toNat))) ∧
          t.out = s.out ∧ ∀ a, a ≠ b → t.bnd a = s.bnd a) ∧
      (barsAnswer s = true → Completes (.fqWrErrClear ⟨b⟩) s fun t => OnlyXlat s t b { x with wrErr := false })) ∧
  (
    ∀ (s : State) (b : BindingId) (v : DWord) (h : Word), bar0Open s = true →
      let x := (s.bnd b).xlat
      ((h - x.fqHead).toNat ≤ (x.fqTail - x.fqHead).toNat →
        Completes (.fqHead ⟨b, h⟩) s fun t => OnlyXlat s t b { x with fqHead := h }) ∧
      ((x.fqTail - x.fqHead).toNat < (h - x.fqHead).toNat →
        Completes (.fqHead ⟨b, h⟩) s fun t => OnlyXlat s t b { x with headRej := true }) ∧
      ((s.bnd b).state = .free →
        (Completes (.xlatWrite ⟨b, 0x00, true, v⟩) s fun t => OnlyXlat s t b { x with root := (v.extractLsb' 13 35) ++ 0#13 }) ∧
        (Completes (.xlatWrite ⟨b, 0x08, false, v⟩) s fun t => OnlyXlat s t b { x with tkey := v.setWidth 8 }) ∧
        (Completes (.xlatWrite ⟨b, 0x10, true, v⟩) s fun t => OnlyXlat s t b { x with fqBase := v.extractLsb' 12 52 }) ∧
        (Completes (.xlatWrite ⟨b, 0x18, false, v⟩) s fun t =>
          OnlyXlat s t b { x with fqMsix := v.extractLsb' 16 11, fqSize := v.setWidth 5 })) ∧
      ((s.bnd b).state ≠ .free → ∀ p ∈ [((0x00 : BitVec 6), true), (0x08, false), (0x10, true), (0x18, false)],
        Completes (.xlatWrite ⟨b, p.1, p.2, v⟩) s fun t => OnlyXlat s t b { x with cfgRej := true }))

/-- Edges and messages qualify their source; losing one in LOCKED or PTP enters HOLDOVER with the bound of the moment. A crossing forward
from FREE sets the counter to the target; a small difference slews; a large later one pends a jump, which JUMP_ACCEPT admits; slew end and
re-qualification enter LOCKED or PTP with their bounds; the last count expires. That JUMP_PEND stays after its acceptance, that DELAY is
added under PTP alone and that HOLDOVER_TO_PTP measures as an edge does are the readings of log entry 45. (R31, R33, R34, R37, R38, R39,
R40, R41, 02_beat_time.md) -/
def Obligations.TimeSourcesAndDiscipline : Prop :=
  (
    ∀ (s : State), hostAlive s = true →
      let x := s.time
      let gives (i : Instr) (y : TimeState) : Prop := Completes i s fun t => t = { s with time := y }
      (x.ppsEdges ≠ 0 → gives (.beatPpsEdge ⟨true⟩) { x with
        ppsEdges := x.ppsEdges + 1, ppsOk := x.ppsOk || decide (2 ≤ x.ppsEdges) }) ∧
      gives (.beatPpsEdge ⟨false⟩) { x with ppsEdges := 1 } ∧
      (x.ptpMsgs ≠ 0 → gives (.ptpMessage ⟨true⟩) { x with ptpMsgs := x.ptpMsgs + 1, ptpOk := true }) ∧
      gives (.ptpMessage ⟨false⟩) { x with ptpMsgs := 1 } ∧
      gives .beat10mQualify { x with tenOk := true } ∧
      (let held : TimeState := { x with
         disc := .holdover, bound := uncert s, holdSince := x.count, slewing := false, lost := true }
       let goal : Option Discipline := if x.goal = some .locked then some .ptp else x.goal
       (x.disc = .locked →
         gives .ppsLoss { held with ppsOk := false, ppsEdges := 0, goal := goal } ∧
         gives .beat10mLoss { held with tenOk := false, goal := goal }) ∧
       (x.disc = .locked ∨ x.disc = .ptp →
         gives .ptpLoss { held with ptpOk := false, ptpMsgs := 0, goal := none, diff := none }) ∧
       (x.disc ≠ .locked → x.disc ≠ .ptp →
         gives .ptpLoss { x with ptpOk := false, ptpMsgs := 0, goal := none, diff := none, slewing := false }) ∧
       (x.disc ≠ .locked →
         (Completes .ppsLoss s fun t => (x.goal ≠ some .locked → t.time.slewing = x.slewing) ∧
           t = { s with time := { x with ppsOk := false, ppsEdges := 0, goal := goal, slewing := t.time.slewing } }) ∧
         (Completes .beat10mLoss s fun t => (x.goal ≠ some .locked → t.time.slewing = x.slewing) ∧
           t = { s with time := { x with tenOk := false, goal := goal, slewing := t.time.slewing } })))) ∧
  (
    ∀ (s : State) (o : CrossingForm), hostAlive s = true →
      let x := s.time
      let all := x.ppsOk = true ∧ x.tenOk = true ∧ x.ptpOk = true
      let target : Int := ((o.second.toNat : Int) - x.epoch.toNat) * 16000000000 + x.skew.toInt + o.lateTicks.toNat
      let diff := target - x.count.toNat
      let d : Discipline := if x.ppsOk && x.tenOk && x.ptpOk then .locked else .ptp
      let bound (d : Discipline) : Nat := if d = .locked then 2 else 50
      let entered (d : Discipline) (y : TimeState) : Prop :=
        y.disc = d ∧ y.bound = bound d ∧ y.jumpPend = false ∧ y.slewing = true
      let may (d : Discipline) : Prop :=
        (d = .locked ∧ all) ∨ (d = .ptp ∧ x.ptpOk = true ∧ ¬all ∧ (x.disc ≠ .holdover ∨ 50 ≤ uncert s))
      (x.expired = false → x.ptpOk = true →
        (x.disc = .free → x.acquired = false → 0 < diff → target < 2 ^ 64 → s.allDescs = [] → Completes (.timeCrossing o) s fun t =>
          entered d t.time ∧ (t.time.count.toNat : Int) = target ∧ t.time.diff = some 0 ∧ t.time.skew = x.skew ∧
          t.time.epoch = x.epoch ∧ t = { s with time := t.time, rings := t.rings }) ∧
        (x.disc = .free → diff < -16000 ∨ x.acquired = true ∧ 16000 < diff → Completes (.timeCrossing o) s fun t =>
          t.time = { x with disc := .holdover, bound := uncert s, holdSince := x.count, diff := some diff, goal := some d, acquired := true
                            jumpPend := true, jumpDir := decide (0 < diff), jumpOk := false, slewing := false } ∧
          (∃ e, t.mgmt.log = (e :: s.mgmt.log).take 65536 ∧ e.code = Config.eventCode 1) ∧
          t = { s with time := t.time, mgmt := { s.mgmt with log := t.mgmt.log, logSeq := s.mgmt.logSeq + 1 } }) ∧
        (x.disc = .free → diff ≤ 0 ∨ x.acquired = true → diff.natAbs < 16 * bound d → Completes (.timeCrossing o) s fun t =>
          entered d t.time ∧ t.time.count = x.count ∧ t.time.diff = some diff ∧ t = { s with time := t.time }) ∧
        (x.disc = d ∨ x.disc = .free ∧ (diff ≤ 0 ∨ x.acquired = true) ∧ 16 * bound d ≤ diff.natAbs → -16000 ≤ diff → diff ≤ 16000 → Completes (.timeCrossing o) s fun t =>
          t = { s with time := { x with diff := some diff, goal := some d, acquired := true, slewing := true } }) ∧
        (x.disc = .locked ∨ x.disc = .ptp → 16000 < diff ∨ diff < -16000 → Completes (.timeCrossing o) s fun t =>
          t.time.disc = .holdover ∧ t.time.jumpPend = true ∧ t.time.jumpDir = decide (0 < diff) ∧ t.time.count = x.count) ∧
        (x.disc = .holdover → x.jumpPend = true → x.jumpOk = true → x.jumpDir = true → (x.count.toNat : Int) ≤ target →
          target < 2 ^ 64 → s.allDescs = [] → Completes (.timeCrossing o) s fun t =>
            (t.time.count.toNat : Int) = target ∧ t.time.diff = some 0 ∧ t.time.jumpPend = false ∧
            (all ∨ x.holdSince.toNat ≤ x.count.toNat ∧ 50 ≤ uncert s → entered d t.time))) ∧
      (bar0Open s = true → x.jumpPend = true → Completes .jumpAccept s fun t =>
        t = { s with time := { x with jumpOk := true, slewing := !x.jumpDir } }) ∧
      (∀ e g, x.diff = some e → x.goal = some g → x.slewing = true → e.natAbs < 16 * bound g → may g →
        Completes .slewLock s fun t => entered g t.time ∧
          t = { s with time := { x with disc := g, bound := bound g, slewing := true, jumpPend := false, jumpOk := false } }) ∧
      (∀ e, x.diff = some e → x.goal = some .ptp → x.disc = .holdover → x.jumpPend = false → may .ptp →
        (e.natAbs < 800 → Completes .holdoverToPtp s fun t =>
          entered .ptp t.time ∧ t.time.count = x.count ∧ t = { s with time := t.time }) ∧
        (800 ≤ e.natAbs → e.natAbs ≤ 16000 → Completes .holdoverToPtp s fun t =>
          t = { s with time := { x with slewing := true } }) ∧
        (16000 < e.natAbs → Completes .holdoverToPtp s fun t =>
          t.time = { x with jumpPend := true, jumpDir := decide (0 < e), jumpOk := false, slewing := false })) ∧
      (x.count = BitVec.allOnes 64 → Completes .counterExpired s fun t => t = { s with time := { x with expired := true } }))

/-- A write of BREATH_PERIOD or BREATH_LEN within its range and consistent with the accepted value of the other pends; any other sets
CFG_REJ and changes nothing else; the change at a second boundary 1 ms or more after the latest accepted write brings both into force.
(R42, R43, 02_beat_time.md) -/
def Obligations.BreathSchedule : Prop :=
  ∀ (s : State) (v : Word), bar0Open s = true →
    let x := s.time
    let period := x.periodPend.getD x.period
    let len := x.lenPend.getD x.len
    let p := v.setWidth 14
    let n := v.setWidth 8
    let gives (i : Instr) (y : TimeState) : Prop := Completes i s fun t => t = { s with time := y }
    (250 ≤ p.toNat ∧ p.toNat ≤ 16000 ∧ 2 * len.toNat ≤ p.toNat →
      gives (.breathPeriod ⟨v⟩) { x with periodPend := some p, acceptedAt := x.count }) ∧
    (p.toNat < 250 ∨ 16000 < p.toNat ∨ p.toNat < 2 * len.toNat → gives (.breathPeriod ⟨v⟩) { x with cfgRej := true }) ∧
    (5 ≤ n.toNat ∧ n.toNat ≤ 200 ∧ 2 * n.toNat ≤ period.toNat →
      gives (.breathLen ⟨v⟩) { x with lenPend := some n, acceptedAt := x.count }) ∧
    (n.toNat < 5 ∨ 200 < n.toNat ∨ period.toNat < 2 * n.toNat → gives (.breathLen ⟨v⟩) { x with cfgRej := true }) ∧
    (x.periodPend.isSome = true ∨ x.lenPend.isSome = true →
      (∃ b, b % 16000000000 = 0 ∧ x.acceptedAt.toNat + 16000000 ≤ b ∧ b ≤ x.count.toNat) →
      gives .breathScheduleChange { x with period := period, len := len, periodPend := none, lenPend := none })

/-- A doorbell is accepted exactly under the two bounds of R303 with EN set, else DB_REJ; the fetch of a ring whose turn it is reads the
descriptors up to the end of the ring or the limit; a fetch error disables the ring, ends its reads and reports code 0x0023. The turn
among rings is the choice of log entry 12, the reads that a fetch error ends that of log entry 44. (R302, R303, R304, R493,
11_rings_and_descriptors.md) -/
def Obligations.DoorbellsAndFetch : Prop :=
  ∀ (s : State) (r : RingId), barsAnswer s = true →
    let q := s.ring r
    (∀ wide (v : DWord), let p := v.setWidth 32
      (q.en = true → (p - q.ci).toNat ≤ 2 ^ q.size.toNat → (q.pi - q.ci).toNat ≤ (p - q.ci).toNat →
        Completes (.doorbell ⟨r, wide, v⟩) s fun t => OnlyRing s t r { q with pi := p }) ∧
      (q.en = false ∨ 2 ^ q.size.toNat < (p - q.ci).toNat ∨ (p - q.ci).toNat < (q.pi - q.ci).toNat →
        Completes (.doorbell ⟨r, wide, v⟩) s fun t => OnlyRing s t r { q with dbRej := true })) ∧
    (fetching s = true → r = s.hub.rrFetch → 0 < fetchable s r →
      let slot := (q.ci.toNat + q.inFetch) % 2 ^ q.size.toNat
      let n := min (fetchable s r) (2 ^ q.size.toNat - slot)
      Completes .descriptorFetch s fun t => t.ring r = { q with inFetch := q.inFetch + n } ∧
        t.out = .fetch r (BitVec.ofNat 64 (q.base.toNat * 4096 + 128 * slot)) n :: s.out ∧
        t = { s with rings := t.rings, hub := { s.hub with rrFetch := r + 1 }, out := t.out, perf := t.perf } ∧
        ∀ x, x ≠ r → t.ring x = s.ring x) ∧
    (0 < q.inFetch ∨ q.stale ≠ [] → Completes (.fetchErr ⟨r⟩) s fun t =>
      t.ring r = { q with en := false, fetchErr := true, inFetch := 0, stale := [] } ∧
      (∀ x, x ≠ r → t.ring x = s.ring x) ∧ t.err.cnt.get 0 2 = satAdd (s.err.cnt.get 0 2) 1 ∧
      (∃ e, t.err.formed = s.err.formed ++ [e] ∧ e.code = 0x0023 ∧ e.unit = r.setWidth 16) ∧
      (q.mod = false → t.err.bind.getLsbD q.binding.toNat = true))

/-- On a ring still enabled, the arriving 128 bytes become the descriptor with index CI and CI advances; a descriptor that fails its
format checks finishes with REJECT_FORMAT instead; what was requested before the ring was last disabled is dropped. How the model numbers
descriptors is the choice of log entry 44. (R304, R307, R313, R49, 11_rings_and_descriptors.md) -/
def Obligations.DescriptorsAreAccepted : Prop :=
  ∀ (s : State) (r : RingId) (raw : BitVec 1024),
    let q := s.ring r
    (∀ a rest, q.stale = a :: rest → Completes (.descriptorAccept ⟨r, raw⟩) s fun t => OnlyRing s t r { q with stale := rest }) ∧
    (q.stale = [] → 0 < q.inFetch → q.en = true →
      let e : Desc :=
        { index := q.nextName, ringIndex := q.ci, raw := raw, accepted := s.time.count
          eligible := decide (bitsOf raw.toNat 64 64 ≤ s.time.count.toNat), named := false, settled := false, doomed := false
          started := none, engine := none, job := .reset, ended := false }
      let plain (d : Desc) : Desc := { d with settled := false, doomed := false }
      (formatOk q e = true → Completes (.descriptorAccept ⟨r, raw⟩) s fun t => ∃ descs,
        OnlyRing s t r { q with ci := q.ci + 1, inFetch := q.inFetch - 1, named := q.nextName + 1, descs := descs } ∧
        descs.map plain = (q.descs ++ [e]).map plain ∧
        (q.descs = [] → descs = [if raw.getLsbD 8 then { e with settled := true, doomed := q.barrier } else e])) ∧
      (formatOk q e = false → Completes (.descriptorAccept ⟨r, raw⟩) s fun t => Finishes s t r e .rejectFormat [] ∧
        (t.ring r).ci = q.ci + 1 ∧ (t.ring r).inFetch = q.inFetch - 1))

/-- A startable NOP, FENCE or PROBE finishes OK, the probe with state, time and token. At its not-before a descriptor becomes eligible;
past its deadline it finishes DEADLINE_MISSED and behind a failed barrier ABORTED, with no effect on cores or stacks. (R46, R48, R308,
R309, R310, R313, R314, R321, 11_rings_and_descriptors.md) -/
def Obligations.DescriptorsWithoutWorkAndTiming : Prop :=
  (
    ∀ (s : State) (r : RingId) (d : Desc),
      (Starts s r d 0x00 → Completes (.nop ⟨r⟩) s fun t => Finishes s t r d .ok []) ∧
      (Starts s r d 0x0C → Completes (.descriptorFence ⟨r⟩) s fun t => Finishes s t r d .ok [] ∧
        (s.ring r).allBefore d = true) ∧
      (Starts s r d 0x0E → Completes (.probe ⟨r⟩) s fun t => ∃ detail, Finishes s t r d .ok detail ∧ detail.length = 20 ∧
        detail[0]? = some (BitVec.ofNat 8 s.mod.state.code) ∧
        natOfBytes (detail.drop 8 |>.take 8) = s.time.count.toNat ∧
        natOfBytes (detail.drop 4 |>.take 4) = (s.hub.tokens.get 0 (d.num 32 2 % 4096)).toNat)) ∧
  (
    ∀ (s : State) (r : RingId) (d : Desc), (s.ring r).startPoint = some d → s.desc r d.index = some d →
      (let due := breathing s = true ∧ s.time.count.toNat % (s.time.period.toNat * 16000) = 0 ∧
         s.time.openBreath.map Prod.fst ≠ some s.time.count
       (d.notBefore = s.time.count.toNat → due → Completes (.notBefore ⟨r⟩) s fun t => t = s) ∧
       (d.notBefore < s.time.count.toNat ∨ d.notBefore = s.time.count.toNat ∧ ¬due → Completes (.notBefore ⟨r⟩) s fun t =>
        t.desc r d.index = some { d with eligible := true } ∧ t = { s with rings := t.rings } ∧ ∀ x, x ≠ r → t.ring x = s.ring x)) ∧
      (d.deadline ≠ 0 → d.deadline < s.time.count.toNat → Completes (.deadlineMissed ⟨r, d.index⟩) s fun t =>
        Finishes s t r d .deadlineMissed [] ∧ t.cores = s.cores ∧ t.stk = s.stk) ∧
      (d.doomed = true → Completes (.barrierAbort ⟨r⟩) s fun t => Finishes s t r d .aborted [] ∧ t.cores = s.cores ∧ t.stk = s.stk))

/-- Without room the ring sets OVF and the completion waits. With room the entry goes to its slot with its phase, TAIL advances, the
vector follows where asked, and a final one retires its descriptor, signals its token, notifies its core and raises the barrier. A failed
write disables the ring and reports code 0x0023. (R305, R306, R309, R311, R310, R493, 11_rings_and_descriptors.md) -/
def Obligations.CompletionsAreWritten : Prop :=
  ∀ (s : State) (q : CqId) (c : Completion) (rest : List Completion),
    let x := s.cq q
    let room := 2 ^ x.size.toNat - (x.tail - x.head).toNat
    x.waiting = c :: rest → x.en = true →
    (room < c.need → Completes (.completionWrite ⟨q⟩) s fun t => OnlyCq s t q { x with ovf := true }) ∧
    (c.slot = none → 1 ≤ room →
      let n := x.tail.toNat
      let entry := Output.hostWrite (BitVec.ofNat 64 (x.base.toNat * 4096 + 64 * (n % 2 ^ x.size.toNat)))
        (entryBytes c ++ phaseWord n x.size.toNat) false
      Completes (.completionWrite ⟨q⟩) s fun t => t.cq q = { x with tail := x.tail + 1, waiting := rest } ∧
        (∀ y, y ≠ q → t.cq y = s.cq y) ∧
        t.out = (if c.final = false ∨ c.irq = true then [Output.msix x.msix] else []) ++ entry :: s.out ∧
        (c.final = true → (∀ d ∈ (t.ring c.ring).descs, d.index ≠ c.index) ∧
          (∀ tok, c.signal = some tok → t.hub.tokens.get 0 tok.toNat = s.hub.tokens.get 0 tok.toNat + 1) ∧
          (∀ k, c.notify = some k → (t.thread k 0).movPend = some c.tag) ∧
          (∀ d, s.desc c.ring c.index = some d → d.flag 3 = true → c.status.good = false →
            (t.ring c.ring).barrier = true)) ∧
        (∀ y, y ≠ c.ring → t.ring y = s.ring y) ∧ t.stk = s.stk) ∧
    (Completes (.completionWrErr ⟨q⟩) s fun t => t.cq q = { x with en := false, wrErr := true } ∧
      (∀ y, y ≠ q → t.cq y = s.cq y) ∧ t.rings = s.rings ∧ t.out = s.out ∧
      (∃ e, t.err.formed = s.err.formed ++ [e] ∧ e.code = 0x0023 ∧ e.cls = 2 ∧ e.unit = q.setWidth 16) ∧
      (c.binding.toNat < 64 → t.err.bind.getLsbD c.binding.toNat = true))

/-- SQ_CFG, SQ_RESUME, CQ_CFG and CQ_HEAD: configuration while disabled and idle, enabling with a legal size and an enabled completion
ring, disabling with the other fields ignored and CFG_REJ set where the ring is not idle, head moves within TAIL, and CFG_REJ or HEAD_REJ
for every other write stated. CFG_REJ of a clear of EN while not idle, and of a write that keeps EN, is the reading of log entry 42; the
part of dropped requests in IDLE is that of log entry 44. (R301, R305, 11_rings_and_descriptors.md) -/
def Obligations.RingRegisters : Prop :=
  ∀ (s : State) (r : RingId) (c : CqId) (v : Word), bar0Open s = true →
    let q := s.ring r
    let x := s.cq c
    let new := { q with mod := v.getLsbD 30, binding := v.extractLsb' 24 6, cq := v.extractLsb' 14 10, size := v.setWidth 5 }
    let idle := q.descs = [] ∧ q.inFetch = 0 ∧ q.stale = []
    (q.en = false → idle →
      (v.getLsbD 31 = false → Completes (.sqCfg ⟨r, v⟩) s fun t => OnlyRing s t r new) ∧
      (v.getLsbD 31 = true → 6 ≤ new.size.toNat → new.size.toNat ≤ 16 → (s.cq new.cq).en = true →
        Completes (.sqCfg ⟨r, v⟩) s fun t => OnlyRing s t r { new with en := true, pi := 0, ci := 0, barrier := false }) ∧
      (v.getLsbD 31 = true → new.size.toNat < 6 ∨ 16 < new.size.toNat ∨ (s.cq new.cq).en = false →
        Completes (.sqCfg ⟨r, v⟩) s fun t => OnlyRing s t r { q with cfgRej := true })) ∧
    (q.en = true → v.getLsbD 31 = false → idle → Completes (.sqCfg ⟨r, v⟩) s fun t => OnlyRing s t r { new with en := false }) ∧
    (q.en = true → v.getLsbD 31 = false → ¬ idle → Completes (.sqCfg ⟨r, v⟩) s fun t =>
      OnlyRing s t r { q.stopFetch with cfgRej := true }) ∧
    (q.en = v.getLsbD 31 → q.en = true ∨ ¬idle → Completes (.sqCfg ⟨r, v⟩) s fun t =>
      OnlyRing s t r { q with cfgRej := true }) ∧
    (q.en = false → v.getLsbD 31 = true → ¬idle →
      (new ≠ q → Completes (.sqCfg ⟨r, v⟩) s fun t => OnlyRing s t r { q with cfgRej := true }) ∧
      (new = q → 6 ≤ q.size.toNat → q.size.toNat ≤ 16 → (s.cq q.cq).en = true → Completes (.sqCfg ⟨r, v⟩) s fun t =>
        OnlyRing s t r { q with en := true, pi := 0, ci := 0, barrier := false })) ∧
    (v.getLsbD 0 = true → Completes (.sqResume ⟨r, v⟩) s fun t => OnlyRing s t r { q with barrier := false }) ∧
    (x.en = false → v.getLsbD 31 = true → 6 ≤ (v.setWidth 5 : BitVec 5).toNat → (v.setWidth 5 : BitVec 5).toNat ≤ 16 →
      Completes (.cqCfg ⟨c, v⟩) s fun t => OnlyCq s t c
        { x with en := true, msix := v.extractLsb' 16 11, size := v.setWidth 5, head := 0, tail := 0
                 ovf := x.ovf || decide (2 ^ (v.setWidth 5 : BitVec 5).toNat < (x.waiting.map Completion.need).sum) }) ∧
    (x.en = true → (∃ e ∈ s.rings.entries, e.2.cq = c ∧ e.2.en = true) →
      Completes (.cqCfg ⟨c, v⟩) s fun t => OnlyCq s t c { x with cfgRej := true }) ∧
    ((v - x.head).toNat ≤ (x.tail - x.head).toNat → Completes (.cqHead ⟨c, v⟩) s fun t => OnlyCq s t c { x with head := v }) ∧
    ((x.tail - x.head).toNat < (v - x.head).toNat → Completes (.cqHead ⟨c, v⟩) s fun t => OnlyCq s t c { x with headRej := true })

/-- A startable LAUNCH without log or code copy sets PM, breakpoints, watchpoints, histogram, rpos and the three argument registers g1 to
g3 of the cores it names, clears the others, starts h0 at the start offset and touches no other core; when every core has ended, a LAUNCH
without log record or histogram finishes OK or THREAD_HALT with the counts. (R315, R316, R317, R318, R314, 11_rings_and_descriptors.md) -/
def Obligations.LaunchesStartAndFinish : Prop :=
  ∀ (s : State) (r : RingId) (d : Desc) (b : BindingId),
    let x := s.bnd b
    let at_ (c : CoreId) := s.core c
    (Starts s r d 0x01 → FreshJob s r d b → d.copies = false → x.log.arm = none →
      (BitVec.ofNat 64 (d.num 32 8) : BitVec 64) &&& ~~~x.sections = 0 → (∀ c ∈ d.launched, countsRunning s c = false) →
      (bindingRuns s b = false ∨ ∀ c ∈ coresOf x.sections, pmOf s c = d.launchPm) →
      Completes (.launch ⟨r⟩) s fun t =>
        (∃ e, t.desc r d.index = some e ∧ e.started = some s.time.count ∧ e.ended = false ∧ e.job.phase = 1) ∧
        (∀ n c, d.launched[n]? = some c →
          let k := at_ c
          let k' := t.core c
          let th := t.thread c 0
          k' = { k with
            threads := k'.threads
            vec := { k.vec with rpos := if d.setsRpos then BitVec.ofNat 64 (d.num 64 8) else k.vec.rpos }
            ctl := { k.ctl with
              xcfg := { k.ctl.xcfg with pm := d.launchPm }, bp0 := d.breakpoint 84, bp1 := d.breakpoint 88
              wp0 := d.watchpoint 92 100, wp1 := d.watchpoint 104 112, hist := if d.flag 2 then .empty else k.ctl.hist
              histBase := if d.flag 2 then some (BitVec.ofNat 16 (d.num 80 2)) else none, launch := some (r, d.index), layer := none
              halted := 0, finished := false, failed := false } } ∧
          th.run = true ∧ th.pc = 0x100 ∧ th.rg 1 = BitVec.ofNat 32 (d.num 56 4) ∧ th.rg 2 = BitVec.ofNat 32 (d.num 60 4) ∧
          th.rg 3 = BitVec.ofNat 32 n ∧ (∀ i : BitVec 5, 3 < i.toNat → th.rg i = 0) ∧ th.estat = 0 ∧ th.fcsr = 0 ∧ th.waiting = false ∧
          (∀ i < 3, th.lc.get 0 i = 0) ∧ ∀ h, h ≠ 0 → t.thread c h = s.thread c h) ∧
        (∀ c, c ∉ d.launched → c ∈ coresOf x.sections →
          t.core c = { at_ c with ctl := { (at_ c).ctl with xcfg := { (at_ c).ctl.xcfg with pm := d.launchPm } } }) ∧
        (∀ c, c ∉ coresOf x.sections → t.core c = at_ c) ∧
        (t.bnd b).log.lastRpos = (if d.setsRpos then BitVec.ofNat 64 (d.num 64 8) else x.log.lastRpos) ∧
        t.stk = s.stk ∧ t.tiles = s.tiles ∧ t.hub.tokens = s.hub.tokens) ∧
    (Works s r d b 0x01 → d.job.phase = 1 → d.job.log = none → d.job.declined = false → d.flag 2 = false →
      (∀ c ∈ d.underLaunch s r, (at_ c).ctl.finished = true ∧ (at_ c).ctl.failed = false ∧ fenceOver s c true = true ∧ coreBinding s c = b ∧
          isParked s b (.scalar c) = false ∧ isParked s b (.vector c) = false ∧ isParked s b (.matrix c) = false) →
      Completes (.launchFinish ⟨r, d.index⟩) s fun t =>
        Finishes s t r d (if haltedOf s r d = 0 then .ok else .threadHalt)
          (bytesOfNat 2 d.launched.length ++ bytesOfNat 2 (haltedOf s r d)) ∧
        (∀ c, t.core c = if (at_ c).ctl.launch = some (r, d.index) then { at_ c with ctl := { (at_ c).ctl with launch := none } }
          else at_ c) ∧
        t.stk = s.stk)

/-- On a block of whole units that the hub TLB maps to local memory, FILL writes the 8-byte pattern and clears poison, MOVE copies bytes
and poison; both finish OK with the count, and every other byte of the stacks stays. (R265, R267, R319, R314, R321,
11_rings_and_descriptors.md) -/
def Obligations.MovesAndFillsWriteTheirRange : Prop :=
  ∀ (s : State) (r : RingId) (d : Desc) (b : BindingId) (src dst : Leaf), FreshJob s r d b →
    (let va := d.num 32 8
     let n := d.num 40 8
     Starts s r d 0x03 → HubMaps s b va n true dst → Completes (.fill ⟨r⟩) s fun t =>
       Wrote s t dst va n (fun j => BitVec.ofNat 8 (d.num 48 8 / 2 ^ (8 * (j % 8)))) ∧
       (∀ j < n, t.stk.psn.get false (placeOf dst (va + j) / 64) = false) ∧
       Finishes s t r d .ok (bytesOfNat 8 n ++ [0, 0, 0, 0]) ∧ t.cores = s.cores ∧ t.tiles = s.tiles) ∧
    (let from_ := d.num 32 8
     let va := d.num 40 8
     let n := d.num 48 8
     Starts s r d 0x02 → HubMaps s b from_ n false src → HubMaps s b va n true dst → Completes (.move ⟨r⟩) s fun t =>
       Wrote s t dst va n (fun j => readAt s src (from_ + j)) ∧
       (∀ j < n, t.stk.psn.get false (placeOf dst (va + j) / 64) = s.stk.psn.get false (placeOf src (from_ + j) / 64)) ∧
       Finishes s t r d .ok (bytesOfNat 8 n ++ [0, 0, 0, 0]) ∧ t.cores = s.cores ∧ t.tiles = s.tiles)

/-- A COLLECT checks that its group table names this module, opens, fixes its mask at the deadline, sums the counted contributions of 64
bytes in member order with the partial factor, and finishes OK or PARTIAL_SUM; an opened packet that came back is sent again. The
summation is that of chapter 8 with the choices of log entry 14. (R369, R370, R390, R391, R392, R393, R394, R395,
14_peer_links_and_collectives.md) -/
def Obligations.CollectsOpenCountAndSum : Prop :=
  ∀ (s : State) (r : RingId) (d : Desc) (b : BindingId),
    let self : BitVec 64 := BitVec.ofNat 64 (2 ^ d.selfMember)
    let want : BitVec 64 := BitVec.ofNat 64 (d.num 40 8)
    (∀ l, Starts s r d 0x04 → FreshJob s r d b → d.members = [d.selfMember] →
      (∀ c ∈ coresOf (s.bnd b).sections, coreRuns (s.core c) = false) →
      (∀ x ∈ s.allDescs, x.2.running = true → x.2.opcode = 0x04 → x.2.job.coll.isSome = true → x.2.tag ≠ d.tag) →
      d.num 72 8 % 128 = 0 → HubMaps s b (d.num 72 8) 128 false l →
      (let entry := natOfBytes ((indices 2).map fun j => readAt s l (d.num 72 8 + 2 * d.selfMember + j))
       (entry = s.mgmt.mid.toNat → Completes (.collect ⟨r⟩) s fun t =>
         (∃ e x, t.desc r d.index = some e ∧ e.running = true ∧ e.started = some s.time.count ∧ e.job.phase = 1 ∧
           e.job.coll = some x ∧ x.group = [(d.selfMember, s.mgmt.mid)] ∧ x.opened = [(d.selfMember, s.time.count)] ∧
           x.sendings = [] ∧ x.counted = some self) ∧ StacksStay s t ∧ t.cores = s.cores) ∧
       (entry % 4096 ≠ s.mgmt.mid.toNat → Completes (.collect ⟨r⟩) s fun t =>
         Finishes s t r d .rejectState (bytesOf 8 (0 : BitVec 64) ++ [0, 0, 0, 0] ++ [0, 0, 0, 0]) ∧ StacksStay s t ∧
           t.cores = s.cores))) ∧
    (∀ x, Works s r d b 0x04 → d.job.phase = 1 → d.job.coll = some x →
      (x.inbox = [] → (∀ e ∈ x.sendings, e.isOver d.colLen = false) → d.deadline ≠ 0 →
        d.deadline + 320000 ≤ s.time.count.toNat → Completes (.collectDeadline ⟨r, d.index⟩) s fun t =>
          ∃ e y, t.desc r d.index = some e ∧ e.ended = false ∧ e.job.coll = some y ∧
            y.counted = (if x.counted.isSome then x.counted else some (x.onTime &&& want ||| self)) ∧
            (∀ z ∈ y.sendings, z.stopped = true ∧ z.queue = []) ∧ y.summed = x.summed ∧ t.stk = s.stk ∧ t.cores = s.cores) ∧
      (∀ m (lf : Nat → Leaf) dst, x.counted = some m → x.inbox = [] → x.sendings = [] → x.summed = 0 → d.colLen = 64 →
        (m &&& ~~~want = 0) → (∀ c ∈ d.members, m.getLsbD c = true → HubMaps s b (d.contribVa c) 64 false (lf c)) →
        HubMaps s b (d.num 56 8) 64 true dst →
        Completes (.collectSum ⟨r, d.index⟩) s fun t =>
          let cs := d.members.filter fun c => m.getLsbD c
          let f := if d.num 33 1 = 0 then fp64 else fp32
          let w := if d.num 33 1 = 0 then 8 else 4
          let part (c k : Nat) : Nat := natOfBytes ((indices w).map fun j => readAt s (lf c) (d.contribVa c + w * k + j))
          let factor := if cs.length < d.members.length then some (partialFactor f (engineEnv s) d.members.length cs.length) else none
          Wrote s t dst (d.num 56 8) 64 (fun j =>
            BitVec.ofNat 8 (sumElement f (engineEnv s) factor (cs.map fun c => part c (j / w)) / 2 ^ (8 * (j % w)))) ∧
          Finishes s t r d (if cs.length < d.members.length then .partialSum else .ok)
            (bytesOf 8 m ++ [BitVec.ofNat 8 cs.length, 0, 0, 0] ++ [0, 0, 0, 0]) ∧
          (∀ c ∈ coresOf (s.bnd b).sections, ∀ v : BitVec 5, (t.core c).rv v = if v.toNat < 8 then 0 else (s.core c).rv v)) ∧
      (∀ e (c m : BitVec 6) mid stamp port, x.inbox = [] → x.sendings = [e] → e.contrib = c.toNat → e.member = m.toNat → e.naked = true → e.acked = false →
        e.stopped = false → d.deadline = 0 ∨ s.time.count.toNat < d.deadline + 320000 → x.moduleOf m.toNat = some mid →
        x.stampOf c.toNat = some stamp → s.links.holdIds.contains mid = false → routePort s mid 0 = some port →
        (s.port port).waiting = [] → (s.port port).replay.length < 512 → 0 < (s.port port).reqCredit →
        Completes (.colOpenResend ⟨r, d.index, c, m⟩) s fun t =>
          (∃ p, t.out = .packet port p :: s.out ∧ p.type = .colOpen ∧ p.dst = mid ∧ p.src = s.mgmt.mid ∧
            p.key = BitVec.ofNat 8 c.toNat ∧ p.tag = d.tag ∧
            p.payload = bytesOfNat 8 d.colLen ++ bytesOf 8 stamp ++ [BitVec.ofNat 8 (d.num 33 1)] ++ List.replicate 47 0 ∧
            ∃ z y, t.desc r d.index = some z ∧ z.job.coll = some y ∧ y.sendings = [{ e with tid := p.tid, naked := false }]) ∧
          t.stk = s.stk ∧ t.cores = s.cores))

/-- An UPDATE of one layer reads the entry and the schedule through the engine of its lowest tile and starts or rejects; with all engines
done it finishes with its bitmap and releases its cores; the last layer of an engine first writes its step to the entry. Which tile reads
the table is the choice of log entry 13. (R348, R353, R354, R355, R358, R360, R361, R362, 13_update_and_survival.md) -/
def Obligations.UpdatesReadCheckAndFinish : Prop :=
  ∀ (s : State) (r : RingId) (d : Desc) (b : BindingId),
    (∀ le ls, Starts s r d 0x05 → FreshJob s r d b → d.layerCount = 1 → (∀ i ∈ d.tiles, (lowestCore s b i).isSome = true) →
      d.tiles ≠ [] → isParked s b (.update r d.index (d.tiles.headD 0)) = false →
      runningOthers s b 0x05 r d.index = [] → runningOthers s b 0x06 r d.index = [] →
      TileMaps s (d.tiles.headD 0) b (d.entryVa d.firstLayer) 256 false le →
      let e := readList s le (d.entryVa d.firstLayer) 256
      (entryOk e = true → entStep e = d.step → d.entryVa d.firstLayer % 64 = 0 → d.tableVa % 64 = 0 →
        TileMaps s (d.tiles.headD 0) b (d.tableVa + 32 * entSched e) 32 false ls →
        schedOk (readList s ls (d.tableVa + 32 * entSched e) 32) = true →
        Completes (.update ⟨r⟩) s fun t =>
          (∃ y, t.desc r d.index = some y ∧ y.running = true ∧ y.job.phase = 1 ∧ y.job.entries = [e] ∧ y.job.bitmap = 0 ∧
            y.job.engines.map (fun w => (w.tile, w.layers)) = d.tiles.map fun i => (i, [])) ∧
          StacksStay s t ∧ t.cores = s.cores) ∧
      (entryOk e = false → d.entryVa d.firstLayer % 64 = 0 → Completes (.update ⟨r⟩) s fun t =>
        Finishes s t r d .rejectState (List.replicate 20 0) ∧ StacksStay s t)) ∧
    (Works s r d b 0x05 → d.job.phase = 1 →
      let status : Status := if d.job.bitmap = 0 then .ok else .numericFallback
      let leaves (c : CoreId) : Core := if (s.core c).ctl.layer = some (r, d.index) then
        { s.core c with ctl := { (s.core c).ctl with layer := none } } else s.core c
      ((∀ w ∈ d.job.engines, w.layers = [] ∧ w.failed = false) → Completes (.updateFinish ⟨r, d.index⟩) s fun t =>
        Finishes s t r d status (bytesOf 16 d.job.bitmap ++ [0, 0, 0, 0]) ∧ (∀ c, t.core c = leaves c) ∧ t.stk = s.stk) ∧
      (∀ w k l, d.job.engines = [w] → w.layers = [k] → w.stage = 3 → w.failed = false → w.xl = [] →
        isParked s b (.update r d.index w.tile) = false → evicting s w.tile = false →
        (let va := d.entryVa (d.firstLayer + k) + 136
         va % 64 = 8 → TileMaps s w.tile b va 8 true l →
         s.stk.wrote.get none (placeOf l va / 64) = some (s.keyOf l.key) → Completes (.updateFinish ⟨r, d.index⟩) s fun t =>
           Wrote s t l va 8 (fun j => BitVec.ofNat 8 (d.step / 2 ^ (8 * j))) ∧
           Finishes s t r d status (bytesOf 16 d.job.bitmap ++ [0, 0, 0, 0]) ∧ ∀ c, t.core c = leaves c)))

/-- A DRAIN of one 64-byte tensor writes the copy and the cleared 64-byte record after it, and waits for its breath. A RESTORE whose
record is good and lists no layer installs the derived rpos on the cores of the binding when it agrees or is forced, and else finishes
SEED_SKEW with no effect; one with a single listed layer writes STEP_DONE of its entry before it finishes. (R363, R364, R365, R348, R372,
R373, R374, 13_update_and_survival.md) -/
def Obligations.DrainsCopyAndRestoresInstall : Prop :=
  ∀ (s : State) (r : RingId) (d : Desc) (b : BindingId), FreshJob s r d b →
    (∀ le lsrc ldst src, Starts s r d 0x06 → d.layerCount = 1 → runningOthers s b 0x05 r d.index = [] →
      HubMaps s b (d.entryVa d.firstLayer) 256 false le →
      let e := readList s le (d.entryVa d.firstLayer) 256
      entryOk e = true → stepFits e d.step = true → drainTensors e d.step = [(src, 64)] → HubMaps s b src 64 false lsrc →
      HubMaps s b d.drainDst 128 true ldst → (∀ i < 64, ∀ j < 64, placeOf lsrc (src + i) ≠ placeOf ldst (d.drainDst + 64 + j)) →
      Completes (.drain ⟨r⟩) s fun t =>
        Wrote s t ldst d.drainDst 128 (fun j => if j < 64 then readAt s lsrc (src + j) else 0) ∧
        (∃ y, t.desc r d.index = some y ∧ y.running = true ∧ y.job.phase = 5 ∧ plain y.job.data = plain (readList s lsrc src 64) ∧
          y.job.counts = [64]) ∧ t.cores = s.cores ∧ t.tiles = s.tiles) ∧
    (∀ l, Starts s r d 0x0D → HubMaps s b (d.num 32 8) 64 false l → bindingRuns s b = false →
      runningOthers s b 0x05 r d.index = [] → runningOthers s b 0x06 r d.index = [] →
      let rec_ := readList s l (d.num 32 8) 64
      let restored : DWord := BitVec.ofNat 64 (d.num 56 8)
      let derived : DWord := BitVec.ofNat 64
        (entNum rec_ 8 8 + (d.num 40 8 * entNum rec_ 4 4 + d.num 48 4) * entNum rec_ 16 4)
      let ahead : Word := BitVec.ofInt 32 (max (-(2 ^ 31)) (min (2 ^ 31 - 1) (restored - derived).toInt))
      let detail := bytesOf 8 derived ++ bytesOf 8 restored ++ bytesOf 4 ahead
      let installed (t : State) : Prop := Finishes s t r d .ok detail ∧
        (∀ c, t.core c = if c ∈ coresOf (s.bnd b).sections then { s.core c with vec := { (s.core c).vec with rpos := derived } }
          else s.core c) ∧
        (t.bnd b).log = { (s.bnd b).log with lastRpos := derived }
      restoreRecordOk (s.bnd b).seed rec_ = true → d.num 48 4 < entNum rec_ 4 4 →
      (entNum rec_ 20 4 = 0 →
        (derived = restored ∨ d.raw.getLsbD 416 = true → Completes (.restore ⟨r⟩) s fun t => installed t ∧ StacksStay s t) ∧
        (derived ≠ restored → d.raw.getLsbD 416 = false → Completes (.restore ⟨r⟩) s fun t => Finishes s t r d .seedSkew detail ∧
          t.cores = s.cores ∧ t.binds = s.binds ∧ StacksStay s t)) ∧
      (∀ le lw, entNum rec_ 20 4 = 1 → derived = restored ∨ d.raw.getLsbD 416 = true →
        let entry := entNum rec_ 24 8 + 2048 + 256 * entNum rec_ 32 4
        HubMaps s b entry 256 false le → entryOk (readList s le entry 256) = true → HubMaps s b (entry + 128) 64 true lw →
        s.stk.wrote.get none (placeOf lw (entry + 136) / 64) = some (s.keyOf lw.key) →
        Completes (.restore ⟨r⟩) s fun t => installed t ∧
          Wrote s t lw (entry + 136) 8 (fun j => BitVec.ofNat 8 ((d.num 40 8 + 2 ^ 64 - 1) % 2 ^ 64 / 2 ^ (8 * j)))))

/-- A LOGMARK without an input range writes the 64-byte record to its slot and advances the log of the binding; an automatic one stores
its fields for the launches that follow. The detail of its completion is the choice of log entry 15. (R366, R367, R368, R50, R314,
13_update_and_survival.md) -/
def Obligations.LogmarksWriteOrArm : Prop :=
  ∀ (s : State) (r : RingId) (d : Desc) (b : BindingId), FreshJob s r d b → Starts s r d 0x07 →
    let g := (s.bnd b).log
    let va : DWord := BitVec.ofNat 64 (d.num 32 8)
    let size : BitVec 8 := BitVec.ofNat 8 (d.num 40 1)
    let n := if va = g.va ∧ size = g.size then g.n else 0
    let place := (va + BitVec.ofNat 64 (64 * (n % 2 ^ size.toNat))).toNat
    let record := bytesOf 8 s.time.count ++ bytesOfNat 8 (d.num 48 8) ++ bytesOfNat 4 (d.num 44 4) ++ bytesOfNat 2 (d.num 42 2) ++
      bytesOfNat 2 (d.num 68 2) ++ bytesOf 8 g.lastRpos ++ shake256 16 [] ++ List.replicate 8 0 ++
      bytesOfNat 4 n ++ bytesOfNat 4 ((1 - n / 2 ^ size.toNat % 2) * 2 ^ 31)
    (∀ l, d.logAuto = false → d.num 64 4 = 0 → (∀ x ∈ s.allDescs, x.2.job.log = none) → HubMaps s b place 64 true l →
      Completes (.logmark ⟨r⟩) s fun t =>
        Wrote s t l place 64 (fun j => record.getD j 0) ∧ Finishes s t r d .ok (bytesOfNat 8 64 ++ [0, 0, 0, 0]) ∧
        (t.bnd b).log = { g with va := va, size := size, n := n + 1, ticket := g.ticket + 1, arm := none } ∧ t.cores = s.cores) ∧
    (d.logAuto = true → Completes (.logmarkAuto ⟨r⟩) s fun t =>
      (∃ a, (t.bnd b).log = { g with va := va, size := size, n := n, arm := some a } ∧ a.step = BitVec.ofNat 64 (d.num 48 8) ∧
        a.microbatch = BitVec.ofNat 32 (d.num 44 4) ∧ a.contrib = BitVec.ofNat 16 (d.num 42 2) ∧
        a.seedKey = BitVec.ofNat 16 (d.num 68 2) ∧ a.inputVa = BitVec.ofNat 64 (d.num 56 8) ∧
        a.inputCount = BitVec.ofNat 32 (d.num 64 4) ∧ a.k = 0) ∧
      Finishes s t r d .ok (List.replicate 12 0) ∧ t.stk = s.stk ∧ t.cores = s.cores)

/-- INV drops exactly the TLB and walk-cache entries of its binding in range and marks the translations that are in use; L2F drops the
sectors of its sections in range; retirement goes on once nothing dropped is in use; RESUME and DECLINE answer the park with the fault
number, the latter by a fault on the queue head. That the notice of a RESUME needs a running thread too is the reading of log entry 25;
the marks of withdrawn translations are that of log entry 26. (R278, R285, R286, R292, R293, R117, R251, 10_translation.md) -/
def Obligations.XsyncsInStages : Prop :=
  ∀ (s : State) (r : RingId) (d : Desc) (b : BindingId),
    let reaches (t : State) (n : Nat) : Prop := ∃ y, t.desc r d.index = some y ∧ y.running = true ∧ y.job.phase = n
    let counted (k : Nat) : List Byte := (indices 4).flatMap fun i => bytesOfNat 4 (min (d.job.counts.getD i 0 + (if i = k then 1 else 0))
      (2 ^ 32 - 1))
    (Starts s r d 0x08 → d.binding = some b → d.job = .reset →
      (d.xInv = true → Completes (.inv ⟨r⟩) s fun t => reaches t (if d.xFlush then 1 else 2) ∧
        (∀ c, (∀ e, e ∈ (t.core c).mem.tlb ↔ e ∈ (s.core c).mem.tlb ∧
            ¬(c ∈ coresOf (s.bnd b).sections ∧ e.binding = b ∧ d.drops e.leaf = true)) ∧
          (let k := s.core c
           let aged (l : List Leaf) : List Leaf := if c ∈ coresOf (s.bnd b).sections then l.map d.ages else l
           t.core c = { k with
             mem := { k.mem with tlb := (t.core c).mem.tlb, mbuf := k.mem.mbuf.map fun e => { e with leaves := aged e.leaves } }
             vec := { k.vec with started := k.vec.started.map fun x => { x with xl := aged x.xl } }
             mat := { k.mat with started := k.mat.started.map fun x => { x with xl := aged x.xl } } })) ∧
        (∀ n, Dropped d b (s.tile n).walker (t.tile n).walker ∧ t.tile n = { s.tile n with
          walker := (t.tile n).walker
          fills := (s.tile n).fills.map fun f =>
            if f.binding = some b then { f with users := f.users.map fun u => (u.1, d.ages u.2) } else f }) ∧
        t.hub.reqs = (s.hub.reqs.map fun q => if q.binding = some b then { q with leaf := q.leaf.map d.ages } else q) ∧
        Dropped d b s.hub.walker t.hub.walker ∧ t.stk = s.stk) ∧
      (d.xInv = false → d.xDecline = true → Completes (.inv ⟨r⟩) s fun t => reaches t 3 ∧ t.cores = s.cores ∧ t.tiles = s.tiles) ∧
      (d.xInv = false → d.xDecline = false → d.xResume = true → Completes (.inv ⟨r⟩) s fun t => reaches t 4 ∧ t.cores = s.cores ∧
        t.tiles = s.tiles) ∧
      (d.xInv = false → d.xDecline = false → d.xResume = false → Completes (.inv ⟨r⟩) s fun t =>
        Finishes s t r d .ok (List.replicate 16 0) ∧ t.cores = s.cores ∧ t.tiles = s.tiles)) ∧
    (xsyncAt s r 1 = some (d, b) → s.desc r d.index = some d → (∀ n, (s.tile n).sectors.wf none = true) → Completes (.l2f ⟨r⟩) s fun t =>
      let hit (line : Nat) : Prop := d.xAll = true ∨ d.num 48 8 < 64 * line + 64 ∧ 64 * line < d.num 48 8 + d.xLen
      reaches t 2 ∧
      (∀ (n : TileId) line x, (s.tile n).sector line = some x → (s.bnd b).sections.getLsbD (4 * n.toNat + x.slice.toNat) = true → hit line →
        (t.tile n).sector line = none) ∧
      (∀ (n : TileId) line x, (s.tile n).sector line = some x →
        ¬((s.bnd b).sections.getLsbD (4 * n.toNat + x.slice.toNat) = true ∧ hit line) → (t.tile n).sector line = some x) ∧
      ∀ (n : TileId) line, (s.tile n).sector line = none → (t.tile n).sector line = none) ∧
    (xsyncAt s r 2 = some (d, b) → s.desc r d.index = some d → holdsDropped s b r d = false →
      (d.xDecline = true → Completes (.xsyncRetirement ⟨r⟩) s fun t => reaches t 3 ∧ t.cores = s.cores ∧ t.stk = s.stk) ∧
      (d.xDecline = false → d.xResume = true → Completes (.xsyncRetirement ⟨r⟩) s fun t => reaches t 4 ∧ t.cores = s.cores ∧
        t.stk = s.stk) ∧
      (d.xDecline = false → d.xResume = false → Completes (.xsyncRetirement ⟨r⟩) s fun t =>
        Finishes s t r d .ok (d.job.counts.flatMap fun n => bytesOfNat 4 (min n (2 ^ 32 - 1))) ∧ t.cores = s.cores ∧ t.stk = s.stk)) ∧
    (∀ p c, xsyncAt s r 4 = some (d, b) → s.desc r d.index = some d → d.num 60 2 = 1 →
      (parkedOn s b (BitVec.ofNat 32 (d.num 56 4)) = [] → Completes (.resume ⟨r⟩) s fun t => Finishes s t r d .ok (counted 2) ∧
        t.binds = s.binds ∧ t.cores = s.cores) ∧
      (parkedOn s b (BitVec.ofNat 32 (d.num 56 4)) = [p] → p.who = .vector c → p.park.aside = false →
        Completes (.resume ⟨r⟩) s fun t => Finishes s t r d .ok (counted 0) ∧ isParked t b (.vector c) = false ∧
          (∀ w, w ≠ .vector c → isParked t b w = isParked s b w) ∧
          (let th := s.thread c 0
           let noted := if th.run = true ∧ th.eien.getLsbD 19 = true then some (BitVec.ofNat 32 (d.num 56 4)) else th.rsmPend
           t.thread c 0 = { th with rsmPend := noted }) ∧ t.stk = s.stk)) ∧
    (∀ p c i q, xsyncAt s r 3 = some (d, b) → s.desc r d.index = some d → d.num 68 2 = 1 → d.xResume = false →
      (parkedOn s b (BitVec.ofNat 32 (d.num 64 4)) = [] → Completes (.decline ⟨r⟩) s fun t => Finishes s t r d .ok (counted 2) ∧
        t.binds = s.binds ∧ t.cores = s.cores) ∧
      (parkedOn s b (BitVec.ofNat 32 (d.num 64 4)) = [p] → p.who = .vector c → p.park.aside = false →
        (s.core c).vec.started = [] → (s.core c).vec.queue = i :: q → Completes (.decline ⟨r⟩) s fun t =>
          Finishes s t r d .ok (counted 1) ∧ isParked t b (.vector c) = false ∧
          t.core c = { s.core c with
            vec := { (s.core c).vec with queue := q, started := [VRun.fresh i] }
            causes := (s.core c).causes ++ [⟨false, if p.park.write then 6 else 5, 5, p.park.va, true, i.pc⟩] } ∧ t.stk = s.stk))

/-- A BIND claims sections, ports, plots and slots and becomes BOUND; an UNBIND ends its queues, stops its cores at a boundary, drops its
faults and, once quiet, scrubs and releases all with fresh keys for its slots and resets its cores; its timeout cuts what still runs;
REKEY installs the unwrapped key under the current KEK or is rejected, and RETIRE_ONLY a fresh one, in its own slot only. The two SCRUB
stages, UNBIND by its commands, what a failed BIND keeps and the record as an operand are the choices of log entry 23. (R331, R332, R334,
R335, R336, R338, R339, R341, R342, R343, R344, R345) -/
def Obligations.BindsKeysAndUnbinds : Prop :=
  (
    ∀ (s : State) (r : RingId) (d : Desc) (b : BindingId),
      let x := s.bnd b
      let slots := bindSlots d
      (Starts s r d 0x09 → FreshJob s r d b → bindFormat s b d = true → bindFree s b d = true → d.stubLen = 0 → slots.Nodup →
        Completes (.bind ⟨r⟩) s fun t =>
          t.bnd b = { x with
            state := .binding, stamp := s.time.count, sections := BitVec.ofNat 64 (d.num 32 8), ports := BitVec.ofNat 18 (d.num 72 3)
            il := BitVec.ofNat 2 (d.num 75 1), plots := BitVec.ofNat 256 (d.num 40 32), keys := slots
            seed := BitVec.ofNat 64 (d.num 88 8), log := .reset } ∧
          (∀ a, a ≠ b → t.bnd a = s.bnd a) ∧
          (∀ k, t.slot k = if k ∈ slots then { s.slot k with owned := true, binding := b } else s.slot k) ∧
          (∀ c, t.core c = if c ∈ coresOf (BitVec.ofNat 64 (d.num 32 8)) then
            { s.core c with ctl := { (s.core c).ctl with xcfg := ⟨true, b, BitVec.ofNat 2 (d.num 75 1), false⟩ } } else s.core c) ∧
          (∃ e, t.desc r d.index = some e ∧ e.running = true) ∧ t.stk = s.stk) ∧
      (Starts s r d 0x09 → FreshJob s r d b → bindFormat s b d = false → Completes (.bind ⟨r⟩) s fun t =>
        Finishes s t r d .rejectFormat [] ∧ t.binds = s.binds ∧ t.slots = s.slots ∧ t.cores = s.cores) ∧
      (s.desc r d.index = some d → d.opcode = 0x09 → d.running = true → d.binding = some b → isParked s b (.job r d.index) = false →
        (d.job.err = false → d.stubLen ≤ d.job.pos → Completes (.bindFinish ⟨r, d.index⟩) s fun t =>
          Finishes s t r d .ok [] ∧ t.bnd b = { x with state := .bound, stamp := s.time.count } ∧ (∀ a, a ≠ b → t.bnd a = s.bnd a) ∧
          t.cores = s.cores ∧ t.slots = s.slots) ∧
        (d.job.err = true → Completes (.bindFinish ⟨r, d.index⟩) s fun t =>
          Finishes s t r d .hwError [] ∧ t.bnd b = { x with state := .scrubbing, stamp := s.time.count } ∧
          ∀ a, a ≠ b → t.bnd a = s.bnd a)) ∧
      (Starts s r d 0x0A → d.binding = some b → x.parks = [] → runningOf s b = [] → Completes (.unbind ⟨r⟩) s fun t =>
        let y := t.bnd b
        y.state = .quiescing ∧ y.stamp = s.time.count ∧ y.unbind = some (r, d.index) ∧ y.cutDone = false ∧ y.parks = [] ∧
          y.xlat.coll = [] ∧ y.xlat.hold = [] ∧ y.log.arm = none ∧ y.sections = x.sections ∧ y.plots = x.plots ∧ y.keys = x.keys ∧
          y.faultsDropped = BitVec.ofNat 32 (min (x.xlat.coll.length + x.xlat.hold.length) (2 ^ 32 - 1)) ∧
          (∀ c ∈ coresOf x.sections,
            let k := s.core c
            let k' := t.core c
            (∀ h, (t.thread c h).patchQ = []) ∧ k'.vec.queue = [] ∧ k'.mat.queue = [] ∧
            (pmOf s c = false → k'.vec.started = [] ∧ k'.mat.started = []) ∧
            (k'.ctl.stopping = true ∨ k'.vec.started = [] ∧ k'.mat.started = [] ∧ ∀ h, (t.thread c h).run = false) ∧
            ((∀ h, (s.thread c h).blocked = none) → k.vec.started = [] → k.mat.started = [] → k'.ctl.stopping = false)) ∧
          ∃ e, t.desc r d.index = some e ∧ e.running = true) ∧
      (x.state = .quiescing → x.cutDone = false → runningOf s b = [] → (∀ c ∈ coresOf x.sections, (s.core c).ctl.stopping = false) →
        Completes (.unbindTimeout ⟨b⟩) s fun t =>
        t = { s with binds := t.binds } ∧ (∀ a, a ≠ b → t.bnd a = s.bnd a) ∧
        t.bnd b = { x with
          cutDone := true, cutCount := 0, aborted := 0, parks := [], xlat := { x.xlat with coll := [], hold := [] } }) ∧
      (x.state = .quiescing → x.cutDone = false → Completes (.unbindTimeout ⟨b⟩) s fun t => (t.bnd b).cutDone = true ∧
        (t.bnd b).cutCount = (runningOf s b).length ∧ (t.bnd b).parks = [] ∧
        ∀ c ∈ coresOf x.sections, (s.core c).ctl.stopping = true → (t.core c).ctl.stopping = false ∧ (t.core c).vec.started = [] ∧
          (t.core c).mat.started = [] ∧ ∀ h, (t.thread c h).run = false) ∧
      (computeOn s = true → x.state = .quiescing → quiet s b = true → Completes (.scrub ⟨b⟩) s fun t =>
        t = { s with binds := t.binds } ∧ (∀ a, a ≠ b → t.bnd a = s.bnd a) ∧
        t.bnd b = { x with state := .scrubbing, stamp := s.time.count }) ∧
      (computeOn s = true → x.state = .scrubbing → x.unbind = some (r, d.index) → s.desc r d.index = some d →
        d.opcode = 0x0A → d.running = true → x.keys.Nodup → Completes (.scrub ⟨b⟩) s fun t =>
          Finishes s t r d .ok (bytesOfNat 4 x.cutCount) ∧
          t.bnd b = { Binding.reset with stamp := s.time.count, faultsDropped := x.faultsDropped, aborted := x.aborted } ∧
          (∀ a, a ≠ b → t.bnd a = s.bnd a) ∧ (∀ c ∈ coresOf x.sections, t.core c = .reset) ∧
          (∀ k ∈ x.keys, (t.slot k).owned = false ∧ (t.slot k).src = 0 ∧ (t.slot k).changes = satAdd (s.slot k).changes 1 ∧
            (t.slot k).stamp = s.time.count ∧ ∃ n, s.nextKey ≤ n ∧ n < t.nextKey ∧ (t.slot k).key = some (.fresh n)) ∧
          (∀ k ∈ x.keys, ∀ j ∈ x.keys, (t.slot k).key = (t.slot j).key → k = j) ∧ (∀ k, k ∉ x.keys → t.slot k = s.slot k) ∧
          (∀ a : BindingId, t.err.bind.getLsbD a.toNat = (decide (a ≠ b) && s.err.bind.getLsbD a.toNat)) ∧ t.stk = s.stk) ∧
      (∀ q, s.hub.reqs.find? (fun y => y.id == q.id) = some q → q.binding = some b → x.state = .quiescing → x.cutDone = true →
        paRegion q.pa = 1 → q.data = none → Completes (.hostRetireTimeout ⟨q.id⟩) s fun t =>
          t.hub.reqs = s.hub.reqs.filter (fun y => y.id != q.id) ∧ t.err.bind.getLsbD b.toNat = true ∧
          t.err.cnt.get 0 2 = satAdd (s.err.cnt.get 0 2) 1 ∧
          (∃ e, t.err.formed = s.err.formed ++ [e] ∧ e.code = 0x0022 ∧ e.cls = 2 ∧ e.binding = b.setWidth 16 ∧
            e.addr = BitVec.ofNat 64 (paOffset q.pa)) ∧ t.binds = s.binds ∧ t.cores = s.cores)) ∧
  (
    ∀ (s : State) (r : RingId) (d : Desc) (b : BindingId) (record : Option (BitVec 640)), Starts s r d 0x0B → d.binding = some b →
      let k : SlotId := BitVec.ofNat 8 (d.num 32 1)
      let x := s.slot k
      let others (t : State) : Prop := (∀ j, j ≠ k → t.slot j = s.slot j) ∧ t.binds = s.binds ∧ t.stk = s.stk ∧ t.cores = s.cores
      (k ∈ (s.bnd b).keys →
        (d.retireOnly = true → Completes (.retireOnly ⟨r⟩) s fun t => Finishes s t r d .ok [] ∧
          t.slot k = { x with key := some (.fresh s.nextKey), src := 0, changes := satAdd x.changes 1, stamp := s.time.count } ∧
          t.nextKey = s.nextKey + 1 ∧ others t) ∧
        (d.retireOnly = false →
          (∀ v kek, record = some v → bitsOf v.toNat 0 16 = 1 → bitsOf v.toNat 16 16 = 0 →
            bitsOf v.toNat 32 32 = s.mgmt.kekGen.toNat → s.mgmt.kek = some kek → Completes (.rekey ⟨r, record⟩) s fun t => others t ∧
              match keyUnwrap (bytesOf 32 kek) (bytesOfNat 72 (v.toNat / 2 ^ 64)) with
              | some key => Finishes s t r d .ok [] ∧ t.slot k =
                  { x with key := some (.unwrapped (BitVec.ofNat 512 (natOfBytes key))), src := 1, changes := satAdd x.changes 1, stamp := s.time.count }
              | none => Finishes s t r d .rejectState [] ∧ t.slot k = x) ∧
          (record = none ∨ s.mgmt.kek = none → Completes (.rekey ⟨r, record⟩) s fun t => Finishes s t r d .rejectState [] ∧
            t.slot k = x ∧ others t))) ∧
      (k ∉ (s.bnd b).keys →
        (d.retireOnly = true → Completes (.retireOnly ⟨r⟩) s fun t => Finishes s t r d .rejectState [] ∧
          t.slots = s.slots ∧ others t) ∧
        (d.retireOnly = false → Completes (.rekey ⟨r, record⟩) s fun t => Finishes s t r d .rejectState [] ∧
          t.slots = s.slots ∧ others t)))

/-- The state of a port follows Table 14-1 on training, loss, detection, PORT_CTL and lane failures, and reading PORT_ERR clears what it
read. An acknowledgement drops what it covers, a credit lets the waiting packet go, a replay request re-sends from its packet, the
sixteenth asks for training. A step that the peer of lower id announces is followed. A changed route is held and released when the old set
is acknowledged. LSEQ 0 and RETRAINS after training are the choices of log entry 27, credits, repeated requests and corrections those of
entry 46. (R375, R377, R378, R379, R380, R381, R382, R383, R411, R450, R454, 14_peer_links_and_collectives.md) -/
def Obligations.PortsAndTheLinkLayer : Prop :=
  (
    ∀ (s : State) (i : BitVec 5), portWf i = true →
      let p := s.port i
      let others (t : State) : Prop := ∀ j, j ≠ i → t.port j = s.port j
      let held (t : State) : Prop := ∀ m ∈ routedOver s i, m ∈ t.links.holdIds
      let trained := if p.trained then satAdd p.retrains 1 else p.retrains
      (p.state = .training →
        (∀ peer port, (∀ j, (s.port j).waiting = []) → Completes (.portTrainingDone ⟨i, peer, port⟩) s fun t => others t ∧ held t ∧
          t.port i = { p with
            state := .up, peerMid := peer, peerPort := port, trained := true, retrains := trained, fails := 0, txSeq := 0, rxSeq := 0
            failedLane := s.spares.laneOf i, naks := none, asks := none } ∧
          t.out = .link i (BitVec.allOnes 12) none (Config.portCredits false) (Config.portCredits true) :: s.out ∧
          t = { s with links := t.links, out := t.out }) ∧
        Completes (.trainingFailure ⟨i⟩) s (fun t => OnlyPort s t i { p with
          trained := true, retrains := trained, fails := p.fails + 1, state := if 3 ≤ p.fails + 1 then .failed else .training }) ∧
        Completes (.peerSignalLoss ⟨i⟩) s (fun t => OnlyPort s t i (LeftUp p .down))) ∧
      (p.state = .up → p.replay = [] → (∀ j, (s.port j).waiting = []) → Completes (.peerSignalLoss ⟨i⟩) s fun t => others t ∧ held t ∧
        t.port i = LeftUp p .down ∧ t = { s with links := t.links }) ∧
      (p.state = .down → p.en = true → s.mgmt.mid ≠ 0xFFF → s.mod.state ∈ [ModState.selftest, .service, .serving, .draining] →
        Completes (.peerSignalDetect ⟨i⟩) s fun t => OnlyPort s t i { p with state := .training }) ∧
      (∀ v, bar0Open s = true →
        (v.getLsbD 0 = false → p.state ≠ .up → Completes (.portCtl ⟨i, v⟩) s fun t =>
          OnlyPort s t i { LeftUp p .off with en := false }) ∧
        (v.getLsbD 0 = true → p.en = false → Completes (.portCtl ⟨i, v⟩) s fun t => ∃ n, OnlyPort s t i
          { p with en := true, fails := 0, state := n } ∧
            (s.mgmt.mid ≠ 0xFFF → s.mod.state ∈ [ModState.selftest, .service, .serving, .draining] → n = .training)) ∧
        (v.getLsbD 0 = true → p.en = true → Completes (.portCtl ⟨i, v⟩) s fun t => t = s)) ∧
      (barsAnswer s = true →
        (Completes (.portErr ⟨i, true, true⟩) s fun t =>
          t.out = .bar0 (p.fecCorr ++ p.retries ++ p.retrains) :: s.out ∧
            OnlyPort s { t with out := s.out } i { p with fecCorr := 0, retries := 0, retrains := 0 }) ∧
        (Completes (.portErr ⟨i, true, false⟩) s fun t =>
          t.out = .bar0 ((p.retries ++ p.retrains).setWidth 64) :: s.out ∧
            OnlyPort s { t with out := s.out } i { p with retries := 0, retrains := 0 })) ∧
      (∀ lane : BitVec 4, computeOn s = true → lane.toNat < 8 → (s.cal.groups.get .reset (groupKey 2 i.toNat)).step = none →
        (s.spares.laneOf i = none → laneOut s 2 i.toNat 8 = false → Completes (.laneFailure ⟨i, lane⟩) s fun t => others t ∧
          t.port i = { p with failedLane := some lane } ∧ t.spares.laneOf i = some lane ∧
          (∃ e ∈ t.err.formed, e.cls = 4 ∧ e.code = 0x0040 ∧ e.unit = i.setWidth 16 ∧ e.seq = s.err.seq) ∧ t.err.degraded = true) ∧
        (p.state ≠ .up → (∃ l, s.spares.laneOf i = some l ∧ l ≠ lane) ∨ s.spares.laneOf i = none ∧ laneOut s 2 i.toNat 8 = true →
          Completes (.laneFailure ⟨i, lane⟩) s fun t => others t ∧ t.port i = LeftUp p .failed ∧
            Recorded s t 4 0x0041 (i.setWidth 16)))) ∧
  (
    ∀ (s : State) (i : BitVec 5), portWf i = true →
      let p := s.port i
      let still := ∀ j, (s.port j).waiting = []
      (p.state = .up → s.allDescs = [] → p.waiting = [] → (s.time.count - p.secStart).toNat < 16000000000 →
        ∀ requests responses fec : Nat, p.secCorr + fec ≤ 1000 →
        let news := { p with
          secCorr := p.secCorr + fec
          reqCredit := p.reqCredit + requests, rspCredit := p.rspCredit + responses, fecCorr := satAdd p.fecCorr fec }
        (∀ pre x post ack, p.replay = pre ++ x :: post → x.lseq = ack → (∀ y ∈ pre, y.lseq ≠ ack) →
          Completes (.link ⟨i, ack, none, requests, responses, fec, none⟩) s fun t => OnlyPort s t i { news with replay := post, naks := none }) ∧
        (∀ pre x post ack, p.replay = pre ++ x :: post → (∀ y ∈ pre, y.lseq ≠ x.lseq) → (∀ y ∈ p.replay, y.lseq ≠ ack) →
          p.secReplays + 512 ≤ 1000 → post.length < 512 → (∀ n, p.naks = some (x.lseq, n) → n < 15) →
          Completes (.link ⟨i, ack, some x.lseq, requests, responses, fec, none⟩) s fun t =>
            t.out = ((x :: post).map fun q => Output.packet i { q with ack := p.rxSeq - 1 }).reverse ++ s.out ∧
            (t.port i).replay = p.replay ∧ (t.port i).retries = satAdd p.retries (post.length + 1) ∧
            (t.port i).state = .up ∧ (∀ j, j ≠ i → t.port j = s.port j) ∧ t.err = s.err)) ∧
      (∀ x b r, p.state = .up → s.allDescs = [] → p.waiting = [⟨classOf s x b, x, b⟩] → p.replay = r → r.length < 512 → isRequest x.type = true →
        p.reqCredit = 0 → (∀ y ∈ r, y.lseq ≠ p.txSeq) →
        Completes (.link ⟨i, p.txSeq, none, 1, 0, 0, none⟩) s fun t =>
          t.out = .packet i { x with lseq := p.txSeq, ack := p.rxSeq - 1 } :: s.out ∧ (t.port i).waiting = [] ∧
          (t.port i).reqCredit = 0 ∧ (t.port i).txSeq = p.txSeq + 1 ∧
          (t.port i).replay = r ++ [{ x with lseq := p.txSeq, ack := p.rxSeq - 1 }] ∧ ∀ j, j ≠ i → t.port j = s.port j) ∧
      (∀ ack (lane : BitVec 4), p.state = .up → s.allDescs = [] → p.waiting = [] → p.replay = [] →
        (s.time.count - p.secStart).toNat < 16000000000 →
        let g := s.cal.groups.get .reset (groupKey 2 i.toNat)
        let follows := (s.mod.state = .service ∨ s.mod.state = .serving) ∧ p.peerMid.toNat < s.mgmt.mid.toNat ∧ s.cal.en.getLsbD 1 = true ∧
          lane.toNat < 9 ∧ g.step = none ∧ laneOut s 2 i.toNat lane.toNat = false
        (follows → Completes (.link ⟨i, ack, none, 0, 0, 0, some lane⟩) s fun t => t = { s with cal := t.cal, links := t.links } ∧
          t.cal.groups.get .reset (groupKey 2 i.toNat) = { g with step := some (lane.setWidth 6), next := lane.setWidth 6 + 1 } ∧
          laneOf t 2 i.toNat lane.toNat = { laneOf s 2 i.toNat lane.toNat with active := true } ∧
          t.port i = { p with calLane := some lane } ∧ ∀ j, j ≠ i → t.port j = s.port j) ∧
        (¬follows → Completes (.link ⟨i, ack, none, 0, 0, 0, some lane⟩) s fun t => t.cal = s.cal ∧ (t.port i).calLane = p.calLane)) ∧
      (∀ lseq, p.state = .up →
        ((∀ n, p.asks = some (lseq, n) → n < 15) → Completes (.crcFailure ⟨i, lseq⟩) s fun t =>
          t.out = .link i (p.rxSeq - 1) (some lseq) 0 0 :: s.out ∧
          ∃ n, OnlyPort s { t with out := s.out } i { p with asks := some (lseq, n) } ∧
            n = (match p.asks with | some (l, k) => if l = lseq then k + 1 else 1 | none => 1)) ∧
        (∀ n, p.asks = some (lseq, n) → 15 ≤ n → p.replay = [] → p.waiting = [] → Completes (.crcFailure ⟨i, lseq⟩) s fun t =>
          t.out = .link i (p.rxSeq - 1) (some lseq) 0 0 :: s.out ∧ t.port i = LeftUp p .training ∧
            ∀ m ∈ routedOver s i, m ∈ t.links.holdIds)) ∧
      (∀ v, bar0Open s = true →
        let m := s.links.sel
        let new : Route := ⟨v.getLsbD 31, v.setWidth 18⟩
        (s.links.routes.get .reset m.toNat = new → Completes (.routeData ⟨v⟩) s fun t => t = s) ∧
        (s.links.routes.get .reset m.toNat ≠ new → still → Completes (.routeData ⟨v⟩) s fun t =>
          t.links.routes.get .reset m.toNat = new ∧ (∀ k, k ≠ m.toNat → t.links.routes.get .reset k = s.links.routes.get .reset k) ∧
          m ∈ t.links.holdIds ∧ (∀ k ∈ s.links.holdIds, k ∈ t.links.holdIds) ∧ (∀ j, t.port j = s.port j) ∧
          t = { s with links := t.links })) ∧
      (s.allDescs = [] → (∀ x ∈ s.links.held, x.dst ∉ s.links.holdIds.filter fun m =>
          !(s.links.oldSent.filter (unacked s)).any fun y => decide (y.1 = m)) →
        Completes .routeHoldRelease s fun t =>
          (∀ m, m ∈ t.links.holdIds ↔ m ∈ s.links.holdIds ∧ ∃ y ∈ s.links.oldSent, y.1 = m ∧ unacked s y = true) ∧
          t.links.held = s.links.held ∧ t.links.ports = s.links.ports ∧ t.out = s.out ∧ t = { s with links := t.links }))

/-- A read returns the unit with its poison, once per TID; a write stores its masked bytes once per TID and is acknowledged; an invalid
address answers ERR_CPL; answers and timeouts retire the request that they name, a failed read with poisoned bytes and a record. A packet
for another module goes on with HOPS + 1 or, at 7, is refused. That a read performed before gets no second answer is the choice of log
entry 28, the LINK packet with each packet accepted that of entry 46. (R379, R380, R382, R383, R384, R386, R387, R265, R277,
14_peer_links_and_collectives.md) -/
def Obligations.RemoteAccesses : Prop :=
  ∀ (s : State) (i back : BitVec 5) (p : Packet) (fec : Nat),
    let a := stackAddr p.addr.toNat
    let home := p.addr.toNat < 2 ^ 48 ∧ palvanValid p.addr.toNat = true ∧ p.addr.toNat % 64 = 0 ∧ p.size = 1 ∧ channelLost s a = false
    let masked (t : State) : Prop := (∀ j < 64, p.mask.getLsbD j = true → t.stk.mem.read (a + j) = p.payload.getD j 0) ∧
      ∀ y, y < a ∨ a + 64 ≤ y → t.stk.mem.read y = s.stk.mem.read y
    (Served s i p back →
      (p.type = .rd → home →
        ((s.hub.performed.get [] p.src.toNat).contains p.tid = false → Completes (.rd ⟨i, p, fec⟩) s fun t =>
          Answered s t i p back .rdCpl (unitBytes s (s.keyOf p.key) a) (s.stk.psn.get false (a / 64)) ∧ StacksStay s t ∧
          t.cores = s.cores ∧ t.tiles = s.tiles ∧ p.tid ∈ t.hub.performed.get [] p.src.toNat) ∧
        ((s.hub.performed.get [] p.src.toNat).contains p.tid = true → Completes (.rd ⟨i, p, fec⟩) s fun t =>
          t.out = .link i p.lseq none 1 0 :: s.out ∧ t.stk = s.stk ∧ t.cores = s.cores ∧ t.tiles = s.tiles)) ∧
      (p.type = .wr → home → p.payload.length = 64 →
        ((s.hub.performed.get [] p.src.toNat).contains p.tid = false → Completes (.wr ⟨i, p, fec⟩) s fun t =>
          Answered s t i p back .wrAck [] false ∧ masked t ∧ t.cores = s.cores ∧ t.tiles = s.tiles ∧
          p.tid ∈ t.hub.performed.get [] p.src.toNat) ∧
        ((s.hub.performed.get [] p.src.toNat).contains p.tid = true → Completes (.wr ⟨i, p, fec⟩) s fun t =>
          Answered s t i p back .wrAck [] false ∧ t.stk = s.stk)) ∧
      (palvanValid p.addr.toNat = false ∨ 2 ^ 48 ≤ p.addr.toNat →
        (p.type = .rd → Completes (.rd ⟨i, p, fec⟩) s fun t => Answered s t i p back .errCpl [] false ∧ t.stk = s.stk) ∧
        (p.type = .wr → Completes (.wr ⟨i, p, fec⟩) s fun t => Answered s t i p back .errCpl [] false ∧ t.stk = s.stk)) ∧
      (∀ q c, Still s → p.type = .rdCpl → requestOf s p.src p.tid false = some q → q.who = .vector c →
        s.hub.reqs.find? (fun y => y.id == q.id) = some q → Completes (.rdCpl ⟨i, p, fec⟩) s fun t =>
          t.hub.reqs.find? (fun y => y.id == q.id) =
            some { q with data := some (marked p.psn ((p.payload ++ List.replicate q.len 0).take q.len)) } ∧
          t.cores = s.cores ∧ t.stk = s.stk ∧ t.out = .link i p.lseq none 0 1 :: s.out) ∧
      (∀ q c e, Still s → p.type = .wrAck → requestOf s p.src p.tid true = some q → q.who = .mbuf c →
        (s.core c).mem.mbuf = [e] → e.drain = true → e.begun = true → e.attr ≠ 0 → paRegion (BitVec.ofNat 64 (e.line * 64)) ≠ 3 →
        (∀ y ∈ s.hub.reqs, y.who = .mbuf c → y.data = none → y.id = q.id) →
        Completes (.wrAck ⟨i, p, fec⟩) s fun t => t.hub.reqs = s.hub.reqs.filter (fun y => y.id != q.id) ∧
          t.core c = { s.core c with mem := { (s.core c).mem with mbuf := [] } } ∧ (∀ k, k ≠ c → t.core k = s.core k) ∧
          t.stk = s.stk ∧ t.out = .link i p.lseq none 0 1 :: s.out) ∧
      (∀ q c, Still s → p.type = .errCpl → requestOf s p.src p.tid false = some q → q.who = .vector c →
        s.hub.reqs.find? (fun y => y.id == q.id) = some q → Completes (.errCpl ⟨i, p, fec⟩) s fun t =>
          t.hub.reqs.find? (fun y => y.id == q.id) = some { q with data := some (List.replicate q.len (0, true)) } ∧
          Recorded s t 1 0x0013 (match q.port with | some n => n.setWidth 16 | none => 0xFFFF) ∧ t.cores = s.cores ∧ t.stk = s.stk)) ∧
    (portWf i = true → (s.port i).state = .up → (s.port i).waiting = [] → p.lseq = (s.port i).rxSeq → p.dst ≠ s.mgmt.mid →
      p.size.toNat < 5 →
      ∀ c ∈ ([(PacketType.rd, Instr.rd ⟨i, p, fec⟩), (.wr, .wr ⟨i, p, fec⟩), (.rdCpl, .rdCpl ⟨i, p, fec⟩), (.wrAck, .wrAck ⟨i, p, fec⟩),
          (.errCpl, .errCpl ⟨i, p, fec⟩), (.colOpen, .colOpen ⟨i, p, fec⟩), (.colData, .colData ⟨i, p, fec⟩), (.colNak, .colNak ⟨i, p, fec⟩)] :
          List (PacketType × Instr)), p.type = c.1 →
        (p.hops.toNat < 7 → (isRequest p.type = true → s.links.holdIds.contains p.dst = false) →
          ∀ on_, routePort s p.dst p.addr.toNat = some on_ → (s.port on_).waiting = [] → (s.port on_).replay.length < 512 →
          0 < (if isRequest p.type then (s.port on_).reqCredit else (s.port on_).rspCredit) → Completes c.2 s fun t =>
          (∃ n m, t.out = .packet on_ { p with hops := p.hops + 1, lseq := n, ack := m } ::
            .link i p.lseq none (if isRequest p.type then 1 else 0) (if isRequest p.type then 0 else 1) :: s.out) ∧ t.stk = s.stk ∧
          t.cores = s.cores ∧ t.rings = s.rings) ∧
        (p.hops = 7 → isRequest p.type = true → CarriesAnswer s p back → Completes c.2 s fun t => Answered s t i p back .errCpl [] false ∧ t.stk = s.stk ∧ t.rings = s.rings)) ∧
    (∀ q c, Still s → s.hub.reqs.find? (fun y => y.id == q.id) = some q → paRegion q.pa = 0 → isLocal s q.pa = false → q.data = none →
      (q.write = false → q.who = .vector c → Completes (.requestTimeout ⟨q.id⟩) s fun t =>
        t.hub.reqs.find? (fun y => y.id == q.id) = some { q with data := some (List.replicate q.len (0, true)) } ∧
        Recorded s t 1 0x0013 (match q.port with | some n => n.setWidth 16 | none => 0xFFFF) ∧ t.cores = s.cores ∧ t.stk = s.stk) ∧
      (∀ fr fi ft, q.write = true → q.who = .flush fr fi ft → Completes (.requestTimeout ⟨q.id⟩) s fun t =>
        t.hub.reqs = s.hub.reqs.filter (fun y => y.id != q.id) ∧ t.cores = s.cores ∧ t.stk = s.stk ∧ t.err = s.err))

/-- On a COLLECT of pattern direct without deadline: an open with no matching collective is answered COL_NAK; one that matches is stamped;
data of an opened contribution lands in the receive area, counts its bytes and fixes the mask when the last member is whole; a COL_NAK
marks the sending for a new open. How a packet matches a COLLECT is the choice of log entry 14, the LINK packet that acknowledges it that
of entry 46. (R369, R384, R390, R393, R394, R395, 14_peer_links_and_collectives.md) -/
def Obligations.CollectivePackets : Prop :=
  ∀ (s : State) (i back : BitVec 5) (p : Packet) (r : RingId) (d : Desc) (b : BindingId) (c : Nat) (x : Coll) (fec : Nat),
    Served s i p back → (s.hub.performed.get [] p.src.toNat).contains p.tid = false →
    (p.type = .colOpen → matchCollect s p = none → Completes (.colOpen ⟨i, p, fec⟩) s fun t =>
      Answered s t i p back .colNak [] false ∧ t.rings = s.rings ∧ t.stk = s.stk) ∧
    (matchCollect s p = some (r, d, c) → Works s r d b 0x04 → d.job.coll = some x → d.job.phase = 1 → x.inbox = [] →
      x.sendings = [] → d.num 32 1 = 2 → d.deadline = 0 →
      (p.type = .colOpen → x.stampOf c = none → p.payload.length = 64 → Completes (.colOpen ⟨i, p, fec⟩) s fun t =>
        Answered s t i p back .wrAck [] false ∧ t.stk = s.stk ∧
        ∃ e, t.desc r d.index = some e ∧ e.job.coll = some { x with
          opened := x.opened ++ [(c, BitVec.ofNat 64 (natOfBytes ((p.payload.drop 8).take 8)))] }) ∧
      (∀ l, p.type = .colData → (x.stampOf c).isSome = true → x.counted = none → p.payload.length = 64 → p.size = 1 →
        p.addr.toNat + 64 ≤ d.colLen → x.arrived.getLsbD c = false →
        (let va := d.num 80 8 + c * d.colLen + p.addr.toNat
         HubMaps s b va 64 true l → Completes (.colData ⟨i, p, fec⟩) s fun t =>
           Answered s t i p back .wrAck [] false ∧ Wrote s t l va 64 (fun j => p.payload.getD j 0) ∧
           t.stk.psn.get false (placeOf l va / 64) = p.psn ∧
           ∃ e y, t.desc r d.index = some e ∧ e.job.coll = some y ∧ y.gotOf c = x.gotOf c + 64 ∧ y.inbox = [] ∧
             (let own : BitVec 64 := BitVec.ofNat 64 (2 ^ c)
              let whole := d.colLen ≤ x.gotOf c + 64
              y.arrived = (if whole then x.arrived ||| own else x.arrived) ∧ y.onTime = (if whole then x.onTime ||| own else x.onTime) ∧
              ((∃ m ∈ d.members, m ≠ d.selfMember ∧ y.arrived.getLsbD m = false) → y.counted = none) ∧
              ((∀ m ∈ d.members, m ≠ d.selfMember → y.arrived.getLsbD m = true) → y.counted =
                some (y.onTime &&& BitVec.ofNat 64 (d.num 40 8) ||| BitVec.ofNat 64 (2 ^ d.selfMember))))))) ∧
    (∀ q e, p.type = .colNak → requestOf s p.src p.tid true = some q → q.who = .job r d.index → s.desc r d.index = some d →
      d.job.coll = some x → x.sendings = [e] → x.moduleOf e.member = some p.src → e.tid = p.tid → e.acked = false →
      Completes (.colNak ⟨i, p, fec⟩) s fun t => t.hub.reqs = s.hub.reqs.filter (fun y => y.id != q.id) ∧ t.stk = s.stk ∧
        (∃ z, t.desc r d.index = some z ∧ z.job.coll = some { x with sendings := [{ e with naked := true }] }) ∧
        t.out = .link i p.lseq none 0 1 :: s.out)

/-- Each substitution takes effect where its conditions hold, a row between two array instructions on its array, records code 0x0040 with
its unit, leaves the contents of the stacks but for units that a channel copy finds uncorrectable, which it carries poisoned, and uses up
its spare; a spare that fails passes on what it carries, and with none left the row fails its core and the channel is lost with code
0x0041. A row substitution or a repeat without effect, and a copy taken as made, are the readings of log entry 32. (R15, R189, R450, R451,
R452, R453, R454, 17_errors_and_spares.md) -/
def Obligations.SparesSubstituteFailedUnits : Prop :=
  ∀ (s : State),
    let placed (t : State) (code : BitVec 16) (kind : Byte) (unit : BitVec 16) : Prop :=
      ∃ e ∈ t.err.formed, e.cls = 4 ∧ e.code = code ∧ e.unitKind = kind ∧ e.unit = unit ∧ e.seq = s.err.seq
    (∀ (c : CoreId) (a : BitVec 2) (row : BitVec 6), row.toNat < 33 → counterRuns s = true →
      (betweenArrayInstrs s c a = false → Completes (.rowSubstitution ⟨c, a, row⟩) s fun t => t = s) ∧
      (betweenArrayInstrs s c a = true →
      let here := c.toNat * 4 + a.toNat
      let x := s.tile (tileOf c)
      ((∀ x ∈ s.spares.rows, x.1 ≠ here) → Completes (.rowSubstitution ⟨c, a, row⟩) s fun t =>
        t.spares = { s.spares with rows := s.spares.rows ++ [(here, row)] } ∧ t.err.degraded = true ∧ t.cores = s.cores ∧ t.tiles = s.tiles ∧
        (row ≠ 32 → placed t 0x0040 0 (c.setWidth 16)) ∧
        (row = 32 → ∀ e ∈ t.err.formed, e ∈ s.err.formed ∨ e.code = 0x0042)) ∧
      (s.spares.rows.find? (fun x => x.1 == here) = some (here, row) → Completes (.rowSubstitution ⟨c, a, row⟩) s fun t => t = s) ∧
      (∀ old, s.spares.rows.find? (fun x => x.1 == here) = some (here, old) → old ≠ row → x.pend = false → x.retired = false →
        x.corePend = 0 → siteOf s (tileOf c) ∉ s.spares.cores → Completes (.rowSubstitution ⟨c, a, row⟩) s fun t =>
          placed t 0x0041 0 (c.setWidth 16) ∧ t.spares = s.spares ∧
          t.tile (tileOf c) = { x with corePend := BitVec.ofNat 32 (2 ^ (c.toNat % 32)) } ∧ t.cores = s.cores))) ∧
    (∀ (c : CoreId), let i := tileOf c
      let x := s.tile i
      x.corePend.getLsbD (c.toNat % 32) = true → x.pend = false → x.retired = false → sectionFree s (sectionOf c) = true →
        Completes (.coreSubstitution ⟨c⟩) s fun t =>
          t.tile i = { x with corePend := 0, spareCore := some (BitVec.ofNat 5 (c.toNat % 32)) } ∧ (∀ j, j ≠ i → t.tile j = s.tile j) ∧
          t.core c = .reset ∧ (∀ k, k ≠ c → t.core k = s.core k) ∧ t.spares.cores = s.spares.cores ++ [siteOf s i] ∧
          placed t 0x0040 0 (c.setWidth 16)) ∧
    (∀ (i : TileId) site, spareSite s i = some site → (s.tile i).pend = true → tileFree s i = true →
      Completes (.tileSubstitution ⟨i⟩) s fun t =>
        siteOf t i = site ∧ (t.tile i).pend = false ∧ (∀ line, (t.tile i).sector line = none) ∧
        (∀ c, tileOf c = i → t.core c = .reset) ∧ (∀ c, tileOf c ≠ i → t.core c = s.core c) ∧
        t.spares.sites = s.spares.sites ++ [siteOf s i] ∧ (∀ j, j ≠ i → t.tile j = s.tile j) ∧ placed t 0x0040 1 (i.setWidth 16)) ∧
    (∀ (n : BitVec 5) (ch : BitVec 6) (bad : List (BitVec 31)), ch.toNat < 34 → counterRuns s = true →
      (s.cal.groups.get .reset (groupKey 3 n.toNat)).step = none →
      let p := s.stk.ports.get .reset n.toNat
      let unit (u : BitVec 31) : Nat := n.toNat * 2 ^ 31 + u.toNat
      let onIt (u : BitVec 31) : Prop := p.carrier (BitVec.ofNat 6 (Config.channelOf (unit u))) = ch
      let copied (t : State) (q : StackPort) : Prop := t.stk = { s.stk with ports := t.stk.ports, psn := t.stk.psn } ∧
        t.stk.ports.get .reset n.toNat = q ∧ (∀ k, k ≠ n.toNat → t.stk.ports.get .reset k = s.stk.ports.get .reset k) ∧
        ∀ k, t.stk.psn.get false k = true ↔ s.stk.psn.get false k = true ∨ ∃ u ∈ bad, onIt u ∧ unit u = k
      let becomes (q : StackPort) (P : State → Prop) : Prop :=
        Completes (.stackChannelCopy ⟨n, ch, bad⟩) s fun t => copied t q ∧ (bad = [] → P t)
      let out_ := { p with lost := p.lost ++ [ch] }
      (ch ∈ p.lost ∨ (∃ x ∈ p.spared, x.1 = ch) → becomes p fun t => t = s) ∧
      (ch ∉ p.lost → (∀ x ∈ p.spared, x.1 ≠ ch) →
        ((∀ x ∈ p.spared, x.2 ≠ ch) →
          (∀ y l, ch.toNat < 32 → p.freeSpares = y :: l → becomes { p with spared := p.spared ++ [(ch, y)] }
            fun t => placed t 0x0040 2 (n.setWidth 16)) ∧
          (ch.toNat < 32 → p.freeSpares = [] → becomes out_ fun t => placed t 0x0041 2 (n.setWidth 16)) ∧
          (32 ≤ ch.toNat → becomes out_ fun t => ∀ e ∈ t.err.formed, e ∈ s.err.formed ∨ e.code = 0x0042)) ∧
        (∀ pre x post, p.spared = pre ++ x :: post → x.2 = ch → (∀ z ∈ pre ++ post, z.2 ≠ ch) →
          (∀ y l, out_.freeSpares = y :: l → becomes { out_ with spared := pre ++ (x.1, y) :: post }
            fun t => placed t 0x0040 2 (n.setWidth 16)) ∧
          (out_.freeSpares = [] → becomes out_ fun t => placed t 0x0041 2 (n.setWidth 16)))))

/-- At a breath time the breath opens, the controller receives what the sensors and the counters read, beat alarms pend, a waiting DRAIN
writes its trailer, and a listed group starts its next lane, which a LINK packet tells the peer of a port; a step done stores its results
and its alarms, a step overdue or done too late is reverted; CAL_CTL writes the limits. The order of lanes is the choice of log entry 29,
sensors as operands that of entry 43, the heartbeat of the sample that of entry 30. (R42, R44, R102, R364, R410, R411, R412, R414, R415,
15_power_and_live_calibration.md) -/
def Obligations.BreathsAndCalibration : Prop :=
  ∀ (s : State),
    let now := s.time.count
    let opens := now.toNat % (s.time.period.toNat * 16000) = 0 ∧ s.time.openBreath.map Prod.fst ≠ some now ∧ breathing s = true
    let group (t : State) (g : GroupForm) : CalGroup := t.cal.groups.get .reset (groupKey g.kind.toNat g.group.toNat)
    (∀ rs ks, opens → (∀ n, (s.cal.groups.get .reset n).step = none) → s.allDescs = [] → Completes (.breathOpen ⟨[], rs, ks⟩) s fun t =>
      t.time = { s.time with openBreath := some (now, s.time.len) } ∧ t.mod = { s.mod with heartbeatLost := false } ∧
      (∀ c h, t.thread c h = { s.thread c h with
        beatPend := if (s.thread c h).run && (s.thread c h).eien.getLsbD 16 then some now else (s.thread c h).beatPend }) ∧
      t.mgmt = { s.mgmt with
        sampled := now, sensors := t.mgmt.sensors, counters := s.perf.cnt, errorCounts := s.err.cnt } ∧
      (∀ n, (∀ x ∈ rs, x.sensor.toNat ≠ n) → t.mgmt.sensors.get 0 n = s.mgmt.sensors.get 0 n) ∧
      (∀ n, 304 ≤ n → t.mgmt.sensors.get 0 n = s.mgmt.sensors.get 0 n) ∧
      (∀ x, rs = [x] → x.sensor.toNat < 304 → t.mgmt.sensors.get 0 x.sensor.toNat = x.value) ∧
      t.stk = s.stk ∧ t.cal = s.cal ∧ t.out = s.out) ∧
    (∀ (r : RingId) d b l rs ks, opens → s.allDescs = [(r, d)] → Works s r d b 0x06 → d.job.phase = 5 →
      (let va := d.drainDst + d.drainTotal
       HubMaps s b va 64 true l → Completes (.breathOpen ⟨[], rs, ks⟩) s fun t =>
         (∃ f, Wrote s t l va 64 f ∧ (∀ j < 8, f j = BitVec.ofNat 8 (now.toNat / 2 ^ (8 * j))) ∧
           ∀ j < 8, f (8 + j) = BitVec.ofNat 8 (d.step / 2 ^ (8 * j))) ∧
         Finishes s t r d .ok (bytesOfNat 8 (d.job.pos - d.job.lost) ++ [0, 0, 0, 0]))) ∧
    (∀ (g : GroupForm) rs ks, opens → (∀ n, (s.cal.groups.get .reset n).step = none) → s.allDescs = [] → s.mod.state = .service ∨ s.mod.state = .serving →
      stepStarts s s.time.len.toNat g.kind.toNat g.group.toNat = true → Completes (.breathOpen ⟨[g], rs, ks⟩) s fun t =>
        ∃ lane, lane ∈ rotation s g.kind.toNat g.group.toNat ∧ (group t g).step = some (BitVec.ofNat 6 lane) ∧
          (laneOf t g.kind.toNat g.group.toNat lane).active = true ∧ (group t g).next = BitVec.ofNat 6 (lane + 1) ∧
          t.stk = s.stk ∧ t.out =
            if g.kind.toNat = 2 then .calStep (BitVec.ofNat 5 g.group.toNat) (BitVec.ofNat 4 lane) :: s.out else s.out) ∧
    (∀ (g : GroupForm) lane t0 len, s.time.openBreath = some (t0, len) → t0.toNat + (len.toNat - 2) * 16000 ≤ now.toNat →
      (group s g).step = some lane → Completes (.calRevert g) s fun t =>
        group t g = { group s g with step := none } ∧
        laneOf t g.kind.toNat g.group.toNat lane.toNat = { laneOf s g.kind.toNat g.group.toNat lane.toNat with active := false } ∧
        t.time = s.time ∧ t.err = s.err) ∧
    (∀ (o : CalDoneForm) lane, (group s ⟨o.kind, o.group⟩).step = some lane →
      let k := o.kind.toNat
      let n := o.group.toNat
      let x := laneOf s k n lane.toNat
      let low := o.vmargin.toNat < s.cal.minV.toNat ∨ o.hmargin.toNat < s.cal.minH.toNat
      let done (t : State) (alarms : BitVec 8) (lows : Nat) : Prop :=
        laneOf t k n lane.toNat = { x with
          steps := satAdd x.steps 1, hmargin := o.hmargin, vmargin := o.vmargin, phase := o.phase, active := false, stamp := now
          alarms := alarms, low := lows } ∧ (group t ⟨o.kind, o.group⟩).step = none
      (stepsClose s = true → Completes (.calStepDone o) s fun t => (group t ⟨o.kind, o.group⟩).step = none ∧
        laneOf t k n lane.toNat = { x with active := false } ∧ t.err = s.err) ∧
      (¬low → stepsClose s = false → o.phase.toInt.natAbs ≤ s.cal.drift.toNat → Completes (.calStepDone o) s fun t => done t x.alarms 0 ∧ t.err = s.err) ∧
      (low → stepsClose s = false → x.low < 2 → Completes (.calStepDone o) s fun t => done t (satAdd x.alarms 1) (x.low + 1) ∧
        t.err.cnt.get 0 0 = satAdd (s.err.cnt.get 0 0) 1 ∧ ∃ w ∈ t.err.windows, w.code = 0x0003 ∧ w.unit = o.group.setWidth 16)) ∧
    (∀ v : Word, bar0Open s = true → Completes (.calCtl ⟨v⟩) s fun t => t = { s with cal := { s.cal with
      minV := v.extractLsb' 24 8, minH := v.extractLsb' 16 8, drift := v.extractLsb' 8 8, en := v.setWidth 3 } })

/-- An input outside 40 to 60 V in SERVING drains, throttles all to level 7 and sends NMIs, and recovery ends it; samples, power and
thermal events move the contributions within 0 to 7; the message gives every active tile at most its request, its ramp and its cap, and
the next interval brings it into force; the limits take legal writes. REQUEST_SAMPLE as heartbeat is the reading of log entry 30;
durations are taken as met by log entry 7. (R396, R397, R398, R401, R403, R404, R405, R407, R409, R419, 15_power_and_live_calibration.md)
-/
def Obligations.PowerInputsAndLevels : Prop :=
  ∀ (s : State),
    (∀ v : BitVec 16, s.mod.state = .serving →
      let alarm (t : State) (bit : BitVec 8) : Prop := t.power.hold7 = true ∧ t.mod.state = .draining ∧ t.mod.cause = bit ∧
        t.mod.prev = .serving ∧ t.mod.stamp = s.time.count ∧ t.mod.drainAt = s.time.count ∧ t.mgmt.input = v ∧
        (∀ i, tileLevel t i = 7) ∧
        (∀ c h, (s.thread c h).run = true → (t.thread c h).nmiSrc = (s.thread c h).nmiSrc ||| 1 ∧
          ((s.thread c h).estat.getLsbD 1 = false → (t.thread c h).nmiReq = true) ∧
          ((s.thread c h).estat.getLsbD 1 = true → (t.thread c h).estat = (s.thread c h).estat ||| 4)) ∧
        (∀ c h, (s.thread c h).run = false → t.thread c h = s.thread c h) ∧ t.stk = s.stk ∧ t.rings = s.rings
      (v.toNat < 4000 → Completes (.underVoltage ⟨v⟩) s fun t => alarm t 0x02 ∧ t.power.uv = true ∧ t.power.uvSeen = true) ∧
      (6000 < v.toNat → Completes (.overVoltage ⟨v⟩) s fun t => alarm t 0x04 ∧ t.power.ov = true ∧ t.power.ovSeen = true)) ∧
    (∀ v : BitVec 16, s.mod.state ≠ .off → 4000 ≤ v.toNat → v.toNat ≤ 6000 → Completes (.voltageRecovery ⟨v⟩) s fun t =>
      t = { s with
        mgmt := { s.mgmt with input := v }
        power := { s.power with
          uv := false, ov := false, hold7 := false
          clearAt := if s.power.uv = true ∨ s.power.ov = true then s.time.count else s.power.clearAt } }) ∧
    (computeOn s = true →
      (s.time.count.toNat % 32000 = 16000 → Completes .requestSample s fun t => t.mod = { s.mod with heartbeatLost := false } ∧
        (∀ i, t.tile i = if tileActive s i then { s.tile i with req := tileRequest s i } else s.tile i) ∧ t.cores = s.cores) ∧
      (1050 * effectiveLimit s < s.power.vin.toNat * s.power.iin.toNat → Completes .powerOver s fun t => t = { s with power := { s.power with
        overLim := true, contrib := if s.power.contrib = 7 then 7 else s.power.contrib + 1 } }) ∧
      (s.power.vin.toNat * s.power.iin.toNat < 950 * effectiveLimit s → Completes .powerRelief s fun t => t = { s with power := { s.power with
        contrib := if s.power.contrib = 0 then 0 else s.power.contrib - 1 } }) ∧
      (∀ i : TileId, let x := s.tile i
        let only (t : State) (y : Tile) : Prop := t = { s with tiles := t.tiles } ∧ t.tile i = y ∧ ∀ j, j ≠ i → t.tile j = s.tile j
        (100 ≤ x.temp.toNat → Completes (.thermalRise ⟨i⟩) s fun t => only t { x with thermal := if x.thermal = 7 then 7 else x.thermal + 1 }) ∧
        (x.temp.toNat ≤ 95 → Completes (.thermalFall ⟨i⟩) s fun t => only t { x with thermal := if x.thermal = 0 then 0 else x.thermal - 1 }) ∧
        (∀ j : TileId, neighbours s i j = true →
          let n := x.temp.toNat - (s.tile j).temp.toNat
          (20 < n ∨ 15 < n ∧ x.neighbour ≠ 0 → Completes (.neighbourRise ⟨i, j⟩) s fun t =>
            only t { x with neighbour := if x.neighbour = 7 then 7 else x.neighbour + 1 }) ∧
          (n ≤ 15 → Completes (.neighbourFall ⟨i, j⟩) s fun t =>
            only t { x with neighbour := if x.neighbour = 0 then 0 else x.neighbour - 1 }))) ∧
      (Completes .throttleSilence s fun t => t.power = { s.power with silent := true } ∧
        (∀ i, tileActive s i = true → (t.tile i).grant = 2 ∧ (t.tile i).clk.toNat ≤ 1200) ∧
        (∀ i, tileActive s i = false → t.tile i = s.tile i) ∧ t.cores = s.cores) ∧
      (∀ vin iin temps, Completes (.throttleMessage ⟨vin, iin, temps⟩) s fun t => t.power.silent = false ∧ t.mgmt.input = vin ∧
        (∃ l, t.power.message = some l ∧ l.length = 16 ∧ ∀ i : TileId,
          l.getD i.toNat 0 / 32 = tileLevel s i ∧
          (tileActive s i = true → l.getD i.toNat 0 % 32 ≤ min (s.tile i).req.toNat
            (min ((s.tile i).grant.toNat + 2) (16 - 2 * tileLevel s i)))) ∧
        t.tiles = s.tiles ∧ t.cores = s.cores) ∧
      (∀ vin iin l, s.time.count.toNat % 32000 = 0 → s.power.message = some l → (∀ i : TileId, l.getD i.toNat 0 < 256) →
        Completes (.bellowsInterval ⟨vin, iin, []⟩) s fun t =>
          t.power = { s.power with vin := vin, iin := iin, message := none } ∧ t.mgmt.input = vin ∧
          (∀ i, tileActive s i = true → (t.tile i).level.toNat = l.getD i.toNat 0 / 32 ∧ (t.tile i).grant.toNat = l.getD i.toNat 0 % 32) ∧
          (∀ c h, t.thread c h = { s.thread c h with thrPend := (t.thread c h).thrPend } ∧
            ((s.thread c h).run = true → (s.thread c h).eien.getLsbD 21 = true → tileActive s (tileOf c) = true →
              (t.tile (tileOf c)).level ≠ (s.tile (tileOf c)).level → (t.thread c h).thrPend = some (t.tile (tileOf c)).level)))) ∧
    (∀ v : Word, bar0Open s = true →
      (1000 ≤ (v.setWidth 13).toNat → (v.setWidth 13).toNat ≤ 7600 → Completes (.pwrLimit ⟨v⟩) s fun t => t = { s with power := { s.power with
        limit := v.setWidth 13, limitPend := s.power.limitPend ++ [((v.setWidth 13).toNat, s.time.count)] } }) ∧
      ((v.setWidth 13).toNat < 1000 ∨ 7600 < (v.setWidth 13).toNat → Completes (.pwrLimit ⟨v⟩) s fun t =>
        t = { s with power := { s.power with cfgRej := true } })) ∧
    (∀ v : Word, controllerUp s = true → counterRuns s = true → Completes (.pwrOplim ⟨v⟩) s fun t =>
      t = { s with power := { s.power with
        oplim := v.setWidth 13, oplimPend := s.power.oplimPend ++ [((v.setWidth 13).toNat, s.time.count)] } })

/-- FAC_EN reaches STANDBY with a cold reset once the controller starts, PowerOn RISING, RISING SELFTEST, self-test SERVICE or SERVING,
whatever units fail; under- and over-voltage hold RISING and SELFTEST until both have been clear for 1 s, and SELFTEST verifies again;
ENTER_SERVICE, ENTER_SERVING, DRAIN and WARM_RESET take effect in their states and are rejected in others stated. What Tables 18-2 and
18-5 leave to reading is log entry 31. (R457, R458, R459, R460, R461, R462, R463, R464, R466, R430, R431, 18_startup_and_states.md) -/
def Obligations.StartUpAndCommands : Prop :=
  ∀ (s : State),
    (∀ v : BitVec 16, s.mod.state = .off →
      ∀ x : StartForm,
      (3600 ≤ v.toNat → x.reached = true → Completes (.facEnAssert ⟨v, x⟩) s fun t => Goes s t .standby ∧ ColdCleared s t ∧
        t.mod.facEn = true ∧ t.mgmt.input = v ∧ t.mgmt.kek = none ∧ t.mgmt.kekGen = satAdd s.mgmt.kekGen 1 ∧ t.mgmt.pairing = .checking) ∧
      (3600 ≤ v.toNat → x.reached = false → Completes (.facEnAssert ⟨v, x⟩) s fun t => t.mod.state = .off ∧ t.mod.facEn = true ∧
        t = { s with mod := t.mod, mgmt := t.mgmt }) ∧
      (v.toNat < 3600 → Completes (.facEnAssert ⟨v, x⟩) s fun t => t = { s with mod := { s.mod with facEn := true } })) ∧
    ((s.mod.state ≠ .off → Completes .facEnDeassert s fun t => Goes s t .off ∧ ColdCleared s t ∧
        t.mod.facEn = (s.mod.facEn && decide (s.mgmt.input.toNat < 3000)) ∧ t.mgmt.kek = none ∧ t.mgmt.alert = false ∧ t.mgmt.leak = false) ∧
      (s.mod.state = .off → Completes .facEnDeassert s fun t => t = { s with mod := { s.mod with facEn := false } })) ∧
    (s.mod.state = .standby → controllerUp s = true → s.mgmt.pairing ≠ .checking → 4000 ≤ s.mgmt.input.toNat →
      s.mgmt.input.toNat ≤ 6000 → s.mgmt.leak = false → s.mgmt.flow = false → s.mgmt.warning = false → s.mgmt.hot = false →
      Completes .poweron s fun t => Goes s t .rising ∧ t.mod.cause = 0 ∧ t.cores = s.cores ∧ t.stk = s.stk ∧ t.time = s.time) ∧
    (let clear := s.mod.held = false ∨
        s.power.uv = false ∧ s.power.ov = false ∧ 16000000000 ≤ (s.time.count - s.power.clearAt).toNat
     (∀ v, s.mod.state = .rising ∨ s.mod.state = .selftest → v.toNat < 4000 → Completes (.underVoltage ⟨v⟩) s fun t =>
        t.mod = { s.mod with held := true, reverify := s.mod.reverify || decide (s.mod.state = .selftest) } ∧ t.power.uv = true) ∧
     (∀ fails other, s.mod.state = .rising ∨ s.mod.state = .selftest → ¬clear → Completes (.risingComplete ⟨fails, other⟩) s fun t => t = s) ∧
     (∀ fails other, s.mod.state = .selftest →
        (clear → s.mod.reverify = true → Completes (.risingComplete ⟨fails, other⟩) s fun t =>
          t.mod.state = .selftest ∧ t.mod.held = false ∧ t.mod.reverify = false ∧ t.mod.mapLoaded = true ∧ t.cores = s.cores ∧ t.time = s.time) ∧
        (s.mod.reverify = false → Completes (.risingComplete ⟨fails, other⟩) s fun t => t = s)) ∧
     ∀ fails other, s.mod.state = .rising → clear → s.mod.perstHeld = false → Completes (.risingComplete ⟨fails, other⟩) s fun t =>
      Goes s t .selftest ∧ t.mod.mapLoaded = true ∧ t.mod.held = false ∧
      (fails = 0 → ((s.fw 1).bank (s.fw 1).active).failed = false → (∀ c, 2 ≤ c → c ≤ 4 → (s.fw c).usable (s.fw c).active = true ∧ ((s.fw c).bank (s.fw c).active).fails ≤ 3) →
        t.mod.recovery = s.mod.recovery ∧ ∀ c, 2 ≤ c → c ≤ 4 → t.fw c = s.fw c) ∧
      (∀ i, portWf i = true → (s.port i).en = true → (t.port i).state = if s.mgmt.mid = 0xFFF then .down else .training) ∧
      (∀ i, (s.port i).en = false → t.port i = s.port i) ∧ t.cores = s.cores ∧ t.time = s.time) ∧
    (∀ failed again, s.mod.state = .selftest → (∀ l ∈ failed :: again, ∀ u ∈ l, FailedUnit.bad u = false) →
      (s.mod.held = false → s.mod.reverify = false → Completes (.selftestComplete ⟨failed, again⟩) s fun t =>
        Goes s t (if s.mod.bootSvc || s.mod.recovery then .service else .serving) ∧ t.mod.cause = 0 ∧ t.time = s.time) ∧
      (s.mod.held = true ∨ s.mod.reverify = true → Completes (.selftestComplete ⟨failed, again⟩) s fun t => t = s)) ∧
    (barsAnswer s = true → s.mod.cause &&& 0x30 = 0 →
      (s.mod.state = .serving → anyRuns s = false → Completes .enterService s fun t => Goes s t .service ∧ t.mod.cause = 0 ∧
        t.cores = s.cores ∧ t.rings = s.rings) ∧
      (s.mod.state = .service → anyRuns s = false → s.mod.recovery = false → Completes .enterServing s fun t =>
        Goes s t .serving ∧ t.mod.cause = 0 ∧ t.cores = s.cores ∧ t.rings = s.rings ∧
        ∀ c, 2 ≤ c → c ≤ 4 → (t.fw c).counter.toNat = max (s.fw c).counter.toNat ((s.fw c).bank (s.fw c).active).svn.toNat) ∧
      (s.mod.state = .service ∨ s.mod.state = .serving →
        (Completes .cmdDrain s fun t => Goes s t .draining ∧ t.mod.cause = 0x01 ∧ t.mod.drainAt = s.time.count ∧ t.cores = s.cores ∧
          t.rings = s.rings) ∧
        Completes .warmReset s fun t => WarmCleared s t 1) ∧
      (s.mod.state = .rising ∨ s.mod.state = .selftest ∨ anyRuns s = true ∧ s.mod.state = .serving →
        ∀ i ∈ [Instr.enterService, .enterServing], Completes i s fun t => t = { s with mod := { s.mod with cmdRej := true } }))

/-- Warm resets of each kind, power cycles and the end of an orderly stop clear and keep what Table 18-8 says; PERST# holds; stops, leaks,
low flow and the watchdog start draining with their cause and NMI; coolant warnings and controller restarts change only the facility side.
What is held, kept and cleared where the rules are silent is log entry 31. (R421, R422, R423, R465, R466, R467, R468, R475,
18_startup_and_states.md) -/
def Obligations.ResetsAndStops : Prop :=
  ∀ (s : State),
    let resets := s.mod.state ∈ [ModState.selftest, .service, .serving, .draining]
    (resets → controllerUp s = true → Completes .redfishWarmReset s fun t => WarmCleared s t 3) ∧
    (resets → s.mod.perstLow = false →
      (Completes .hotReset s fun t => WarmCleared s t 2) ∧ (Completes .flr s fun t => WarmCleared s t 2) ∧
      Completes .perst s fun t => WarmCleared s t 2 ∧ t.mod.perstLow = true ∧ t.mod.perstHeld = true) ∧
    (Completes .perstDeassert s fun t => t = { s with mod := { s.mod with perstLow := false, perstHeld := false } }) ∧
    (s.mod.perstLow = true → ∀ i ∈ [Instr.perst, .hotReset, .flr], Completes i s fun t => t = s) ∧
    (controllerUp s = true → Completes .powercycle s fun t => Goes s t .standby ∧ ColdCleared s t ∧
      t.mgmt.kek = none ∧ t.mgmt.kekGen = satAdd s.mgmt.kekGen 1) ∧
    (s.mod.state = .draining → s.mod.cause &&& 0x30 ≠ 0 →
      allFree s = true ∨ 32000000000 ≤ (s.time.count - s.mod.drainAt).toNat ∨
        s.mod.cause.getLsbD 5 = true ∧ 3200000000 ≤ (s.time.count - s.mod.drainAt).toNat →
      Completes .orderlyStopEnd s fun t => Goes s t .standby ∧ ColdCleared s t ∧ t.mgmt.kek = s.mgmt.kek ∧
        t.mgmt.kekGen = s.mgmt.kekGen) ∧
    (s.mod.state = .service ∨ s.mod.state = .serving →
      let nmi (t : State) (bits : BitVec 3) : Prop := ∀ c h, (s.thread c h).run = true →
        (t.thread c h).nmiSrc = (s.thread c h).nmiSrc ||| bits
      let draining (t : State) (cause : BitVec 8) : Prop := Goes s t .draining ∧ t.mod.cause = cause ∧ t.mod.drainAt = s.time.count ∧
        t.stk = s.stk ∧ t.rings = s.rings
      (controllerUp s = true →
        (Completes .stop s fun t => draining t 0x10 ∧ nmi t 4) ∧
        Completes .coolantFlowLow s fun t => draining t 0x10 ∧ nmi t 4 ∧ t.mgmt.flow = true ∧ t.mgmt.alert = true) ∧
      (Completes .leak s fun t => draining t 0x20 ∧ nmi t 4 ∧ t.mgmt.leak = true ∧ t.mgmt.alert = true) ∧
      (s.mgmt.restarting = false → Completes .watchdog s fun t => draining t 0x08 ∧ nmi t 2 ∧ t.mod.heartbeatLost = true)) ∧
    (controllerUp s = true →
      (Completes .coolantWarning s fun t => t.mgmt.warning = true ∧ t.mgmt.alert = true ∧ t.mod = s.mod ∧
        (∃ e, t.mgmt.log = (e :: s.mgmt.log).take 65536 ∧ e.code = Config.eventCode 0x10) ∧ t.cores = s.cores) ∧
      (Completes .coolantWarningCleared s fun t =>
        t = { s with mgmt := { s.mgmt with warning := false, flow := false, alert := s.mgmt.leak } }) ∧
      (Completes .lockstepMismatch s fun t => t = { s with mgmt := { s.mgmt with restarting := true, mismatch := true } }) ∧
      Completes .controllerRestart s fun t => t = { s with mgmt := { s.mgmt with restarting := true, mismatch := false } })

/-- Input limits, over-temperatures, router, channel and hub faults and the watchdog enter FAULTED with their cause, stop every core and
complete what ran; below 30 V the module goes OFF; a host request error poisons its read; a hardware error ends its descriptor or core
with its record and fails a BIND in progress; a double-bit error poisons its word or sector, and a residue mismatch its accumulator tile,
with vector 20. That HW_ERROR brings the deferred errors too is log entry 41; the poison address of entry 20, CAUSE bits 6 and 7 of an
input limit of entries 31 and 42. (R339, R441, R442, R443, R446, R447, R469, R492, R493, R494, 17_errors_and_spares.md) -/
def Obligations.ErrorsStopWhatTheyReach : Prop :=
  ∀ (s : State), computeOn s = true →
    let idle := s.allDescs = [] ∧ s.cores = .empty
    (∀ v : BitVec 16, (3000 ≤ v.toNat ∧ v.toNat < 3600 ∨ 6300 < v.toNat → Completes (.inputLimit ⟨v⟩) s fun t => SwitchedOff s t 0xC0 ∧
        t.mgmt.input = v) ∧
      (v.toNat < 3000 → Completes (.inputLimit ⟨v⟩) s fun t => Goes s t .off ∧ ColdCleared s t)) ∧
    (Completes (.fatalError ⟨.input⟩) s fun t => SwitchedOff s t 0xC0) ∧
    (controllerUp s = true → Completes .converterOvertemp s fun t => SwitchedOff s t 0xC0) ∧
    (∀ i : TileId, 110 ≤ (s.tile i).temp.toNat → ∀ x ∈ [Instr.tileOvertemp ⟨i⟩, .fatalError ⟨.overTemp i⟩], Completes x s fun t => SwitchedOff s t 0x40 ∧
      (idle → t.err.cnt.get 0 3 = satAdd (s.err.cnt.get 0 3) 1 ∧ t.err.formed = s.err.formed)) ∧
    (∀ site : BitVec 5, site.toNat < 18 → Completes (.fatalError ⟨.router site⟩) s fun t => SwitchedOff s t 0x40 ∧
      (idle → Recorded s t 3 0x0030 0xFFFF)) ∧
    (∀ ch : BitVec 8, ∀ second, ch.toNat < 140 → Completes (.fatalError ⟨.channel ch second⟩) s fun t => SwitchedOff s t 0x40 ∧
      (idle → Recorded s t 3 0x0032 (ch.setWidth 16))) ∧
    (Completes (.fatalError ⟨.hub⟩) s fun t => SwitchedOff s t 0x40 ∧ (idle → Recorded s t 3 0x0033 0)) ∧
    (s.mgmt.restarting = false → s.mod.heartbeatLost = true → Completes .watchdogSwitchOff s fun t => SwitchedOff s t 0x80) ∧
    (∀ q c, Still s → s.hub.reqs.find? (fun y => y.id == q.id) = some q → paRegion q.pa = 1 → q.data = none → q.write = false →
      (hostReads s).length ≤ 768 → q.who = .vector c → Completes (.hostRequestError ⟨.read q.id none⟩) s fun t =>
        t.hub.reqs.find? (fun y => y.id == q.id) = some { q with data := some (List.replicate q.len (0, true)) } ∧
        Recorded s t 1 0x0017 0 ∧ t.stk = s.stk) ∧
    (∀ c addr, Completes (.hostRequestError ⟨.write c addr⟩) s fun t => Recorded s t 1 0x0017 0 ∧
      t = { s with err := t.err, mgmt := t.mgmt }) ∧
    (∀ (r : RingId) d b pa, s.desc r d.index = some d → d.running = true → d.opcode = 0x02 ∨ d.opcode = 0x03 → d.binding = some b →
      d.job.log = none → (∀ q ∈ s.hub.reqs, q.who ≠ .job r d.index) → Completes (.hwError ⟨.descriptor r d.index pa⟩) s fun t =>
        Finishes s t r d .hwError (bytesOfNat 8 (d.job.pos - d.job.lost) ++ [0, 0, 0, 0]) ∧ t.err.bind.getLsbD b.toNat = true ∧
        Recorded s t 2 0x0021 0 ∧ t.stk = s.stk) ∧
    (∀ (c : CoreId) file, s.allDescs = [] → Completes (.hwError ⟨.core c file⟩) s fun t =>
      (t.core c).ctl.failed = true ∧ (t.core c).ctl.finished = true ∧ (t.core c).vec.queue = [] ∧ (t.core c).mat.queue = [] ∧
      ((t.core c).ctl.stopping = true ∨ ∀ h, (t.thread c h).run = false) ∧
      ((s.tile (tileOf c)).pend = false → (s.tile (tileOf c)).retired = false → (s.tile (tileOf c)).corePend = 0 →
        siteOf s (tileOf c) ∉ s.spares.cores → (t.tile (tileOf c)).corePend.getLsbD (c.toNat % 32) = true) ∧
      ∃ e ∈ t.err.formed, e.cls = 2 ∧ e.code = 0x0020 ∧ e.unit = c.setWidth 16) ∧
    (∀ (c : CoreId) file (r : RingId) d, s.allDescs = [(r, d)] → d.running = true → d.opcode = 0x09 → s.desc r d.index = some d →
      d.binding = some (coreBinding s c) → (s.core c).ctl.xcfg.bound = true → Completes (.hwError ⟨.core c file⟩) s fun t =>
        ∃ e, t.desc r d.index = some e ∧ e.job.err = true ∧ e.ended = false) ∧
    (∀ (c : CoreId) (word : BitVec 17), Completes (.hwError ⟨.dataStore c word⟩) s fun t => Recorded s t 1 0x0011 (c.setWidth 16) ∧
      (t.core c).mem.dlsPoison.get false word.toNat = true ∧ (t.core c).mem.dls = (s.core c).mem.dls ∧
      ∀ c', c' ≠ c → t.core c' = s.core c') ∧
    (∀ (i : TileId) line x, (s.tile i).sector line = some x → Completes (.hwError ⟨.sector i line⟩) s fun t =>
      Recorded s t 1 0x0011 (i.setWidth 16) ∧ (t.tile i).sector line = some { x with psn := true } ∧ t.cores = s.cores) ∧
    (∀ c a (row : BitVec 5) acc r, (s.core c).frozen = false → accumulates (s.core c) a.toNat acc.toNat = some r →
      Completes (.hwError ⟨.residue c a row acc⟩) s fun t =>
        (((t.core c).array a.toNat).tile acc.toNat).psn = true ∧
        (t.core c).causes = (s.core c).causes ++ [⟨true, 20, 3, 0, false, r.i.pc⟩] ∧ t.err.formed.length = s.err.formed.length + 2)

/-- GO and ACK take effect or set REJ as R427 says, a rejected GO writing nothing else; the controller takes and answers, and takes its
EID; responses go before events, of which at most 64 wait; silence and recovery move LINK; a restart ends with its event and the bank that
waited, and starts again on another mismatch of its cores, which then counts as a start that failed (log entry 33). That the whole
rejected write is ignored, the layout of Set Endpoint ID and the order of messages are log entry 36; the codes of events are free (log
entry 4). (R418, R419, R423, R424, R426, R427, R430, 16_management_and_trust.md) -/
def Obligations.MailboxAndController : Prop :=
  ∀ (s : State), barsAnswer s = true →
    let b := s.mgmt.mb
    let only (t : State) (x : Mailbox) : Prop := t = { s with mgmt := { s.mgmt with mb := x } }
    (∀ v : Word, v.getLsbD 30 = false →
      let n : BitVec 13 := v.setWidth 13
      (b.inBusy = false → 1 ≤ n.toNat → n.toNat ≤ 4096 → Completes (.go ⟨v⟩) s fun t =>
        only t { b with msix := v.extractLsb' 16 11, len := n, inBusy := true }) ∧
      (b.inBusy = true ∨ n = 0 ∨ 4096 < n.toNat → Completes (.go ⟨v⟩) s fun t => only t { b with rej := true })) ∧
    (b.outValid = false → Completes .ack s fun t => only t { b with rej := true }) ∧
    (b.outValid = true → b.responses = [] → b.events = [] → Completes .ack s fun t => only t { b with outValid := false }) ∧
    (controllerUp s = true →
      (b.inBusy = true → b.link = true → Completes .mbTake s fun t => t = { s with mgmt := { s.mgmt with
        mb := { b with inBusy := false }
        hostEid := if 5 ≤ b.len.toNat ∧ Table.get 0 b.inData 0 = 0 ∧ Table.get 0 b.inData 2 = 1 then Table.get 0 b.inData 4
          else s.mgmt.hostEid } }) ∧
      (∀ m r, b.outValid = true → b.link = true → b.responses = m :: r → Completes .ack s fun t =>
        (t.mgmt.mb).outValid = true ∧ (t.mgmt.mb).responses = r ∧ (t.mgmt.mb).olen.toNat = min m.length 4096 ∧
        (∀ j < min m.length 4096, Table.get 0 (t.mgmt.mb).outData j = m.getD j 0) ∧ t.out = .msix b.msix :: s.out ∧
        t = { s with mgmt := { s.mgmt with mb := t.mgmt.mb }, out := t.out }) ∧
      (∀ m, b.outValid = true →
        (Completes (.mbResponse ⟨false, m⟩) s fun t => only t { b with responses := b.responses ++ [m] }) ∧
        (b.events.length < 64 → Completes (.mbResponse ⟨true, m⟩) s fun t => only t { b with events := b.events ++ [m] }) ∧
        (64 ≤ b.events.length → Completes (.mbResponse ⟨true, m⟩) s fun t =>
          t.mgmt.mb = { b with events := b.events.drop 1 ++ [m] } ∧
          ∃ e, t.mgmt.log = (e :: s.mgmt.log).take 65536 ∧ e.code = Config.eventCode 0x30)) ∧
      (Completes .mctpAuthFail s fun t => (∃ e, t.mgmt.log = (e :: s.mgmt.log).take 65536 ∧ e.code = Config.eventCode 0x31 ∧
        e.stamp = s.time.count ∧ e.seq = s.mgmt.logSeq) ∧ t.mgmt.mb = b ∧ t = { s with mgmt := t.mgmt })) ∧
    (Completes .mctpSilence s fun t => only t { b with link := false }) ∧
    (b.outValid = true → Completes .mctpChannelUp s fun t => only t { b with link := true }) ∧
    (s.mgmt.restarting = true → b.outValid = true →
      let f := s.fw 1
      let g := { f with active := if f.pend ∧ f.usable (!f.active) then !f.active else f.active, pend := false }
      let k := g.bank g.active
      (Completes .controllerRestartDone s fun t =>
        t.mgmt.restarting = false ∧ t.mgmt.mismatch = false ∧ t.mgmt.mb = b ∧
        (∃ e, t.mgmt.log = (e :: s.mgmt.log).take 65536 ∧ e.code = Config.eventCode (if s.mgmt.mismatch then 0x11 else 0x12)) ∧
        (g.usable g.active = true → k.fails < 3 → t.mod = s.mod ∧
          t.fw 1 = { g.setBank g.active { k with fails := 0 } with counter := if g.counter.toNat < k.svn.toNat then k.svn else g.counter }) ∧
        (g.usable g.active = false → g.usable (!g.active) = false → t.mod.recovery = true)) ∧
      Completes .lockstepMismatch s fun t =>
        t.mgmt.restarting = true ∧ t.mgmt.mismatch = true ∧ t.mgmt.log = s.mgmt.log ∧ t.mgmt.mb = b ∧
        (g.usable g.active = true → k.fails < 3 → t.mod = s.mod ∧ t.fw 1 = g.setBank g.active { k with fails := k.fails + 1 }) ∧
        (3 ≤ k.fails → g.usable (!g.active) = true → t.mod = s.mod ∧ (t.fw 1).active = !g.active ∧ ((t.fw 1).bank g.active).failed = true))

/-- An image that passes every check fills the inactive bank and waits, and each check that fails refuses it with its number, as does an
update in progress; Pair, Unpair and the first LLDPDU change the pairing as R435 to R437 say; GET_CERTIFICATE and GET_MEASUREMENTS show
keys and digests; SET_KEK is accepted exactly in an open session of the suite with KEK_GEN not saturated. Refusals of Pair and LLDP ids as
numbers are log entry 34, SPDM answers by name log entry 35. (R429, R430, R433, R434, R435, R436, R437, R438, 16_management_and_trust.md)
-/
def Obligations.ImagesPairingAndKek : Prop :=
  ∀ (s : State),
    (∀ o : ImageForm, controllerUp s = true →
      let c := bitsOf o.header.toNat 32 8
      let svn := bitsOf o.header.toNat 96 8
      let f := s.fw c
      let refused (n : Nat) : Prop := Completes (.firmwareImage o) s fun t => t = { s with out := .image c n :: s.out }
      let formed := bitsOf o.header.toNat 0 32 = 0x4D584B46 ∧ 1 ≤ c ∧ c ≤ 4 ∧ bitsOf o.header.toNat 40 24 = 0 ∧
        bitsOf o.header.toNat 104 24 = 0 ∧ bitsOf o.header.toNat 704 64 = 0 ∧ bitsOf o.header.toNat 128 64 ≤ 62914560
      let holds := bitsOf o.header.toNat 128 64 = o.payload.length ∧ bitsOf o.header.toNat 192 512 = (digest512 o.payload).toNat
      (o.during = true → refused 5) ∧
      (o.during = false → (¬formed → refused 1) ∧ (formed → o.sigOk = false → refused 2) ∧ (formed → o.sigOk = true → ¬holds → refused 3) ∧
        (formed → o.sigOk = true → holds →
          (f.counter.toNat ≤ svn → Completes (.firmwareImage o) s fun t => t.out = .image c 0 :: s.out ∧ (t.fw c).pend = true ∧
            (t.fw c).active = f.active ∧ (t.fw c).counter = f.counter ∧
            (t.fw c).bank (!f.active) = ⟨o.header, o.sig, o.payload, false, 0⟩ ∧
            (t.fw c).bank f.active = f.bank f.active ∧ ∀ k, k ≠ c → t.fw k = s.fw k) ∧
          (svn < f.counter.toNat → refused 4)))) ∧
    (controllerUp s = true →
      let pairable_ := s.mod.state = .standby ∨ s.mod.state = .service
      let unpaired (t : State) : Prop := t.mgmt.pairRec = none ∧ t.mgmt.mid = 0xFFF ∧ t.mgmt.install = 0 ∧ t.mgmt.pairing = .unpaired ∧
        t.mgmt.attKey = s.mgmt.attKey + 1 ∧ t.mgmt.kek = none ∧ t.mgmt.kekGen = satAdd s.mgmt.kekGen 1 ∧ t.time.epoch = 0 ∧
        t.time.disc = .unset ∧ (∀ i, portWf i = true → (t.port i).state ≠ .training ∧ (t.port i).state ≠ .up)
      (∀ o : PairForm,
        (pairable_ → s.mgmt.pairing = .unpaired → o.mid ≠ 0xFFF → o.epoch ≠ 0 → Completes (.pair o) s fun t =>
          t.mgmt = { s.mgmt with
            pairRec := some ⟨o.install, o.mid, o.epoch, s.mgmt.lldp⟩, mid := o.mid, install := o.install, pairing := .paired
            measured := t.mgmt.measured } ∧
          t.time.epoch = o.epoch ∧ t.time.disc = (if s.time.disc = .unset then .free else s.time.disc) ∧ t.cores = s.cores) ∧
        (¬pairable_ ∨ s.mgmt.pairing ≠ .unpaired → Completes (.pair o) s fun t => t = { s with out := .redfish 409 :: s.out })) ∧
      (pairable_ → (∀ i, (s.port i).replay = [] ∧ (s.port i).waiting = []) → Completes .unpair s unpaired) ∧
      (¬pairable_ → Completes .unpair s fun t => t = { s with out := .redfish 409 :: s.out }) ∧
      (s.mgmt.pairing = .checking → (∀ i, (s.port i).replay = [] ∧ (s.port i).waiting = []) →
        (Completes .pairingTimeout s unpaired) ∧
        ∀ a b, (s.mgmt.pairRec.bind PairRecord.lldp = some (a, b) → Completes (.lldpdu ⟨a, b⟩) s fun t =>
            t = { s with mgmt := { s.mgmt with lldp := some (a, b), pairing := .paired } }) ∧
          (s.mgmt.pairRec.bind PairRecord.lldp ≠ some (a, b) → Completes (.lldpdu ⟨a, b⟩) s unpaired))) ∧
    (hostAlive s = true →
      let x := s.mgmt.spdm
      let answers (i : Instr) (name : String) (ok : Bool) (y : MgmtState) : Prop :=
        Completes i s fun t => t = { s with mgmt := y, out := .spdm name ok :: s.out }
      (∀ p ∈ ([(.getVersion, "GET_VERSION"), (.getCapabilities, "GET_CAPABILITIES"), (.negotiateAlgorithms, "NEGOTIATE_ALGORITHMS"),
          (.getDigests, "GET_DIGESTS"), (.challenge, "CHALLENGE")] : List (Instr × String)), answers p.1 p.2 true s.mgmt) ∧
      (Completes .getCertificate s fun t =>
        t = { s with out := .spdm "GET_CERTIFICATE" true :: .certificate s.mgmt.deviceKey s.mgmt.attKey :: s.out }) ∧
      (Completes .getMeasurements s fun t => ∃ l : List (BitVec 512), l.length = 8 ∧
        (∀ k < 8, l.getD k 0 = if k = 4 then Config.itemDigest 5 [] else s.mgmt.measured.get 0 (k + 1)) ∧
        t = { s with out := .spdm "GET_MEASUREMENTS" true :: .measurements l s.mgmt.attKey :: s.out }) ∧
      (∀ ok, answers (.keyExchange ⟨ok⟩) "KEY_EXCHANGE" true { s.mgmt with spdm := ⟨true, false, ok⟩ }) ∧
      (x.opening = true → answers .finish "FINISH" true { s.mgmt with spdm := ⟨false, true, x.suiteOk⟩ }) ∧
      (x.opening = false → answers .finish "FINISH" false s.mgmt) ∧
      (x.open_ = true → answers .endSession "END_SESSION" true { s.mgmt with spdm := ⟨false, false, false⟩ }) ∧
      (∀ kek, x.open_ = true → x.suiteOk = true → s.mgmt.kekGen ≠ 0xFFFFFFFF →
        answers (.setKek ⟨kek⟩) "SET_KEK" true { s.mgmt with kek := some kek, kekGen := s.mgmt.kekGen + 1 }) ∧
      (∀ kek, x.open_ = false ∨ x.suiteOk = false ∨ s.mgmt.kekGen = 0xFFFFFFFF → answers (.setKek ⟨kek⟩) "SET_KEK" false s.mgmt))

/-- With room the oldest record is written at ERR_TAIL with its phase and its vector; without room it is held, and a full buffer drops a
corrected one first and counts it; a failed write disables the ring; a merge window ends after 1 ms; ERR_CFG and ERR_HEAD take legal
writes. (R305, R444, R445, R446, R447, R493, 17_errors_and_spares.md) -/
def Obligations.ErrorRecordsAreDelivered : Prop :=
  ∀ (s : State),
    let e := s.err
    let room := 2 ^ e.size.toNat - (e.tail - e.head).toNat
    let only (t : State) (x : ErrState) : Prop := t = { s with err := x }
    let written (t : State) (r : ErrRec) (x : ErrState) : Prop :=
      t.err = { x with tail := e.tail + 1 } ∧ (∃ bytes, t.out = .msix e.msix ::
        .hostWrite (BitVec.ofNat 64 (e.base.toNat * 4096 + 64 * (e.tail.toNat % 2 ^ e.size.toNat))) bytes false :: s.out ∧
        bytes = bytesOf 8 r.stamp ++ bytesOf 4 r.seq ++ [r.cls.setWidth 8, r.unitKind] ++ bytesOf 2 r.code ++ bytesOf 2 r.unit ++
          bytesOf 2 r.binding ++ bytesOf 4 r.count ++ bytesOf 8 r.addr ++ bytesOf 8 r.first ++
          (r.detail ++ List.replicate 20 0).take 20 ++ bytesOfNat 4 ((1 - e.tail.toNat / 2 ^ e.size.toNat % 2) * 2 ^ 31)) ∧
      t = { s with err := t.err, out := t.out, perf := t.perf }
    (e.en = true → 0 < room → hostAlive s = true →
      (∀ h hs, e.hold = h :: hs → Completes .errorRecordWrite s fun t => written t h { e with hold := hs }) ∧
      (∀ f fs, e.hold = [] → e.formed = f :: fs → Completes .errorRecordWrite s fun t => written t f { e with formed := fs }) ∧
      (∀ f fs, e.hold = [] → e.formed = f :: fs → Completes .errorRingWrErr s fun t =>
        t.err.en = false ∧ t.err.wrErr = true ∧ t.err.hold = [f] ∧ t.err.ovf = true ∧ (∃ r, t.err.formed = fs ++ [r] ∧
          r.code = 0x0023 ∧ r.cls = 2 ∧ r.seq = e.seq) ∧ t.err.tail = e.tail ∧ t.out = s.out)) ∧
    (∀ f fs, e.en = false ∨ room = 0 → e.formed = f :: fs →
      (e.hold.length < 256 → Completes .errorRecordWrite s fun t => only t { e with formed := fs, hold := e.hold ++ [f], ovf := true }) ∧
      (256 ≤ e.hold.length → f.cls = 0 → Completes .errorRecordWrite s fun t =>
        only t { e with formed := fs, ovf := true, ceDrop := satAdd e.ceDrop 1 }) ∧
      (∀ pre c post, 256 ≤ e.hold.length → f.cls ≠ 0 → e.hold = pre ++ c :: post → c.cls = 0 → (∀ r ∈ post, r.cls ≠ 0) →
        Completes .errorRecordWrite s fun t =>
          only t { e with formed := fs, hold := pre ++ post ++ [f], ovf := true, ceDrop := satAdd e.ceDrop 1 }) ∧
      (256 ≤ e.hold.length → f.cls ≠ 0 → (∀ r ∈ e.hold, r.cls ≠ 0) → Completes .errorRecordWrite s fun t =>
        only t { e with formed := fs, ovf := true, ucDrop := satAdd e.ucDrop 1 })) ∧
    (∀ i w, e.windows[i]? = some w →
      (16000000 ≤ (s.time.count - w.first).toNat → Completes (.ceMergeWindow ⟨i⟩) s fun t =>
        t.err = { e with windows := e.windows.eraseIdx i, formed := e.formed ++ [{ w with seq := e.seq }], seq := e.seq + 1 } ∧
        t = { s with err := t.err, mgmt := t.mgmt }) ∧
      ((s.time.count - w.first).toNat < 16000000 → Completes (.ceMergeWindow ⟨i⟩) s fun t => t = s)) ∧
    (∀ v : Word, bar0Open s = true →
      let size : BitVec 5 := v.setWidth 5
      let new := { e with msix := v.extractLsb' 16 11, size := size }
      (e.en = true → v.getLsbD 31 = true → Completes (.errCfg ⟨v⟩) s fun t => only t { e with cfgRej := true }) ∧
      (e.en = true → v.getLsbD 31 = false → Completes (.errCfg ⟨v⟩) s fun t => only t { new with en := false }) ∧
      (e.en = false → v.getLsbD 31 = false → Completes (.errCfg ⟨v⟩) s fun t => only t new) ∧
      (e.en = false → v.getLsbD 31 = true → 6 ≤ size.toNat → size.toNat ≤ 16 → Completes (.errCfg ⟨v⟩) s fun t =>
        only t { new with en := true, head := 0, tail := 0 }) ∧
      (e.en = false → v.getLsbD 31 = true → size.toNat < 6 ∨ 16 < size.toNat → Completes (.errCfg ⟨v⟩) s fun t =>
        only t { e with cfgRej := true })) ∧
    (∀ h : Word, barsAnswer s = true →
      ((h - e.head).toNat ≤ (e.tail - e.head).toNat → Completes (.errHead ⟨h⟩) s fun t => only t { e with head := h }) ∧
      ((e.tail - e.head).toNat < (h - e.head).toNat → Completes (.errHead ⟨h⟩) s fun t => only t { e with headRej := true }))

/-- BAR4 reads and writes reach the stacks under the window key and nothing else, and in FAULTED an open window reads free bytes; counters
freeze, clear, select and take writes; BAR0 writes of the wrong size or alignment are ignored; BEAT_SKEW, ROUTE_SEL, BAR4_WIN, SQ_BASE,
CAL_SEL and JUMP_ACCEPT take theirs outside FAULTED, where BEAT_SKEW and MOD_CMD do not and the W1C fields of PWR_STATUS do; BAR2 writes
ring doorbells; BAR4 resizes, and D3hot stops BAR writes. Reads in FAULTED and configuration space are the choices of log entries 37 and
43. (R299, R296, R297, R303, R470, R471, R473, R478, R479, R480, R415, 19_register_map.md) -/
def Obligations.RegistersAndCounters : Prop :=
  ∀ (s : State),
    let size := 2 ^ (30 + min s.pcie.barSize.toNat 8)
    let window := s.pcie.il.toNat * 2 ^ 42 + s.pcie.base.toNat * 2 ^ 30 / size * size
    (∀ off len, barsAnswer s = true → off.toNat < size → s.pcie.en = false ∨ s.pcie.il = 0 → Completes (.bar4Read ⟨off, len⟩) s fun t =>
      t = { s with out := .bar4 (List.replicate len.toNat 0) false :: s.out }) ∧
    (∀ off len, s.mod.state = .faulted → barsAnswer s = true → off.toNat < size → s.pcie.en = true → s.pcie.il ≠ 0 → Completes (.bar4Read ⟨off, len⟩) s fun t =>
      ∃ l, t = { s with out := .bar4 l false :: s.out, free := t.free }) ∧
    (computeOn s = true → barsAnswer s = true → s.pcie.en = true → s.pcie.il ≠ 0 → ∀ off : BitVec 38, off.toNat % 64 = 0 → off.toNat < size →
      let a := stackAddr (window + off.toNat)
      palvanValid (window + off.toNat) = true →
      (channelLost s a = false → Completes (.bar4Read ⟨off, 64⟩) s fun t =>
        t.out = .bar4 (unitBytes s (s.keyOf s.pcie.key) a) (s.stk.psn.get false (a / 64)) :: s.out ∧
        t = { s with out := t.out, perf := t.perf, stk := t.stk } ∧ StacksStay s t) ∧
      (∀ bytes, bytes.length = 64 → Completes (.bar4Write ⟨off, bytes⟩) s fun t =>
        (∀ j < 64, t.stk.mem.read (a + j) = bytes.getD j 0) ∧ (∀ y, y < a ∨ a + 64 ≤ y → t.stk.mem.read y = s.stk.mem.read y) ∧
        t.stk.psn.get false (a / 64) = false ∧ t.stk.wrote.get none (a / 64) = some (s.keyOf s.pcie.key) ∧
        t = { s with stk := t.stk, perf := t.perf })) ∧
    (bar0Open s = true →
      (Completes .freeze s fun t => t = { s with perf := { s.perf with freeze := true, snap := s.time.count } }) ∧
      (Completes .clear s fun t => t = { s with perf := { s.perf with cnt := .empty, snap := s.time.count } }) ∧
      (∀ (n : BitVec 6) (v : Word), Completes (.perfSel ⟨n, v⟩) s fun t => t.perf.sel.get 0 n.toNat = v &&& 0xFFFF00FF ∧
        (∀ k, k ≠ n.toNat → t.perf.sel.get 0 k = s.perf.sel.get 0 k) ∧ t = { s with perf := { s.perf with sel := t.perf.sel } }) ∧
      (∀ (n : BitVec 6) (v : DWord) high events, Completes (.perfCnt ⟨n, true, high, v, events⟩) s fun t =>
        t.perf.cnt.get 0 n.toNat = (if s.perf.freeze = false ∧ perfCounts (s.perf.sel.get 0 n.toNat) = true then
          v + BitVec.ofNat 64 events else v) ∧
        (∀ k, k ≠ n.toNat → t.perf.cnt.get 0 k = s.perf.cnt.get 0 k) ∧ t = { s with perf := { s.perf with cnt := t.perf.cnt } })) ∧
    (barsAnswer s = true →
      (∀ off size v, size ≠ 4 → size ≠ 8 → Completes (.regWrite ⟨.bar0, off, size, v⟩) s fun t => t = s) ∧
      (∀ off v, off.toNat % 4 ≠ 0 → Completes (.regWrite ⟨.bar0, off, 4, v⟩) s fun t => t = s) ∧
      (s.mod.state ≠ .faulted →
        (∀ v : DWord, Completes (.regWrite ⟨.bar0, 0x2010, 4, v⟩) s fun t => t = { s with time := { s.time with skew := v.setWidth 24 } }) ∧
        (∀ v : DWord, Completes (.regWrite ⟨.bar0, 0x1100, 4, v⟩) s fun t => t = { s with links := { s.links with sel := v.setWidth 12 } }) ∧
        (∀ v : DWord, Completes (.regWrite ⟨.bar0, 0x1080, 8, v⟩) s fun t => t = { s with pcie := { s.pcie with
          key := v.extractLsb' 56 8, il := v.extractLsb' 54 2, base := v.extractLsb' 30 12, en := v.getLsbD 0 } }) ∧
        (∀ (r : RingId) (v : DWord), (s.ring r).en = false → (s.ring r).descs = [] → (s.ring r).inFetch = 0 → (s.ring r).stale = [] →
          Completes (.regWrite ⟨.bar0, BitVec.ofNat 26 (0x10000 + 32 * r.toNat), 8, v⟩) s fun t =>
            t.ring r = { s.ring r with base := v.extractLsb' 12 52 } ∧ (∀ x, x ≠ r → t.ring x = s.ring x) ∧
            t = { s with rings := t.rings }) ∧
        (∀ v : DWord, Completes (.regWrite ⟨.bar0, 0x1700, 4, v⟩) s fun t => t = { s with cal := { s.cal with
          selKind := v.extractLsb' 16 3, selGroup := v.extractLsb' 8 8, selLane := v.setWidth 6 } }) ∧
        (∀ v : DWord, let accepts := v.getLsbD 9 && s.time.jumpPend
          Completes (.regWrite ⟨.bar0, 0x2028, 4, v⟩) s fun t => t = { s with time := { s.time with
            lost := s.time.lost && !v.getLsbD 11, cfgRej := s.time.cfgRej && !v.getLsbD 10, jumpOk := s.time.jumpOk || accepts
            slewing := if accepts then !s.time.jumpDir else s.time.slewing } })) ∧
      (∀ (r : RingId) (low : BitVec 12) size (v : DWord),
        let q := s.ring r
        let p : Word := v.setWidth 32
        let rings := (p - q.ci).toNat ≤ 2 ^ q.size.toNat ∧ (q.pi - q.ci).toNat ≤ (p - q.ci).toNat ∧ q.en = true ∧ low = 0 ∧ (size = 4 ∨ size = 8)
        let put (x : SubRing) := Completes (.regWrite ⟨.bar2, BitVec.ofNat 26 (4096 * r.toNat + low.toNat), size, v⟩) s fun t => OnlyRing s t r x
        (rings → put { q with pi := p }) ∧ (¬rings → put { q with dbRej := true })) ∧
      (∀ off size v, (v.toNat ≤ 8 → Completes (.regWrite ⟨.barSize, off, size, v⟩) s fun t =>
          t = { s with pcie := { s.pcie with barSize := v.setWidth 4 } }) ∧
        (8 < v.toNat → Completes (.regWrite ⟨.barSize, off, size, v⟩) s fun t => t = s)) ∧
      (s.mod.state = .faulted → ∀ v : DWord,
        (Completes (.regWrite ⟨.bar0, 0x2010, 4, v⟩) s fun t => t = s) ∧
        (Completes (.regWrite ⟨.bar0, 0x1010, 4, v⟩) s fun t => t = { s with mod := { s.mod with cmdRej := true } })) ∧
      (∀ v : DWord, Completes (.regWrite ⟨.bar0, 0x160C, 4, v⟩) s fun t => t = { s with power := { s.power with
        overLim := s.power.overLim && !v.getLsbD 5, cfgRej := s.power.cfgRej && !v.getLsbD 4,
        ovSeen := s.power.ovSeen && !v.getLsbD 3, uvSeen := s.power.uvSeen && !v.getLsbD 2 } })) ∧
    (hostAlive s = true → s.mod.perstLow = false → ∀ off size v,
      (Completes (.regWrite ⟨.powerState, off, size, v⟩) s fun t => t = { s with pcie := { s.pcie with d3hot := v.getLsbD 0 } }) ∧
      (s.pcie.d3hot = true → ∀ space ∈ [RegSpace.bar0, .bar2], Completes (.regWrite ⟨space, off, size, v⟩) s fun t => t = s))

/-- For every command c and state s, a step of s with c in front of its queue is exec of c on s: the queue is the model (log entry 1), not
the manual. (INDEX.md) -/
def Obligations.AStepRunsTheFrontCommand : Prop :=
  ∀ (c : Instr) (s : State), step { s with pending := c :: s.pending } = exec c s

/-- exec leaves the queue as it is, so after a step the queue is its own tail; with nothing queued the beat counter advances by one tick
above STANDBY until its last value, a slew removes at most one tick of the difference, the facility side counts on, its sensors read anew
every 10 ms, and at most one running core issues. A core that issues runs exec of the instruction that the word at the pc of its first
ready thread spells. The queue and what an idle step does are the choice of log entry 1, the sampling that of log entry 43, what it ends
that of log entry 31. (R29, R30, R31, R38, R66, R73, R90, 02_beat_time.md, 03_control_core.md) -/
def Obligations.StepsTakeOneCommandInOrder : Prop :=
  (∀ (c : Instr) (s t : State), exec c s = .next t → t.pending = s.pending) ∧
  (∀ s t : State, step s = .next t → t.pending = s.pending.tail) ∧
  (∀ s : State, s.pending = [] →
    let rests := s.mod.state = .off ∨ s.mod.state = .standby ∨ s.time.count = BitVec.allOnes 64
    let up := { s.mgmt with uptime := s.mgmt.uptime + 1 }
    ∃ n d m, let u := { s with free := n, mgmt := m, time := if rests then s.time else { s.time with count := s.time.count + 1, diff := d } }
      (d = s.time.diff ∨ s.time.slewing = true ∧ d = s.time.diff.map nearer) ∧
      (s.mod.state = .off → m = s.mgmt) ∧
      (s.mod.state ≠ .off → up.uptime % 160000000 ≠ 0 ∨ s.mgmt.restarting = true → m = up) ∧
      (s.mod.state ≠ .off → m = { up with sensors := m.sensors, leak := m.leak, hot := m.hot, alert := m.alert } ∧
        (∀ k, k < 304 ∨ 412 ≤ k → m.sensors.get 0 k = s.mgmt.sensors.get 0 k) ∧ (m.leak = true → s.mgmt.leak = true) ∧
        (m.hot = true → s.mgmt.hot = true) ∧ (m.alert = true → s.mgmt.alert = true)) ∧
      (step s = .next u ∨ ∃ c ∈ runningCores s, step s = issueCore c u)) ∧
  ∀ (s : State) (c : CoreId) (h : ThreadId) (i : Instr), (threadsFrom (s.core c).ctl.last).find? (issues s c) = some h →
    (let pc := (s.thread c h).pc
     decodeWord c h (wordAt (s.core c) pc) (wordAt (s.core c) (pc + 4)) = some i) →
    issueCore c s = exec i (s.modCore c fun k => { k with ctl := { k.ctl with last := h } })

/-- State.reset is in RISING from STANDBY with an empty queue, meets the invariant, and reads the reset values of the beat, breath, power,
calibration, ring, binding, port and thread registers. That it is a module never commissioned, right after a cold reset, is the choice of
log entry 3. (R8, R43, R299, R301, R305, R409, R415, R458, 18_startup_and_states.md) -/
def Obligations.ResetMeetsInvariant : Prop :=
  let s := State.reset
  Inv s ∧ s.pending = [] ∧ s.mod.state = .rising ∧ s.mod.prev = .standby ∧ s.mod.cause = 0 ∧ s.mod.lastReset = 0 ∧ s.time.count = 0 ∧ s.time.epoch = 0 ∧ s.time.skew = 0 ∧ s.time.disc = .unset ∧
    s.time.period = 1000 ∧ s.time.len = 50 ∧ s.power.limit = 7600 ∧ s.cal.minV = 20 ∧ s.cal.minH = 64 ∧ s.cal.drift = 16 ∧ s.cal.en = 7 ∧
    (∀ r, (s.ring r).en = false) ∧ (∀ c, (s.cq c).en = false) ∧ s.err.en = false ∧ (∀ b, (s.bnd b).state = .free) ∧
    (∀ i, portWf i = true → (s.port i).en = true ∧ (s.port i).state = .off) ∧ s.mgmt.kek = none ∧
    ∀ c h, (s.thread c h).run = false

/-- From every state whose stack memory is in canonical form, whose event log holds at most 65,536 records, whose mailbox queue at most 64
messages and whose error hold buffer at most 256 records, every step that answers a next state leads to such a state. (R424, R427, R446,
R270, 16_management_and_trust.md, 17_errors_and_spares.md) -/
def Obligations.StepKeepsInvariant : Prop :=
  ∀ s t : State, Inv s → step s = .next t → Inv t

/-- exec answers a next state for every well-formed command in every state, and the fault noSuchUnit, and nothing else, for a command that
names a port, lane, row, channel, source or site that the module does not have: the choice of log entry 8. (R375, R189, R453, R14,
01_panel_organisation.md) -/
def Obligations.WellFormedCommandsNeverStop : Prop :=
  ∀ (c : Instr) (s : State), (c.wf = true → ∃ t, exec c s = .next t) ∧ (c.wf = false → exec c s = .fault .noSuchUnit)
end

