-- ==== Sys2Proof/Laws/Table.lean ====
section
/-!
SUPPORT. Laws of sparse tables: a read after a write, and every operation keeps the canonical form.
-/

namespace Sys2Proof.Machine

variable {α : Type}

theorem lookup_insert_same (d v : α) (k : Nat) (l : List (Nat × α)) :
    lookupEntry d k (insertEntry k v l) = v := by
  induction l with
  | nil => simp [insertEntry, lookupEntry]
  | cons e r ih =>
    obtain ⟨j, w⟩ := e
    by_cases h : k < j
    · simp [insertEntry, h, lookupEntry]
    · by_cases h' : k = j
      · simp [insertEntry, h', lookupEntry]
      · simp [insertEntry, h, h', lookupEntry, ih]

theorem lookup_insert_other (d v : α) {k j : Nat} (hk : j ≠ k) (l : List (Nat × α)) :
    lookupEntry d j (insertEntry k v l) = lookupEntry d j l := by
  induction l with
  | nil => simp [insertEntry, lookupEntry, hk]
  | cons e r ih =>
    obtain ⟨i, w⟩ := e
    by_cases h : k < i
    · simp [insertEntry, h, lookupEntry, hk]
    · by_cases h' : k = i
      · subst h'; simp [insertEntry, lookupEntry, hk]
      · simp [insertEntry, h, h', lookupEntry, ih]

theorem lookup_drop_same (d : α) (k : Nat) (l : List (Nat × α)) :
    lookupEntry d k (dropEntry k l) = d := by
  induction l with
  | nil => rfl
  | cons e r ih =>
    obtain ⟨j, w⟩ := e
    by_cases h : k = j
    · simpa [dropEntry, h] using h ▸ ih
    · simp [dropEntry, h, lookupEntry, ih]

theorem lookup_drop_other (d : α) {k j : Nat} (hk : j ≠ k) (l : List (Nat × α)) :
    lookupEntry d j (dropEntry k l) = lookupEntry d j l := by
  induction l with
  | nil => rfl
  | cons e r ih =>
    obtain ⟨i, w⟩ := e
    by_cases h : k = i
    · subst h; simp [dropEntry, lookupEntry, hk, ih]
    · simp [dropEntry, h, lookupEntry, ih]

variable [DecidableEq α]

/-- A key reads the value last written to it. -/
@[simp] theorem Table.get_set_same (d v : α) (t : Table α) (k : Nat) : (t.set d k v).get d k = v := by
  unfold Table.set
  split
  · next h => simp [Table.get, lookup_drop_same, h]
  · simp [Table.get, lookup_insert_same]

/-- A write leaves every other key alone. -/
theorem Table.get_set_other (d v : α) (t : Table α) {k j : Nat} (h : j ≠ k) :
    (t.set d k v).get d j = t.get d j := by
  unfold Table.set
  split <;> simp [Table.get, lookup_drop_other _ h, lookup_insert_other _ _ h]

theorem Table.get_set (d v : α) (t : Table α) (k j : Nat) :
    (t.set d k v).get d j = if j = k then v else t.get d j := by
  by_cases h : j = k
  · simp [h]
  · simp [h, Table.get_set_other]

omit [DecidableEq α] in
@[simp] theorem Table.get_empty (d : α) (k : Nat) : (Table.empty : Table α).get d k = d := rfl

omit [DecidableEq α] in
theorem mem_insert_key {k : Nat} {v : α} {l : List (Nat × α)} {e : Nat × α}
    (h : e ∈ insertEntry k v l) : e = (k, v) ∨ e ∈ l := by
  induction l with
  | nil => simpa [insertEntry] using h
  | cons f r ih =>
    obtain ⟨j, w⟩ := f
    unfold insertEntry at h
    split at h
    · simpa using h
    · split at h
      · rcases List.mem_cons.1 h with h | h
        · exact .inl h
        · exact .inr (List.mem_cons_of_mem _ h)
      · rcases List.mem_cons.1 h with h | h
        · exact .inr (h ▸ List.mem_cons_self ..)
        · rcases ih h with h | h
          · exact .inl h
          · exact .inr (List.mem_cons_of_mem _ h)

omit [DecidableEq α] in
theorem insert_sorted {k : Nat} {v : α} {l : List (Nat × α)}
    (h : l.Pairwise fun a b => a.1 < b.1) : (insertEntry k v l).Pairwise fun a b => a.1 < b.1 := by
  induction l with
  | nil => simp [insertEntry]
  | cons e r ih =>
    obtain ⟨j, w⟩ := e
    have hr := (List.pairwise_cons.1 h).2
    have hj := (List.pairwise_cons.1 h).1
    unfold insertEntry
    split
    · next hk =>
      refine List.pairwise_cons.2 ⟨fun a ha => ?_, h⟩
      rcases List.mem_cons.1 ha with ha | ha
      · exact ha ▸ hk
      · exact lt_trans hk (hj a ha)
    · split
      · next hk => exact List.pairwise_cons.2 ⟨fun a ha => hk ▸ hj a ha, hr⟩
      · next hk hk' =>
        refine List.pairwise_cons.2 ⟨fun a ha => ?_, ih hr⟩
        rcases mem_insert_key ha with ha | ha
        · subst ha; show j < k; omega
        · exact hj a ha

omit [DecidableEq α] in
theorem drop_sublist (k : Nat) (l : List (Nat × α)) : (dropEntry k l).Sublist l := by
  induction l with
  | nil => exact List.Sublist.refl _
  | cons e r ih =>
    obtain ⟨j, w⟩ := e
    unfold dropEntry
    split
    · exact ih.cons _
    · exact ih.cons_cons _

theorem Table.wf_iff (d : α) (t : Table α) :
    t.wf d = true ↔ (t.entries.Pairwise fun a b => a.1 < b.1) ∧ ∀ e ∈ t.entries, e.2 ≠ d := by
  simp [Table.wf, List.all_eq_true]

/-- A write keeps the canonical form. -/
theorem Table.wf_set (d v : α) (t : Table α) (k : Nat) (h : t.wf d = true) : (t.set d k v).wf d = true := by
  rw [Table.wf_iff] at h ⊢
  unfold Table.set
  split
  · exact ⟨h.1.sublist (drop_sublist ..), fun e he => h.2 e ((drop_sublist k t.entries).subset he)⟩
  · next hv =>
    refine ⟨insert_sorted h.1, fun e he => ?_⟩
    rcases mem_insert_key he with he | he
    · subst he; exact hv
    · exact h.2 e he

theorem Table.wf_modify (d : α) (t : Table α) (k : Nat) (f : α → α) (h : t.wf d = true) :
    (t.modify d k f).wf d = true := Table.wf_set _ _ _ _ h

@[simp] theorem Table.wf_empty (d : α) : (Table.empty : Table α).wf d = true := by
  simp [Table.wf, Table.empty]

theorem get_foldr_set (d : α) (f : Nat → α → α) (k : Nat) (l : List (Nat × α)) :
    (l.foldr (fun e r => Table.set d r e.1 (f e.1 e.2)) (Table.empty : Table α)).get d k =
      if ∃ e ∈ l, e.1 = k then f k (lookupEntry d k l) else d := by
  induction l with
  | nil => simp
  | cons e r ih =>
    obtain ⟨j, v⟩ := e
    simp only [List.foldr_cons, Table.get_set, ih, lookupEntry]
    by_cases h : k = j
    · subst h; simp
    · have e : (∃ e ∈ (j, v) :: r, e.1 = k) ↔ ∃ e ∈ r, e.1 = k := by
        constructor
        · rintro ⟨e, he, rfl⟩
          rcases List.mem_cons.1 he with rfl | he
          · exact absurd rfl h
          · exact ⟨e, he, rfl⟩
        · rintro ⟨e, he, rfl⟩
          exact ⟨e, List.mem_cons_of_mem _ he, rfl⟩
      simp only [e, if_neg h]

/-- What a key reads after `mapListed`. -/
theorem Table.get_mapListed (d : α) (t : Table α) (f : Nat → α → α) (k : Nat) (hd : f k d = d) :
    (t.mapListed d f).get d k = f k (t.get d k) := by
  have h := get_foldr_set d f k t.entries
  unfold Table.mapListed
  rw [h]
  unfold Table.get
  split
  · rfl
  · next h =>
    have : lookupEntry d k t.entries = d := by
      revert h
      generalize t.entries = l
      induction l with
      | nil => intro _; rfl
      | cons e r ih =>
        intro h
        simp only [List.mem_cons, exists_eq_or_imp, not_or] at h
        simp [lookupEntry, Ne.symm h.1, ih h.2]
    rw [this, hd]

/-- `mapListed` gives the canonical form. -/
theorem Table.wf_mapListed (d : α) (t : Table α) (f : Nat → α → α) : (t.mapListed d f).wf d = true := by
  unfold Table.mapListed
  induction t.entries with
  | nil => simp
  | cons e r ih => exact Table.wf_set _ _ _ _ ih

/-- Forgetting keys keeps the canonical form. -/
theorem Table.wf_keep (d : α) (t : Table α) (p : Nat → Bool) (h : t.wf d = true) : (t.keep p).wf d = true := by
  rw [Table.wf_iff] at h ⊢
  exact ⟨h.1.sublist List.filter_sublist, fun e he => h.2 e (List.mem_of_mem_filter he)⟩

/-- Every memory operation keeps the canonical form. -/
theorem Memory.wf_write (m : Memory) (a : Nat) (b : Byte) (h : m.wf = true) : (m.write a b).wf = true :=
  Table.wf_set _ _ _ _ h

theorem Memory.wf_writeBytes (l : List Byte) (m : Memory) (a : Nat) (h : m.wf = true) :
    (m.writeBytes a l).wf = true := by
  induction l generalizing m a with
  | nil => exact h
  | cons b r ih => exact ih _ _ (Memory.wf_write _ _ _ h)

theorem Memory.wf_writeNat (m : Memory) (a n v : Nat) (h : m.wf = true) : (m.writeNat a n v).wf = true :=
  Memory.wf_writeBytes _ _ _ h

theorem Memory.wf_zero (m : Memory) (lo n : Nat) (h : m.wf = true) : (m.zero lo n).wf = true :=
  Table.wf_keep _ _ _ h

@[simp] theorem Memory.read_write_same (m : Memory) (a : Nat) (b : Byte) : (m.write a b).read a = b :=
  Table.get_set_same ..

theorem Memory.read_write_other (m : Memory) {a a' : Nat} (b : Byte) (h : a' ≠ a) :
    (m.write a b).read a' = m.read a' := Table.get_set_other _ _ _ h

/-- Writing bytes leaves every address outside them alone. -/
theorem Memory.read_writeBytes_other (l : List Byte) (m : Memory) (a a' : Nat)
    (h : a' < a ∨ a + l.length ≤ a') : (m.writeBytes a l).read a' = m.read a' := by
  induction l generalizing m a with
  | nil => rfl
  | cons b r ih =>
    simp only [List.length_cons] at h
    show ((m.write a b).writeBytes (a + 1) r).read a' = _
    rw [ih _ _ (by omega), Memory.read_write_other _ _ (by omega)]

end Sys2Proof.Machine
end

