-- ==== Sys2Proof/Laws/State.lean ====
section
/-!
SUPPORT. What each update of the state leaves alone: one lemma per field and per unit that it does not touch; and what a unit reads as
after it was written.
-/

namespace Sys2Proof.Machine

variable (s : State)

/-! ## setCore -/

@[simp] theorem setCore_time (c : CoreId) (k : Core) : (s.setCore c k).time = s.time := rfl
@[simp] theorem setCore_mod (c : CoreId) (k : Core) : (s.setCore c k).mod = s.mod := rfl
@[simp] theorem setCore_pcie (c : CoreId) (k : Core) : (s.setCore c k).pcie = s.pcie := rfl
@[simp] theorem setCore_rings (c : CoreId) (k : Core) : (s.setCore c k).rings = s.rings := rfl
@[simp] theorem setCore_cqs (c : CoreId) (k : Core) : (s.setCore c k).cqs = s.cqs := rfl
@[simp] theorem setCore_binds (c : CoreId) (k : Core) : (s.setCore c k).binds = s.binds := rfl
@[simp] theorem setCore_slots (c : CoreId) (k : Core) : (s.setCore c k).slots = s.slots := rfl
@[simp] theorem setCore_keyBase (c : CoreId) (k : Core) : (s.setCore c k).keyBase = s.keyBase := rfl
@[simp] theorem setCore_nextKey (c : CoreId) (k : Core) : (s.setCore c k).nextKey = s.nextKey := rfl
@[simp] theorem setCore_tiles (c : CoreId) (k : Core) : (s.setCore c k).tiles = s.tiles := rfl
@[simp] theorem setCore_stk (c : CoreId) (k : Core) : (s.setCore c k).stk = s.stk := rfl
@[simp] theorem setCore_hub (c : CoreId) (k : Core) : (s.setCore c k).hub = s.hub := rfl
@[simp] theorem setCore_links (c : CoreId) (k : Core) : (s.setCore c k).links = s.links := rfl
@[simp] theorem setCore_power (c : CoreId) (k : Core) : (s.setCore c k).power = s.power := rfl
@[simp] theorem setCore_cal (c : CoreId) (k : Core) : (s.setCore c k).cal = s.cal := rfl
@[simp] theorem setCore_mgmt (c : CoreId) (k : Core) : (s.setCore c k).mgmt = s.mgmt := rfl
@[simp] theorem setCore_err (c : CoreId) (k : Core) : (s.setCore c k).err = s.err := rfl
@[simp] theorem setCore_spares (c : CoreId) (k : Core) : (s.setCore c k).spares = s.spares := rfl
@[simp] theorem setCore_perf (c : CoreId) (k : Core) : (s.setCore c k).perf = s.perf := rfl
@[simp] theorem setCore_out (c : CoreId) (k : Core) : (s.setCore c k).out = s.out := rfl
@[simp] theorem setCore_free (c : CoreId) (k : Core) : (s.setCore c k).free = s.free := rfl
@[simp] theorem setCore_pending (c : CoreId) (k : Core) : (s.setCore c k).pending = s.pending := rfl
@[simp] theorem setCore_tile (c : CoreId) (k : Core) (n₁ : TileId) : (s.setCore c k).tile n₁ = s.tile n₁ := rfl
@[simp] theorem setCore_bnd (c : CoreId) (k : Core) (b₁ : BindingId) : (s.setCore c k).bnd b₁ = s.bnd b₁ := rfl
@[simp] theorem setCore_ring (c : CoreId) (k : Core) (r₁ : RingId) : (s.setCore c k).ring r₁ = s.ring r₁ := rfl
@[simp] theorem setCore_desc (c : CoreId) (k : Core) (r₁ : RingId) (i₁ : Nat) : (s.setCore c k).desc r₁ i₁ = s.desc r₁ i₁ := rfl
@[simp] theorem setCore_allDescs (c : CoreId) (k : Core) : (s.setCore c k).allDescs = s.allDescs := rfl
@[simp] theorem setCore_cq (c : CoreId) (k : Core) (c₁ : CqId) : (s.setCore c k).cq c₁ = s.cq c₁ := rfl
@[simp] theorem setCore_slot (c : CoreId) (k : Core) (k₁ : SlotId) : (s.setCore c k).slot k₁ = s.slot k₁ := rfl
@[simp] theorem setCore_keyOf (c : CoreId) (k : Core) (k₁ : SlotId) : (s.setCore c k).keyOf k₁ = s.keyOf k₁ := rfl
@[simp] theorem setCore_port (c : CoreId) (k : Core) (i₁ : BitVec 5) : (s.setCore c k).port i₁ = s.port i₁ := rfl

/-! ## modCore -/

@[simp] theorem modCore_time (c : CoreId) (f : Core → Core) : (s.modCore c f).time = s.time := rfl
@[simp] theorem modCore_mod (c : CoreId) (f : Core → Core) : (s.modCore c f).mod = s.mod := rfl
@[simp] theorem modCore_pcie (c : CoreId) (f : Core → Core) : (s.modCore c f).pcie = s.pcie := rfl
@[simp] theorem modCore_rings (c : CoreId) (f : Core → Core) : (s.modCore c f).rings = s.rings := rfl
@[simp] theorem modCore_cqs (c : CoreId) (f : Core → Core) : (s.modCore c f).cqs = s.cqs := rfl
@[simp] theorem modCore_binds (c : CoreId) (f : Core → Core) : (s.modCore c f).binds = s.binds := rfl
@[simp] theorem modCore_slots (c : CoreId) (f : Core → Core) : (s.modCore c f).slots = s.slots := rfl
@[simp] theorem modCore_keyBase (c : CoreId) (f : Core → Core) : (s.modCore c f).keyBase = s.keyBase := rfl
@[simp] theorem modCore_nextKey (c : CoreId) (f : Core → Core) : (s.modCore c f).nextKey = s.nextKey := rfl
@[simp] theorem modCore_tiles (c : CoreId) (f : Core → Core) : (s.modCore c f).tiles = s.tiles := rfl
@[simp] theorem modCore_stk (c : CoreId) (f : Core → Core) : (s.modCore c f).stk = s.stk := rfl
@[simp] theorem modCore_hub (c : CoreId) (f : Core → Core) : (s.modCore c f).hub = s.hub := rfl
@[simp] theorem modCore_links (c : CoreId) (f : Core → Core) : (s.modCore c f).links = s.links := rfl
@[simp] theorem modCore_power (c : CoreId) (f : Core → Core) : (s.modCore c f).power = s.power := rfl
@[simp] theorem modCore_cal (c : CoreId) (f : Core → Core) : (s.modCore c f).cal = s.cal := rfl
@[simp] theorem modCore_mgmt (c : CoreId) (f : Core → Core) : (s.modCore c f).mgmt = s.mgmt := rfl
@[simp] theorem modCore_err (c : CoreId) (f : Core → Core) : (s.modCore c f).err = s.err := rfl
@[simp] theorem modCore_spares (c : CoreId) (f : Core → Core) : (s.modCore c f).spares = s.spares := rfl
@[simp] theorem modCore_perf (c : CoreId) (f : Core → Core) : (s.modCore c f).perf = s.perf := rfl
@[simp] theorem modCore_out (c : CoreId) (f : Core → Core) : (s.modCore c f).out = s.out := rfl
@[simp] theorem modCore_free (c : CoreId) (f : Core → Core) : (s.modCore c f).free = s.free := rfl
@[simp] theorem modCore_pending (c : CoreId) (f : Core → Core) : (s.modCore c f).pending = s.pending := rfl
@[simp] theorem modCore_tile (c : CoreId) (f : Core → Core) (n₁ : TileId) : (s.modCore c f).tile n₁ = s.tile n₁ := rfl
@[simp] theorem modCore_bnd (c : CoreId) (f : Core → Core) (b₁ : BindingId) : (s.modCore c f).bnd b₁ = s.bnd b₁ := rfl
@[simp] theorem modCore_ring (c : CoreId) (f : Core → Core) (r₁ : RingId) : (s.modCore c f).ring r₁ = s.ring r₁ := rfl
@[simp] theorem modCore_desc (c : CoreId) (f : Core → Core) (r₁ : RingId) (i₁ : Nat) : (s.modCore c f).desc r₁ i₁ = s.desc r₁ i₁ := rfl
@[simp] theorem modCore_allDescs (c : CoreId) (f : Core → Core) : (s.modCore c f).allDescs = s.allDescs := rfl
@[simp] theorem modCore_cq (c : CoreId) (f : Core → Core) (c₁ : CqId) : (s.modCore c f).cq c₁ = s.cq c₁ := rfl
@[simp] theorem modCore_slot (c : CoreId) (f : Core → Core) (k₁ : SlotId) : (s.modCore c f).slot k₁ = s.slot k₁ := rfl
@[simp] theorem modCore_keyOf (c : CoreId) (f : Core → Core) (k₁ : SlotId) : (s.modCore c f).keyOf k₁ = s.keyOf k₁ := rfl
@[simp] theorem modCore_port (c : CoreId) (f : Core → Core) (i₁ : BitVec 5) : (s.modCore c f).port i₁ = s.port i₁ := rfl

/-! ## setThread -/

@[simp] theorem setThread_time (c : CoreId) (h : ThreadId) (x : Thread) : (s.setThread c h x).time = s.time := rfl
@[simp] theorem setThread_mod (c : CoreId) (h : ThreadId) (x : Thread) : (s.setThread c h x).mod = s.mod := rfl
@[simp] theorem setThread_pcie (c : CoreId) (h : ThreadId) (x : Thread) : (s.setThread c h x).pcie = s.pcie := rfl
@[simp] theorem setThread_rings (c : CoreId) (h : ThreadId) (x : Thread) : (s.setThread c h x).rings = s.rings := rfl
@[simp] theorem setThread_cqs (c : CoreId) (h : ThreadId) (x : Thread) : (s.setThread c h x).cqs = s.cqs := rfl
@[simp] theorem setThread_binds (c : CoreId) (h : ThreadId) (x : Thread) : (s.setThread c h x).binds = s.binds := rfl
@[simp] theorem setThread_slots (c : CoreId) (h : ThreadId) (x : Thread) : (s.setThread c h x).slots = s.slots := rfl
@[simp] theorem setThread_keyBase (c : CoreId) (h : ThreadId) (x : Thread) : (s.setThread c h x).keyBase = s.keyBase := rfl
@[simp] theorem setThread_nextKey (c : CoreId) (h : ThreadId) (x : Thread) : (s.setThread c h x).nextKey = s.nextKey := rfl
@[simp] theorem setThread_tiles (c : CoreId) (h : ThreadId) (x : Thread) : (s.setThread c h x).tiles = s.tiles := rfl
@[simp] theorem setThread_stk (c : CoreId) (h : ThreadId) (x : Thread) : (s.setThread c h x).stk = s.stk := rfl
@[simp] theorem setThread_hub (c : CoreId) (h : ThreadId) (x : Thread) : (s.setThread c h x).hub = s.hub := rfl
@[simp] theorem setThread_links (c : CoreId) (h : ThreadId) (x : Thread) : (s.setThread c h x).links = s.links := rfl
@[simp] theorem setThread_power (c : CoreId) (h : ThreadId) (x : Thread) : (s.setThread c h x).power = s.power := rfl
@[simp] theorem setThread_cal (c : CoreId) (h : ThreadId) (x : Thread) : (s.setThread c h x).cal = s.cal := rfl
@[simp] theorem setThread_mgmt (c : CoreId) (h : ThreadId) (x : Thread) : (s.setThread c h x).mgmt = s.mgmt := rfl
@[simp] theorem setThread_err (c : CoreId) (h : ThreadId) (x : Thread) : (s.setThread c h x).err = s.err := rfl
@[simp] theorem setThread_spares (c : CoreId) (h : ThreadId) (x : Thread) : (s.setThread c h x).spares = s.spares := rfl
@[simp] theorem setThread_perf (c : CoreId) (h : ThreadId) (x : Thread) : (s.setThread c h x).perf = s.perf := rfl
@[simp] theorem setThread_out (c : CoreId) (h : ThreadId) (x : Thread) : (s.setThread c h x).out = s.out := rfl
@[simp] theorem setThread_free (c : CoreId) (h : ThreadId) (x : Thread) : (s.setThread c h x).free = s.free := rfl
@[simp] theorem setThread_pending (c : CoreId) (h : ThreadId) (x : Thread) : (s.setThread c h x).pending = s.pending := rfl
@[simp] theorem setThread_tile (c : CoreId) (h : ThreadId) (x : Thread) (n₁ : TileId) : (s.setThread c h x).tile n₁ = s.tile n₁ := rfl
@[simp] theorem setThread_bnd (c : CoreId) (h : ThreadId) (x : Thread) (b₁ : BindingId) : (s.setThread c h x).bnd b₁ = s.bnd b₁ := rfl
@[simp] theorem setThread_ring (c : CoreId) (h : ThreadId) (x : Thread) (r₁ : RingId) : (s.setThread c h x).ring r₁ = s.ring r₁ := rfl
@[simp] theorem setThread_desc (c : CoreId) (h : ThreadId) (x : Thread) (r₁ : RingId) (i₁ : Nat) : (s.setThread c h x).desc r₁ i₁ = s.desc r₁ i₁ := rfl
@[simp] theorem setThread_allDescs (c : CoreId) (h : ThreadId) (x : Thread) : (s.setThread c h x).allDescs = s.allDescs := rfl
@[simp] theorem setThread_cq (c : CoreId) (h : ThreadId) (x : Thread) (c₁ : CqId) : (s.setThread c h x).cq c₁ = s.cq c₁ := rfl
@[simp] theorem setThread_slot (c : CoreId) (h : ThreadId) (x : Thread) (k₁ : SlotId) : (s.setThread c h x).slot k₁ = s.slot k₁ := rfl
@[simp] theorem setThread_keyOf (c : CoreId) (h : ThreadId) (x : Thread) (k₁ : SlotId) : (s.setThread c h x).keyOf k₁ = s.keyOf k₁ := rfl
@[simp] theorem setThread_port (c : CoreId) (h : ThreadId) (x : Thread) (i₁ : BitVec 5) : (s.setThread c h x).port i₁ = s.port i₁ := rfl

/-! ## modThread -/

@[simp] theorem modThread_time (c : CoreId) (h : ThreadId) (f : Thread → Thread) : (s.modThread c h f).time = s.time := rfl
@[simp] theorem modThread_mod (c : CoreId) (h : ThreadId) (f : Thread → Thread) : (s.modThread c h f).mod = s.mod := rfl
@[simp] theorem modThread_pcie (c : CoreId) (h : ThreadId) (f : Thread → Thread) : (s.modThread c h f).pcie = s.pcie := rfl
@[simp] theorem modThread_rings (c : CoreId) (h : ThreadId) (f : Thread → Thread) : (s.modThread c h f).rings = s.rings := rfl
@[simp] theorem modThread_cqs (c : CoreId) (h : ThreadId) (f : Thread → Thread) : (s.modThread c h f).cqs = s.cqs := rfl
@[simp] theorem modThread_binds (c : CoreId) (h : ThreadId) (f : Thread → Thread) : (s.modThread c h f).binds = s.binds := rfl
@[simp] theorem modThread_slots (c : CoreId) (h : ThreadId) (f : Thread → Thread) : (s.modThread c h f).slots = s.slots := rfl
@[simp] theorem modThread_keyBase (c : CoreId) (h : ThreadId) (f : Thread → Thread) : (s.modThread c h f).keyBase = s.keyBase := rfl
@[simp] theorem modThread_nextKey (c : CoreId) (h : ThreadId) (f : Thread → Thread) : (s.modThread c h f).nextKey = s.nextKey := rfl
@[simp] theorem modThread_tiles (c : CoreId) (h : ThreadId) (f : Thread → Thread) : (s.modThread c h f).tiles = s.tiles := rfl
@[simp] theorem modThread_stk (c : CoreId) (h : ThreadId) (f : Thread → Thread) : (s.modThread c h f).stk = s.stk := rfl
@[simp] theorem modThread_hub (c : CoreId) (h : ThreadId) (f : Thread → Thread) : (s.modThread c h f).hub = s.hub := rfl
@[simp] theorem modThread_links (c : CoreId) (h : ThreadId) (f : Thread → Thread) : (s.modThread c h f).links = s.links := rfl
@[simp] theorem modThread_power (c : CoreId) (h : ThreadId) (f : Thread → Thread) : (s.modThread c h f).power = s.power := rfl
@[simp] theorem modThread_cal (c : CoreId) (h : ThreadId) (f : Thread → Thread) : (s.modThread c h f).cal = s.cal := rfl
@[simp] theorem modThread_mgmt (c : CoreId) (h : ThreadId) (f : Thread → Thread) : (s.modThread c h f).mgmt = s.mgmt := rfl
@[simp] theorem modThread_err (c : CoreId) (h : ThreadId) (f : Thread → Thread) : (s.modThread c h f).err = s.err := rfl
@[simp] theorem modThread_spares (c : CoreId) (h : ThreadId) (f : Thread → Thread) : (s.modThread c h f).spares = s.spares := rfl
@[simp] theorem modThread_perf (c : CoreId) (h : ThreadId) (f : Thread → Thread) : (s.modThread c h f).perf = s.perf := rfl
@[simp] theorem modThread_out (c : CoreId) (h : ThreadId) (f : Thread → Thread) : (s.modThread c h f).out = s.out := rfl
@[simp] theorem modThread_free (c : CoreId) (h : ThreadId) (f : Thread → Thread) : (s.modThread c h f).free = s.free := rfl
@[simp] theorem modThread_pending (c : CoreId) (h : ThreadId) (f : Thread → Thread) : (s.modThread c h f).pending = s.pending := rfl
@[simp] theorem modThread_tile (c : CoreId) (h : ThreadId) (f : Thread → Thread) (n₁ : TileId) : (s.modThread c h f).tile n₁ = s.tile n₁ := rfl
@[simp] theorem modThread_bnd (c : CoreId) (h : ThreadId) (f : Thread → Thread) (b₁ : BindingId) : (s.modThread c h f).bnd b₁ = s.bnd b₁ := rfl
@[simp] theorem modThread_ring (c : CoreId) (h : ThreadId) (f : Thread → Thread) (r₁ : RingId) : (s.modThread c h f).ring r₁ = s.ring r₁ := rfl
@[simp] theorem modThread_desc (c : CoreId) (h : ThreadId) (f : Thread → Thread) (r₁ : RingId) (i₁ : Nat) : (s.modThread c h f).desc r₁ i₁ = s.desc r₁ i₁ := rfl
@[simp] theorem modThread_allDescs (c : CoreId) (h : ThreadId) (f : Thread → Thread) : (s.modThread c h f).allDescs = s.allDescs := rfl
@[simp] theorem modThread_cq (c : CoreId) (h : ThreadId) (f : Thread → Thread) (c₁ : CqId) : (s.modThread c h f).cq c₁ = s.cq c₁ := rfl
@[simp] theorem modThread_slot (c : CoreId) (h : ThreadId) (f : Thread → Thread) (k₁ : SlotId) : (s.modThread c h f).slot k₁ = s.slot k₁ := rfl
@[simp] theorem modThread_keyOf (c : CoreId) (h : ThreadId) (f : Thread → Thread) (k₁ : SlotId) : (s.modThread c h f).keyOf k₁ = s.keyOf k₁ := rfl
@[simp] theorem modThread_port (c : CoreId) (h : ThreadId) (f : Thread → Thread) (i₁ : BitVec 5) : (s.modThread c h f).port i₁ = s.port i₁ := rfl

/-! ## setTile -/

@[simp] theorem setTile_time (n : TileId) (x : Tile) : (s.setTile n x).time = s.time := rfl
@[simp] theorem setTile_mod (n : TileId) (x : Tile) : (s.setTile n x).mod = s.mod := rfl
@[simp] theorem setTile_pcie (n : TileId) (x : Tile) : (s.setTile n x).pcie = s.pcie := rfl
@[simp] theorem setTile_rings (n : TileId) (x : Tile) : (s.setTile n x).rings = s.rings := rfl
@[simp] theorem setTile_cqs (n : TileId) (x : Tile) : (s.setTile n x).cqs = s.cqs := rfl
@[simp] theorem setTile_binds (n : TileId) (x : Tile) : (s.setTile n x).binds = s.binds := rfl
@[simp] theorem setTile_slots (n : TileId) (x : Tile) : (s.setTile n x).slots = s.slots := rfl
@[simp] theorem setTile_keyBase (n : TileId) (x : Tile) : (s.setTile n x).keyBase = s.keyBase := rfl
@[simp] theorem setTile_nextKey (n : TileId) (x : Tile) : (s.setTile n x).nextKey = s.nextKey := rfl
@[simp] theorem setTile_cores (n : TileId) (x : Tile) : (s.setTile n x).cores = s.cores := rfl
@[simp] theorem setTile_stk (n : TileId) (x : Tile) : (s.setTile n x).stk = s.stk := rfl
@[simp] theorem setTile_hub (n : TileId) (x : Tile) : (s.setTile n x).hub = s.hub := rfl
@[simp] theorem setTile_links (n : TileId) (x : Tile) : (s.setTile n x).links = s.links := rfl
@[simp] theorem setTile_power (n : TileId) (x : Tile) : (s.setTile n x).power = s.power := rfl
@[simp] theorem setTile_cal (n : TileId) (x : Tile) : (s.setTile n x).cal = s.cal := rfl
@[simp] theorem setTile_mgmt (n : TileId) (x : Tile) : (s.setTile n x).mgmt = s.mgmt := rfl
@[simp] theorem setTile_err (n : TileId) (x : Tile) : (s.setTile n x).err = s.err := rfl
@[simp] theorem setTile_spares (n : TileId) (x : Tile) : (s.setTile n x).spares = s.spares := rfl
@[simp] theorem setTile_perf (n : TileId) (x : Tile) : (s.setTile n x).perf = s.perf := rfl
@[simp] theorem setTile_out (n : TileId) (x : Tile) : (s.setTile n x).out = s.out := rfl
@[simp] theorem setTile_free (n : TileId) (x : Tile) : (s.setTile n x).free = s.free := rfl
@[simp] theorem setTile_pending (n : TileId) (x : Tile) : (s.setTile n x).pending = s.pending := rfl
@[simp] theorem setTile_core (n : TileId) (x : Tile) (c₁ : CoreId) : (s.setTile n x).core c₁ = s.core c₁ := rfl
@[simp] theorem setTile_thread (n : TileId) (x : Tile) (c₁ : CoreId) (h₁ : ThreadId) : (s.setTile n x).thread c₁ h₁ = s.thread c₁ h₁ := rfl
@[simp] theorem setTile_bnd (n : TileId) (x : Tile) (b₁ : BindingId) : (s.setTile n x).bnd b₁ = s.bnd b₁ := rfl
@[simp] theorem setTile_ring (n : TileId) (x : Tile) (r₁ : RingId) : (s.setTile n x).ring r₁ = s.ring r₁ := rfl
@[simp] theorem setTile_desc (n : TileId) (x : Tile) (r₁ : RingId) (i₁ : Nat) : (s.setTile n x).desc r₁ i₁ = s.desc r₁ i₁ := rfl
@[simp] theorem setTile_allDescs (n : TileId) (x : Tile) : (s.setTile n x).allDescs = s.allDescs := rfl
@[simp] theorem setTile_cq (n : TileId) (x : Tile) (c₁ : CqId) : (s.setTile n x).cq c₁ = s.cq c₁ := rfl
@[simp] theorem setTile_slot (n : TileId) (x : Tile) (k₁ : SlotId) : (s.setTile n x).slot k₁ = s.slot k₁ := rfl
@[simp] theorem setTile_keyOf (n : TileId) (x : Tile) (k₁ : SlotId) : (s.setTile n x).keyOf k₁ = s.keyOf k₁ := rfl
@[simp] theorem setTile_port (n : TileId) (x : Tile) (i₁ : BitVec 5) : (s.setTile n x).port i₁ = s.port i₁ := rfl

/-! ## modTile -/

@[simp] theorem modTile_time (n : TileId) (f : Tile → Tile) : (s.modTile n f).time = s.time := rfl
@[simp] theorem modTile_mod (n : TileId) (f : Tile → Tile) : (s.modTile n f).mod = s.mod := rfl
@[simp] theorem modTile_pcie (n : TileId) (f : Tile → Tile) : (s.modTile n f).pcie = s.pcie := rfl
@[simp] theorem modTile_rings (n : TileId) (f : Tile → Tile) : (s.modTile n f).rings = s.rings := rfl
@[simp] theorem modTile_cqs (n : TileId) (f : Tile → Tile) : (s.modTile n f).cqs = s.cqs := rfl
@[simp] theorem modTile_binds (n : TileId) (f : Tile → Tile) : (s.modTile n f).binds = s.binds := rfl
@[simp] theorem modTile_slots (n : TileId) (f : Tile → Tile) : (s.modTile n f).slots = s.slots := rfl
@[simp] theorem modTile_keyBase (n : TileId) (f : Tile → Tile) : (s.modTile n f).keyBase = s.keyBase := rfl
@[simp] theorem modTile_nextKey (n : TileId) (f : Tile → Tile) : (s.modTile n f).nextKey = s.nextKey := rfl
@[simp] theorem modTile_cores (n : TileId) (f : Tile → Tile) : (s.modTile n f).cores = s.cores := rfl
@[simp] theorem modTile_stk (n : TileId) (f : Tile → Tile) : (s.modTile n f).stk = s.stk := rfl
@[simp] theorem modTile_hub (n : TileId) (f : Tile → Tile) : (s.modTile n f).hub = s.hub := rfl
@[simp] theorem modTile_links (n : TileId) (f : Tile → Tile) : (s.modTile n f).links = s.links := rfl
@[simp] theorem modTile_power (n : TileId) (f : Tile → Tile) : (s.modTile n f).power = s.power := rfl
@[simp] theorem modTile_cal (n : TileId) (f : Tile → Tile) : (s.modTile n f).cal = s.cal := rfl
@[simp] theorem modTile_mgmt (n : TileId) (f : Tile → Tile) : (s.modTile n f).mgmt = s.mgmt := rfl
@[simp] theorem modTile_err (n : TileId) (f : Tile → Tile) : (s.modTile n f).err = s.err := rfl
@[simp] theorem modTile_spares (n : TileId) (f : Tile → Tile) : (s.modTile n f).spares = s.spares := rfl
@[simp] theorem modTile_perf (n : TileId) (f : Tile → Tile) : (s.modTile n f).perf = s.perf := rfl
@[simp] theorem modTile_out (n : TileId) (f : Tile → Tile) : (s.modTile n f).out = s.out := rfl
@[simp] theorem modTile_free (n : TileId) (f : Tile → Tile) : (s.modTile n f).free = s.free := rfl
@[simp] theorem modTile_pending (n : TileId) (f : Tile → Tile) : (s.modTile n f).pending = s.pending := rfl
@[simp] theorem modTile_core (n : TileId) (f : Tile → Tile) (c₁ : CoreId) : (s.modTile n f).core c₁ = s.core c₁ := rfl
@[simp] theorem modTile_thread (n : TileId) (f : Tile → Tile) (c₁ : CoreId) (h₁ : ThreadId) : (s.modTile n f).thread c₁ h₁ = s.thread c₁ h₁ := rfl
@[simp] theorem modTile_bnd (n : TileId) (f : Tile → Tile) (b₁ : BindingId) : (s.modTile n f).bnd b₁ = s.bnd b₁ := rfl
@[simp] theorem modTile_ring (n : TileId) (f : Tile → Tile) (r₁ : RingId) : (s.modTile n f).ring r₁ = s.ring r₁ := rfl
@[simp] theorem modTile_desc (n : TileId) (f : Tile → Tile) (r₁ : RingId) (i₁ : Nat) : (s.modTile n f).desc r₁ i₁ = s.desc r₁ i₁ := rfl
@[simp] theorem modTile_allDescs (n : TileId) (f : Tile → Tile) : (s.modTile n f).allDescs = s.allDescs := rfl
@[simp] theorem modTile_cq (n : TileId) (f : Tile → Tile) (c₁ : CqId) : (s.modTile n f).cq c₁ = s.cq c₁ := rfl
@[simp] theorem modTile_slot (n : TileId) (f : Tile → Tile) (k₁ : SlotId) : (s.modTile n f).slot k₁ = s.slot k₁ := rfl
@[simp] theorem modTile_keyOf (n : TileId) (f : Tile → Tile) (k₁ : SlotId) : (s.modTile n f).keyOf k₁ = s.keyOf k₁ := rfl
@[simp] theorem modTile_port (n : TileId) (f : Tile → Tile) (i₁ : BitVec 5) : (s.modTile n f).port i₁ = s.port i₁ := rfl

/-! ## setBnd -/

@[simp] theorem setBnd_time (b : BindingId) (x : Binding) : (s.setBnd b x).time = s.time := rfl
@[simp] theorem setBnd_mod (b : BindingId) (x : Binding) : (s.setBnd b x).mod = s.mod := rfl
@[simp] theorem setBnd_pcie (b : BindingId) (x : Binding) : (s.setBnd b x).pcie = s.pcie := rfl
@[simp] theorem setBnd_rings (b : BindingId) (x : Binding) : (s.setBnd b x).rings = s.rings := rfl
@[simp] theorem setBnd_cqs (b : BindingId) (x : Binding) : (s.setBnd b x).cqs = s.cqs := rfl
@[simp] theorem setBnd_slots (b : BindingId) (x : Binding) : (s.setBnd b x).slots = s.slots := rfl
@[simp] theorem setBnd_keyBase (b : BindingId) (x : Binding) : (s.setBnd b x).keyBase = s.keyBase := rfl
@[simp] theorem setBnd_nextKey (b : BindingId) (x : Binding) : (s.setBnd b x).nextKey = s.nextKey := rfl
@[simp] theorem setBnd_cores (b : BindingId) (x : Binding) : (s.setBnd b x).cores = s.cores := rfl
@[simp] theorem setBnd_tiles (b : BindingId) (x : Binding) : (s.setBnd b x).tiles = s.tiles := rfl
@[simp] theorem setBnd_stk (b : BindingId) (x : Binding) : (s.setBnd b x).stk = s.stk := rfl
@[simp] theorem setBnd_hub (b : BindingId) (x : Binding) : (s.setBnd b x).hub = s.hub := rfl
@[simp] theorem setBnd_links (b : BindingId) (x : Binding) : (s.setBnd b x).links = s.links := rfl
@[simp] theorem setBnd_power (b : BindingId) (x : Binding) : (s.setBnd b x).power = s.power := rfl
@[simp] theorem setBnd_cal (b : BindingId) (x : Binding) : (s.setBnd b x).cal = s.cal := rfl
@[simp] theorem setBnd_mgmt (b : BindingId) (x : Binding) : (s.setBnd b x).mgmt = s.mgmt := rfl
@[simp] theorem setBnd_err (b : BindingId) (x : Binding) : (s.setBnd b x).err = s.err := rfl
@[simp] theorem setBnd_spares (b : BindingId) (x : Binding) : (s.setBnd b x).spares = s.spares := rfl
@[simp] theorem setBnd_perf (b : BindingId) (x : Binding) : (s.setBnd b x).perf = s.perf := rfl
@[simp] theorem setBnd_out (b : BindingId) (x : Binding) : (s.setBnd b x).out = s.out := rfl
@[simp] theorem setBnd_free (b : BindingId) (x : Binding) : (s.setBnd b x).free = s.free := rfl
@[simp] theorem setBnd_pending (b : BindingId) (x : Binding) : (s.setBnd b x).pending = s.pending := rfl
@[simp] theorem setBnd_core (b : BindingId) (x : Binding) (c₁ : CoreId) : (s.setBnd b x).core c₁ = s.core c₁ := rfl
@[simp] theorem setBnd_thread (b : BindingId) (x : Binding) (c₁ : CoreId) (h₁ : ThreadId) : (s.setBnd b x).thread c₁ h₁ = s.thread c₁ h₁ := rfl
@[simp] theorem setBnd_tile (b : BindingId) (x : Binding) (n₁ : TileId) : (s.setBnd b x).tile n₁ = s.tile n₁ := rfl
@[simp] theorem setBnd_ring (b : BindingId) (x : Binding) (r₁ : RingId) : (s.setBnd b x).ring r₁ = s.ring r₁ := rfl
@[simp] theorem setBnd_desc (b : BindingId) (x : Binding) (r₁ : RingId) (i₁ : Nat) : (s.setBnd b x).desc r₁ i₁ = s.desc r₁ i₁ := rfl
@[simp] theorem setBnd_allDescs (b : BindingId) (x : Binding) : (s.setBnd b x).allDescs = s.allDescs := rfl
@[simp] theorem setBnd_cq (b : BindingId) (x : Binding) (c₁ : CqId) : (s.setBnd b x).cq c₁ = s.cq c₁ := rfl
@[simp] theorem setBnd_slot (b : BindingId) (x : Binding) (k₁ : SlotId) : (s.setBnd b x).slot k₁ = s.slot k₁ := rfl
@[simp] theorem setBnd_keyOf (b : BindingId) (x : Binding) (k₁ : SlotId) : (s.setBnd b x).keyOf k₁ = s.keyOf k₁ := rfl
@[simp] theorem setBnd_port (b : BindingId) (x : Binding) (i₁ : BitVec 5) : (s.setBnd b x).port i₁ = s.port i₁ := rfl

/-! ## modBnd -/

@[simp] theorem modBnd_time (b : BindingId) (f : Binding → Binding) : (s.modBnd b f).time = s.time := rfl
@[simp] theorem modBnd_mod (b : BindingId) (f : Binding → Binding) : (s.modBnd b f).mod = s.mod := rfl
@[simp] theorem modBnd_pcie (b : BindingId) (f : Binding → Binding) : (s.modBnd b f).pcie = s.pcie := rfl
@[simp] theorem modBnd_rings (b : BindingId) (f : Binding → Binding) : (s.modBnd b f).rings = s.rings := rfl
@[simp] theorem modBnd_cqs (b : BindingId) (f : Binding → Binding) : (s.modBnd b f).cqs = s.cqs := rfl
@[simp] theorem modBnd_slots (b : BindingId) (f : Binding → Binding) : (s.modBnd b f).slots = s.slots := rfl
@[simp] theorem modBnd_keyBase (b : BindingId) (f : Binding → Binding) : (s.modBnd b f).keyBase = s.keyBase := rfl
@[simp] theorem modBnd_nextKey (b : BindingId) (f : Binding → Binding) : (s.modBnd b f).nextKey = s.nextKey := rfl
@[simp] theorem modBnd_cores (b : BindingId) (f : Binding → Binding) : (s.modBnd b f).cores = s.cores := rfl
@[simp] theorem modBnd_tiles (b : BindingId) (f : Binding → Binding) : (s.modBnd b f).tiles = s.tiles := rfl
@[simp] theorem modBnd_stk (b : BindingId) (f : Binding → Binding) : (s.modBnd b f).stk = s.stk := rfl
@[simp] theorem modBnd_hub (b : BindingId) (f : Binding → Binding) : (s.modBnd b f).hub = s.hub := rfl
@[simp] theorem modBnd_links (b : BindingId) (f : Binding → Binding) : (s.modBnd b f).links = s.links := rfl
@[simp] theorem modBnd_power (b : BindingId) (f : Binding → Binding) : (s.modBnd b f).power = s.power := rfl
@[simp] theorem modBnd_cal (b : BindingId) (f : Binding → Binding) : (s.modBnd b f).cal = s.cal := rfl
@[simp] theorem modBnd_mgmt (b : BindingId) (f : Binding → Binding) : (s.modBnd b f).mgmt = s.mgmt := rfl
@[simp] theorem modBnd_err (b : BindingId) (f : Binding → Binding) : (s.modBnd b f).err = s.err := rfl
@[simp] theorem modBnd_spares (b : BindingId) (f : Binding → Binding) : (s.modBnd b f).spares = s.spares := rfl
@[simp] theorem modBnd_perf (b : BindingId) (f : Binding → Binding) : (s.modBnd b f).perf = s.perf := rfl
@[simp] theorem modBnd_out (b : BindingId) (f : Binding → Binding) : (s.modBnd b f).out = s.out := rfl
@[simp] theorem modBnd_free (b : BindingId) (f : Binding → Binding) : (s.modBnd b f).free = s.free := rfl
@[simp] theorem modBnd_pending (b : BindingId) (f : Binding → Binding) : (s.modBnd b f).pending = s.pending := rfl
@[simp] theorem modBnd_core (b : BindingId) (f : Binding → Binding) (c₁ : CoreId) : (s.modBnd b f).core c₁ = s.core c₁ := rfl
@[simp] theorem modBnd_thread (b : BindingId) (f : Binding → Binding) (c₁ : CoreId) (h₁ : ThreadId) : (s.modBnd b f).thread c₁ h₁ = s.thread c₁ h₁ := rfl
@[simp] theorem modBnd_tile (b : BindingId) (f : Binding → Binding) (n₁ : TileId) : (s.modBnd b f).tile n₁ = s.tile n₁ := rfl
@[simp] theorem modBnd_ring (b : BindingId) (f : Binding → Binding) (r₁ : RingId) : (s.modBnd b f).ring r₁ = s.ring r₁ := rfl
@[simp] theorem modBnd_desc (b : BindingId) (f : Binding → Binding) (r₁ : RingId) (i₁ : Nat) : (s.modBnd b f).desc r₁ i₁ = s.desc r₁ i₁ := rfl
@[simp] theorem modBnd_allDescs (b : BindingId) (f : Binding → Binding) : (s.modBnd b f).allDescs = s.allDescs := rfl
@[simp] theorem modBnd_cq (b : BindingId) (f : Binding → Binding) (c₁ : CqId) : (s.modBnd b f).cq c₁ = s.cq c₁ := rfl
@[simp] theorem modBnd_slot (b : BindingId) (f : Binding → Binding) (k₁ : SlotId) : (s.modBnd b f).slot k₁ = s.slot k₁ := rfl
@[simp] theorem modBnd_keyOf (b : BindingId) (f : Binding → Binding) (k₁ : SlotId) : (s.modBnd b f).keyOf k₁ = s.keyOf k₁ := rfl
@[simp] theorem modBnd_port (b : BindingId) (f : Binding → Binding) (i₁ : BitVec 5) : (s.modBnd b f).port i₁ = s.port i₁ := rfl

/-! ## modXlat -/

@[simp] theorem modXlat_time (b : BindingId) (f : Xlat → Xlat) : (s.modXlat b f).time = s.time := rfl
@[simp] theorem modXlat_mod (b : BindingId) (f : Xlat → Xlat) : (s.modXlat b f).mod = s.mod := rfl
@[simp] theorem modXlat_pcie (b : BindingId) (f : Xlat → Xlat) : (s.modXlat b f).pcie = s.pcie := rfl
@[simp] theorem modXlat_rings (b : BindingId) (f : Xlat → Xlat) : (s.modXlat b f).rings = s.rings := rfl
@[simp] theorem modXlat_cqs (b : BindingId) (f : Xlat → Xlat) : (s.modXlat b f).cqs = s.cqs := rfl
@[simp] theorem modXlat_slots (b : BindingId) (f : Xlat → Xlat) : (s.modXlat b f).slots = s.slots := rfl
@[simp] theorem modXlat_keyBase (b : BindingId) (f : Xlat → Xlat) : (s.modXlat b f).keyBase = s.keyBase := rfl
@[simp] theorem modXlat_nextKey (b : BindingId) (f : Xlat → Xlat) : (s.modXlat b f).nextKey = s.nextKey := rfl
@[simp] theorem modXlat_cores (b : BindingId) (f : Xlat → Xlat) : (s.modXlat b f).cores = s.cores := rfl
@[simp] theorem modXlat_tiles (b : BindingId) (f : Xlat → Xlat) : (s.modXlat b f).tiles = s.tiles := rfl
@[simp] theorem modXlat_stk (b : BindingId) (f : Xlat → Xlat) : (s.modXlat b f).stk = s.stk := rfl
@[simp] theorem modXlat_hub (b : BindingId) (f : Xlat → Xlat) : (s.modXlat b f).hub = s.hub := rfl
@[simp] theorem modXlat_links (b : BindingId) (f : Xlat → Xlat) : (s.modXlat b f).links = s.links := rfl
@[simp] theorem modXlat_power (b : BindingId) (f : Xlat → Xlat) : (s.modXlat b f).power = s.power := rfl
@[simp] theorem modXlat_cal (b : BindingId) (f : Xlat → Xlat) : (s.modXlat b f).cal = s.cal := rfl
@[simp] theorem modXlat_mgmt (b : BindingId) (f : Xlat → Xlat) : (s.modXlat b f).mgmt = s.mgmt := rfl
@[simp] theorem modXlat_err (b : BindingId) (f : Xlat → Xlat) : (s.modXlat b f).err = s.err := rfl
@[simp] theorem modXlat_spares (b : BindingId) (f : Xlat → Xlat) : (s.modXlat b f).spares = s.spares := rfl
@[simp] theorem modXlat_perf (b : BindingId) (f : Xlat → Xlat) : (s.modXlat b f).perf = s.perf := rfl
@[simp] theorem modXlat_out (b : BindingId) (f : Xlat → Xlat) : (s.modXlat b f).out = s.out := rfl
@[simp] theorem modXlat_free (b : BindingId) (f : Xlat → Xlat) : (s.modXlat b f).free = s.free := rfl
@[simp] theorem modXlat_pending (b : BindingId) (f : Xlat → Xlat) : (s.modXlat b f).pending = s.pending := rfl
@[simp] theorem modXlat_core (b : BindingId) (f : Xlat → Xlat) (c₁ : CoreId) : (s.modXlat b f).core c₁ = s.core c₁ := rfl
@[simp] theorem modXlat_thread (b : BindingId) (f : Xlat → Xlat) (c₁ : CoreId) (h₁ : ThreadId) : (s.modXlat b f).thread c₁ h₁ = s.thread c₁ h₁ := rfl
@[simp] theorem modXlat_tile (b : BindingId) (f : Xlat → Xlat) (n₁ : TileId) : (s.modXlat b f).tile n₁ = s.tile n₁ := rfl
@[simp] theorem modXlat_ring (b : BindingId) (f : Xlat → Xlat) (r₁ : RingId) : (s.modXlat b f).ring r₁ = s.ring r₁ := rfl
@[simp] theorem modXlat_desc (b : BindingId) (f : Xlat → Xlat) (r₁ : RingId) (i₁ : Nat) : (s.modXlat b f).desc r₁ i₁ = s.desc r₁ i₁ := rfl
@[simp] theorem modXlat_allDescs (b : BindingId) (f : Xlat → Xlat) : (s.modXlat b f).allDescs = s.allDescs := rfl
@[simp] theorem modXlat_cq (b : BindingId) (f : Xlat → Xlat) (c₁ : CqId) : (s.modXlat b f).cq c₁ = s.cq c₁ := rfl
@[simp] theorem modXlat_slot (b : BindingId) (f : Xlat → Xlat) (k₁ : SlotId) : (s.modXlat b f).slot k₁ = s.slot k₁ := rfl
@[simp] theorem modXlat_keyOf (b : BindingId) (f : Xlat → Xlat) (k₁ : SlotId) : (s.modXlat b f).keyOf k₁ = s.keyOf k₁ := rfl
@[simp] theorem modXlat_port (b : BindingId) (f : Xlat → Xlat) (i₁ : BitVec 5) : (s.modXlat b f).port i₁ = s.port i₁ := rfl

/-! ## modLog -/

@[simp] theorem modLog_time (b : BindingId) (f : BindLog → BindLog) : (s.modLog b f).time = s.time := rfl
@[simp] theorem modLog_mod (b : BindingId) (f : BindLog → BindLog) : (s.modLog b f).mod = s.mod := rfl
@[simp] theorem modLog_pcie (b : BindingId) (f : BindLog → BindLog) : (s.modLog b f).pcie = s.pcie := rfl
@[simp] theorem modLog_rings (b : BindingId) (f : BindLog → BindLog) : (s.modLog b f).rings = s.rings := rfl
@[simp] theorem modLog_cqs (b : BindingId) (f : BindLog → BindLog) : (s.modLog b f).cqs = s.cqs := rfl
@[simp] theorem modLog_slots (b : BindingId) (f : BindLog → BindLog) : (s.modLog b f).slots = s.slots := rfl
@[simp] theorem modLog_keyBase (b : BindingId) (f : BindLog → BindLog) : (s.modLog b f).keyBase = s.keyBase := rfl
@[simp] theorem modLog_nextKey (b : BindingId) (f : BindLog → BindLog) : (s.modLog b f).nextKey = s.nextKey := rfl
@[simp] theorem modLog_cores (b : BindingId) (f : BindLog → BindLog) : (s.modLog b f).cores = s.cores := rfl
@[simp] theorem modLog_tiles (b : BindingId) (f : BindLog → BindLog) : (s.modLog b f).tiles = s.tiles := rfl
@[simp] theorem modLog_stk (b : BindingId) (f : BindLog → BindLog) : (s.modLog b f).stk = s.stk := rfl
@[simp] theorem modLog_hub (b : BindingId) (f : BindLog → BindLog) : (s.modLog b f).hub = s.hub := rfl
@[simp] theorem modLog_links (b : BindingId) (f : BindLog → BindLog) : (s.modLog b f).links = s.links := rfl
@[simp] theorem modLog_power (b : BindingId) (f : BindLog → BindLog) : (s.modLog b f).power = s.power := rfl
@[simp] theorem modLog_cal (b : BindingId) (f : BindLog → BindLog) : (s.modLog b f).cal = s.cal := rfl
@[simp] theorem modLog_mgmt (b : BindingId) (f : BindLog → BindLog) : (s.modLog b f).mgmt = s.mgmt := rfl
@[simp] theorem modLog_err (b : BindingId) (f : BindLog → BindLog) : (s.modLog b f).err = s.err := rfl
@[simp] theorem modLog_spares (b : BindingId) (f : BindLog → BindLog) : (s.modLog b f).spares = s.spares := rfl
@[simp] theorem modLog_perf (b : BindingId) (f : BindLog → BindLog) : (s.modLog b f).perf = s.perf := rfl
@[simp] theorem modLog_out (b : BindingId) (f : BindLog → BindLog) : (s.modLog b f).out = s.out := rfl
@[simp] theorem modLog_free (b : BindingId) (f : BindLog → BindLog) : (s.modLog b f).free = s.free := rfl
@[simp] theorem modLog_pending (b : BindingId) (f : BindLog → BindLog) : (s.modLog b f).pending = s.pending := rfl
@[simp] theorem modLog_core (b : BindingId) (f : BindLog → BindLog) (c₁ : CoreId) : (s.modLog b f).core c₁ = s.core c₁ := rfl
@[simp] theorem modLog_thread (b : BindingId) (f : BindLog → BindLog) (c₁ : CoreId) (h₁ : ThreadId) : (s.modLog b f).thread c₁ h₁ = s.thread c₁ h₁ := rfl
@[simp] theorem modLog_tile (b : BindingId) (f : BindLog → BindLog) (n₁ : TileId) : (s.modLog b f).tile n₁ = s.tile n₁ := rfl
@[simp] theorem modLog_ring (b : BindingId) (f : BindLog → BindLog) (r₁ : RingId) : (s.modLog b f).ring r₁ = s.ring r₁ := rfl
@[simp] theorem modLog_desc (b : BindingId) (f : BindLog → BindLog) (r₁ : RingId) (i₁ : Nat) : (s.modLog b f).desc r₁ i₁ = s.desc r₁ i₁ := rfl
@[simp] theorem modLog_allDescs (b : BindingId) (f : BindLog → BindLog) : (s.modLog b f).allDescs = s.allDescs := rfl
@[simp] theorem modLog_cq (b : BindingId) (f : BindLog → BindLog) (c₁ : CqId) : (s.modLog b f).cq c₁ = s.cq c₁ := rfl
@[simp] theorem modLog_slot (b : BindingId) (f : BindLog → BindLog) (k₁ : SlotId) : (s.modLog b f).slot k₁ = s.slot k₁ := rfl
@[simp] theorem modLog_keyOf (b : BindingId) (f : BindLog → BindLog) (k₁ : SlotId) : (s.modLog b f).keyOf k₁ = s.keyOf k₁ := rfl
@[simp] theorem modLog_port (b : BindingId) (f : BindLog → BindLog) (i₁ : BitVec 5) : (s.modLog b f).port i₁ = s.port i₁ := rfl

/-! ## setRing -/

@[simp] theorem setRing_time (r : RingId) (x : SubRing) : (s.setRing r x).time = s.time := rfl
@[simp] theorem setRing_mod (r : RingId) (x : SubRing) : (s.setRing r x).mod = s.mod := rfl
@[simp] theorem setRing_pcie (r : RingId) (x : SubRing) : (s.setRing r x).pcie = s.pcie := rfl
@[simp] theorem setRing_cqs (r : RingId) (x : SubRing) : (s.setRing r x).cqs = s.cqs := rfl
@[simp] theorem setRing_binds (r : RingId) (x : SubRing) : (s.setRing r x).binds = s.binds := rfl
@[simp] theorem setRing_slots (r : RingId) (x : SubRing) : (s.setRing r x).slots = s.slots := rfl
@[simp] theorem setRing_keyBase (r : RingId) (x : SubRing) : (s.setRing r x).keyBase = s.keyBase := rfl
@[simp] theorem setRing_nextKey (r : RingId) (x : SubRing) : (s.setRing r x).nextKey = s.nextKey := rfl
@[simp] theorem setRing_cores (r : RingId) (x : SubRing) : (s.setRing r x).cores = s.cores := rfl
@[simp] theorem setRing_tiles (r : RingId) (x : SubRing) : (s.setRing r x).tiles = s.tiles := rfl
@[simp] theorem setRing_stk (r : RingId) (x : SubRing) : (s.setRing r x).stk = s.stk := rfl
@[simp] theorem setRing_hub (r : RingId) (x : SubRing) : (s.setRing r x).hub = s.hub := rfl
@[simp] theorem setRing_links (r : RingId) (x : SubRing) : (s.setRing r x).links = s.links := rfl
@[simp] theorem setRing_power (r : RingId) (x : SubRing) : (s.setRing r x).power = s.power := rfl
@[simp] theorem setRing_cal (r : RingId) (x : SubRing) : (s.setRing r x).cal = s.cal := rfl
@[simp] theorem setRing_mgmt (r : RingId) (x : SubRing) : (s.setRing r x).mgmt = s.mgmt := rfl
@[simp] theorem setRing_err (r : RingId) (x : SubRing) : (s.setRing r x).err = s.err := rfl
@[simp] theorem setRing_spares (r : RingId) (x : SubRing) : (s.setRing r x).spares = s.spares := rfl
@[simp] theorem setRing_perf (r : RingId) (x : SubRing) : (s.setRing r x).perf = s.perf := rfl
@[simp] theorem setRing_out (r : RingId) (x : SubRing) : (s.setRing r x).out = s.out := rfl
@[simp] theorem setRing_free (r : RingId) (x : SubRing) : (s.setRing r x).free = s.free := rfl
@[simp] theorem setRing_pending (r : RingId) (x : SubRing) : (s.setRing r x).pending = s.pending := rfl
@[simp] theorem setRing_core (r : RingId) (x : SubRing) (c₁ : CoreId) : (s.setRing r x).core c₁ = s.core c₁ := rfl
@[simp] theorem setRing_thread (r : RingId) (x : SubRing) (c₁ : CoreId) (h₁ : ThreadId) : (s.setRing r x).thread c₁ h₁ = s.thread c₁ h₁ := rfl
@[simp] theorem setRing_tile (r : RingId) (x : SubRing) (n₁ : TileId) : (s.setRing r x).tile n₁ = s.tile n₁ := rfl
@[simp] theorem setRing_bnd (r : RingId) (x : SubRing) (b₁ : BindingId) : (s.setRing r x).bnd b₁ = s.bnd b₁ := rfl
@[simp] theorem setRing_cq (r : RingId) (x : SubRing) (c₁ : CqId) : (s.setRing r x).cq c₁ = s.cq c₁ := rfl
@[simp] theorem setRing_slot (r : RingId) (x : SubRing) (k₁ : SlotId) : (s.setRing r x).slot k₁ = s.slot k₁ := rfl
@[simp] theorem setRing_keyOf (r : RingId) (x : SubRing) (k₁ : SlotId) : (s.setRing r x).keyOf k₁ = s.keyOf k₁ := rfl
@[simp] theorem setRing_port (r : RingId) (x : SubRing) (i₁ : BitVec 5) : (s.setRing r x).port i₁ = s.port i₁ := rfl

/-! ## modRing -/

@[simp] theorem modRing_time (r : RingId) (f : SubRing → SubRing) : (s.modRing r f).time = s.time := rfl
@[simp] theorem modRing_mod (r : RingId) (f : SubRing → SubRing) : (s.modRing r f).mod = s.mod := rfl
@[simp] theorem modRing_pcie (r : RingId) (f : SubRing → SubRing) : (s.modRing r f).pcie = s.pcie := rfl
@[simp] theorem modRing_cqs (r : RingId) (f : SubRing → SubRing) : (s.modRing r f).cqs = s.cqs := rfl
@[simp] theorem modRing_binds (r : RingId) (f : SubRing → SubRing) : (s.modRing r f).binds = s.binds := rfl
@[simp] theorem modRing_slots (r : RingId) (f : SubRing → SubRing) : (s.modRing r f).slots = s.slots := rfl
@[simp] theorem modRing_keyBase (r : RingId) (f : SubRing → SubRing) : (s.modRing r f).keyBase = s.keyBase := rfl
@[simp] theorem modRing_nextKey (r : RingId) (f : SubRing → SubRing) : (s.modRing r f).nextKey = s.nextKey := rfl
@[simp] theorem modRing_cores (r : RingId) (f : SubRing → SubRing) : (s.modRing r f).cores = s.cores := rfl
@[simp] theorem modRing_tiles (r : RingId) (f : SubRing → SubRing) : (s.modRing r f).tiles = s.tiles := rfl
@[simp] theorem modRing_stk (r : RingId) (f : SubRing → SubRing) : (s.modRing r f).stk = s.stk := rfl
@[simp] theorem modRing_hub (r : RingId) (f : SubRing → SubRing) : (s.modRing r f).hub = s.hub := rfl
@[simp] theorem modRing_links (r : RingId) (f : SubRing → SubRing) : (s.modRing r f).links = s.links := rfl
@[simp] theorem modRing_power (r : RingId) (f : SubRing → SubRing) : (s.modRing r f).power = s.power := rfl
@[simp] theorem modRing_cal (r : RingId) (f : SubRing → SubRing) : (s.modRing r f).cal = s.cal := rfl
@[simp] theorem modRing_mgmt (r : RingId) (f : SubRing → SubRing) : (s.modRing r f).mgmt = s.mgmt := rfl
@[simp] theorem modRing_err (r : RingId) (f : SubRing → SubRing) : (s.modRing r f).err = s.err := rfl
@[simp] theorem modRing_spares (r : RingId) (f : SubRing → SubRing) : (s.modRing r f).spares = s.spares := rfl
@[simp] theorem modRing_perf (r : RingId) (f : SubRing → SubRing) : (s.modRing r f).perf = s.perf := rfl
@[simp] theorem modRing_out (r : RingId) (f : SubRing → SubRing) : (s.modRing r f).out = s.out := rfl
@[simp] theorem modRing_free (r : RingId) (f : SubRing → SubRing) : (s.modRing r f).free = s.free := rfl
@[simp] theorem modRing_pending (r : RingId) (f : SubRing → SubRing) : (s.modRing r f).pending = s.pending := rfl
@[simp] theorem modRing_core (r : RingId) (f : SubRing → SubRing) (c₁ : CoreId) : (s.modRing r f).core c₁ = s.core c₁ := rfl
@[simp] theorem modRing_thread (r : RingId) (f : SubRing → SubRing) (c₁ : CoreId) (h₁ : ThreadId) : (s.modRing r f).thread c₁ h₁ = s.thread c₁ h₁ := rfl
@[simp] theorem modRing_tile (r : RingId) (f : SubRing → SubRing) (n₁ : TileId) : (s.modRing r f).tile n₁ = s.tile n₁ := rfl
@[simp] theorem modRing_bnd (r : RingId) (f : SubRing → SubRing) (b₁ : BindingId) : (s.modRing r f).bnd b₁ = s.bnd b₁ := rfl
@[simp] theorem modRing_cq (r : RingId) (f : SubRing → SubRing) (c₁ : CqId) : (s.modRing r f).cq c₁ = s.cq c₁ := rfl
@[simp] theorem modRing_slot (r : RingId) (f : SubRing → SubRing) (k₁ : SlotId) : (s.modRing r f).slot k₁ = s.slot k₁ := rfl
@[simp] theorem modRing_keyOf (r : RingId) (f : SubRing → SubRing) (k₁ : SlotId) : (s.modRing r f).keyOf k₁ = s.keyOf k₁ := rfl
@[simp] theorem modRing_port (r : RingId) (f : SubRing → SubRing) (i₁ : BitVec 5) : (s.modRing r f).port i₁ = s.port i₁ := rfl

/-! ## modDesc -/

@[simp] theorem modDesc_time (r : RingId) (i : Nat) (f : Desc → Desc) : (s.modDesc r i f).time = s.time := rfl
@[simp] theorem modDesc_mod (r : RingId) (i : Nat) (f : Desc → Desc) : (s.modDesc r i f).mod = s.mod := rfl
@[simp] theorem modDesc_pcie (r : RingId) (i : Nat) (f : Desc → Desc) : (s.modDesc r i f).pcie = s.pcie := rfl
@[simp] theorem modDesc_cqs (r : RingId) (i : Nat) (f : Desc → Desc) : (s.modDesc r i f).cqs = s.cqs := rfl
@[simp] theorem modDesc_binds (r : RingId) (i : Nat) (f : Desc → Desc) : (s.modDesc r i f).binds = s.binds := rfl
@[simp] theorem modDesc_slots (r : RingId) (i : Nat) (f : Desc → Desc) : (s.modDesc r i f).slots = s.slots := rfl
@[simp] theorem modDesc_keyBase (r : RingId) (i : Nat) (f : Desc → Desc) : (s.modDesc r i f).keyBase = s.keyBase := rfl
@[simp] theorem modDesc_nextKey (r : RingId) (i : Nat) (f : Desc → Desc) : (s.modDesc r i f).nextKey = s.nextKey := rfl
@[simp] theorem modDesc_cores (r : RingId) (i : Nat) (f : Desc → Desc) : (s.modDesc r i f).cores = s.cores := rfl
@[simp] theorem modDesc_tiles (r : RingId) (i : Nat) (f : Desc → Desc) : (s.modDesc r i f).tiles = s.tiles := rfl
@[simp] theorem modDesc_stk (r : RingId) (i : Nat) (f : Desc → Desc) : (s.modDesc r i f).stk = s.stk := rfl
@[simp] theorem modDesc_hub (r : RingId) (i : Nat) (f : Desc → Desc) : (s.modDesc r i f).hub = s.hub := rfl
@[simp] theorem modDesc_links (r : RingId) (i : Nat) (f : Desc → Desc) : (s.modDesc r i f).links = s.links := rfl
@[simp] theorem modDesc_power (r : RingId) (i : Nat) (f : Desc → Desc) : (s.modDesc r i f).power = s.power := rfl
@[simp] theorem modDesc_cal (r : RingId) (i : Nat) (f : Desc → Desc) : (s.modDesc r i f).cal = s.cal := rfl
@[simp] theorem modDesc_mgmt (r : RingId) (i : Nat) (f : Desc → Desc) : (s.modDesc r i f).mgmt = s.mgmt := rfl
@[simp] theorem modDesc_err (r : RingId) (i : Nat) (f : Desc → Desc) : (s.modDesc r i f).err = s.err := rfl
@[simp] theorem modDesc_spares (r : RingId) (i : Nat) (f : Desc → Desc) : (s.modDesc r i f).spares = s.spares := rfl
@[simp] theorem modDesc_perf (r : RingId) (i : Nat) (f : Desc → Desc) : (s.modDesc r i f).perf = s.perf := rfl
@[simp] theorem modDesc_out (r : RingId) (i : Nat) (f : Desc → Desc) : (s.modDesc r i f).out = s.out := rfl
@[simp] theorem modDesc_free (r : RingId) (i : Nat) (f : Desc → Desc) : (s.modDesc r i f).free = s.free := rfl
@[simp] theorem modDesc_pending (r : RingId) (i : Nat) (f : Desc → Desc) : (s.modDesc r i f).pending = s.pending := rfl
@[simp] theorem modDesc_core (r : RingId) (i : Nat) (f : Desc → Desc) (c₁ : CoreId) : (s.modDesc r i f).core c₁ = s.core c₁ := rfl
@[simp] theorem modDesc_thread (r : RingId) (i : Nat) (f : Desc → Desc) (c₁ : CoreId) (h₁ : ThreadId) : (s.modDesc r i f).thread c₁ h₁ = s.thread c₁ h₁ := rfl
@[simp] theorem modDesc_tile (r : RingId) (i : Nat) (f : Desc → Desc) (n₁ : TileId) : (s.modDesc r i f).tile n₁ = s.tile n₁ := rfl
@[simp] theorem modDesc_bnd (r : RingId) (i : Nat) (f : Desc → Desc) (b₁ : BindingId) : (s.modDesc r i f).bnd b₁ = s.bnd b₁ := rfl
@[simp] theorem modDesc_cq (r : RingId) (i : Nat) (f : Desc → Desc) (c₁ : CqId) : (s.modDesc r i f).cq c₁ = s.cq c₁ := rfl
@[simp] theorem modDesc_slot (r : RingId) (i : Nat) (f : Desc → Desc) (k₁ : SlotId) : (s.modDesc r i f).slot k₁ = s.slot k₁ := rfl
@[simp] theorem modDesc_keyOf (r : RingId) (i : Nat) (f : Desc → Desc) (k₁ : SlotId) : (s.modDesc r i f).keyOf k₁ = s.keyOf k₁ := rfl
@[simp] theorem modDesc_port (r : RingId) (i : Nat) (f : Desc → Desc) (i₁ : BitVec 5) : (s.modDesc r i f).port i₁ = s.port i₁ := rfl

/-! ## modJob -/

@[simp] theorem modJob_time (r : RingId) (i : Nat) (f : Job → Job) : (s.modJob r i f).time = s.time := rfl
@[simp] theorem modJob_mod (r : RingId) (i : Nat) (f : Job → Job) : (s.modJob r i f).mod = s.mod := rfl
@[simp] theorem modJob_pcie (r : RingId) (i : Nat) (f : Job → Job) : (s.modJob r i f).pcie = s.pcie := rfl
@[simp] theorem modJob_cqs (r : RingId) (i : Nat) (f : Job → Job) : (s.modJob r i f).cqs = s.cqs := rfl
@[simp] theorem modJob_binds (r : RingId) (i : Nat) (f : Job → Job) : (s.modJob r i f).binds = s.binds := rfl
@[simp] theorem modJob_slots (r : RingId) (i : Nat) (f : Job → Job) : (s.modJob r i f).slots = s.slots := rfl
@[simp] theorem modJob_keyBase (r : RingId) (i : Nat) (f : Job → Job) : (s.modJob r i f).keyBase = s.keyBase := rfl
@[simp] theorem modJob_nextKey (r : RingId) (i : Nat) (f : Job → Job) : (s.modJob r i f).nextKey = s.nextKey := rfl
@[simp] theorem modJob_cores (r : RingId) (i : Nat) (f : Job → Job) : (s.modJob r i f).cores = s.cores := rfl
@[simp] theorem modJob_tiles (r : RingId) (i : Nat) (f : Job → Job) : (s.modJob r i f).tiles = s.tiles := rfl
@[simp] theorem modJob_stk (r : RingId) (i : Nat) (f : Job → Job) : (s.modJob r i f).stk = s.stk := rfl
@[simp] theorem modJob_hub (r : RingId) (i : Nat) (f : Job → Job) : (s.modJob r i f).hub = s.hub := rfl
@[simp] theorem modJob_links (r : RingId) (i : Nat) (f : Job → Job) : (s.modJob r i f).links = s.links := rfl
@[simp] theorem modJob_power (r : RingId) (i : Nat) (f : Job → Job) : (s.modJob r i f).power = s.power := rfl
@[simp] theorem modJob_cal (r : RingId) (i : Nat) (f : Job → Job) : (s.modJob r i f).cal = s.cal := rfl
@[simp] theorem modJob_mgmt (r : RingId) (i : Nat) (f : Job → Job) : (s.modJob r i f).mgmt = s.mgmt := rfl
@[simp] theorem modJob_err (r : RingId) (i : Nat) (f : Job → Job) : (s.modJob r i f).err = s.err := rfl
@[simp] theorem modJob_spares (r : RingId) (i : Nat) (f : Job → Job) : (s.modJob r i f).spares = s.spares := rfl
@[simp] theorem modJob_perf (r : RingId) (i : Nat) (f : Job → Job) : (s.modJob r i f).perf = s.perf := rfl
@[simp] theorem modJob_out (r : RingId) (i : Nat) (f : Job → Job) : (s.modJob r i f).out = s.out := rfl
@[simp] theorem modJob_free (r : RingId) (i : Nat) (f : Job → Job) : (s.modJob r i f).free = s.free := rfl
@[simp] theorem modJob_pending (r : RingId) (i : Nat) (f : Job → Job) : (s.modJob r i f).pending = s.pending := rfl
@[simp] theorem modJob_core (r : RingId) (i : Nat) (f : Job → Job) (c₁ : CoreId) : (s.modJob r i f).core c₁ = s.core c₁ := rfl
@[simp] theorem modJob_thread (r : RingId) (i : Nat) (f : Job → Job) (c₁ : CoreId) (h₁ : ThreadId) : (s.modJob r i f).thread c₁ h₁ = s.thread c₁ h₁ := rfl
@[simp] theorem modJob_tile (r : RingId) (i : Nat) (f : Job → Job) (n₁ : TileId) : (s.modJob r i f).tile n₁ = s.tile n₁ := rfl
@[simp] theorem modJob_bnd (r : RingId) (i : Nat) (f : Job → Job) (b₁ : BindingId) : (s.modJob r i f).bnd b₁ = s.bnd b₁ := rfl
@[simp] theorem modJob_cq (r : RingId) (i : Nat) (f : Job → Job) (c₁ : CqId) : (s.modJob r i f).cq c₁ = s.cq c₁ := rfl
@[simp] theorem modJob_slot (r : RingId) (i : Nat) (f : Job → Job) (k₁ : SlotId) : (s.modJob r i f).slot k₁ = s.slot k₁ := rfl
@[simp] theorem modJob_keyOf (r : RingId) (i : Nat) (f : Job → Job) (k₁ : SlotId) : (s.modJob r i f).keyOf k₁ = s.keyOf k₁ := rfl
@[simp] theorem modJob_port (r : RingId) (i : Nat) (f : Job → Job) (i₁ : BitVec 5) : (s.modJob r i f).port i₁ = s.port i₁ := rfl

/-! ## setCq -/

@[simp] theorem setCq_time (c : CqId) (x : CompRing) : (s.setCq c x).time = s.time := rfl
@[simp] theorem setCq_mod (c : CqId) (x : CompRing) : (s.setCq c x).mod = s.mod := rfl
@[simp] theorem setCq_pcie (c : CqId) (x : CompRing) : (s.setCq c x).pcie = s.pcie := rfl
@[simp] theorem setCq_rings (c : CqId) (x : CompRing) : (s.setCq c x).rings = s.rings := rfl
@[simp] theorem setCq_binds (c : CqId) (x : CompRing) : (s.setCq c x).binds = s.binds := rfl
@[simp] theorem setCq_slots (c : CqId) (x : CompRing) : (s.setCq c x).slots = s.slots := rfl
@[simp] theorem setCq_keyBase (c : CqId) (x : CompRing) : (s.setCq c x).keyBase = s.keyBase := rfl
@[simp] theorem setCq_nextKey (c : CqId) (x : CompRing) : (s.setCq c x).nextKey = s.nextKey := rfl
@[simp] theorem setCq_cores (c : CqId) (x : CompRing) : (s.setCq c x).cores = s.cores := rfl
@[simp] theorem setCq_tiles (c : CqId) (x : CompRing) : (s.setCq c x).tiles = s.tiles := rfl
@[simp] theorem setCq_stk (c : CqId) (x : CompRing) : (s.setCq c x).stk = s.stk := rfl
@[simp] theorem setCq_hub (c : CqId) (x : CompRing) : (s.setCq c x).hub = s.hub := rfl
@[simp] theorem setCq_links (c : CqId) (x : CompRing) : (s.setCq c x).links = s.links := rfl
@[simp] theorem setCq_power (c : CqId) (x : CompRing) : (s.setCq c x).power = s.power := rfl
@[simp] theorem setCq_cal (c : CqId) (x : CompRing) : (s.setCq c x).cal = s.cal := rfl
@[simp] theorem setCq_mgmt (c : CqId) (x : CompRing) : (s.setCq c x).mgmt = s.mgmt := rfl
@[simp] theorem setCq_err (c : CqId) (x : CompRing) : (s.setCq c x).err = s.err := rfl
@[simp] theorem setCq_spares (c : CqId) (x : CompRing) : (s.setCq c x).spares = s.spares := rfl
@[simp] theorem setCq_perf (c : CqId) (x : CompRing) : (s.setCq c x).perf = s.perf := rfl
@[simp] theorem setCq_out (c : CqId) (x : CompRing) : (s.setCq c x).out = s.out := rfl
@[simp] theorem setCq_free (c : CqId) (x : CompRing) : (s.setCq c x).free = s.free := rfl
@[simp] theorem setCq_pending (c : CqId) (x : CompRing) : (s.setCq c x).pending = s.pending := rfl
@[simp] theorem setCq_core (c : CqId) (x : CompRing) (c₁ : CoreId) : (s.setCq c x).core c₁ = s.core c₁ := rfl
@[simp] theorem setCq_thread (c : CqId) (x : CompRing) (c₁ : CoreId) (h₁ : ThreadId) : (s.setCq c x).thread c₁ h₁ = s.thread c₁ h₁ := rfl
@[simp] theorem setCq_tile (c : CqId) (x : CompRing) (n₁ : TileId) : (s.setCq c x).tile n₁ = s.tile n₁ := rfl
@[simp] theorem setCq_bnd (c : CqId) (x : CompRing) (b₁ : BindingId) : (s.setCq c x).bnd b₁ = s.bnd b₁ := rfl
@[simp] theorem setCq_ring (c : CqId) (x : CompRing) (r₁ : RingId) : (s.setCq c x).ring r₁ = s.ring r₁ := rfl
@[simp] theorem setCq_desc (c : CqId) (x : CompRing) (r₁ : RingId) (i₁ : Nat) : (s.setCq c x).desc r₁ i₁ = s.desc r₁ i₁ := rfl
@[simp] theorem setCq_allDescs (c : CqId) (x : CompRing) : (s.setCq c x).allDescs = s.allDescs := rfl
@[simp] theorem setCq_slot (c : CqId) (x : CompRing) (k₁ : SlotId) : (s.setCq c x).slot k₁ = s.slot k₁ := rfl
@[simp] theorem setCq_keyOf (c : CqId) (x : CompRing) (k₁ : SlotId) : (s.setCq c x).keyOf k₁ = s.keyOf k₁ := rfl
@[simp] theorem setCq_port (c : CqId) (x : CompRing) (i₁ : BitVec 5) : (s.setCq c x).port i₁ = s.port i₁ := rfl

/-! ## modCq -/

@[simp] theorem modCq_time (c : CqId) (f : CompRing → CompRing) : (s.modCq c f).time = s.time := rfl
@[simp] theorem modCq_mod (c : CqId) (f : CompRing → CompRing) : (s.modCq c f).mod = s.mod := rfl
@[simp] theorem modCq_pcie (c : CqId) (f : CompRing → CompRing) : (s.modCq c f).pcie = s.pcie := rfl
@[simp] theorem modCq_rings (c : CqId) (f : CompRing → CompRing) : (s.modCq c f).rings = s.rings := rfl
@[simp] theorem modCq_binds (c : CqId) (f : CompRing → CompRing) : (s.modCq c f).binds = s.binds := rfl
@[simp] theorem modCq_slots (c : CqId) (f : CompRing → CompRing) : (s.modCq c f).slots = s.slots := rfl
@[simp] theorem modCq_keyBase (c : CqId) (f : CompRing → CompRing) : (s.modCq c f).keyBase = s.keyBase := rfl
@[simp] theorem modCq_nextKey (c : CqId) (f : CompRing → CompRing) : (s.modCq c f).nextKey = s.nextKey := rfl
@[simp] theorem modCq_cores (c : CqId) (f : CompRing → CompRing) : (s.modCq c f).cores = s.cores := rfl
@[simp] theorem modCq_tiles (c : CqId) (f : CompRing → CompRing) : (s.modCq c f).tiles = s.tiles := rfl
@[simp] theorem modCq_stk (c : CqId) (f : CompRing → CompRing) : (s.modCq c f).stk = s.stk := rfl
@[simp] theorem modCq_hub (c : CqId) (f : CompRing → CompRing) : (s.modCq c f).hub = s.hub := rfl
@[simp] theorem modCq_links (c : CqId) (f : CompRing → CompRing) : (s.modCq c f).links = s.links := rfl
@[simp] theorem modCq_power (c : CqId) (f : CompRing → CompRing) : (s.modCq c f).power = s.power := rfl
@[simp] theorem modCq_cal (c : CqId) (f : CompRing → CompRing) : (s.modCq c f).cal = s.cal := rfl
@[simp] theorem modCq_mgmt (c : CqId) (f : CompRing → CompRing) : (s.modCq c f).mgmt = s.mgmt := rfl
@[simp] theorem modCq_err (c : CqId) (f : CompRing → CompRing) : (s.modCq c f).err = s.err := rfl
@[simp] theorem modCq_spares (c : CqId) (f : CompRing → CompRing) : (s.modCq c f).spares = s.spares := rfl
@[simp] theorem modCq_perf (c : CqId) (f : CompRing → CompRing) : (s.modCq c f).perf = s.perf := rfl
@[simp] theorem modCq_out (c : CqId) (f : CompRing → CompRing) : (s.modCq c f).out = s.out := rfl
@[simp] theorem modCq_free (c : CqId) (f : CompRing → CompRing) : (s.modCq c f).free = s.free := rfl
@[simp] theorem modCq_pending (c : CqId) (f : CompRing → CompRing) : (s.modCq c f).pending = s.pending := rfl
@[simp] theorem modCq_core (c : CqId) (f : CompRing → CompRing) (c₁ : CoreId) : (s.modCq c f).core c₁ = s.core c₁ := rfl
@[simp] theorem modCq_thread (c : CqId) (f : CompRing → CompRing) (c₁ : CoreId) (h₁ : ThreadId) : (s.modCq c f).thread c₁ h₁ = s.thread c₁ h₁ := rfl
@[simp] theorem modCq_tile (c : CqId) (f : CompRing → CompRing) (n₁ : TileId) : (s.modCq c f).tile n₁ = s.tile n₁ := rfl
@[simp] theorem modCq_bnd (c : CqId) (f : CompRing → CompRing) (b₁ : BindingId) : (s.modCq c f).bnd b₁ = s.bnd b₁ := rfl
@[simp] theorem modCq_ring (c : CqId) (f : CompRing → CompRing) (r₁ : RingId) : (s.modCq c f).ring r₁ = s.ring r₁ := rfl
@[simp] theorem modCq_desc (c : CqId) (f : CompRing → CompRing) (r₁ : RingId) (i₁ : Nat) : (s.modCq c f).desc r₁ i₁ = s.desc r₁ i₁ := rfl
@[simp] theorem modCq_allDescs (c : CqId) (f : CompRing → CompRing) : (s.modCq c f).allDescs = s.allDescs := rfl
@[simp] theorem modCq_slot (c : CqId) (f : CompRing → CompRing) (k₁ : SlotId) : (s.modCq c f).slot k₁ = s.slot k₁ := rfl
@[simp] theorem modCq_keyOf (c : CqId) (f : CompRing → CompRing) (k₁ : SlotId) : (s.modCq c f).keyOf k₁ = s.keyOf k₁ := rfl
@[simp] theorem modCq_port (c : CqId) (f : CompRing → CompRing) (i₁ : BitVec 5) : (s.modCq c f).port i₁ = s.port i₁ := rfl

/-! ## setSlot -/

@[simp] theorem setSlot_time (k : SlotId) (x : KeySlot) : (s.setSlot k x).time = s.time := rfl
@[simp] theorem setSlot_mod (k : SlotId) (x : KeySlot) : (s.setSlot k x).mod = s.mod := rfl
@[simp] theorem setSlot_pcie (k : SlotId) (x : KeySlot) : (s.setSlot k x).pcie = s.pcie := rfl
@[simp] theorem setSlot_rings (k : SlotId) (x : KeySlot) : (s.setSlot k x).rings = s.rings := rfl
@[simp] theorem setSlot_cqs (k : SlotId) (x : KeySlot) : (s.setSlot k x).cqs = s.cqs := rfl
@[simp] theorem setSlot_binds (k : SlotId) (x : KeySlot) : (s.setSlot k x).binds = s.binds := rfl
@[simp] theorem setSlot_keyBase (k : SlotId) (x : KeySlot) : (s.setSlot k x).keyBase = s.keyBase := rfl
@[simp] theorem setSlot_nextKey (k : SlotId) (x : KeySlot) : (s.setSlot k x).nextKey = s.nextKey := rfl
@[simp] theorem setSlot_cores (k : SlotId) (x : KeySlot) : (s.setSlot k x).cores = s.cores := rfl
@[simp] theorem setSlot_tiles (k : SlotId) (x : KeySlot) : (s.setSlot k x).tiles = s.tiles := rfl
@[simp] theorem setSlot_stk (k : SlotId) (x : KeySlot) : (s.setSlot k x).stk = s.stk := rfl
@[simp] theorem setSlot_hub (k : SlotId) (x : KeySlot) : (s.setSlot k x).hub = s.hub := rfl
@[simp] theorem setSlot_links (k : SlotId) (x : KeySlot) : (s.setSlot k x).links = s.links := rfl
@[simp] theorem setSlot_power (k : SlotId) (x : KeySlot) : (s.setSlot k x).power = s.power := rfl
@[simp] theorem setSlot_cal (k : SlotId) (x : KeySlot) : (s.setSlot k x).cal = s.cal := rfl
@[simp] theorem setSlot_mgmt (k : SlotId) (x : KeySlot) : (s.setSlot k x).mgmt = s.mgmt := rfl
@[simp] theorem setSlot_err (k : SlotId) (x : KeySlot) : (s.setSlot k x).err = s.err := rfl
@[simp] theorem setSlot_spares (k : SlotId) (x : KeySlot) : (s.setSlot k x).spares = s.spares := rfl
@[simp] theorem setSlot_perf (k : SlotId) (x : KeySlot) : (s.setSlot k x).perf = s.perf := rfl
@[simp] theorem setSlot_out (k : SlotId) (x : KeySlot) : (s.setSlot k x).out = s.out := rfl
@[simp] theorem setSlot_free (k : SlotId) (x : KeySlot) : (s.setSlot k x).free = s.free := rfl
@[simp] theorem setSlot_pending (k : SlotId) (x : KeySlot) : (s.setSlot k x).pending = s.pending := rfl
@[simp] theorem setSlot_core (k : SlotId) (x : KeySlot) (c₁ : CoreId) : (s.setSlot k x).core c₁ = s.core c₁ := rfl
@[simp] theorem setSlot_thread (k : SlotId) (x : KeySlot) (c₁ : CoreId) (h₁ : ThreadId) : (s.setSlot k x).thread c₁ h₁ = s.thread c₁ h₁ := rfl
@[simp] theorem setSlot_tile (k : SlotId) (x : KeySlot) (n₁ : TileId) : (s.setSlot k x).tile n₁ = s.tile n₁ := rfl
@[simp] theorem setSlot_bnd (k : SlotId) (x : KeySlot) (b₁ : BindingId) : (s.setSlot k x).bnd b₁ = s.bnd b₁ := rfl
@[simp] theorem setSlot_ring (k : SlotId) (x : KeySlot) (r₁ : RingId) : (s.setSlot k x).ring r₁ = s.ring r₁ := rfl
@[simp] theorem setSlot_desc (k : SlotId) (x : KeySlot) (r₁ : RingId) (i₁ : Nat) : (s.setSlot k x).desc r₁ i₁ = s.desc r₁ i₁ := rfl
@[simp] theorem setSlot_allDescs (k : SlotId) (x : KeySlot) : (s.setSlot k x).allDescs = s.allDescs := rfl
@[simp] theorem setSlot_cq (k : SlotId) (x : KeySlot) (c₁ : CqId) : (s.setSlot k x).cq c₁ = s.cq c₁ := rfl
@[simp] theorem setSlot_port (k : SlotId) (x : KeySlot) (i₁ : BitVec 5) : (s.setSlot k x).port i₁ = s.port i₁ := rfl

/-! ## setPort -/

@[simp] theorem setPort_time (i : BitVec 5) (p : Port) : (s.setPort i p).time = s.time := rfl
@[simp] theorem setPort_mod (i : BitVec 5) (p : Port) : (s.setPort i p).mod = s.mod := rfl
@[simp] theorem setPort_pcie (i : BitVec 5) (p : Port) : (s.setPort i p).pcie = s.pcie := rfl
@[simp] theorem setPort_rings (i : BitVec 5) (p : Port) : (s.setPort i p).rings = s.rings := rfl
@[simp] theorem setPort_cqs (i : BitVec 5) (p : Port) : (s.setPort i p).cqs = s.cqs := rfl
@[simp] theorem setPort_binds (i : BitVec 5) (p : Port) : (s.setPort i p).binds = s.binds := rfl
@[simp] theorem setPort_slots (i : BitVec 5) (p : Port) : (s.setPort i p).slots = s.slots := rfl
@[simp] theorem setPort_keyBase (i : BitVec 5) (p : Port) : (s.setPort i p).keyBase = s.keyBase := rfl
@[simp] theorem setPort_nextKey (i : BitVec 5) (p : Port) : (s.setPort i p).nextKey = s.nextKey := rfl
@[simp] theorem setPort_cores (i : BitVec 5) (p : Port) : (s.setPort i p).cores = s.cores := rfl
@[simp] theorem setPort_tiles (i : BitVec 5) (p : Port) : (s.setPort i p).tiles = s.tiles := rfl
@[simp] theorem setPort_stk (i : BitVec 5) (p : Port) : (s.setPort i p).stk = s.stk := rfl
@[simp] theorem setPort_hub (i : BitVec 5) (p : Port) : (s.setPort i p).hub = s.hub := rfl
@[simp] theorem setPort_power (i : BitVec 5) (p : Port) : (s.setPort i p).power = s.power := rfl
@[simp] theorem setPort_cal (i : BitVec 5) (p : Port) : (s.setPort i p).cal = s.cal := rfl
@[simp] theorem setPort_mgmt (i : BitVec 5) (p : Port) : (s.setPort i p).mgmt = s.mgmt := rfl
@[simp] theorem setPort_err (i : BitVec 5) (p : Port) : (s.setPort i p).err = s.err := rfl
@[simp] theorem setPort_spares (i : BitVec 5) (p : Port) : (s.setPort i p).spares = s.spares := rfl
@[simp] theorem setPort_perf (i : BitVec 5) (p : Port) : (s.setPort i p).perf = s.perf := rfl
@[simp] theorem setPort_out (i : BitVec 5) (p : Port) : (s.setPort i p).out = s.out := rfl
@[simp] theorem setPort_free (i : BitVec 5) (p : Port) : (s.setPort i p).free = s.free := rfl
@[simp] theorem setPort_pending (i : BitVec 5) (p : Port) : (s.setPort i p).pending = s.pending := rfl
@[simp] theorem setPort_core (i : BitVec 5) (p : Port) (c₁ : CoreId) : (s.setPort i p).core c₁ = s.core c₁ := rfl
@[simp] theorem setPort_thread (i : BitVec 5) (p : Port) (c₁ : CoreId) (h₁ : ThreadId) : (s.setPort i p).thread c₁ h₁ = s.thread c₁ h₁ := rfl
@[simp] theorem setPort_tile (i : BitVec 5) (p : Port) (n₁ : TileId) : (s.setPort i p).tile n₁ = s.tile n₁ := rfl
@[simp] theorem setPort_bnd (i : BitVec 5) (p : Port) (b₁ : BindingId) : (s.setPort i p).bnd b₁ = s.bnd b₁ := rfl
@[simp] theorem setPort_ring (i : BitVec 5) (p : Port) (r₁ : RingId) : (s.setPort i p).ring r₁ = s.ring r₁ := rfl
@[simp] theorem setPort_desc (i : BitVec 5) (p : Port) (r₁ : RingId) (i₁ : Nat) : (s.setPort i p).desc r₁ i₁ = s.desc r₁ i₁ := rfl
@[simp] theorem setPort_allDescs (i : BitVec 5) (p : Port) : (s.setPort i p).allDescs = s.allDescs := rfl
@[simp] theorem setPort_cq (i : BitVec 5) (p : Port) (c₁ : CqId) : (s.setPort i p).cq c₁ = s.cq c₁ := rfl
@[simp] theorem setPort_slot (i : BitVec 5) (p : Port) (k₁ : SlotId) : (s.setPort i p).slot k₁ = s.slot k₁ := rfl
@[simp] theorem setPort_keyOf (i : BitVec 5) (p : Port) (k₁ : SlotId) : (s.setPort i p).keyOf k₁ = s.keyOf k₁ := rfl

/-! ## modPort -/

@[simp] theorem modPort_time (i : BitVec 5) (f : Port → Port) : (s.modPort i f).time = s.time := rfl
@[simp] theorem modPort_mod (i : BitVec 5) (f : Port → Port) : (s.modPort i f).mod = s.mod := rfl
@[simp] theorem modPort_pcie (i : BitVec 5) (f : Port → Port) : (s.modPort i f).pcie = s.pcie := rfl
@[simp] theorem modPort_rings (i : BitVec 5) (f : Port → Port) : (s.modPort i f).rings = s.rings := rfl
@[simp] theorem modPort_cqs (i : BitVec 5) (f : Port → Port) : (s.modPort i f).cqs = s.cqs := rfl
@[simp] theorem modPort_binds (i : BitVec 5) (f : Port → Port) : (s.modPort i f).binds = s.binds := rfl
@[simp] theorem modPort_slots (i : BitVec 5) (f : Port → Port) : (s.modPort i f).slots = s.slots := rfl
@[simp] theorem modPort_keyBase (i : BitVec 5) (f : Port → Port) : (s.modPort i f).keyBase = s.keyBase := rfl
@[simp] theorem modPort_nextKey (i : BitVec 5) (f : Port → Port) : (s.modPort i f).nextKey = s.nextKey := rfl
@[simp] theorem modPort_cores (i : BitVec 5) (f : Port → Port) : (s.modPort i f).cores = s.cores := rfl
@[simp] theorem modPort_tiles (i : BitVec 5) (f : Port → Port) : (s.modPort i f).tiles = s.tiles := rfl
@[simp] theorem modPort_stk (i : BitVec 5) (f : Port → Port) : (s.modPort i f).stk = s.stk := rfl
@[simp] theorem modPort_hub (i : BitVec 5) (f : Port → Port) : (s.modPort i f).hub = s.hub := rfl
@[simp] theorem modPort_power (i : BitVec 5) (f : Port → Port) : (s.modPort i f).power = s.power := rfl
@[simp] theorem modPort_cal (i : BitVec 5) (f : Port → Port) : (s.modPort i f).cal = s.cal := rfl
@[simp] theorem modPort_mgmt (i : BitVec 5) (f : Port → Port) : (s.modPort i f).mgmt = s.mgmt := rfl
@[simp] theorem modPort_err (i : BitVec 5) (f : Port → Port) : (s.modPort i f).err = s.err := rfl
@[simp] theorem modPort_spares (i : BitVec 5) (f : Port → Port) : (s.modPort i f).spares = s.spares := rfl
@[simp] theorem modPort_perf (i : BitVec 5) (f : Port → Port) : (s.modPort i f).perf = s.perf := rfl
@[simp] theorem modPort_out (i : BitVec 5) (f : Port → Port) : (s.modPort i f).out = s.out := rfl
@[simp] theorem modPort_free (i : BitVec 5) (f : Port → Port) : (s.modPort i f).free = s.free := rfl
@[simp] theorem modPort_pending (i : BitVec 5) (f : Port → Port) : (s.modPort i f).pending = s.pending := rfl
@[simp] theorem modPort_core (i : BitVec 5) (f : Port → Port) (c₁ : CoreId) : (s.modPort i f).core c₁ = s.core c₁ := rfl
@[simp] theorem modPort_thread (i : BitVec 5) (f : Port → Port) (c₁ : CoreId) (h₁ : ThreadId) : (s.modPort i f).thread c₁ h₁ = s.thread c₁ h₁ := rfl
@[simp] theorem modPort_tile (i : BitVec 5) (f : Port → Port) (n₁ : TileId) : (s.modPort i f).tile n₁ = s.tile n₁ := rfl
@[simp] theorem modPort_bnd (i : BitVec 5) (f : Port → Port) (b₁ : BindingId) : (s.modPort i f).bnd b₁ = s.bnd b₁ := rfl
@[simp] theorem modPort_ring (i : BitVec 5) (f : Port → Port) (r₁ : RingId) : (s.modPort i f).ring r₁ = s.ring r₁ := rfl
@[simp] theorem modPort_desc (i : BitVec 5) (f : Port → Port) (r₁ : RingId) (i₁ : Nat) : (s.modPort i f).desc r₁ i₁ = s.desc r₁ i₁ := rfl
@[simp] theorem modPort_allDescs (i : BitVec 5) (f : Port → Port) : (s.modPort i f).allDescs = s.allDescs := rfl
@[simp] theorem modPort_cq (i : BitVec 5) (f : Port → Port) (c₁ : CqId) : (s.modPort i f).cq c₁ = s.cq c₁ := rfl
@[simp] theorem modPort_slot (i : BitVec 5) (f : Port → Port) (k₁ : SlotId) : (s.modPort i f).slot k₁ = s.slot k₁ := rfl
@[simp] theorem modPort_keyOf (i : BitVec 5) (f : Port → Port) (k₁ : SlotId) : (s.modPort i f).keyOf k₁ = s.keyOf k₁ := rfl

/-! ## modTime -/

@[simp] theorem modTime_mod (f : TimeState → TimeState) : (s.modTime f).mod = s.mod := rfl
@[simp] theorem modTime_pcie (f : TimeState → TimeState) : (s.modTime f).pcie = s.pcie := rfl
@[simp] theorem modTime_rings (f : TimeState → TimeState) : (s.modTime f).rings = s.rings := rfl
@[simp] theorem modTime_cqs (f : TimeState → TimeState) : (s.modTime f).cqs = s.cqs := rfl
@[simp] theorem modTime_binds (f : TimeState → TimeState) : (s.modTime f).binds = s.binds := rfl
@[simp] theorem modTime_slots (f : TimeState → TimeState) : (s.modTime f).slots = s.slots := rfl
@[simp] theorem modTime_keyBase (f : TimeState → TimeState) : (s.modTime f).keyBase = s.keyBase := rfl
@[simp] theorem modTime_nextKey (f : TimeState → TimeState) : (s.modTime f).nextKey = s.nextKey := rfl
@[simp] theorem modTime_cores (f : TimeState → TimeState) : (s.modTime f).cores = s.cores := rfl
@[simp] theorem modTime_tiles (f : TimeState → TimeState) : (s.modTime f).tiles = s.tiles := rfl
@[simp] theorem modTime_stk (f : TimeState → TimeState) : (s.modTime f).stk = s.stk := rfl
@[simp] theorem modTime_hub (f : TimeState → TimeState) : (s.modTime f).hub = s.hub := rfl
@[simp] theorem modTime_links (f : TimeState → TimeState) : (s.modTime f).links = s.links := rfl
@[simp] theorem modTime_power (f : TimeState → TimeState) : (s.modTime f).power = s.power := rfl
@[simp] theorem modTime_cal (f : TimeState → TimeState) : (s.modTime f).cal = s.cal := rfl
@[simp] theorem modTime_mgmt (f : TimeState → TimeState) : (s.modTime f).mgmt = s.mgmt := rfl
@[simp] theorem modTime_err (f : TimeState → TimeState) : (s.modTime f).err = s.err := rfl
@[simp] theorem modTime_spares (f : TimeState → TimeState) : (s.modTime f).spares = s.spares := rfl
@[simp] theorem modTime_perf (f : TimeState → TimeState) : (s.modTime f).perf = s.perf := rfl
@[simp] theorem modTime_out (f : TimeState → TimeState) : (s.modTime f).out = s.out := rfl
@[simp] theorem modTime_free (f : TimeState → TimeState) : (s.modTime f).free = s.free := rfl
@[simp] theorem modTime_pending (f : TimeState → TimeState) : (s.modTime f).pending = s.pending := rfl
@[simp] theorem modTime_core (f : TimeState → TimeState) (c₁ : CoreId) : (s.modTime f).core c₁ = s.core c₁ := rfl
@[simp] theorem modTime_thread (f : TimeState → TimeState) (c₁ : CoreId) (h₁ : ThreadId) : (s.modTime f).thread c₁ h₁ = s.thread c₁ h₁ := rfl
@[simp] theorem modTime_tile (f : TimeState → TimeState) (n₁ : TileId) : (s.modTime f).tile n₁ = s.tile n₁ := rfl
@[simp] theorem modTime_bnd (f : TimeState → TimeState) (b₁ : BindingId) : (s.modTime f).bnd b₁ = s.bnd b₁ := rfl
@[simp] theorem modTime_ring (f : TimeState → TimeState) (r₁ : RingId) : (s.modTime f).ring r₁ = s.ring r₁ := rfl
@[simp] theorem modTime_desc (f : TimeState → TimeState) (r₁ : RingId) (i₁ : Nat) : (s.modTime f).desc r₁ i₁ = s.desc r₁ i₁ := rfl
@[simp] theorem modTime_allDescs (f : TimeState → TimeState) : (s.modTime f).allDescs = s.allDescs := rfl
@[simp] theorem modTime_cq (f : TimeState → TimeState) (c₁ : CqId) : (s.modTime f).cq c₁ = s.cq c₁ := rfl
@[simp] theorem modTime_slot (f : TimeState → TimeState) (k₁ : SlotId) : (s.modTime f).slot k₁ = s.slot k₁ := rfl
@[simp] theorem modTime_keyOf (f : TimeState → TimeState) (k₁ : SlotId) : (s.modTime f).keyOf k₁ = s.keyOf k₁ := rfl
@[simp] theorem modTime_port (f : TimeState → TimeState) (i₁ : BitVec 5) : (s.modTime f).port i₁ = s.port i₁ := rfl

/-! ## modMod -/

@[simp] theorem modMod_time (f : ModBlock → ModBlock) : (s.modMod f).time = s.time := rfl
@[simp] theorem modMod_pcie (f : ModBlock → ModBlock) : (s.modMod f).pcie = s.pcie := rfl
@[simp] theorem modMod_rings (f : ModBlock → ModBlock) : (s.modMod f).rings = s.rings := rfl
@[simp] theorem modMod_cqs (f : ModBlock → ModBlock) : (s.modMod f).cqs = s.cqs := rfl
@[simp] theorem modMod_binds (f : ModBlock → ModBlock) : (s.modMod f).binds = s.binds := rfl
@[simp] theorem modMod_slots (f : ModBlock → ModBlock) : (s.modMod f).slots = s.slots := rfl
@[simp] theorem modMod_keyBase (f : ModBlock → ModBlock) : (s.modMod f).keyBase = s.keyBase := rfl
@[simp] theorem modMod_nextKey (f : ModBlock → ModBlock) : (s.modMod f).nextKey = s.nextKey := rfl
@[simp] theorem modMod_cores (f : ModBlock → ModBlock) : (s.modMod f).cores = s.cores := rfl
@[simp] theorem modMod_tiles (f : ModBlock → ModBlock) : (s.modMod f).tiles = s.tiles := rfl
@[simp] theorem modMod_stk (f : ModBlock → ModBlock) : (s.modMod f).stk = s.stk := rfl
@[simp] theorem modMod_hub (f : ModBlock → ModBlock) : (s.modMod f).hub = s.hub := rfl
@[simp] theorem modMod_links (f : ModBlock → ModBlock) : (s.modMod f).links = s.links := rfl
@[simp] theorem modMod_power (f : ModBlock → ModBlock) : (s.modMod f).power = s.power := rfl
@[simp] theorem modMod_cal (f : ModBlock → ModBlock) : (s.modMod f).cal = s.cal := rfl
@[simp] theorem modMod_mgmt (f : ModBlock → ModBlock) : (s.modMod f).mgmt = s.mgmt := rfl
@[simp] theorem modMod_err (f : ModBlock → ModBlock) : (s.modMod f).err = s.err := rfl
@[simp] theorem modMod_spares (f : ModBlock → ModBlock) : (s.modMod f).spares = s.spares := rfl
@[simp] theorem modMod_perf (f : ModBlock → ModBlock) : (s.modMod f).perf = s.perf := rfl
@[simp] theorem modMod_out (f : ModBlock → ModBlock) : (s.modMod f).out = s.out := rfl
@[simp] theorem modMod_free (f : ModBlock → ModBlock) : (s.modMod f).free = s.free := rfl
@[simp] theorem modMod_pending (f : ModBlock → ModBlock) : (s.modMod f).pending = s.pending := rfl
@[simp] theorem modMod_core (f : ModBlock → ModBlock) (c₁ : CoreId) : (s.modMod f).core c₁ = s.core c₁ := rfl
@[simp] theorem modMod_thread (f : ModBlock → ModBlock) (c₁ : CoreId) (h₁ : ThreadId) : (s.modMod f).thread c₁ h₁ = s.thread c₁ h₁ := rfl
@[simp] theorem modMod_tile (f : ModBlock → ModBlock) (n₁ : TileId) : (s.modMod f).tile n₁ = s.tile n₁ := rfl
@[simp] theorem modMod_bnd (f : ModBlock → ModBlock) (b₁ : BindingId) : (s.modMod f).bnd b₁ = s.bnd b₁ := rfl
@[simp] theorem modMod_ring (f : ModBlock → ModBlock) (r₁ : RingId) : (s.modMod f).ring r₁ = s.ring r₁ := rfl
@[simp] theorem modMod_desc (f : ModBlock → ModBlock) (r₁ : RingId) (i₁ : Nat) : (s.modMod f).desc r₁ i₁ = s.desc r₁ i₁ := rfl
@[simp] theorem modMod_allDescs (f : ModBlock → ModBlock) : (s.modMod f).allDescs = s.allDescs := rfl
@[simp] theorem modMod_cq (f : ModBlock → ModBlock) (c₁ : CqId) : (s.modMod f).cq c₁ = s.cq c₁ := rfl
@[simp] theorem modMod_slot (f : ModBlock → ModBlock) (k₁ : SlotId) : (s.modMod f).slot k₁ = s.slot k₁ := rfl
@[simp] theorem modMod_keyOf (f : ModBlock → ModBlock) (k₁ : SlotId) : (s.modMod f).keyOf k₁ = s.keyOf k₁ := rfl
@[simp] theorem modMod_port (f : ModBlock → ModBlock) (i₁ : BitVec 5) : (s.modMod f).port i₁ = s.port i₁ := rfl

/-! ## modMgmt -/

@[simp] theorem modMgmt_time (f : MgmtState → MgmtState) : (s.modMgmt f).time = s.time := rfl
@[simp] theorem modMgmt_mod (f : MgmtState → MgmtState) : (s.modMgmt f).mod = s.mod := rfl
@[simp] theorem modMgmt_pcie (f : MgmtState → MgmtState) : (s.modMgmt f).pcie = s.pcie := rfl
@[simp] theorem modMgmt_rings (f : MgmtState → MgmtState) : (s.modMgmt f).rings = s.rings := rfl
@[simp] theorem modMgmt_cqs (f : MgmtState → MgmtState) : (s.modMgmt f).cqs = s.cqs := rfl
@[simp] theorem modMgmt_binds (f : MgmtState → MgmtState) : (s.modMgmt f).binds = s.binds := rfl
@[simp] theorem modMgmt_slots (f : MgmtState → MgmtState) : (s.modMgmt f).slots = s.slots := rfl
@[simp] theorem modMgmt_keyBase (f : MgmtState → MgmtState) : (s.modMgmt f).keyBase = s.keyBase := rfl
@[simp] theorem modMgmt_nextKey (f : MgmtState → MgmtState) : (s.modMgmt f).nextKey = s.nextKey := rfl
@[simp] theorem modMgmt_cores (f : MgmtState → MgmtState) : (s.modMgmt f).cores = s.cores := rfl
@[simp] theorem modMgmt_tiles (f : MgmtState → MgmtState) : (s.modMgmt f).tiles = s.tiles := rfl
@[simp] theorem modMgmt_stk (f : MgmtState → MgmtState) : (s.modMgmt f).stk = s.stk := rfl
@[simp] theorem modMgmt_hub (f : MgmtState → MgmtState) : (s.modMgmt f).hub = s.hub := rfl
@[simp] theorem modMgmt_links (f : MgmtState → MgmtState) : (s.modMgmt f).links = s.links := rfl
@[simp] theorem modMgmt_power (f : MgmtState → MgmtState) : (s.modMgmt f).power = s.power := rfl
@[simp] theorem modMgmt_cal (f : MgmtState → MgmtState) : (s.modMgmt f).cal = s.cal := rfl
@[simp] theorem modMgmt_err (f : MgmtState → MgmtState) : (s.modMgmt f).err = s.err := rfl
@[simp] theorem modMgmt_spares (f : MgmtState → MgmtState) : (s.modMgmt f).spares = s.spares := rfl
@[simp] theorem modMgmt_perf (f : MgmtState → MgmtState) : (s.modMgmt f).perf = s.perf := rfl
@[simp] theorem modMgmt_out (f : MgmtState → MgmtState) : (s.modMgmt f).out = s.out := rfl
@[simp] theorem modMgmt_free (f : MgmtState → MgmtState) : (s.modMgmt f).free = s.free := rfl
@[simp] theorem modMgmt_pending (f : MgmtState → MgmtState) : (s.modMgmt f).pending = s.pending := rfl
@[simp] theorem modMgmt_core (f : MgmtState → MgmtState) (c₁ : CoreId) : (s.modMgmt f).core c₁ = s.core c₁ := rfl
@[simp] theorem modMgmt_thread (f : MgmtState → MgmtState) (c₁ : CoreId) (h₁ : ThreadId) : (s.modMgmt f).thread c₁ h₁ = s.thread c₁ h₁ := rfl
@[simp] theorem modMgmt_tile (f : MgmtState → MgmtState) (n₁ : TileId) : (s.modMgmt f).tile n₁ = s.tile n₁ := rfl
@[simp] theorem modMgmt_bnd (f : MgmtState → MgmtState) (b₁ : BindingId) : (s.modMgmt f).bnd b₁ = s.bnd b₁ := rfl
@[simp] theorem modMgmt_ring (f : MgmtState → MgmtState) (r₁ : RingId) : (s.modMgmt f).ring r₁ = s.ring r₁ := rfl
@[simp] theorem modMgmt_desc (f : MgmtState → MgmtState) (r₁ : RingId) (i₁ : Nat) : (s.modMgmt f).desc r₁ i₁ = s.desc r₁ i₁ := rfl
@[simp] theorem modMgmt_allDescs (f : MgmtState → MgmtState) : (s.modMgmt f).allDescs = s.allDescs := rfl
@[simp] theorem modMgmt_cq (f : MgmtState → MgmtState) (c₁ : CqId) : (s.modMgmt f).cq c₁ = s.cq c₁ := rfl
@[simp] theorem modMgmt_slot (f : MgmtState → MgmtState) (k₁ : SlotId) : (s.modMgmt f).slot k₁ = s.slot k₁ := rfl
@[simp] theorem modMgmt_keyOf (f : MgmtState → MgmtState) (k₁ : SlotId) : (s.modMgmt f).keyOf k₁ = s.keyOf k₁ := rfl
@[simp] theorem modMgmt_port (f : MgmtState → MgmtState) (i₁ : BitVec 5) : (s.modMgmt f).port i₁ = s.port i₁ := rfl

/-! ## modMb -/

@[simp] theorem modMb_time (f : Mailbox → Mailbox) : (s.modMb f).time = s.time := rfl
@[simp] theorem modMb_mod (f : Mailbox → Mailbox) : (s.modMb f).mod = s.mod := rfl
@[simp] theorem modMb_pcie (f : Mailbox → Mailbox) : (s.modMb f).pcie = s.pcie := rfl
@[simp] theorem modMb_rings (f : Mailbox → Mailbox) : (s.modMb f).rings = s.rings := rfl
@[simp] theorem modMb_cqs (f : Mailbox → Mailbox) : (s.modMb f).cqs = s.cqs := rfl
@[simp] theorem modMb_binds (f : Mailbox → Mailbox) : (s.modMb f).binds = s.binds := rfl
@[simp] theorem modMb_slots (f : Mailbox → Mailbox) : (s.modMb f).slots = s.slots := rfl
@[simp] theorem modMb_keyBase (f : Mailbox → Mailbox) : (s.modMb f).keyBase = s.keyBase := rfl
@[simp] theorem modMb_nextKey (f : Mailbox → Mailbox) : (s.modMb f).nextKey = s.nextKey := rfl
@[simp] theorem modMb_cores (f : Mailbox → Mailbox) : (s.modMb f).cores = s.cores := rfl
@[simp] theorem modMb_tiles (f : Mailbox → Mailbox) : (s.modMb f).tiles = s.tiles := rfl
@[simp] theorem modMb_stk (f : Mailbox → Mailbox) : (s.modMb f).stk = s.stk := rfl
@[simp] theorem modMb_hub (f : Mailbox → Mailbox) : (s.modMb f).hub = s.hub := rfl
@[simp] theorem modMb_links (f : Mailbox → Mailbox) : (s.modMb f).links = s.links := rfl
@[simp] theorem modMb_power (f : Mailbox → Mailbox) : (s.modMb f).power = s.power := rfl
@[simp] theorem modMb_cal (f : Mailbox → Mailbox) : (s.modMb f).cal = s.cal := rfl
@[simp] theorem modMb_err (f : Mailbox → Mailbox) : (s.modMb f).err = s.err := rfl
@[simp] theorem modMb_spares (f : Mailbox → Mailbox) : (s.modMb f).spares = s.spares := rfl
@[simp] theorem modMb_perf (f : Mailbox → Mailbox) : (s.modMb f).perf = s.perf := rfl
@[simp] theorem modMb_out (f : Mailbox → Mailbox) : (s.modMb f).out = s.out := rfl
@[simp] theorem modMb_free (f : Mailbox → Mailbox) : (s.modMb f).free = s.free := rfl
@[simp] theorem modMb_pending (f : Mailbox → Mailbox) : (s.modMb f).pending = s.pending := rfl
@[simp] theorem modMb_core (f : Mailbox → Mailbox) (c₁ : CoreId) : (s.modMb f).core c₁ = s.core c₁ := rfl
@[simp] theorem modMb_thread (f : Mailbox → Mailbox) (c₁ : CoreId) (h₁ : ThreadId) : (s.modMb f).thread c₁ h₁ = s.thread c₁ h₁ := rfl
@[simp] theorem modMb_tile (f : Mailbox → Mailbox) (n₁ : TileId) : (s.modMb f).tile n₁ = s.tile n₁ := rfl
@[simp] theorem modMb_bnd (f : Mailbox → Mailbox) (b₁ : BindingId) : (s.modMb f).bnd b₁ = s.bnd b₁ := rfl
@[simp] theorem modMb_ring (f : Mailbox → Mailbox) (r₁ : RingId) : (s.modMb f).ring r₁ = s.ring r₁ := rfl
@[simp] theorem modMb_desc (f : Mailbox → Mailbox) (r₁ : RingId) (i₁ : Nat) : (s.modMb f).desc r₁ i₁ = s.desc r₁ i₁ := rfl
@[simp] theorem modMb_allDescs (f : Mailbox → Mailbox) : (s.modMb f).allDescs = s.allDescs := rfl
@[simp] theorem modMb_cq (f : Mailbox → Mailbox) (c₁ : CqId) : (s.modMb f).cq c₁ = s.cq c₁ := rfl
@[simp] theorem modMb_slot (f : Mailbox → Mailbox) (k₁ : SlotId) : (s.modMb f).slot k₁ = s.slot k₁ := rfl
@[simp] theorem modMb_keyOf (f : Mailbox → Mailbox) (k₁ : SlotId) : (s.modMb f).keyOf k₁ = s.keyOf k₁ := rfl
@[simp] theorem modMb_port (f : Mailbox → Mailbox) (i₁ : BitVec 5) : (s.modMb f).port i₁ = s.port i₁ := rfl

/-! ## setSpdm -/

@[simp] theorem setSpdm_time (x : Spdm) : (s.setSpdm x).time = s.time := rfl
@[simp] theorem setSpdm_mod (x : Spdm) : (s.setSpdm x).mod = s.mod := rfl
@[simp] theorem setSpdm_pcie (x : Spdm) : (s.setSpdm x).pcie = s.pcie := rfl
@[simp] theorem setSpdm_rings (x : Spdm) : (s.setSpdm x).rings = s.rings := rfl
@[simp] theorem setSpdm_cqs (x : Spdm) : (s.setSpdm x).cqs = s.cqs := rfl
@[simp] theorem setSpdm_binds (x : Spdm) : (s.setSpdm x).binds = s.binds := rfl
@[simp] theorem setSpdm_slots (x : Spdm) : (s.setSpdm x).slots = s.slots := rfl
@[simp] theorem setSpdm_keyBase (x : Spdm) : (s.setSpdm x).keyBase = s.keyBase := rfl
@[simp] theorem setSpdm_nextKey (x : Spdm) : (s.setSpdm x).nextKey = s.nextKey := rfl
@[simp] theorem setSpdm_cores (x : Spdm) : (s.setSpdm x).cores = s.cores := rfl
@[simp] theorem setSpdm_tiles (x : Spdm) : (s.setSpdm x).tiles = s.tiles := rfl
@[simp] theorem setSpdm_stk (x : Spdm) : (s.setSpdm x).stk = s.stk := rfl
@[simp] theorem setSpdm_hub (x : Spdm) : (s.setSpdm x).hub = s.hub := rfl
@[simp] theorem setSpdm_links (x : Spdm) : (s.setSpdm x).links = s.links := rfl
@[simp] theorem setSpdm_power (x : Spdm) : (s.setSpdm x).power = s.power := rfl
@[simp] theorem setSpdm_cal (x : Spdm) : (s.setSpdm x).cal = s.cal := rfl
@[simp] theorem setSpdm_err (x : Spdm) : (s.setSpdm x).err = s.err := rfl
@[simp] theorem setSpdm_spares (x : Spdm) : (s.setSpdm x).spares = s.spares := rfl
@[simp] theorem setSpdm_perf (x : Spdm) : (s.setSpdm x).perf = s.perf := rfl
@[simp] theorem setSpdm_out (x : Spdm) : (s.setSpdm x).out = s.out := rfl
@[simp] theorem setSpdm_free (x : Spdm) : (s.setSpdm x).free = s.free := rfl
@[simp] theorem setSpdm_pending (x : Spdm) : (s.setSpdm x).pending = s.pending := rfl
@[simp] theorem setSpdm_core (x : Spdm) (c₁ : CoreId) : (s.setSpdm x).core c₁ = s.core c₁ := rfl
@[simp] theorem setSpdm_thread (x : Spdm) (c₁ : CoreId) (h₁ : ThreadId) : (s.setSpdm x).thread c₁ h₁ = s.thread c₁ h₁ := rfl
@[simp] theorem setSpdm_tile (x : Spdm) (n₁ : TileId) : (s.setSpdm x).tile n₁ = s.tile n₁ := rfl
@[simp] theorem setSpdm_bnd (x : Spdm) (b₁ : BindingId) : (s.setSpdm x).bnd b₁ = s.bnd b₁ := rfl
@[simp] theorem setSpdm_ring (x : Spdm) (r₁ : RingId) : (s.setSpdm x).ring r₁ = s.ring r₁ := rfl
@[simp] theorem setSpdm_desc (x : Spdm) (r₁ : RingId) (i₁ : Nat) : (s.setSpdm x).desc r₁ i₁ = s.desc r₁ i₁ := rfl
@[simp] theorem setSpdm_allDescs (x : Spdm) : (s.setSpdm x).allDescs = s.allDescs := rfl
@[simp] theorem setSpdm_cq (x : Spdm) (c₁ : CqId) : (s.setSpdm x).cq c₁ = s.cq c₁ := rfl
@[simp] theorem setSpdm_slot (x : Spdm) (k₁ : SlotId) : (s.setSpdm x).slot k₁ = s.slot k₁ := rfl
@[simp] theorem setSpdm_keyOf (x : Spdm) (k₁ : SlotId) : (s.setSpdm x).keyOf k₁ = s.keyOf k₁ := rfl
@[simp] theorem setSpdm_port (x : Spdm) (i₁ : BitVec 5) : (s.setSpdm x).port i₁ = s.port i₁ := rfl

/-! ## modErr -/

@[simp] theorem modErr_time (f : ErrState → ErrState) : (s.modErr f).time = s.time := rfl
@[simp] theorem modErr_mod (f : ErrState → ErrState) : (s.modErr f).mod = s.mod := rfl
@[simp] theorem modErr_pcie (f : ErrState → ErrState) : (s.modErr f).pcie = s.pcie := rfl
@[simp] theorem modErr_rings (f : ErrState → ErrState) : (s.modErr f).rings = s.rings := rfl
@[simp] theorem modErr_cqs (f : ErrState → ErrState) : (s.modErr f).cqs = s.cqs := rfl
@[simp] theorem modErr_binds (f : ErrState → ErrState) : (s.modErr f).binds = s.binds := rfl
@[simp] theorem modErr_slots (f : ErrState → ErrState) : (s.modErr f).slots = s.slots := rfl
@[simp] theorem modErr_keyBase (f : ErrState → ErrState) : (s.modErr f).keyBase = s.keyBase := rfl
@[simp] theorem modErr_nextKey (f : ErrState → ErrState) : (s.modErr f).nextKey = s.nextKey := rfl
@[simp] theorem modErr_cores (f : ErrState → ErrState) : (s.modErr f).cores = s.cores := rfl
@[simp] theorem modErr_tiles (f : ErrState → ErrState) : (s.modErr f).tiles = s.tiles := rfl
@[simp] theorem modErr_stk (f : ErrState → ErrState) : (s.modErr f).stk = s.stk := rfl
@[simp] theorem modErr_hub (f : ErrState → ErrState) : (s.modErr f).hub = s.hub := rfl
@[simp] theorem modErr_links (f : ErrState → ErrState) : (s.modErr f).links = s.links := rfl
@[simp] theorem modErr_power (f : ErrState → ErrState) : (s.modErr f).power = s.power := rfl
@[simp] theorem modErr_cal (f : ErrState → ErrState) : (s.modErr f).cal = s.cal := rfl
@[simp] theorem modErr_mgmt (f : ErrState → ErrState) : (s.modErr f).mgmt = s.mgmt := rfl
@[simp] theorem modErr_spares (f : ErrState → ErrState) : (s.modErr f).spares = s.spares := rfl
@[simp] theorem modErr_perf (f : ErrState → ErrState) : (s.modErr f).perf = s.perf := rfl
@[simp] theorem modErr_out (f : ErrState → ErrState) : (s.modErr f).out = s.out := rfl
@[simp] theorem modErr_free (f : ErrState → ErrState) : (s.modErr f).free = s.free := rfl
@[simp] theorem modErr_pending (f : ErrState → ErrState) : (s.modErr f).pending = s.pending := rfl
@[simp] theorem modErr_core (f : ErrState → ErrState) (c₁ : CoreId) : (s.modErr f).core c₁ = s.core c₁ := rfl
@[simp] theorem modErr_thread (f : ErrState → ErrState) (c₁ : CoreId) (h₁ : ThreadId) : (s.modErr f).thread c₁ h₁ = s.thread c₁ h₁ := rfl
@[simp] theorem modErr_tile (f : ErrState → ErrState) (n₁ : TileId) : (s.modErr f).tile n₁ = s.tile n₁ := rfl
@[simp] theorem modErr_bnd (f : ErrState → ErrState) (b₁ : BindingId) : (s.modErr f).bnd b₁ = s.bnd b₁ := rfl
@[simp] theorem modErr_ring (f : ErrState → ErrState) (r₁ : RingId) : (s.modErr f).ring r₁ = s.ring r₁ := rfl
@[simp] theorem modErr_desc (f : ErrState → ErrState) (r₁ : RingId) (i₁ : Nat) : (s.modErr f).desc r₁ i₁ = s.desc r₁ i₁ := rfl
@[simp] theorem modErr_allDescs (f : ErrState → ErrState) : (s.modErr f).allDescs = s.allDescs := rfl
@[simp] theorem modErr_cq (f : ErrState → ErrState) (c₁ : CqId) : (s.modErr f).cq c₁ = s.cq c₁ := rfl
@[simp] theorem modErr_slot (f : ErrState → ErrState) (k₁ : SlotId) : (s.modErr f).slot k₁ = s.slot k₁ := rfl
@[simp] theorem modErr_keyOf (f : ErrState → ErrState) (k₁ : SlotId) : (s.modErr f).keyOf k₁ = s.keyOf k₁ := rfl
@[simp] theorem modErr_port (f : ErrState → ErrState) (i₁ : BitVec 5) : (s.modErr f).port i₁ = s.port i₁ := rfl

/-! ## modPower -/

@[simp] theorem modPower_time (f : PowerState → PowerState) : (s.modPower f).time = s.time := rfl
@[simp] theorem modPower_mod (f : PowerState → PowerState) : (s.modPower f).mod = s.mod := rfl
@[simp] theorem modPower_pcie (f : PowerState → PowerState) : (s.modPower f).pcie = s.pcie := rfl
@[simp] theorem modPower_rings (f : PowerState → PowerState) : (s.modPower f).rings = s.rings := rfl
@[simp] theorem modPower_cqs (f : PowerState → PowerState) : (s.modPower f).cqs = s.cqs := rfl
@[simp] theorem modPower_binds (f : PowerState → PowerState) : (s.modPower f).binds = s.binds := rfl
@[simp] theorem modPower_slots (f : PowerState → PowerState) : (s.modPower f).slots = s.slots := rfl
@[simp] theorem modPower_keyBase (f : PowerState → PowerState) : (s.modPower f).keyBase = s.keyBase := rfl
@[simp] theorem modPower_nextKey (f : PowerState → PowerState) : (s.modPower f).nextKey = s.nextKey := rfl
@[simp] theorem modPower_cores (f : PowerState → PowerState) : (s.modPower f).cores = s.cores := rfl
@[simp] theorem modPower_tiles (f : PowerState → PowerState) : (s.modPower f).tiles = s.tiles := rfl
@[simp] theorem modPower_stk (f : PowerState → PowerState) : (s.modPower f).stk = s.stk := rfl
@[simp] theorem modPower_hub (f : PowerState → PowerState) : (s.modPower f).hub = s.hub := rfl
@[simp] theorem modPower_links (f : PowerState → PowerState) : (s.modPower f).links = s.links := rfl
@[simp] theorem modPower_cal (f : PowerState → PowerState) : (s.modPower f).cal = s.cal := rfl
@[simp] theorem modPower_mgmt (f : PowerState → PowerState) : (s.modPower f).mgmt = s.mgmt := rfl
@[simp] theorem modPower_err (f : PowerState → PowerState) : (s.modPower f).err = s.err := rfl
@[simp] theorem modPower_spares (f : PowerState → PowerState) : (s.modPower f).spares = s.spares := rfl
@[simp] theorem modPower_perf (f : PowerState → PowerState) : (s.modPower f).perf = s.perf := rfl
@[simp] theorem modPower_out (f : PowerState → PowerState) : (s.modPower f).out = s.out := rfl
@[simp] theorem modPower_free (f : PowerState → PowerState) : (s.modPower f).free = s.free := rfl
@[simp] theorem modPower_pending (f : PowerState → PowerState) : (s.modPower f).pending = s.pending := rfl
@[simp] theorem modPower_core (f : PowerState → PowerState) (c₁ : CoreId) : (s.modPower f).core c₁ = s.core c₁ := rfl
@[simp] theorem modPower_thread (f : PowerState → PowerState) (c₁ : CoreId) (h₁ : ThreadId) : (s.modPower f).thread c₁ h₁ = s.thread c₁ h₁ := rfl
@[simp] theorem modPower_tile (f : PowerState → PowerState) (n₁ : TileId) : (s.modPower f).tile n₁ = s.tile n₁ := rfl
@[simp] theorem modPower_bnd (f : PowerState → PowerState) (b₁ : BindingId) : (s.modPower f).bnd b₁ = s.bnd b₁ := rfl
@[simp] theorem modPower_ring (f : PowerState → PowerState) (r₁ : RingId) : (s.modPower f).ring r₁ = s.ring r₁ := rfl
@[simp] theorem modPower_desc (f : PowerState → PowerState) (r₁ : RingId) (i₁ : Nat) : (s.modPower f).desc r₁ i₁ = s.desc r₁ i₁ := rfl
@[simp] theorem modPower_allDescs (f : PowerState → PowerState) : (s.modPower f).allDescs = s.allDescs := rfl
@[simp] theorem modPower_cq (f : PowerState → PowerState) (c₁ : CqId) : (s.modPower f).cq c₁ = s.cq c₁ := rfl
@[simp] theorem modPower_slot (f : PowerState → PowerState) (k₁ : SlotId) : (s.modPower f).slot k₁ = s.slot k₁ := rfl
@[simp] theorem modPower_keyOf (f : PowerState → PowerState) (k₁ : SlotId) : (s.modPower f).keyOf k₁ = s.keyOf k₁ := rfl
@[simp] theorem modPower_port (f : PowerState → PowerState) (i₁ : BitVec 5) : (s.modPower f).port i₁ = s.port i₁ := rfl

/-! ## modPerf -/

@[simp] theorem modPerf_time (f : PerfState → PerfState) : (s.modPerf f).time = s.time := rfl
@[simp] theorem modPerf_mod (f : PerfState → PerfState) : (s.modPerf f).mod = s.mod := rfl
@[simp] theorem modPerf_pcie (f : PerfState → PerfState) : (s.modPerf f).pcie = s.pcie := rfl
@[simp] theorem modPerf_rings (f : PerfState → PerfState) : (s.modPerf f).rings = s.rings := rfl
@[simp] theorem modPerf_cqs (f : PerfState → PerfState) : (s.modPerf f).cqs = s.cqs := rfl
@[simp] theorem modPerf_binds (f : PerfState → PerfState) : (s.modPerf f).binds = s.binds := rfl
@[simp] theorem modPerf_slots (f : PerfState → PerfState) : (s.modPerf f).slots = s.slots := rfl
@[simp] theorem modPerf_keyBase (f : PerfState → PerfState) : (s.modPerf f).keyBase = s.keyBase := rfl
@[simp] theorem modPerf_nextKey (f : PerfState → PerfState) : (s.modPerf f).nextKey = s.nextKey := rfl
@[simp] theorem modPerf_cores (f : PerfState → PerfState) : (s.modPerf f).cores = s.cores := rfl
@[simp] theorem modPerf_tiles (f : PerfState → PerfState) : (s.modPerf f).tiles = s.tiles := rfl
@[simp] theorem modPerf_stk (f : PerfState → PerfState) : (s.modPerf f).stk = s.stk := rfl
@[simp] theorem modPerf_hub (f : PerfState → PerfState) : (s.modPerf f).hub = s.hub := rfl
@[simp] theorem modPerf_links (f : PerfState → PerfState) : (s.modPerf f).links = s.links := rfl
@[simp] theorem modPerf_power (f : PerfState → PerfState) : (s.modPerf f).power = s.power := rfl
@[simp] theorem modPerf_cal (f : PerfState → PerfState) : (s.modPerf f).cal = s.cal := rfl
@[simp] theorem modPerf_mgmt (f : PerfState → PerfState) : (s.modPerf f).mgmt = s.mgmt := rfl
@[simp] theorem modPerf_err (f : PerfState → PerfState) : (s.modPerf f).err = s.err := rfl
@[simp] theorem modPerf_spares (f : PerfState → PerfState) : (s.modPerf f).spares = s.spares := rfl
@[simp] theorem modPerf_out (f : PerfState → PerfState) : (s.modPerf f).out = s.out := rfl
@[simp] theorem modPerf_free (f : PerfState → PerfState) : (s.modPerf f).free = s.free := rfl
@[simp] theorem modPerf_pending (f : PerfState → PerfState) : (s.modPerf f).pending = s.pending := rfl
@[simp] theorem modPerf_core (f : PerfState → PerfState) (c₁ : CoreId) : (s.modPerf f).core c₁ = s.core c₁ := rfl
@[simp] theorem modPerf_thread (f : PerfState → PerfState) (c₁ : CoreId) (h₁ : ThreadId) : (s.modPerf f).thread c₁ h₁ = s.thread c₁ h₁ := rfl
@[simp] theorem modPerf_tile (f : PerfState → PerfState) (n₁ : TileId) : (s.modPerf f).tile n₁ = s.tile n₁ := rfl
@[simp] theorem modPerf_bnd (f : PerfState → PerfState) (b₁ : BindingId) : (s.modPerf f).bnd b₁ = s.bnd b₁ := rfl
@[simp] theorem modPerf_ring (f : PerfState → PerfState) (r₁ : RingId) : (s.modPerf f).ring r₁ = s.ring r₁ := rfl
@[simp] theorem modPerf_desc (f : PerfState → PerfState) (r₁ : RingId) (i₁ : Nat) : (s.modPerf f).desc r₁ i₁ = s.desc r₁ i₁ := rfl
@[simp] theorem modPerf_allDescs (f : PerfState → PerfState) : (s.modPerf f).allDescs = s.allDescs := rfl
@[simp] theorem modPerf_cq (f : PerfState → PerfState) (c₁ : CqId) : (s.modPerf f).cq c₁ = s.cq c₁ := rfl
@[simp] theorem modPerf_slot (f : PerfState → PerfState) (k₁ : SlotId) : (s.modPerf f).slot k₁ = s.slot k₁ := rfl
@[simp] theorem modPerf_keyOf (f : PerfState → PerfState) (k₁ : SlotId) : (s.modPerf f).keyOf k₁ = s.keyOf k₁ := rfl
@[simp] theorem modPerf_port (f : PerfState → PerfState) (i₁ : BitVec 5) : (s.modPerf f).port i₁ = s.port i₁ := rfl

/-! ## modSpares -/

@[simp] theorem modSpares_time (f : SpareMap → SpareMap) : (s.modSpares f).time = s.time := rfl
@[simp] theorem modSpares_mod (f : SpareMap → SpareMap) : (s.modSpares f).mod = s.mod := rfl
@[simp] theorem modSpares_pcie (f : SpareMap → SpareMap) : (s.modSpares f).pcie = s.pcie := rfl
@[simp] theorem modSpares_rings (f : SpareMap → SpareMap) : (s.modSpares f).rings = s.rings := rfl
@[simp] theorem modSpares_cqs (f : SpareMap → SpareMap) : (s.modSpares f).cqs = s.cqs := rfl
@[simp] theorem modSpares_binds (f : SpareMap → SpareMap) : (s.modSpares f).binds = s.binds := rfl
@[simp] theorem modSpares_slots (f : SpareMap → SpareMap) : (s.modSpares f).slots = s.slots := rfl
@[simp] theorem modSpares_keyBase (f : SpareMap → SpareMap) : (s.modSpares f).keyBase = s.keyBase := rfl
@[simp] theorem modSpares_nextKey (f : SpareMap → SpareMap) : (s.modSpares f).nextKey = s.nextKey := rfl
@[simp] theorem modSpares_cores (f : SpareMap → SpareMap) : (s.modSpares f).cores = s.cores := rfl
@[simp] theorem modSpares_tiles (f : SpareMap → SpareMap) : (s.modSpares f).tiles = s.tiles := rfl
@[simp] theorem modSpares_stk (f : SpareMap → SpareMap) : (s.modSpares f).stk = s.stk := rfl
@[simp] theorem modSpares_hub (f : SpareMap → SpareMap) : (s.modSpares f).hub = s.hub := rfl
@[simp] theorem modSpares_links (f : SpareMap → SpareMap) : (s.modSpares f).links = s.links := rfl
@[simp] theorem modSpares_power (f : SpareMap → SpareMap) : (s.modSpares f).power = s.power := rfl
@[simp] theorem modSpares_cal (f : SpareMap → SpareMap) : (s.modSpares f).cal = s.cal := rfl
@[simp] theorem modSpares_mgmt (f : SpareMap → SpareMap) : (s.modSpares f).mgmt = s.mgmt := rfl
@[simp] theorem modSpares_err (f : SpareMap → SpareMap) : (s.modSpares f).err = s.err := rfl
@[simp] theorem modSpares_perf (f : SpareMap → SpareMap) : (s.modSpares f).perf = s.perf := rfl
@[simp] theorem modSpares_out (f : SpareMap → SpareMap) : (s.modSpares f).out = s.out := rfl
@[simp] theorem modSpares_free (f : SpareMap → SpareMap) : (s.modSpares f).free = s.free := rfl
@[simp] theorem modSpares_pending (f : SpareMap → SpareMap) : (s.modSpares f).pending = s.pending := rfl
@[simp] theorem modSpares_core (f : SpareMap → SpareMap) (c₁ : CoreId) : (s.modSpares f).core c₁ = s.core c₁ := rfl
@[simp] theorem modSpares_thread (f : SpareMap → SpareMap) (c₁ : CoreId) (h₁ : ThreadId) : (s.modSpares f).thread c₁ h₁ = s.thread c₁ h₁ := rfl
@[simp] theorem modSpares_tile (f : SpareMap → SpareMap) (n₁ : TileId) : (s.modSpares f).tile n₁ = s.tile n₁ := rfl
@[simp] theorem modSpares_bnd (f : SpareMap → SpareMap) (b₁ : BindingId) : (s.modSpares f).bnd b₁ = s.bnd b₁ := rfl
@[simp] theorem modSpares_ring (f : SpareMap → SpareMap) (r₁ : RingId) : (s.modSpares f).ring r₁ = s.ring r₁ := rfl
@[simp] theorem modSpares_desc (f : SpareMap → SpareMap) (r₁ : RingId) (i₁ : Nat) : (s.modSpares f).desc r₁ i₁ = s.desc r₁ i₁ := rfl
@[simp] theorem modSpares_allDescs (f : SpareMap → SpareMap) : (s.modSpares f).allDescs = s.allDescs := rfl
@[simp] theorem modSpares_cq (f : SpareMap → SpareMap) (c₁ : CqId) : (s.modSpares f).cq c₁ = s.cq c₁ := rfl
@[simp] theorem modSpares_slot (f : SpareMap → SpareMap) (k₁ : SlotId) : (s.modSpares f).slot k₁ = s.slot k₁ := rfl
@[simp] theorem modSpares_keyOf (f : SpareMap → SpareMap) (k₁ : SlotId) : (s.modSpares f).keyOf k₁ = s.keyOf k₁ := rfl
@[simp] theorem modSpares_port (f : SpareMap → SpareMap) (i₁ : BitVec 5) : (s.modSpares f).port i₁ = s.port i₁ := rfl

/-! ## emit -/

@[simp] theorem emit_time (o : Output) : (emit o s).time = s.time := rfl
@[simp] theorem emit_mod (o : Output) : (emit o s).mod = s.mod := rfl
@[simp] theorem emit_pcie (o : Output) : (emit o s).pcie = s.pcie := rfl
@[simp] theorem emit_rings (o : Output) : (emit o s).rings = s.rings := rfl
@[simp] theorem emit_cqs (o : Output) : (emit o s).cqs = s.cqs := rfl
@[simp] theorem emit_binds (o : Output) : (emit o s).binds = s.binds := rfl
@[simp] theorem emit_slots (o : Output) : (emit o s).slots = s.slots := rfl
@[simp] theorem emit_keyBase (o : Output) : (emit o s).keyBase = s.keyBase := rfl
@[simp] theorem emit_nextKey (o : Output) : (emit o s).nextKey = s.nextKey := rfl
@[simp] theorem emit_cores (o : Output) : (emit o s).cores = s.cores := rfl
@[simp] theorem emit_tiles (o : Output) : (emit o s).tiles = s.tiles := rfl
@[simp] theorem emit_stk (o : Output) : (emit o s).stk = s.stk := rfl
@[simp] theorem emit_hub (o : Output) : (emit o s).hub = s.hub := rfl
@[simp] theorem emit_links (o : Output) : (emit o s).links = s.links := rfl
@[simp] theorem emit_power (o : Output) : (emit o s).power = s.power := rfl
@[simp] theorem emit_cal (o : Output) : (emit o s).cal = s.cal := rfl
@[simp] theorem emit_mgmt (o : Output) : (emit o s).mgmt = s.mgmt := rfl
@[simp] theorem emit_err (o : Output) : (emit o s).err = s.err := rfl
@[simp] theorem emit_spares (o : Output) : (emit o s).spares = s.spares := rfl
@[simp] theorem emit_perf (o : Output) : (emit o s).perf = s.perf := rfl
@[simp] theorem emit_free (o : Output) : (emit o s).free = s.free := rfl
@[simp] theorem emit_pending (o : Output) : (emit o s).pending = s.pending := rfl
@[simp] theorem emit_core (o : Output) (c₁ : CoreId) : (emit o s).core c₁ = s.core c₁ := rfl
@[simp] theorem emit_thread (o : Output) (c₁ : CoreId) (h₁ : ThreadId) : (emit o s).thread c₁ h₁ = s.thread c₁ h₁ := rfl
@[simp] theorem emit_tile (o : Output) (n₁ : TileId) : (emit o s).tile n₁ = s.tile n₁ := rfl
@[simp] theorem emit_bnd (o : Output) (b₁ : BindingId) : (emit o s).bnd b₁ = s.bnd b₁ := rfl
@[simp] theorem emit_ring (o : Output) (r₁ : RingId) : (emit o s).ring r₁ = s.ring r₁ := rfl
@[simp] theorem emit_desc (o : Output) (r₁ : RingId) (i₁ : Nat) : (emit o s).desc r₁ i₁ = s.desc r₁ i₁ := rfl
@[simp] theorem emit_allDescs (o : Output) : (emit o s).allDescs = s.allDescs := rfl
@[simp] theorem emit_cq (o : Output) (c₁ : CqId) : (emit o s).cq c₁ = s.cq c₁ := rfl
@[simp] theorem emit_slot (o : Output) (k₁ : SlotId) : (emit o s).slot k₁ = s.slot k₁ := rfl
@[simp] theorem emit_keyOf (o : Output) (k₁ : SlotId) : (emit o s).keyOf k₁ = s.keyOf k₁ := rfl
@[simp] theorem emit_port (o : Output) (i₁ : BitVec 5) : (emit o s).port i₁ = s.port i₁ := rfl

/-! ## sendMsix -/

@[simp] theorem sendMsix_time (v : BitVec 11) : (sendMsix v s).time = s.time := rfl
@[simp] theorem sendMsix_mod (v : BitVec 11) : (sendMsix v s).mod = s.mod := rfl
@[simp] theorem sendMsix_pcie (v : BitVec 11) : (sendMsix v s).pcie = s.pcie := rfl
@[simp] theorem sendMsix_rings (v : BitVec 11) : (sendMsix v s).rings = s.rings := rfl
@[simp] theorem sendMsix_cqs (v : BitVec 11) : (sendMsix v s).cqs = s.cqs := rfl
@[simp] theorem sendMsix_binds (v : BitVec 11) : (sendMsix v s).binds = s.binds := rfl
@[simp] theorem sendMsix_slots (v : BitVec 11) : (sendMsix v s).slots = s.slots := rfl
@[simp] theorem sendMsix_keyBase (v : BitVec 11) : (sendMsix v s).keyBase = s.keyBase := rfl
@[simp] theorem sendMsix_nextKey (v : BitVec 11) : (sendMsix v s).nextKey = s.nextKey := rfl
@[simp] theorem sendMsix_cores (v : BitVec 11) : (sendMsix v s).cores = s.cores := rfl
@[simp] theorem sendMsix_tiles (v : BitVec 11) : (sendMsix v s).tiles = s.tiles := rfl
@[simp] theorem sendMsix_stk (v : BitVec 11) : (sendMsix v s).stk = s.stk := rfl
@[simp] theorem sendMsix_hub (v : BitVec 11) : (sendMsix v s).hub = s.hub := rfl
@[simp] theorem sendMsix_links (v : BitVec 11) : (sendMsix v s).links = s.links := rfl
@[simp] theorem sendMsix_power (v : BitVec 11) : (sendMsix v s).power = s.power := rfl
@[simp] theorem sendMsix_cal (v : BitVec 11) : (sendMsix v s).cal = s.cal := rfl
@[simp] theorem sendMsix_mgmt (v : BitVec 11) : (sendMsix v s).mgmt = s.mgmt := rfl
@[simp] theorem sendMsix_err (v : BitVec 11) : (sendMsix v s).err = s.err := rfl
@[simp] theorem sendMsix_spares (v : BitVec 11) : (sendMsix v s).spares = s.spares := rfl
@[simp] theorem sendMsix_perf (v : BitVec 11) : (sendMsix v s).perf = s.perf := rfl
@[simp] theorem sendMsix_free (v : BitVec 11) : (sendMsix v s).free = s.free := rfl
@[simp] theorem sendMsix_pending (v : BitVec 11) : (sendMsix v s).pending = s.pending := rfl
@[simp] theorem sendMsix_core (v : BitVec 11) (c₁ : CoreId) : (sendMsix v s).core c₁ = s.core c₁ := rfl
@[simp] theorem sendMsix_thread (v : BitVec 11) (c₁ : CoreId) (h₁ : ThreadId) : (sendMsix v s).thread c₁ h₁ = s.thread c₁ h₁ := rfl
@[simp] theorem sendMsix_tile (v : BitVec 11) (n₁ : TileId) : (sendMsix v s).tile n₁ = s.tile n₁ := rfl
@[simp] theorem sendMsix_bnd (v : BitVec 11) (b₁ : BindingId) : (sendMsix v s).bnd b₁ = s.bnd b₁ := rfl
@[simp] theorem sendMsix_ring (v : BitVec 11) (r₁ : RingId) : (sendMsix v s).ring r₁ = s.ring r₁ := rfl
@[simp] theorem sendMsix_desc (v : BitVec 11) (r₁ : RingId) (i₁ : Nat) : (sendMsix v s).desc r₁ i₁ = s.desc r₁ i₁ := rfl
@[simp] theorem sendMsix_allDescs (v : BitVec 11) : (sendMsix v s).allDescs = s.allDescs := rfl
@[simp] theorem sendMsix_cq (v : BitVec 11) (c₁ : CqId) : (sendMsix v s).cq c₁ = s.cq c₁ := rfl
@[simp] theorem sendMsix_slot (v : BitVec 11) (k₁ : SlotId) : (sendMsix v s).slot k₁ = s.slot k₁ := rfl
@[simp] theorem sendMsix_keyOf (v : BitVec 11) (k₁ : SlotId) : (sendMsix v s).keyOf k₁ = s.keyOf k₁ := rfl
@[simp] theorem sendMsix_port (v : BitVec 11) (i₁ : BitVec 5) : (sendMsix v s).port i₁ = s.port i₁ := rfl

/-! ## draw -/

@[simp] theorem draw_time : (draw s).2.time = s.time := rfl
@[simp] theorem draw_mod : (draw s).2.mod = s.mod := rfl
@[simp] theorem draw_pcie : (draw s).2.pcie = s.pcie := rfl
@[simp] theorem draw_rings : (draw s).2.rings = s.rings := rfl
@[simp] theorem draw_cqs : (draw s).2.cqs = s.cqs := rfl
@[simp] theorem draw_binds : (draw s).2.binds = s.binds := rfl
@[simp] theorem draw_slots : (draw s).2.slots = s.slots := rfl
@[simp] theorem draw_keyBase : (draw s).2.keyBase = s.keyBase := rfl
@[simp] theorem draw_nextKey : (draw s).2.nextKey = s.nextKey := rfl
@[simp] theorem draw_cores : (draw s).2.cores = s.cores := rfl
@[simp] theorem draw_tiles : (draw s).2.tiles = s.tiles := rfl
@[simp] theorem draw_stk : (draw s).2.stk = s.stk := rfl
@[simp] theorem draw_hub : (draw s).2.hub = s.hub := rfl
@[simp] theorem draw_links : (draw s).2.links = s.links := rfl
@[simp] theorem draw_power : (draw s).2.power = s.power := rfl
@[simp] theorem draw_cal : (draw s).2.cal = s.cal := rfl
@[simp] theorem draw_mgmt : (draw s).2.mgmt = s.mgmt := rfl
@[simp] theorem draw_err : (draw s).2.err = s.err := rfl
@[simp] theorem draw_spares : (draw s).2.spares = s.spares := rfl
@[simp] theorem draw_perf : (draw s).2.perf = s.perf := rfl
@[simp] theorem draw_out : (draw s).2.out = s.out := rfl
@[simp] theorem draw_pending : (draw s).2.pending = s.pending := rfl
@[simp] theorem draw_core (c₁ : CoreId) : (draw s).2.core c₁ = s.core c₁ := rfl
@[simp] theorem draw_thread (c₁ : CoreId) (h₁ : ThreadId) : (draw s).2.thread c₁ h₁ = s.thread c₁ h₁ := rfl
@[simp] theorem draw_tile (n₁ : TileId) : (draw s).2.tile n₁ = s.tile n₁ := rfl
@[simp] theorem draw_bnd (b₁ : BindingId) : (draw s).2.bnd b₁ = s.bnd b₁ := rfl
@[simp] theorem draw_ring (r₁ : RingId) : (draw s).2.ring r₁ = s.ring r₁ := rfl
@[simp] theorem draw_desc (r₁ : RingId) (i₁ : Nat) : (draw s).2.desc r₁ i₁ = s.desc r₁ i₁ := rfl
@[simp] theorem draw_allDescs : (draw s).2.allDescs = s.allDescs := rfl
@[simp] theorem draw_cq (c₁ : CqId) : (draw s).2.cq c₁ = s.cq c₁ := rfl
@[simp] theorem draw_slot (k₁ : SlotId) : (draw s).2.slot k₁ = s.slot k₁ := rfl
@[simp] theorem draw_keyOf (k₁ : SlotId) : (draw s).2.keyOf k₁ = s.keyOf k₁ := rfl
@[simp] theorem draw_port (i₁ : BitVec 5) : (draw s).2.port i₁ = s.port i₁ := rfl

/-! ## Reading what was written -/

theorem core_setCore (a b : CoreId) (x : Core) : (s.setCore a x).core b = if b = a then x else s.core b := by
  simp only [State.setCore, State.core, Table.get_set]
  exact if_congr (by rw [BitVec.toNat_inj]) rfl rfl

@[simp] theorem core_setCore_same (a : CoreId) (x : Core) : (s.setCore a x).core a = x := by simp [core_setCore]

@[simp] theorem core_setCore_other (x : Core) {a b : CoreId} (h : b ≠ a) : (s.setCore a x).core b = s.core b := by
  simp [core_setCore, h]

@[simp] theorem core_modCore_same (a : CoreId) (f : Core → Core) : (s.modCore a f).core a = f (s.core a) := by simp [State.modCore]

@[simp] theorem core_modCore_other (f : Core → Core) {a b : CoreId} (h : b ≠ a) : (s.modCore a f).core b = s.core b := by
  simp [State.modCore, h]

theorem core_modCore (a b : CoreId) (f : Core → Core) :
    (s.modCore a f).core b = if b = a then f (s.core a) else s.core b := by simp [State.modCore, core_setCore]

theorem tile_setTile (a b : TileId) (x : Tile) : (s.setTile a x).tile b = if b = a then x else s.tile b := by
  simp only [State.setTile, State.tile, Table.get_set]
  exact if_congr (by rw [BitVec.toNat_inj]) rfl rfl

@[simp] theorem tile_setTile_same (a : TileId) (x : Tile) : (s.setTile a x).tile a = x := by simp [tile_setTile]

@[simp] theorem tile_setTile_other (x : Tile) {a b : TileId} (h : b ≠ a) : (s.setTile a x).tile b = s.tile b := by
  simp [tile_setTile, h]

@[simp] theorem tile_modTile_same (a : TileId) (f : Tile → Tile) : (s.modTile a f).tile a = f (s.tile a) := by simp [State.modTile]

@[simp] theorem tile_modTile_other (f : Tile → Tile) {a b : TileId} (h : b ≠ a) : (s.modTile a f).tile b = s.tile b := by
  simp [State.modTile, h]

theorem tile_modTile (a b : TileId) (f : Tile → Tile) :
    (s.modTile a f).tile b = if b = a then f (s.tile a) else s.tile b := by simp [State.modTile, tile_setTile]

theorem bnd_setBnd (a b : BindingId) (x : Binding) : (s.setBnd a x).bnd b = if b = a then x else s.bnd b := by
  simp only [State.setBnd, State.bnd, Table.get_set]
  exact if_congr (by rw [BitVec.toNat_inj]) rfl rfl

@[simp] theorem bnd_setBnd_same (a : BindingId) (x : Binding) : (s.setBnd a x).bnd a = x := by simp [bnd_setBnd]

@[simp] theorem bnd_setBnd_other (x : Binding) {a b : BindingId} (h : b ≠ a) : (s.setBnd a x).bnd b = s.bnd b := by
  simp [bnd_setBnd, h]

@[simp] theorem bnd_modBnd_same (a : BindingId) (f : Binding → Binding) : (s.modBnd a f).bnd a = f (s.bnd a) := by simp [State.modBnd]

@[simp] theorem bnd_modBnd_other (f : Binding → Binding) {a b : BindingId} (h : b ≠ a) : (s.modBnd a f).bnd b = s.bnd b := by
  simp [State.modBnd, h]

theorem bnd_modBnd (a b : BindingId) (f : Binding → Binding) :
    (s.modBnd a f).bnd b = if b = a then f (s.bnd a) else s.bnd b := by simp [State.modBnd, bnd_setBnd]

theorem ring_setRing (a b : RingId) (x : SubRing) : (s.setRing a x).ring b = if b = a then x else s.ring b := by
  simp only [State.setRing, State.ring, Table.get_set]
  exact if_congr (by rw [BitVec.toNat_inj]) rfl rfl

@[simp] theorem ring_setRing_same (a : RingId) (x : SubRing) : (s.setRing a x).ring a = x := by simp [ring_setRing]

@[simp] theorem ring_setRing_other (x : SubRing) {a b : RingId} (h : b ≠ a) : (s.setRing a x).ring b = s.ring b := by
  simp [ring_setRing, h]

@[simp] theorem ring_modRing_same (a : RingId) (f : SubRing → SubRing) : (s.modRing a f).ring a = f (s.ring a) := by simp [State.modRing]

@[simp] theorem ring_modRing_other (f : SubRing → SubRing) {a b : RingId} (h : b ≠ a) : (s.modRing a f).ring b = s.ring b := by
  simp [State.modRing, h]

theorem ring_modRing (a b : RingId) (f : SubRing → SubRing) :
    (s.modRing a f).ring b = if b = a then f (s.ring a) else s.ring b := by simp [State.modRing, ring_setRing]

theorem cq_setCq (a b : CqId) (x : CompRing) : (s.setCq a x).cq b = if b = a then x else s.cq b := by
  simp only [State.setCq, State.cq, Table.get_set]
  exact if_congr (by rw [BitVec.toNat_inj]) rfl rfl

@[simp] theorem cq_setCq_same (a : CqId) (x : CompRing) : (s.setCq a x).cq a = x := by simp [cq_setCq]

@[simp] theorem cq_setCq_other (x : CompRing) {a b : CqId} (h : b ≠ a) : (s.setCq a x).cq b = s.cq b := by
  simp [cq_setCq, h]

@[simp] theorem cq_modCq_same (a : CqId) (f : CompRing → CompRing) : (s.modCq a f).cq a = f (s.cq a) := by simp [State.modCq]

@[simp] theorem cq_modCq_other (f : CompRing → CompRing) {a b : CqId} (h : b ≠ a) : (s.modCq a f).cq b = s.cq b := by
  simp [State.modCq, h]

theorem cq_modCq (a b : CqId) (f : CompRing → CompRing) :
    (s.modCq a f).cq b = if b = a then f (s.cq a) else s.cq b := by simp [State.modCq, cq_setCq]

theorem port_setPort (a b : BitVec 5) (x : Port) : (s.setPort a x).port b = if b = a then x else s.port b := by
  simp only [State.setPort, State.port, Table.get_set]
  exact if_congr (by rw [BitVec.toNat_inj]) rfl rfl

@[simp] theorem port_setPort_same (a : BitVec 5) (x : Port) : (s.setPort a x).port a = x := by simp [port_setPort]

@[simp] theorem port_setPort_other (x : Port) {a b : BitVec 5} (h : b ≠ a) : (s.setPort a x).port b = s.port b := by
  simp [port_setPort, h]

@[simp] theorem port_modPort_same (a : BitVec 5) (f : Port → Port) : (s.modPort a f).port a = f (s.port a) := by simp [State.modPort]

@[simp] theorem port_modPort_other (f : Port → Port) {a b : BitVec 5} (h : b ≠ a) : (s.modPort a f).port b = s.port b := by
  simp [State.modPort, h]

theorem port_modPort (a b : BitVec 5) (f : Port → Port) :
    (s.modPort a f).port b = if b = a then f (s.port a) else s.port b := by simp [State.modPort, port_setPort]

theorem slot_setSlot (a b : SlotId) (x : KeySlot) : (s.setSlot a x).slot b = if b = a then x else s.slot b := by
  simp only [State.setSlot, State.slot, Table.get_set]
  exact if_congr (by rw [BitVec.toNat_inj]) rfl rfl

theorem Core.thread_setThread (k : Core) (a b : ThreadId) (x : Thread) : (k.setThread a x).thread b = if b = a then x else k.thread b := by
  simp only [Core.setThread, Core.thread, Table.get_set]
  exact if_congr (by rw [BitVec.toNat_inj]) rfl rfl

@[simp] theorem Core.thread_setThread_same (k : Core) (a : ThreadId) (x : Thread) : (k.setThread a x).thread a = x := by
  simp [Core.thread_setThread]

@[simp] theorem Core.thread_setThread_other (k : Core) (x : Thread) {a b : ThreadId} (h : b ≠ a) :
    (k.setThread a x).thread b = k.thread b := by simp [Core.thread_setThread, h]

@[simp] theorem Core.thread_modThread_same (k : Core) (a : ThreadId) (f : Thread → Thread) :
    (k.modThread a f).thread a = f (k.thread a) := by simp [Core.modThread]

@[simp] theorem Core.thread_modThread_other (k : Core) (f : Thread → Thread) {a b : ThreadId} (h : b ≠ a) :
    (k.modThread a f).thread b = k.thread b := by simp [Core.modThread, h]

@[simp] theorem core_setThread_same (c : CoreId) (h : ThreadId) (x : Thread) :
    (s.setThread c h x).core c = (s.core c).setThread h x := by simp [State.setThread]

@[simp] theorem core_setThread_other (h : ThreadId) (x : Thread) {c d : CoreId} (n : d ≠ c) :
    (s.setThread c h x).core d = s.core d := by simp [State.setThread, n]

theorem thread_setThread (c d : CoreId) (h g : ThreadId) (x : Thread) :
    (s.setThread c h x).thread d g = if d = c ∧ g = h then x else s.thread d g := by
  by_cases n : d = c
  · subst n; simp [State.thread, Core.thread_setThread]
  · simp [State.thread, n]

@[simp] theorem thread_setThread_same (c : CoreId) (h : ThreadId) (x : Thread) : (s.setThread c h x).thread c h = x := by
  simp [thread_setThread]

@[simp] theorem thread_modThread_same (c : CoreId) (h : ThreadId) (f : Thread → Thread) :
    (s.modThread c h f).thread c h = f (s.thread c h) := by simp [State.modThread]

theorem thread_modThread (c d : CoreId) (h g : ThreadId) (f : Thread → Thread) :
    (s.modThread c h f).thread d g = if d = c ∧ g = h then f (s.thread c h) else s.thread d g := by simp [State.modThread, thread_setThread]

@[simp] theorem thread_setCore_same (c : CoreId) (h : ThreadId) (k : Core) : (s.setCore c k).thread c h = k.thread h := by
  simp [State.thread]

@[simp] theorem thread_modCore_same (c : CoreId) (h : ThreadId) (f : Core → Core) :
    (s.modCore c f).thread c h = (f (s.core c)).thread h := by simp [State.thread]

@[simp] theorem core_modThread_same (c : CoreId) (h : ThreadId) (f : Thread → Thread) :
    (s.modThread c h f).core c = (s.core c).setThread h (f (s.thread c h)) := by simp [State.modThread]

@[simp] theorem core_modThread_other (h : ThreadId) (f : Thread → Thread) {c d : CoreId} (n : d ≠ c) :
    (s.modThread c h f).core d = s.core d := by simp [State.modThread, n]

/-! ## Updates of a core and of a thread -/

variable (k : Core) (th : Thread)

@[simp] theorem Core.setThread_vec (h : ThreadId) (x : Thread) : (k.setThread h x).vec = k.vec := rfl
@[simp] theorem Core.setThread_mat (h : ThreadId) (x : Thread) : (k.setThread h x).mat = k.mat := rfl
@[simp] theorem Core.setThread_mem (h : ThreadId) (x : Thread) : (k.setThread h x).mem = k.mem := rfl
@[simp] theorem Core.setThread_ctl (h : ThreadId) (x : Thread) : (k.setThread h x).ctl = k.ctl := rfl
@[simp] theorem Core.setThread_causes (h : ThreadId) (x : Thread) : (k.setThread h x).causes = k.causes := rfl

@[simp] theorem Core.modThread_vec (h : ThreadId) (f : Thread → Thread) : (k.modThread h f).vec = k.vec := rfl
@[simp] theorem Core.modThread_mat (h : ThreadId) (f : Thread → Thread) : (k.modThread h f).mat = k.mat := rfl
@[simp] theorem Core.modThread_mem (h : ThreadId) (f : Thread → Thread) : (k.modThread h f).mem = k.mem := rfl
@[simp] theorem Core.modThread_ctl (h : ThreadId) (f : Thread → Thread) : (k.modThread h f).ctl = k.ctl := rfl
@[simp] theorem Core.modThread_causes (h : ThreadId) (f : Thread → Thread) : (k.modThread h f).causes = k.causes := rfl

@[simp] theorem Core.setArray_threads (a : Nat) (x : ArrayState) : (k.setArray a x).threads = k.threads := rfl
@[simp] theorem Core.setArray_vec (a : Nat) (x : ArrayState) : (k.setArray a x).vec = k.vec := rfl
@[simp] theorem Core.setArray_mem (a : Nat) (x : ArrayState) : (k.setArray a x).mem = k.mem := rfl
@[simp] theorem Core.setArray_ctl (a : Nat) (x : ArrayState) : (k.setArray a x).ctl = k.ctl := rfl
@[simp] theorem Core.setArray_causes (a : Nat) (x : ArrayState) : (k.setArray a x).causes = k.causes := rfl
@[simp] theorem Core.setArray_thread (a : Nat) (x : ArrayState) (g : ThreadId) : (k.setArray a x).thread g = k.thread g := rfl

@[simp] theorem Core.setTreg_threads (t : BitVec 3) (x : TileReg) : (k.setTreg t x).threads = k.threads := rfl
@[simp] theorem Core.setTreg_vec (t : BitVec 3) (x : TileReg) : (k.setTreg t x).vec = k.vec := rfl
@[simp] theorem Core.setTreg_mem (t : BitVec 3) (x : TileReg) : (k.setTreg t x).mem = k.mem := rfl
@[simp] theorem Core.setTreg_ctl (t : BitVec 3) (x : TileReg) : (k.setTreg t x).ctl = k.ctl := rfl
@[simp] theorem Core.setTreg_causes (t : BitVec 3) (x : TileReg) : (k.setTreg t x).causes = k.causes := rfl
@[simp] theorem Core.setTreg_thread (t : BitVec 3) (x : TileReg) (g : ThreadId) : (k.setTreg t x).thread g = k.thread g := rfl

@[simp] theorem Core.wv_threads (r : BitVec 5) (x : VReg) : (k.wv r x).threads = k.threads := rfl
@[simp] theorem Core.wv_mat (r : BitVec 5) (x : VReg) : (k.wv r x).mat = k.mat := rfl
@[simp] theorem Core.wv_mem (r : BitVec 5) (x : VReg) : (k.wv r x).mem = k.mem := rfl
@[simp] theorem Core.wv_ctl (r : BitVec 5) (x : VReg) : (k.wv r x).ctl = k.ctl := rfl
@[simp] theorem Core.wv_causes (r : BitVec 5) (x : VReg) : (k.wv r x).causes = k.causes := rfl
@[simp] theorem Core.wv_thread (r : BitVec 5) (x : VReg) (g : ThreadId) : (k.wv r x).thread g = k.thread g := rfl

@[simp] theorem Core.setSpan_threads (n : BitVec 4) (x : Span) : (k.setSpan n x).threads = k.threads := rfl
@[simp] theorem Core.setSpan_vec (n : BitVec 4) (x : Span) : (k.setSpan n x).vec = k.vec := rfl
@[simp] theorem Core.setSpan_mat (n : BitVec 4) (x : Span) : (k.setSpan n x).mat = k.mat := rfl
@[simp] theorem Core.setSpan_mem (n : BitVec 4) (x : Span) : (k.setSpan n x).mem = k.mem := rfl
@[simp] theorem Core.setSpan_causes (n : BitVec 4) (x : Span) : (k.setSpan n x).causes = k.causes := rfl
@[simp] theorem Core.setSpan_thread (n : BitVec 4) (x : Span) (g : ThreadId) : (k.setSpan n x).thread g = k.thread g := rfl

@[simp] theorem Thread.wg_f (r : BitVec 5) (v : Word) : (th.wg r v).f = th.f := by unfold Thread.wg; split <;> rfl
@[simp] theorem Thread.wg_pc (r : BitVec 5) (v : Word) : (th.wg r v).pc = th.pc := by unfold Thread.wg; split <;> rfl
@[simp] theorem Thread.wg_lb (r : BitVec 5) (v : Word) : (th.wg r v).lb = th.lb := by unfold Thread.wg; split <;> rfl
@[simp] theorem Thread.wg_le (r : BitVec 5) (v : Word) : (th.wg r v).le = th.le := by unfold Thread.wg; split <;> rfl
@[simp] theorem Thread.wg_lc (r : BitVec 5) (v : Word) : (th.wg r v).lc = th.lc := by unfold Thread.wg; split <;> rfl
@[simp] theorem Thread.wg_estat (r : BitVec 5) (v : Word) : (th.wg r v).estat = th.estat := by unfold Thread.wg; split <;> rfl
@[simp] theorem Thread.wg_eien (r : BitVec 5) (v : Word) : (th.wg r v).eien = th.eien := by unfold Thread.wg; split <;> rfl
@[simp] theorem Thread.wg_epc (r : BitVec 5) (v : Word) : (th.wg r v).epc = th.epc := by unfold Thread.wg; split <;> rfl
@[simp] theorem Thread.wg_ecause (r : BitVec 5) (v : Word) : (th.wg r v).ecause = th.ecause := by unfold Thread.wg; split <;> rfl
@[simp] theorem Thread.wg_eaddr (r : BitVec 5) (v : Word) : (th.wg r v).eaddr = th.eaddr := by unfold Thread.wg; split <;> rfl
@[simp] theorem Thread.wg_eprog (r : BitVec 5) (v : Word) : (th.wg r v).eprog = th.eprog := by unfold Thread.wg; split <;> rfl
@[simp] theorem Thread.wg_esp (r : BitVec 5) (v : Word) : (th.wg r v).esp = th.esp := by unfold Thread.wg; split <;> rfl
@[simp] theorem Thread.wg_esplo (r : BitVec 5) (v : Word) : (th.wg r v).esplo = th.esplo := by unfold Thread.wg; split <;> rfl
@[simp] theorem Thread.wg_esphi (r : BitVec 5) (v : Word) : (th.wg r v).esphi = th.esphi := by unfold Thread.wg; split <;> rfl
@[simp] theorem Thread.wg_fcsr (r : BitVec 5) (v : Word) : (th.wg r v).fcsr = th.fcsr := by unfold Thread.wg; split <;> rfl
@[simp] theorem Thread.wg_shadow (r : BitVec 5) (v : Word) : (th.wg r v).shadow = th.shadow := by unfold Thread.wg; split <;> rfl
@[simp] theorem Thread.wg_stagedEaddr (r : BitVec 5) (v : Word) : (th.wg r v).stagedEaddr = th.stagedEaddr := by unfold Thread.wg; split <;> rfl
@[simp] theorem Thread.wg_stagedRpos (r : BitVec 5) (v : Word) : (th.wg r v).stagedRpos = th.stagedRpos := by unfold Thread.wg; split <;> rfl
@[simp] theorem Thread.wg_resv (r : BitVec 5) (v : Word) : (th.wg r v).resv = th.resv := by unfold Thread.wg; split <;> rfl
@[simp] theorem Thread.wg_patchQ (r : BitVec 5) (v : Word) : (th.wg r v).patchQ = th.patchQ := by unfold Thread.wg; split <;> rfl
@[simp] theorem Thread.wg_run (r : BitVec 5) (v : Word) : (th.wg r v).run = th.run := by unfold Thread.wg; split <;> rfl
@[simp] theorem Thread.wg_waiting (r : BitVec 5) (v : Word) : (th.wg r v).waiting = th.waiting := by unfold Thread.wg; split <;> rfl
@[simp] theorem Thread.wg_stepOver (r : BitVec 5) (v : Word) : (th.wg r v).stepOver = th.stepOver := by unfold Thread.wg; split <;> rfl
@[simp] theorem Thread.wg_blocked (r : BitVec 5) (v : Word) : (th.wg r v).blocked = th.blocked := by unfold Thread.wg; split <;> rfl
@[simp] theorem Thread.wg_aside (r : BitVec 5) (v : Word) : (th.wg r v).aside = th.aside := by unfold Thread.wg; split <;> rfl
@[simp] theorem Thread.wg_nmiReq (r : BitVec 5) (v : Word) : (th.wg r v).nmiReq = th.nmiReq := by unfold Thread.wg; split <;> rfl
@[simp] theorem Thread.wg_nmiSrc (r : BitVec 5) (v : Word) : (th.wg r v).nmiSrc = th.nmiSrc := by unfold Thread.wg; split <;> rfl
@[simp] theorem Thread.wg_beatPend (r : BitVec 5) (v : Word) : (th.wg r v).beatPend = th.beatPend := by unfold Thread.wg; split <;> rfl
@[simp] theorem Thread.wg_movPend (r : BitVec 5) (v : Word) : (th.wg r v).movPend = th.movPend := by unfold Thread.wg; split <;> rfl
@[simp] theorem Thread.wg_rsmPend (r : BitVec 5) (v : Word) : (th.wg r v).rsmPend = th.rsmPend := by unfold Thread.wg; split <;> rfl
@[simp] theorem Thread.wg_thrPend (r : BitVec 5) (v : Word) : (th.wg r v).thrPend = th.thrPend := by unfold Thread.wg; split <;> rfl

theorem Thread.rg_wg (r x : BitVec 5) (v : Word) : (th.wg r v).rg x = if x = r ∧ x ≠ 0 then v else th.rg x := by
  unfold Thread.wg Thread.rg
  by_cases hr : r = 0#5
  · subst hr; by_cases hx : x = 0#5 <;> simp [hx]
  · by_cases hx : x = 0#5 <;> simp [hr, hx, Table.get_set, BitVec.toNat_inj]

theorem Core.rv_wv (r x : BitVec 5) (v : VReg) : (k.wv r v).rv x = if x = r then v else k.rv x := by
  simp only [Core.wv, Core.rv, Table.get_set]
  exact if_congr (by rw [BitVec.toNat_inj]) rfl rfl

end Sys2Proof.Machine
end

