-- ==== Sys2Proof/Laws/Scalar.lean ====
section
/-!
SUPPORT. What the shared operations of a thread do: issuing an instruction, going on after it, taking a branch.
-/

namespace Sys2Proof.Machine

/-! ## Writing a key twice -/

theorem insertEntry_insertEntry {α : Type} (k : Nat) (v w : α) (l : List (Nat × α)) :
    insertEntry k w (insertEntry k v l) = insertEntry k w l := by
  induction l with
  | nil => simp [insertEntry]
  | cons e r ih =>
    obtain ⟨j, u⟩ := e
    by_cases h : k < j
    · simp [insertEntry, h]
    · by_cases h' : k = j <;> simp [insertEntry, h, h', ih]

/-- The last write of a key counts, where the first one lists it. -/
theorem Table.set_set {α : Type} [DecidableEq α] (d v w : α) (t : Table α) (k : Nat) (hv : v ≠ d) (hw : w ≠ d) :
    (t.set d k v).set d k w = t.set d k w := by
  simp [Table.set, hv, hw, insertEntry_insertEntry]

/-- A thread that runs is not a thread at reset. -/
theorem Thread.ne_reset {x : Thread} (h : x.run = true) : x ≠ .reset := by
  rintro rfl; exact absurd h (by decide)

/-- A core with a running thread is not a core at reset. -/
theorem Core.ne_reset {k : Core} {h : ThreadId} (r : (k.thread h).run = true) : k ≠ .reset := by
  rintro rfl; exact absurd r (by simp [Core.thread, Core.reset, Thread.reset])

theorem Core.setThread_setThread {k : Core} {h : ThreadId} {x y : Thread} (hx : x.run = true) (hy : y.run = true) :
    (k.setThread h x).setThread h y = k.setThread h y := by
  simp only [Core.setThread]
  rw [Table.set_set _ _ _ _ _ (Thread.ne_reset hx) (Thread.ne_reset hy)]

theorem setCore_setCore {s : State} {c : CoreId} {h : ThreadId} {a b : Core} (ha : (a.thread h).run = true)
    (hb : (b.thread h).run = true) : (s.setCore c a).setCore c b = s.setCore c b := by
  simp only [State.setCore]
  rw [Table.set_set _ _ _ _ _ (Core.ne_reset ha) (Core.ne_reset hb)]

theorem setThread_setThread {s : State} {c : CoreId} {h : ThreadId} {x y : Thread} (hx : x.run = true) (hy : y.run = true) :
    (s.setThread c h x).setThread c h y = s.setThread c h y := by
  have e := @setCore_setCore s c h ((s.core c).setThread h x) (((s.core c).setThread h x).setThread h y) (by simpa) (by simpa)
  rw [Core.setThread_setThread hx hy] at e
  show (s.setCore c _).setCore c (((s.setCore c _).core c).setThread h y) = _
  rw [core_setCore_same, Core.setThread_setThread hx hy]
  exact e

/-! ## Issue -/

theorem Issues.run {s : State} {c : CoreId} {t : ThreadId} {gs fs fw : List (BitVec 5)} (h : Issues s c t gs fs fw) :
    (s.thread c t).run = true := by
  have r : Machine.ready s c t = true := h.ready
  simp only [Machine.ready, Bool.and_eq_true] at r
  exact r.1.1.1.1.1.1

/-- A thread that is ready owes no cause. -/
theorem Issues.owed {s : State} {c : CoreId} {t : ThreadId} {gs fs fw : List (BitVec 5)} (h : Issues s c t gs fs fw) :
    ((s.core c).thread t).owed = none := by
  have r : Machine.ready s c t = true := h.ready
  simp only [Machine.ready, Bool.and_eq_true, Option.isNone_iff_eq_none] at r
  exact r.1.1.1.2

/-- The state in which an instruction of a thread does its work: it is the one that issues after the cause taken before it (R115). -/
def State.issuing (s : State) (c : CoreId) (t : ThreadId) : State := s.modThread c t fun th => { th with took := false }

@[simp] theorem State.issuing_thread (s : State) (c : CoreId) (t : ThreadId) :
    (s.issuing c t).thread c t = { s.thread c t with took := false } := by simp [State.issuing]

theorem State.issuing_eq (s : State) (c : CoreId) (t : ThreadId) :
    s.issuing c t = s.setThread c t { s.thread c t with took := false } := rfl

/-- Where nothing keeps a thread from issuing, a legal instruction does what its meaning says. -/
theorem issueWith_runs {s : State} {c : CoreId} {t : ThreadId} {gs fs fw : List (BitVec 5)} (h : Issues s c t gs fs fw)
    (body : State → State) : issueWith c t none none gs fs fw body s = .next (body (s.issuing c t)) := by
  have ho := h.owed
  obtain ⟨h1, h2, h3, h4⟩ := h
  simp only [State.thread] at h3
  simp [issueWith, h1, h2, h3, h4, ho, State.issuing]

theorem issue_runs {s : State} {c : CoreId} {t : ThreadId} {gs fs fw : List (BitVec 5)} (h : Issues s c t gs fs fw)
    (body : State → State) : issue c t none gs fs fw body s = .next (body (s.issuing c t)) := issueWith_runs h body

/-- An illegal instruction takes its exception, breakpoint or not. -/
theorem issueWith_illegal {s : State} {c : CoreId} {t : ThreadId} {gs fs fw : List (BitVec 5)} (h : Issues s c t gs fs fw) (x : Cause)
    (f : Option (State → State)) (body : State → State) :
    issueWith c t (some x) f gs fs fw body s = .next (raise c t x (s.thread c t).pc s) := by
  have ho := h.owed
  obtain ⟨h1, h2, h3, h4⟩ := h
  simp only [State.thread] at h3
  simp [issueWith, h1, h2, h3, ho, State.thread]

theorem issue_illegal {s : State} {c : CoreId} {t : ThreadId} {gs fs fw : List (BitVec 5)} (h : Issues s c t gs fs fw) (sub : BitVec 8)
    (body : State → State) : issue c t (some sub) gs fs fw body s = .next (raise c t (.sync 3 sub 0) (s.thread c t).pc s) :=
  issueWith_illegal h ..

/-! ## Going on after an instruction -/

theorem loopNext_frame (th : Thread) (a : BitVec 17) : ∃ lc, (loopNext th a).2 = { th with lc := lc } := by
  unfold loopNext
  simp only
  repeat' split
  all_goals exact ⟨_, rfl⟩

theorem loopNext_loopless {th : Thread} (h : Loopless th) (a : BitVec 17) : loopNext th a = (a + 4, th) := by
  have h0 : th.lc.get 0#32 0 = 0#32 := h 0 (by omega)
  have h1 : th.lc.get 0#32 1 = 0#32 := h 1 (by omega)
  have h2 : th.lc.get 0#32 2 = 0#32 := h 2 (by omega)
  simp [loopNext, h0, h1, h2]

/-- What a thread that goes on becomes. -/
theorem retireThread_went (alu : Bool) (x : Thread) : WentOn x (retireThread alu { x with took := false }) := by
  obtain ⟨lc, h⟩ := loopNext_frame { x with took := false } x.pc
  refine ⟨by simp [retireThread, Thread.tick, h], fun l => ?_⟩
  have l' : Loopless { x with took := false } := l
  simp [retireThread, loopNext_loopless l', Thread.tick]

theorem retireThread_run (alu : Bool) (x : Thread) : (retireThread alu x).run = x.run := by
  obtain ⟨lc, h⟩ := loopNext_frame x x.pc
  simp [retireThread, Thread.tick, h]

/-- Thread h of core c, which runs, becomes `x` and the instruction is over. -/
theorem retire_retires {s : State} {c : CoreId} {h : ThreadId} {x : Thread} (alu : Bool) (hr : x.run = true) :
    Retires s (retire c h alu (s.setThread c h { x with took := false })) c h x := by
  obtain ⟨e, l⟩ := retireThread_went alu x
  refine ⟨_, _, (retireThread alu { x with took := false }).resv, ?_, l⟩
  have hr' : (retireThread alu { x with took := false }).run = true := by rw [retireThread_run]; exact hr
  simp only [retire, State.modThread, thread_setThread_same]
  rw [setThread_setThread (by exact hr) hr']
  exact congrArg _ e

/-- The model's loop rule is R78's. -/
theorem loopNext_rule (th : Thread) (a : BitVec 17) :
    (loopNext th a).1 = (loopRule (th.lb.get 0) (th.le.get 0) a [2, 1, 0] (th.lc.get 0)).1 ∧
      ∀ k < 3, (loopNext th a).2.lc.get 0 k = (loopRule (th.lb.get 0) (th.le.get 0) a [2, 1, 0] (th.lc.get 0)).2 k := by
  have three (p q : Prop) : p ∧ q ∨ p ∧ ¬q ∨ ¬p := by tauto
  have c0 := three (¬th.lc.get 0#32 0 = 0#32 ∧ th.le.get 0#32 0 = a.setWidth 32) (1 < (th.lc.get 0#32 0).toNat)
  have c1 := three (¬th.lc.get 0#32 1 = 0#32 ∧ th.le.get 0#32 1 = a.setWidth 32) (1 < (th.lc.get 0#32 1).toNat)
  have c2 := three (¬th.lc.get 0#32 2 = 0#32 ∧ th.le.get 0#32 2 = a.setWidth 32) (1 < (th.lc.get 0#32 2).toNat)
  clear three
  rcases c2 with ⟨h2, m2⟩ | ⟨h2, m2⟩ | h2
  · simp [loopNext, loopRule, h2, m2, Table.modify, Table.get_set, Function.update_apply]
  all_goals rcases c1 with ⟨h1, m1⟩ | ⟨h1, m1⟩ | h1
  all_goals first
    | (simp [loopNext, loopRule, h2, m2, h1, m1, Table.modify, Table.get_set, Function.update_apply]; done)
    | (simp [loopNext, loopRule, h2, h1, m1, Table.modify, Table.get_set, Function.update_apply]; done)
    | skip
  all_goals rcases c0 with ⟨h0, m0⟩ | ⟨h0, m0⟩ | h0
  all_goals simp [loopNext, loopRule, *, Table.modify, Table.get_set, Function.update_apply]

theorem retireThread_follows (alu : Bool) (x : Thread) : FollowsLoopRule x (retireThread alu x) x.pc := loopNext_rule x x.pc

/-- g[rd] takes a value. -/
theorem wg_wrote (x : Thread) (rd : BitVec 5) (v : Word) : WroteG x (x.wg rd v) rd v := by
  refine ⟨fun r => ?_, ?_⟩
  · exact Thread.rg_wg ..
  · unfold Thread.wg; split <;> rfl

/-- An instruction whose effect is a value in g[rd]. -/
theorem writeG_writes {c : CoreId} {h : ThreadId} {rd : BitVec 5} {alu : Bool} {v : Word} {s : State} (r : (s.thread c h).run = true) :
    WritesG s (writeG c h rd alu v (s.issuing c h)) c h rd v := by
  refine ⟨(s.thread c h).wg rd v, wg_wrote .., ?_⟩
  have e : (s.issuing c h).modThread c h (fun q => q.wg rd v) = s.setThread c h { (s.thread c h).wg rd v with took := false } := by
    simp only [State.modThread, State.issuing_thread]
    rw [State.issuing_eq, setThread_setThread (by exact r) (by simpa)]
    congr 1
    unfold Thread.wg; split <;> rfl
  simp only [writeG, e]
  exact retire_retires _ (by simpa)

/-- The thread's loop registers, g registers aside, follow R78. -/
theorem writeG_follows {c : CoreId} {h : ThreadId} {rd : BitVec 5} {alu : Bool} {v : Word} {s : State} :
    FollowsLoopRule (s.thread c h) ((writeG c h rd alu v s).thread c h) (s.thread c h).pc := by
  have := retireThread_follows alu ((s.thread c h).wg rd v)
  simpa [writeG, retire, FollowsLoopRule] using this

/-- What a thread that branches becomes (R79). -/
theorem branchThread_run (g : BitVec 17) (x : Thread) : (branchThread g x).run = x.run := by
  unfold branchThread; simp only [Thread.tick]; repeat' split
  all_goals rfl

theorem branchThread_frame (g : BitVec 17) (x : Thread) : 
    ∃ lc resv, branchThread g x = { x with pc := g, lc := lc, resv := resv, stepOver := false } := by
  unfold branchThread; simp only [Thread.tick]; repeat' split
  all_goals exact ⟨_, _, rfl⟩

theorem branchThread_lc (g : BitVec 17) (x : Thread) : ∀ k < 3,
    (branchThread g x).lc.get 0 k = if g.toNat < (x.lb.get 0 k).toNat ∨ (x.le.get 0 k).toNat < g.toNat then 0 else x.lc.get 0 k := by
  intro k hk
  have three (p q : Prop) : p ∧ q ∨ p ∧ ¬q ∨ ¬p := by tauto
  have c0 := three (g.toNat < (x.lb.get 0#32 0).toNat ∨ (x.le.get 0#32 0).toNat < g.toNat) (x.lc.get 0#32 0 = 0#32)
  have c1 := three (g.toNat < (x.lb.get 0#32 1).toNat ∨ (x.le.get 0#32 1).toNat < g.toNat) (x.lc.get 0#32 1 = 0#32)
  have c2 := three (g.toNat < (x.lb.get 0#32 2).toNat ∨ (x.le.get 0#32 2).toNat < g.toNat) (x.lc.get 0#32 2 = 0#32)
  clear three
  unfold branchThread; simp only [Thread.tick]
  obtain rfl | rfl | rfl : k = 0 ∨ k = 1 ∨ k = 2 := by omega
  · rcases c0 with ⟨h, h'⟩ | ⟨h, h'⟩ | h <;> simp [*] <;> (repeat' split) <;> simp [*, Table.get_set]
  · rcases c1 with ⟨h, h'⟩ | ⟨h, h'⟩ | h <;> simp [*] <;> (repeat' split) <;> simp_all [Table.get_set]
  · rcases c2 with ⟨h, h'⟩ | ⟨h, h'⟩ | h <;> simp [*] <;> (repeat' split) <;> simp_all [Table.get_set]

/-- The next word, as a branch displacement in words gives it. -/
theorem wordTarget_eq {w : Nat} (pc : BitVec 17) (d : BitVec w) : wordTarget pc d = pc + 4 * d.signExtend 17 := by
  unfold wordTarget
  congr 1
  apply BitVec.eq_of_toNat_eq
  simp [BitVec.toNat_mul, Nat.shiftLeft_eq, Nat.mul_comm]

end Sys2Proof.Machine
end

