-- ==== Sys2Proof/Tests/Slice0.lean ====
section
/-!
SUPPORT. Tests of the model on small states, and for every statement a state and operands that meet its hypotheses.
-/

namespace Sys2Proof.Tests

open Sys2Proof Sys2Proof.Machine

/-! ## Ill-formed commands are refused -/

theorem test_wf_row : (Instr.rowSubstitution ⟨0, 0, 33⟩).wf = false := by decide
theorem test_wf_channel : (Instr.stackChannelCopy ⟨0, 34, []⟩).wf = false := by decide
theorem test_wf_selftest_row : (Instr.selftestComplete ⟨[.row 0 0 33], []⟩).wf = false := by decide
theorem test_wf_selftest_channel : (Instr.selftestComplete ⟨[], [[.channel 0 34]]⟩).wf = false := by decide
theorem test_wf_router : (Instr.fatalError ⟨.router 18⟩).wf = false := by decide
theorem test_wf_bore : (Instr.fatalError ⟨.channel 140 false⟩).wf = false := by decide
theorem test_wf_lane_bore : (Instr.hwError ⟨.boreLane 139 33 false⟩).wf = false := by decide
theorem test_wf_port : (Instr.portCtl ⟨18, 0⟩).wf = false := by decide
theorem test_wf_lane : (Instr.laneFailure ⟨0, 9⟩).wf = false := by decide
theorem test_wf_admission : (Instr.admissionSlot ⟨0, [(16, 1), (17, 1)], 0⟩).wf = false := by decide
theorem test_wf_last : (Instr.laneFailure ⟨17, 8⟩).wf = true := by decide

/-! ## States -/

/-- The module in SERVING, its PCIe link up. -/
def serving : State := { State.reset with mod := { ModBlock.reset with state := .serving, perstLow := false } }

/-- A thread that runs, with a frame's room below esp. -/
def awake : Thread := { Thread.reset with run := true, pc := 0x200, esp := 0x1000, esplo := 0x100, esphi := 0xFFFF }

/-- Thread h of core 0 runs, as `x`. -/
def only (h : ThreadId) (x : Thread) : State := serving.setThread 0 h x

theorem meet_nil (l : List Nat) : meet l [] = false := by simp [meet]

theorem issues_of {s : State} {c : CoreId} {h : ThreadId} (n : h ≠ 0) (a : ready s c h = true)
    (b : parityBad (s.core c) (s.thread c h).pc = false) (d : breakpointAt (s.core c) h = none) (gs fs fw : List (BitVec 5)) :
    Issues s c h gs fs fw := ⟨a, by unfold stalls; rw [decide_eq_false n]; rfl, b, d⟩

theorem issues0_of {s : State} {c : CoreId} (v : (s.core c).vecAll = []) (m : (s.core c).matAll = []) (a : ready s c 0 = true)
    (b : parityBad (s.core c) (s.thread c 0).pc = false) (d : breakpointAt (s.core c) 0 = none) (gs fs fw : List (BitVec 5)) :
    Issues s c 0 gs fs fw := ⟨a, by unfold stalls; rw [v, m]; simp [meet_nil], b, d⟩

/-! ## Scalar statements -/

/-- IntegerRegisterResults, DivisionAndImmediateResults: any operands; a shift by 31. -/
theorem witness_results : Issues (only 1 awake) 0 1 [3, 4] [] [] ∧ Issues (only 0 awake) 0 0 [31, 31] [] [] ∧ (31 : BitVec 16) >>> 5 = 0 :=
  ⟨issues_of (by decide) (by decide) (by decide) (by decide) .., issues0_of (by decide) (by decide) (by decide) (by decide) (by decide) ..,
    by decide⟩

/-- QueueInstructionsTrapOffH0: h1 and h3. -/
theorem witness_QueueInstructionsTrapOffH0 : (∀ h ∈ ([1, 3] : List ThreadId), h ≠ 0 ∧ ready (only h awake) 0 h = true ∧
    parityBad ((only h awake).core 0) ((only h awake).thread 0 h).pc = false) ∧ Framed awake := by
  refine ⟨by decide, by simp [Framed, awake]⟩

/-- Loop 0 is active and ends at the last word of the store. -/
def looping : Thread := { awake with lc := awake.lc.set 0 0 5, lb := awake.lb.set 0 0 0x100, le := awake.le.set 0 0 0x1FFFC }

/-- HardwareLoops: the shortest loop of level 0, and one of level 2 that ends at the last word inside an active loop. -/
theorem witness_HardwareLoops : Issues (only 1 awake) 0 1 [3] [] [] ∧ Issues (only 1 looping) 0 1 [3] [] [] ∧
    (∀ x ∈ [(awake, 0, 2), (looping, 2, 0x7F7F)], 2 ≤ x.2.2 ∧ x.2.1 < 3 ∧ x.1.pc.toNat + 4 * x.2.2 ≤ 0x1FFFC ∧ x.1.lc.get 0 x.2.1 = 0 ∧
      (∀ k < 3, x.2.1 < k → x.1.lc.get 0 k = 0) ∧ ∀ j < x.2.1, x.1.lc.get 0 j ≠ 0 → x.1.pc.toNat + 4 * x.2.2 ≤ (x.1.le.get 0 j).toNat) :=
  ⟨issues_of (by decide) (by decide) (by decide) (by decide) .., issues_of (by decide) (by decide) (by decide) (by decide) ..,
    by decide⟩

/-- A thread with g3 = v. -/
def with3 (v : Word) (x : Thread) : Thread := { x with g := x.g.set 0 3 v }

/-- BranchesAndJumps: equal and unequal registers, a jump to the last word. JumpsToIllegalTargetsTrap: one byte off, and one beyond. -/
theorem witness_BranchesAndJumps : Issues (only 1 (with3 0x1FFFC awake)) 0 1 [3, 4] [] [] ∧ Issues (only 1 (with3 0x1FFFC awake)) 0 1 [3] [] [] ∧
    Issues (only 1 (with3 0x1FFFC awake)) 0 1 [] [] [] ∧ (with3 0x1FFFC awake).rg 5 = (with3 0x1FFFC awake).rg 4 ∧
    (with3 0x1FFFC awake).rg 3 ≠ (with3 0x1FFFC awake).rg 4 ∧ ((with3 0x1FFFC awake).rg 3 + 4 * (0 : BitVec 11).signExtend 32).toNat < 0x20000 :=
  ⟨issues_of (by decide) (by decide) (by decide) (by decide) .., issues_of (by decide) (by decide) (by decide) (by decide) ..,
    issues_of (by decide) (by decide) (by decide) (by decide) .., by decide, by decide, by decide⟩

theorem witness_JumpsToIllegalTargetsTrap : Issues (only 1 (with3 0x1FFFD awake)) 0 1 [3] [] [] ∧
    Quiet (only 1 (with3 0x1FFFD awake)) 0 1 ∧ Framed (with3 0x1FFFD awake) ∧
    (∀ v ∈ ([0x1FFFD, 0x20000] : List Word), (v + 4 * (0 : BitVec 11).signExtend 32) >>> 17 ≠ 0 ∨ (v + 4 * (0 : BitVec 11).signExtend 32) &&& 3 ≠ 0) :=
  ⟨issues_of (by decide) (by decide) (by decide) (by decide) .., by simp [Quiet], by simp [Framed, with3, awake], by simp⟩

/-- ScalarFpResults: no flag traps while no trap is enabled. -/
theorem witness_ScalarFpResults : Issues (only 1 awake) 0 1 [] [1, 2, 3] [4] ∧ ∀ flags : BitVec 5, ∀ fl : Bool,
    flags &&& ((awake.fcsr ||| flags.setWidth 32 ||| (if fl then 0x800 else 0)) >>> 6).setWidth 5 = 0 :=
  ⟨issues_of (by decide) (by decide) (by decide) (by decide) .., by decide⟩

/-- LocalLoadsAndStores: the last eight bytes of the data local store. StraddlingAccessesTrap: one byte further, and into each later row. -/
theorem witness_LocalLoadsAndStores : Issues (only 1 (with3 0xFFFF8 awake)) 0 1 [3] [] [] ∧ Issues (only 1 (with3 0xFFFF8 awake)) 0 1 [3, 4] [] [] ∧
    Issues (only 1 (with3 0xFFFF8 awake)) 0 1 [3] [5] [] ∧ Issues (only 1 (with3 0xFFFF8 awake)) 0 1 [3] [] [5] ∧
    ((with3 0xFFFF8 awake).rg 3 + (0 : BitVec 13).signExtend 32).toNat + szBytes 6 ≤ 0x100000 ∧
    watchLocal ((only 1 (with3 0xFFFF8 awake)).core 0) 1 0xFFFF8 8 false = none ∧
    watchLocal ((only 1 (with3 0xFFFF8 awake)).core 0) 1 0xFFFF8 8 true = none ∧
    ∀ i < 8, ((only 1 (with3 0xFFFF8 awake)).core 0).mem.dlsPoison.get false ((0xFFFF8 + i) / 8) = false :=
  ⟨issues_of (by decide) (by decide) (by decide) (by decide) .., issues_of (by decide) (by decide) (by decide) (by decide) ..,
    issues_of (by decide) (by decide) (by decide) (by decide) .., issues_of (by decide) (by decide) (by decide) (by decide) ..,
    by decide, by decide, by decide, by decide⟩

theorem witness_StraddlingAccessesTrap : Issues (only 1 (with3 0xFFFF9 awake)) 0 1 [3, 4] [] [] ∧
    Issues (only 1 (with3 0xFFFF9 awake)) 0 1 [3] [] [5] ∧
    ∀ x ∈ [(0xFFFF9, 1), (0x11FFFF, 2), (0x1FFFFD, 3), (0x20FFF9, 4)], addressRow x.1 ≠ addressRow (x.1 + szBytes 6 - 1) ∧
      addressRow (x.1 + szBytes 6 - 1) = x.2 ∧ x.1 + szBytes 6 - 1 < 2 ^ 32 :=
  ⟨issues_of (by decide) (by decide) (by decide) (by decide) .., issues_of (by decide) (by decide) (by decide) (by decide) .., by decide⟩

/-- SpanRegisters, FencesPatchesAndWaits, ControlRegisters, ControlPage: h0 alone runs, nothing is queued. -/
theorem witness_SpanRegisters : Issues (only 0 awake) 0 0 [3, 4] [] [] ∧ Issues (only 0 awake) 0 0 [] [] [] ∧ (6 : BitVec 3) ≠ 7 ∧
    (2 : BitVec 2) ≠ 3 :=
  ⟨issues0_of (by decide) (by decide) (by decide) (by decide) (by decide) .., issues0_of (by decide) (by decide) (by decide) (by decide) (by decide) ..,
    by decide, by decide⟩

/-- A page of local Palvan memory: va 0, stack 0, plot 0, byte 0; readable, and writable. -/
def home : Leaf := ⟨0, 0x1000, 0xFFF * 2 ^ 52 + 2 ^ 42, 0, true, 0, false⟩

/-- The line number of a va on that page. -/
def homeLine : Nat := (0xFFF * 2 ^ 52 + 2 ^ 42) / 64

/-- h0 runs; its TLB and its L1D hold the page's first line. -/
def mapped : State := (only 0 awake).modCore 0 fun k => { k with mem := { k.mem with tlb := [⟨0, home⟩], l1d := [⟨homeLine, 0, false⟩] } }

theorem mapped_issues (gs fs fw : List (BitVec 5)) : Issues mapped 0 0 gs fs fw :=
  issues0_of (by decide) (by decide) (by decide) (by decide) (by decide) ..

/-- BulkAccesses: the last eight bytes of a line. -/
theorem witness_BulkAccesses : Issues mapped 0 0 [3] [] [] ∧ Issues mapped 0 0 [3, 4] [] [] ∧ HitsTlb mapped 0 0 8 false home ∧
    HitsTlb mapped 0 56 8 true home ∧ (mapped.core 0).l1Find ((home.addr 0).toNat / 64) = some ⟨homeLine, 0, false⟩ ∧
    (mapped.core 0).mem.mbuf = [] :=
  ⟨mapped_issues .., mapped_issues .., by unfold HitsTlb; decide, by unfold HitsTlb; decide, rfl, by decide⟩

/-- A thread with a reservation of granule g, eight instructions old. -/
def reserved (g : Nat) (l2 : Bool) : Thread := { awake with resv := some ⟨g, l2, 8, true⟩ }

/-- h0 with the page's first sector in the L2. -/
def mappedL2 (x : Thread) : State :=
  (mapped.setThread 0 0 x).modTile 0 fun n => { n with sectors := n.sectors.set none homeLine (some ⟨0, 0, false, false, 0, 0, none⟩) }

/-- Reservations: with one, and without. -/
theorem witness_Reservations : Issues (only 1 awake) 0 1 [3, 4] [] [] ∧ Issues (only 1 (reserved 0 false)) 0 1 [3, 4] [] [] ∧
    watchAt ((only 1 awake).core 0) 1 0 4 false false = none ∧ watchAt ((only 1 (reserved 0 false)).core 0) 1 0 4 false true = none ∧
    (∀ i < 4, ((only 1 awake).core 0).mem.dlsPoison.get false ((0 + i) / 8) = false) ∧
    (∃ r, (reserved 0 false).resv = some r ∧ r.granule = 0 / 64 ∧ r.l2 = false ∧ r.clean = true ∧ r.since ≤ 8) ∧
    Issues (mappedL2 awake) 0 0 [3, 4] [] [] ∧ Issues (mappedL2 (reserved homeLine true)) 0 0 [3, 4] [] [] ∧
    HitsTlb (mappedL2 awake) 0 0 4 false home ∧ HitsTlb (mappedL2 (reserved homeLine true)) 0 0 4 true home ∧
    ((mappedL2 awake).tile (tileOf 0)).sector homeLine = some ⟨0, 0, false, false, 0, 0, none⟩ ∧
    (∃ r, (reserved homeLine true).resv = some r ∧ r.granule = (home.addr 0).toNat / 64 ∧ r.l2 = true ∧ r.clean = true ∧ r.since ≤ 8) :=
  ⟨issues_of (by decide) (by decide) (by decide) (by decide) .., issues_of (by decide) (by decide) (by decide) (by decide) ..,
    by decide, by decide, by decide, ⟨_, rfl, by decide⟩,
    issues0_of (by decide) (by decide) (by decide) (by decide) (by decide) .., issues0_of (by decide) (by decide) (by decide) (by decide) (by decide) ..,
    by unfold HitsTlb; decide, by unfold HitsTlb; decide, rfl, ⟨_, rfl, by decide⟩⟩

/-- A thread with seven queued patches and g3 at the last word of the instruction store. -/
def patching : Thread := { with3 0x1FFFC awake with patchQ := List.replicate 7 (0, 0), eien := 0x10000 }

/-- FencesPatchesAndWaits. -/
theorem witness_FencesPatchesAndWaits : Issues (only 1 patching) 0 1 [] [] [] ∧ Issues (only 1 patching) 0 1 [3, 4] [] [] ∧
    ((only 1 patching).core 0).mem.mbuf = [] ∧ ((only 1 patching).core 0).mem.win.busy = false ∧
    outstanding (only 1 patching) (.mbuf 0) = false ∧ Quiet (only 1 patching) 0 0 ∧ writing (only 1 patching) (.vector 0) = false ∧
    writing (only 1 patching) (.matrix 0) = false ∧ patching.eien ≠ 0 ∧ (patching.rg 3).toNat % 4 = 0 ∧
    (patching.rg 3).toNat ≤ 0x1FFFC ∧ patching.patchQ.length < 8 :=
  ⟨issues_of (by decide) (by decide) (by decide) (by decide) .., issues_of (by decide) (by decide) (by decide) (by decide) .., by decide,
    by decide, by decide, by unfold Quiet; decide, by decide, by decide, by decide, by decide, by decide, by decide⟩

theorem witness_waitWake : { awake with waiting := true, nmiReq := true }.waiting = true ∧
    { awake with waiting := true, estat := 4 }.waiting = true ∧ { awake with waiting := true, estat := 4 }.estat.getLsbD 2 = true ∧
    ({ awake with waiting := true, nmiReq := true }.nmiReq = true ∨
      (pendingInterrupt ((only 1 { awake with waiting := true, nmiReq := true }).core 0) 1).isSome) := by decide

/-- ControlRegisters: every register that a thread may write whole; the halves that wait. -/
theorem witness_ControlRegisters : Issues (only 0 awake) 0 0 [3] [] [] ∧ Issues (only 0 awake) 0 0 [] [] [] ∧ Quiet (only 0 awake) 0 0 ∧
    Loopless awake ∧ (∀ n ∈ [0x028, 0x029, 0x02A], awake.le.get 0 (n - 0x028) ≠ awake.pc.setWidth 32) ∧
    (∀ n ∈ [0x000, 0x001, 0x002, 0x003, 0x006, 0x009, 0x010, 0x011, 0x012, 0x013, 0x020, 0x02A], (csrMask 0 0x7000 n).isSome = true) ∧
    { awake with stagedEaddr := some 1, stagedRpos := some 2 }.stagedEaddr = some 1 ∧
    { awake with stagedEaddr := some 1, stagedRpos := some 2 }.stagedRpos = some 2 :=
  ⟨issues0_of (by decide) (by decide) (by decide) (by decide) (by decide) .., issues0_of (by decide) (by decide) (by decide) (by decide) (by decide) ..,
    by unfold Quiet; decide, by unfold Loopless; decide, by decide, by decide, by decide, by decide⟩

/-- TrapEntersVector11: on h0 and on h1. -/
theorem witness_TrapEntersVector11 : Issues (only 0 awake) 0 0 [] [] [] ∧ Quiet (only 0 awake) 0 0 ∧ Issues (only 1 awake) 0 1 [] [] [] ∧
    Quiet (only 1 awake) 0 1 ∧ Framed awake :=
  ⟨issues0_of (by decide) (by decide) (by decide) (by decide) (by decide) .., by unfold Quiet; decide, issues_of (by decide) (by decide) (by decide) (by decide) ..,
    by unfold Quiet; decide, by simp [Framed, awake]⟩

/-- A thread with a beat alarm pending and enabled; one with an NMI latched; one inside an NMI handler. -/
def alarmed : Thread := { awake with estat := 1, eien := 0x10000, beatPend := some 5 }
def nudged : Thread := { awake with nmiReq := true, nmiSrc := 1 }
def inNmi : Thread := { nudged with estat := 2 }

/-- InterruptAndNmiEntry. -/
theorem witness_InterruptAndNmiEntry : (∀ x ∈ [alarmed, nudged, inNmi, awake], x.run = true ∧ x.blocked = none ∧ x.owed = none ∧
      x.took = false ∧ ((only 0 x).core 0).ctl.stopping = false ∧ longInProgress (only 0 x) 0 = false ∧ Quiet (only 0 x) 0 0 ∧ Framed x) ∧
    alarmed.nmiDue = false ∧ alarmed.estat.getLsbD 0 = true ∧ ((only 0 alarmed).core 0).causes = [] ∧
    pendingInterrupt ((only 0 alarmed).core 0) 0 = some (16, 0, 5) ∧ (∀ x ∈ [nudged, inNmi], ∀ h : ThreadId, h ≠ 0 → ((only 0 x).thread 0 h).nmiReq = false) ∧
    nudged.estat.getLsbD 1 = false ∧ inNmi.estat.getLsbD 1 = true ∧ awake.nmiDue = false ∧ awake.waiting = false ∧
    (((only 0 awake).modCore 0 fun k => { k with causes := [⟨false, 8, 1, 0, false, 0⟩] }).core 0).causes = [⟨false, 8, 1, 0, false, 0⟩] := by
  refine ⟨?_, by decide, by decide, by decide, by decide, by decide, by decide, by decide, by decide, by decide, by decide⟩
  intro x hx
  simp only [List.mem_cons, List.not_mem_nil, or_false] at hx
  rcases hx with rfl | rfl | rfl | rfl <;>
    exact ⟨by decide, by decide, by decide, by decide, by decide, by decide, by unfold Quiet; decide, by simp [Framed, alarmed, nudged, inNmi, awake]⟩

/-- EretRestores: the frame of zeros at esp. -/
theorem witness_EretRestores : Issues (only 0 awake) 0 0 [] [] [] ∧ Quiet (only 0 awake) 0 0 ∧ awake.estat.getLsbD 15 = false ∧
    awake.esp.toNat % 64 = 0 ∧ awake.esplo.toNat ≤ awake.esp.toNat ∧ 0x100 ≤ awake.esp.toNat ∧ awake.esp.toNat + 63 ≤ awake.esphi.toNat ∧
    awake.esp.toNat + 63 ≤ 0xFFFFF ∧ dlsNum ((only 0 awake).core 0) awake.esp.toNat 4 = 0 ∧
    dlsNum ((only 0 awake).core 0) (awake.esp.toNat + 4) 4 = 0 ∧ dlsNum ((only 0 awake).core 0) (awake.esp.toNat + 24) 8 = 0 ∧
    awake.estat.getLsbD 2 = false :=
  ⟨issues0_of (by decide) (by decide) (by decide) (by decide) (by decide) .., by unfold Quiet; decide, by decide, by decide, by decide, by decide, by decide,
    by decide, by decide, by decide, by decide, by decide⟩

/-- h1 with a breakpoint at its pc. -/
def broken : State := (only 1 awake).modCore 0 fun k => { k with ctl := { k.ctl with bp0 := ⟨true, 2, 0x200⟩ } }

/-- ScalarTraps: each clause at a boundary of its range. -/
theorem witness_ScalarTraps : Quiet (only 1 awake) 0 1 ∧ Framed awake ∧ Issues (only 1 awake) 0 1 [3] [] [] ∧ Issues (only 1 awake) 0 1 [3, 4] [] [] ∧
    Issues (only 1 awake) 0 1 [3] [] [5] ∧ (32 : BitVec 16) >>> 5 ≠ 0 ∧ (1 : ThreadId) ≠ 0 ∧
    (∀ a ∈ [0x120000, 0x1FFFFC], 0x120000 ≤ a ∧ a + szBytes 4 ≤ 0x200000) ∧ (∀ a ∈ [0x100000, 0x11FFFC], 0x100000 ≤ a ∧ a + 4 ≤ 0x120000) ∧
    ((with3 1 awake).rg 3).toNat % 4 ≠ 0 ∧ (1 : BitVec 16).toNat < 2 ∧
    8 ≤ { awake with patchQ := List.replicate 8 (0, 0) }.patchQ.length ∧ ready broken 0 1 = true ∧
    stalls (broken.core 0) 1 [] [] [] = false ∧ parityBad (broken.core 0) 0x200 = false ∧ (broken.core 0).ctl.bp0.en = true ∧
    (broken.core 0).ctl.bp0.threads.getLsbD 1 = true ∧ (broken.core 0).ctl.bp0.off = (broken.thread 0 1).pc :=
  ⟨by unfold Quiet; decide, by simp [Framed, awake], issues_of (by decide) (by decide) (by decide) (by decide) ..,
    issues_of (by decide) (by decide) (by decide) (by decide) .., issues_of (by decide) (by decide) (by decide) (by decide) .., by decide,
    by decide, by decide, by decide, by decide, by decide, by decide, by decide, by decide, by decide, by decide, by decide, by decide⟩

/-! ## Vector and matrix queues -/

/-- A queued vector instruction of INT32 on 256 elements, and a queued TZERO. -/
def vi (op : VOp) (n : Nat) : VInstr :=
  ⟨op, n, 0x200, 1, 2, 3, 0, 0, false, false, false, false, false, 0, 0, 0, 0, 0xC, 0, 256, 0, 0, none⟩
def mi (n : Nat) : MInstr := ⟨.tzero, n, 0x200, 0x3F000000, 1, 0, 0, 0, 0, 0, 0, 0, false, false, false, 0, 0, 0, 0, 0, none⟩

/-- h0 runs; the queues hold `q` and `m`. -/
def queued (q : List VInstr) (m : List MInstr) : State :=
  (only 0 awake).modCore 0 fun k => { k with vec := { k.vec with vcfg := 0xC, queue := q }, mat := { k.mat with queue := m } }

/-- VectorInstructionsEnterTheirQueue: with the queue empty, and with fifteen entries of integer format. -/
theorem witness_VectorInstructionsEnterTheirQueue : Issues (only 0 awake) 0 0 [3, 4] [] [] ∧ VectorRoom (only 0 awake) 0 ∧
    Issues (queued (List.replicate 15 (vi .add 0)) []) 0 0 [31] [] [] ∧ VectorRoom (queued (List.replicate 15 (vi .add 0)) []) 0 ∧
    (intOf (((queued [] []).core 0).vec.vcfg.toNat % 16)).isSome = true ∧
    logicOk ⟨0, 0, 7, 0, 7, 0, false⟩ := by
  refine ⟨issues0_of (by decide) (by decide) (by decide) (by decide) (by decide) .., ⟨by decide, by decide⟩,
    ⟨by decide, by decide, by decide, by decide⟩, ⟨by decide, by decide⟩, by decide, ?_⟩
  unfold logicOk; decide

/-- TileAndArrayInstructionsEnterTheirQueue: shape words at the limits of each check, with fifteen entries queued. -/
theorem witness_TileAndArrayInstructionsEnterTheirQueue : Issues (only 0 awake) 0 0 [3, 4] [] [] ∧ Issues (only 0 awake) 0 0 [] [] [] ∧
    MatrixRoom (only 0 awake) 0 ∧ MatrixRoom (queued [] (List.replicate 15 (mi 0))) 0 ∧ (0xFFF00800 : Word) &&& 0x000FF7FF = 0 ∧
    (0x3FF00000 : Word) &&& 0xC00FFFFF = 0 ∧ (0xFFF00000 : Word) &&& 0x000FFFFF = 0 ∧
    (∀ p ∈ ([(5, 1, 1, 1, 0), (0xA, 7, 7, 0, 7), (3, 7, 0, 7, 7), (0xC, 0, 7, 7, 7)] :
        List (BitVec 4 × BitVec 3 × BitVec 3 × BitVec 3 × BitVec 3)), p.1 ≠ 0 ∧ (p.1 &&& 3 = 0 → p.2.1 = 0) ∧
      (p.1 &&& 0xC = 0 → p.2.2.1 = 0) ∧ (p.1 &&& 5 = 0 → p.2.2.2.1 = 0) ∧ (p.1 &&& 0xA = 0 → p.2.2.2.2 = 0)) ∧
    (0xFFFFF7FF : Word) &&& 0x800 = 0 ∧ (0xFFF0F1FF : Word) &&& 0x000F0E00 = 0 ∧ (0xFFF0F9FF : Word) &&& 0x000F0600 = 0 ∧
    (0xFCF0F9FF : Word) &&& 0x030F0600 = 0 ∧ (0xFCF0F83F : Word) &&& 0x030F07C0 = 0 := by
  refine ⟨issues0_of (by decide) (by decide) (by decide) (by decide) (by decide) ..,
    issues0_of (by decide) (by decide) (by decide) (by decide) (by decide) .., ?_, ?_, by decide, by decide, by decide, by simp, by decide,
    by decide, by decide, by decide, by decide⟩ <;> (unfold MatrixRoom; decide)

/-- QueueHeadsStart. -/
theorem witness_QueueHeadsStart : (∀ s ∈ [queued [vi .add 0] [mi 1], queued [vi .add 1] [mi 0]], (s.core 0).frozen = false ∧
      (s.core 0).causes = [] ∧ (s.core 0).ctl.xcfg.pm = false ∧ s.mod.state ≠ .service ∧ (s.core 0).vec.started = [] ∧
      (s.core 0).mat.started = []) ∧
    (vi .add 0).check = none ∧ (∀ m ∈ ((queued [vi .add 0] [mi 1]).core 0).matAll, (vi .add 0).seq < m.seq) ∧
    (mi 0).check ((queued [vi .add 1] [mi 0]).core 0) = none ∧
    (∀ v ∈ ((queued [vi .add 1] [mi 0]).core 0).vecAll, (mi 0).seq < v.seq) := by decide

/-- QueuedInstructionsComplete: 256 elements of 32 bits, the whole register. -/
theorem witness_QueuedInstructionsComplete :
    let s := (only 0 awake).modCore 0 fun k => { k with
      vec := { k.vec with started := [{ VRun.fresh (vi .add 0) with probed := true }] }
      mat := { k.mat with started := [{ MRun.fresh (mi 1) with probed := true }] } }
    (s.core 0).frozen = false ∧ (s.core 0).causes = [] ∧ (s.core 0).ctl.stopping = false ∧
      (∀ h : ThreadId, (s.thread 0 h).blocked = none) ∧
      (s.core 0).vec.started = [{ VRun.fresh (vi .add 0) with probed := true }] ∧
      (s.core 0).mat.started = [{ MRun.fresh (mi 1) with probed := true }] ∧ (vi .add 0).check = none ∧ (vi .add 0).int = true ∧
      (mi 1).op = .tzero ∧ 8192 / (vi .add 0).w = 256 ∧ s.hub.reqs = [] ∧ (s.tile (tileOf 0)).fills = [] := by
  refine ⟨by decide, by decide, by decide, by decide, rfl, rfl, by decide, by decide, by decide, by decide, rfl, rfl⟩

/-! ## Memory -/

theorem core_still {s : State} (n : s.allDescs = []) (e : s.cores = .empty) : Still s :=
  ⟨fun c h => by simp [State.thread, State.core, e, Table.get_empty, Core.thread, Core.reset, Thread.reset],
    fun c => by simp [State.core, e, Table.get_empty, Core.reset, CoreCtl.reset], n⟩

/-- Core 0 holds merging buffer `b` and window `w`, tile 0 the page's first sector, dirty, and the page in its TLB. -/
def buffered (b : List MergeEntry) (w : L2Window) : State := { serving with
  cores := ⟨[(0, { Core.reset with mem := { CoreMem.reset with mbuf := b, win := w } })]⟩
  tiles := ⟨[(0, { Tile.reset with
    sectors := ⟨[(homeLine, some ⟨0, 0, true, true, 0, 0, none⟩)]⟩, walker := { Walker.reset with tlb := [⟨0, home⟩] } })]⟩ }

theorem buffered_still (b : List MergeEntry) (w : L2Window) : Still (buffered b w) := by
  refine ⟨fun c h => ?_, fun c => ?_, rfl⟩ <;> simp only [State.thread, State.core, buffered, Table.get, lookupEntry] <;> split <;> rfl

/-- MergingBufferAndRangeOperations: an entry of the line that the sector holds, marked, and eight entries, unmarked; each state of the
window. -/
theorem witness_MergingBufferAndRangeOperations :
    let e : MergeEntry := ⟨homeLine, 0, 0, 1, 0, true, false, false, [home]⟩
    let l := List.replicate 8 { e with drain := false }
    let x : Sector := ⟨0, 0, true, true, 0, 0, none⟩
    Still (buffered [e] .reset) ∧ Still (buffered l .reset) ∧ ((buffered [e] .reset).core 0).mem.mbuf = [e] ∧
    8 ≤ ((buffered l .reset).core 0).mem.mbuf.length ∧ ((buffered [e] .reset).tile (tileOf 0)).sector e.line = some x ∧
    Still (buffered [] { L2Window.reset with busy := true }) ∧ Still (buffered [] { L2Window.reset with len := 64 }) ∧
    tlbFind ((buffered [] { L2Window.reset with len := 64 }).tile 0).walker.tlb (coreBinding (buffered [] .reset) 0) 0 = some ⟨0, home⟩ ∧
    home.maps 0 = true ∧ (home.addr 0).toNat % 64 = 0 ∧ paRegion (home.addr 0) = 0 ∧ isLocal (buffered [] .reset) (home.addr 0) = true ∧
    (home.addr 0).toNat / 64 = homeLine ∧ outstanding (buffered [] { L2Window.reset with busy := true }) (.writeback 0) = false :=
  ⟨buffered_still .., buffered_still .., rfl, by decide, rfl, buffered_still .., buffered_still .., by decide, by decide, by decide,
    by decide, by decide, by decide, by decide⟩

/-- The slot 0 key that reset left. -/
def key0 : KeyId := .fresh 0

/-- Eight walks wait in tile 0, the last of them for core 0's vector queue, below a cached entry of level 2; the page's entry is a local one. -/
def walking : State := { serving with
  stk := { Stacks.reset with mem := ⟨[(0, 0x01), (5, 0x04)]⟩, wrote := ⟨[(0, some key0)]⟩ }
  tiles := ⟨[(0, { Tile.reset with walker := ⟨[], [⟨0, 2, 0, 2 ^ 42, 0⟩], List.replicate 8 ⟨0, 0, false, .vector 0, false⟩⟩ })]⟩ }

/-- The leaf of that entry. -/
def leaf0 : Leaf := ⟨0, 4096, 0xFFF * 2 ^ 52 + 2 ^ 42, 0, false, 0, false⟩

theorem walk_ends : (walkTables (walkerSource (some 0)) (walking.tile 0).walker.cache 0 0 (perfCount 0x08 0 (some 0) 1
    (walking.modTile 0 fun q => { q with walker := { q.walker with walks := q.walker.walks.eraseIdx 7 } }))).1 = .leaf leaf0 := by
  decide +kernel

/-- WalksFillsAndHostReadsArrive: the eighth walk, a fill, a host read. -/
theorem witness_WalksFillsAndHostReadsArrive : Still walking ∧ (7 < 8) ∧ (walking.tile 0).walker.walks[7]? = some ⟨0, 0, false, .vector 0, false⟩ ∧
    tileOf 0 = 0 ∧ (walkTables (walkerSource (some 0)) (walking.tile 0).walker.cache 0 0 (perfCount 0x08 0 (some 0) 1
      (walking.modTile 0 fun q => { q with walker := { q.walker with walks := q.walker.walks.eraseIdx 7 } }))).1 = .leaf leaf0 := by
  refine ⟨core_still rfl rfl, by decide, rfl, by decide, walk_ends⟩

/-- A fill of the page's first sector, whose line has a way. -/
def filling : State := { serving with tiles := (Table.empty : Table Tile).set .reset 0 { Tile.reset with
  fills := [⟨homeLine * 64, 0, 0, none, [(.vector 0, home)], [], false⟩]
  sets := (Table.empty : Table L2Set).set .reset (setKey 0 (homeLine * 64 / 256)) ⟨⟨[(15, homeLine * 64 / 256 + 1)]⟩, 0⟩ } }

theorem witness_fills : Still filling ∧ (filling.tile 0).fills[0]? = some ⟨homeLine * 64, 0, 0, none, [(.vector 0, home)], [], false⟩ ∧ homeLine * 64 < 2 ^ 64 ∧
    homeLine * 64 % 64 = 0 ∧ paRegion (BitVec.ofNat 64 (homeLine * 64)) = 0 ∧ isLocal filling (BitVec.ofNat 64 (homeLine * 64)) = true ∧
    channelLost filling (stackAddr (paOffset (BitVec.ofNat 64 (homeLine * 64)))) = false ∧ outstanding filling (.evict 0 homeLine) = false ∧
    (filling.tile 0).sector homeLine = none ∧ home.old = false ∧ (⟨homeLine * 64, 0, 0, none, [(.vector 0, home)], [], false⟩ : Fill).stale = false ∧
    (((filling.tile 0).sets.get .reset (setKey 0 (homeLine * 64 / 256))).find (homeLine * 64 / 256)).isSome = true := by
  refine ⟨core_still rfl rfl, by simp [filling, State.tile], by decide, by decide, by decide, by decide, by decide, by decide +kernel,
    by simp [filling, State.tile, Tile.sector, Tile.reset], rfl, rfl, ?_⟩
  simp only [filling, State.tile, BitVec.toNat_zero, BitVec.ofNat_eq_ofNat, Table.get_set_same]
  decide

theorem witness_hostReads :
    let q : Req := ⟨4, .vector 0, none, 2 ^ 48, 64, false, none, 0, none, none⟩
    let s : State := { serving with hub := { Hub.reset with reqs := [{ q with id := 3 }, q] } }
    Still s ∧ s.hub.reqs.find? (fun x => x.id == q.id) = some q ∧ paRegion q.pa = 1 ∧ q.data = none ∧ q.write = false ∧ (hostReads s).length ≤ 768 ∧
      ∀ x ∈ (hostReads s).take 768, x.id ≠ 5 :=
  ⟨core_still rfl rfl, by decide, by decide, rfl, rfl, by decide, by decide⟩

/-- A stack whose source `own` owns the slot event with n requests admitted, of which `q` wait in the queues. -/
def admitting (own : BitVec 5) (n : Nat) (q : List (Nat × Nat)) : StackPort := ⟨own, n, ⟨q⟩, .empty, [], []⟩

/-- StackScrubAndAdmission: the last source alone, and the last two; the owner below 2,048 admitted, at it, and with nothing left. -/
theorem witness_StackScrubAndAdmission : computeOn serving = true ∧ (4 : BitVec 3).toNat ≤ 4 ∧ 4 < (5 : BitVec 3).toNat ∧ serving.stk.psn.get false 0 = false ∧ (16 : BitVec 5).toNat < 17 ∧
    (admitting 16 0 [(16, 300)]).sources = [16] ∧
    (∀ p ∈ [(admitting 16 2046 [(15, 1), (16, 3)], 1), (admitting 16 2047 [(15, 1), (16, 3)], 1), (admitting 16 0 [(15, 1), (16, 3)], 3)],
      (∃ i j, i < j ∧ j < 17 ∧ p.1.waits i = true ∧ p.1.waits j = true) ∧ p.1.owner.toNat < 17) ∧
    ((admitting 16 2046 [(15, 1), (16, 3)]).admitted + 1 < 2048 ∧ 1 < (admitting 16 2046 [(15, 1), (16, 3)]).queued.get 0 16) ∧
    (2048 ≤ (admitting 16 2047 [(15, 1), (16, 3)]).admitted + 1 ∧ 1 ≤ (admitting 16 2047 [(15, 1), (16, 3)]).queued.get 0 16) ∧
    (admitting 16 0 [(15, 1), (16, 3)]).queued.get 0 16 + (admitting 16 0 [(15, 1), (16, 3)]).atNode.get 0 16 ≤ 3 := by
  refine ⟨by decide, by decide, by decide, by decide, by decide, by decide, ?_, by decide, by decide, by decide⟩
  intro p hp
  simp only [List.mem_cons, List.not_mem_nil, or_false] at hp
  rcases hp with rfl | rfl | rfl <;> exact ⟨⟨15, 16, by decide⟩, by decide⟩

/-! ## Translation and time -/

/-- A fault record that waits since beat time 0. -/
def fault0 : FaultRec := ⟨0, 0, 0, 0, .scalar 0, 0, 0, .notValid, 0, false, false⟩

/-- Binding 0 with translation registers `x`, at beat time `n`. -/
def withXlat (x : Xlat) (n : DWord) : State := { serving with
  time := { serving.time with count := n }, binds := ⟨[(0, { Binding.reset with xlat := x })]⟩ }

/-- TranslationRegistersAndFaultQueue: a collector of 63 takes one more; a batch is due by number and by age; the last entry is free; a
head at the tail and one beyond. -/
theorem witness_TranslationRegistersAndFaultQueue :
    ((withXlat { Xlat.reset with hold := [fault0], coll := List.replicate 63 fault0 } 0).bnd 0).xlat.coll.length < 64 ∧
    (∀ s ∈ [withXlat { Xlat.reset with coll := List.replicate 64 fault0 } 0, withXlat { Xlat.reset with coll := [fault0] } 320000],
      let x := (s.bnd 0).xlat
      x.wrErr = false ∧ 0 < 2 ^ x.fqSize.toNat - (x.fqTail - x.fqHead).toNat ∧ x.coll.head? = some fault0 ∧
        (64 ≤ x.coll.length ∨ 320000 ≤ (s.time.count - fault0.since).toNat)) ∧
    barsAnswer serving = true ∧ bar0Open (withXlat .reset 0) = true ∧
    (let x : Xlat := { Xlat.reset with fqHead := 5, fqTail := 7 }
     (7 - x.fqHead).toNat ≤ (x.fqTail - x.fqHead).toNat ∧ (x.fqTail - x.fqHead).toNat < (8 - x.fqHead).toNat ∧
       (x.fqTail - x.fqHead).toNat < (4 - x.fqHead).toNat) ∧
    ((withXlat .reset 0).bnd 0).state = .free ∧ ({ Binding.reset with state := .binding } : Binding).state ≠ .free := by decide

/-- The module in SERVING with time block x. -/
def timed (x : TimeState) : State := { serving with time := x }

/-- A time block of 1,000 s after the epoch of 1. -/
def clock : TimeState := { TimeState.cold 1 with count := 16000000000000, ptpOk := true }

/-- TimeSourcesAndDiscipline: each source and state; a crossing one tick ahead, 1 ms and a tick behind, at each end of the slew, beyond it,
and within the bound of PTP time; a jump to the count itself; a slew that ends just within each bound, and one that goes on; the last
count. -/
theorem witness_TimeSourcesAndDiscipline :
    hostAlive (timed clock) = true ∧ bar0Open (timed clock) = true ∧ ({ clock with ppsEdges := 1, ptpMsgs := 1 } : TimeState).ppsEdges ≠ 0 ∧
    (timed clock).allDescs = [] ∧ clock.expired = false ∧ clock.ptpOk = true ∧ (clock.ppsOk && clock.tenOk && clock.ptpOk) = false ∧
    clock.disc = .free ∧
    (let target (o : CrossingForm) : Int := ((o.second.toNat : Int) - clock.epoch.toNat) * 16000000000 + clock.skew.toInt + o.lateTicks.toNat
     0 < target ⟨1001, 1⟩ - clock.count.toNat ∧ target ⟨1001, 1⟩ < 2 ^ 64 ∧ (clock.count.toNat : Int) ≤ target ⟨1001, 0⟩ ∧
       ∀ n ∈ [((clock.count + 16001 : DWord), (-16001 : Int)), (clock.count + 16000, -16000), (clock.count + 799, -799),
         (clock.count - 16000, 16000), (clock.count - 16001, 16001)], target ⟨1001, 0⟩ - n.1.toNat = n.2) ∧
    ({ clock with disc := .holdover, jumpPend := true, jumpOk := true, jumpDir := true } : TimeState).disc = .holdover ∧
    (let may (s : State) (d : Discipline) : Prop :=
       let x := s.time
       let all := x.ppsOk = true ∧ x.tenOk = true ∧ x.ptpOk = true
       (d = .locked ∧ all) ∨ (d = .ptp ∧ x.ptpOk = true ∧ ¬all ∧ (x.disc ≠ .holdover ∨ 50 ≤ uncert s))
     let held (e : Int) (sl : Bool) : State := timed { clock with
       disc := .holdover, bound := 50, holdSince := clock.count, diff := some e, goal := some .ptp, slewing := sl }
     let all : State := timed { clock with ppsOk := true, tenOk := true, diff := some 31, goal := some .locked, slewing := true }
     (all.time.diff = some 31 ∧ (31 : Int).natAbs < 16 * 2 ∧ may all .locked) ∧
       (∀ p ∈ [((-799 : Int), true), (-799, false), (800, false), (-16000, false)], (held p.1 p.2).time.diff = some p.1 ∧
         (held p.1 p.2).time.disc = .holdover ∧ (held p.1 p.2).time.jumpPend = false ∧ may (held p.1 p.2) .ptp) ∧
       ({ clock with acquired := true } : TimeState).acquired = true ∧ clock.acquired = false ∧ 16000 < (16001 : Int).natAbs ∧
       (-799 : Int).natAbs < 16 * 50 ∧ 800 ≤ (800 : Int).natAbs ∧ (-16000 : Int).natAbs ≤ 16000) ∧
    ({ clock with count := BitVec.allOnes 64 } : TimeState).count = BitVec.allOnes 64 := by decide

/-- BreathSchedule: the ends of each range, with the reset value of the other register; the boundary 1 ms after the write. -/
theorem witness_BreathSchedule : bar0Open serving = true ∧
    (∀ v ∈ ([250, 16000] : List Word), 250 ≤ (v.setWidth 14 : BitVec 14).toNat ∧ (v.setWidth 14 : BitVec 14).toNat ≤ 16000 ∧
      2 * serving.time.len.toNat ≤ (v.setWidth 14 : BitVec 14).toNat) ∧
    (∀ v ∈ ([249, 16001] : List Word), (v.setWidth 14 : BitVec 14).toNat < 250 ∨ 16000 < (v.setWidth 14 : BitVec 14).toNat) ∧
    (∀ v ∈ ([5, 200] : List Word), 5 ≤ (v.setWidth 8 : BitVec 8).toNat ∧ (v.setWidth 8 : BitVec 8).toNat ≤ 200 ∧
      2 * (v.setWidth 8 : BitVec 8).toNat ≤ serving.time.period.toNat) ∧
    (∀ v ∈ ([4, 201] : List Word), (v.setWidth 8 : BitVec 8).toNat < 5 ∨ 200 < (v.setWidth 8 : BitVec 8).toNat) ∧
    (let x : TimeState := { clock with periodPend := some 300, acceptedAt := 15984000000 }
     x.periodPend.isSome = true ∧ ∃ b, b % 16000000000 = 0 ∧ x.acceptedAt.toNat + 16000000 ≤ b ∧ b ≤ x.count.toNat) :=
  ⟨by decide, by simp [serving, ModBlock.reset, State.reset, TimeState.cold], by simp, by simp [serving, State.reset, TimeState.cold], by simp,
    by decide, ⟨16000000000, by decide⟩⟩

/-! ## Rings and descriptors -/

/-- Ring 0 holds q, and is on completion ring 0. -/
def ringed (q : SubRing) : State := { serving with
  rings := ⟨[(0, q)]⟩, cqs := ⟨[(0, { CompRing.reset with en := true, size := 6 })]⟩ }

/-- A ring of 64 slots. -/
def ring64 : SubRing := { SubRing.reset with en := true, size := 6 }

/-- DoorbellsAndFetch: a doorbell at the depth and one beyond; the last slot before the end of the ring. -/
theorem witness_DoorbellsAndFetch : barsAnswer (ringed ring64) = true ∧ ring64.en = true ∧ (64 - ring64.ci).toNat ≤ 2 ^ ring64.size.toNat ∧
    (ring64.pi - ring64.ci).toNat ≤ (64 - ring64.ci).toNat ∧ 2 ^ ring64.size.toNat < (65 - ring64.ci).toNat ∧
    fetching (ringed { ring64 with pi := 65, ci := 63 }) = true ∧ (0 : RingId) = (ringed ring64).hub.rrFetch ∧
    0 < fetchable (ringed { ring64 with pi := 65, ci := 63 }) 0 ∧ 0 < { ring64 with inFetch := 1 }.inFetch ∧ { ring64 with stale := [0] }.stale ≠ [] := by decide

/-- 128 bytes with the given values at the given bytes. -/
def rawOf (l : List (Nat × Nat)) : BitVec 1024 := BitVec.ofNat 1024 (l.map fun e => e.2 * 256 ^ e.1).sum

/-- An accepted, eligible descriptor of index 0. -/
def descOf (l : List (Nat × Nat)) : Desc :=
  { index := 0, ringIndex := 0, raw := rawOf l, accepted := 0, eligible := true, named := false, settled := false, doomed := false
    started := none, engine := none, job := .reset, ended := false }

/-- DescriptorsAreAccepted: an arrival from before the ring was disabled; a NOP, and an opcode that no descriptor has. -/
theorem witness_DescriptorsAreAccepted : { ring64 with stale := [0] }.stale = 0 :: [] ∧
    ring64.stale = [] ∧ 0 < { ring64 with inFetch := 1 }.inFetch ∧ ring64.en = true ∧ formatOk ring64 (descOf []) = true ∧
    formatOk ring64 (descOf [(1, 1)]) = true ∧ (rawOf [(1, 1)]).getLsbD 8 = true ∧ formatOk ring64 (descOf [(0, 0x0F)]) = false := by
  refine ⟨by decide, by decide, by decide, by decide, ?_, ?_, ?_, ?_⟩ <;> decide +kernel

/-- Binding 0 is BOUND and holds section 0, key slot 0 and port 0. -/
def bound0 : Binding := { Binding.reset with state := .bound, sections := 1, ports := 1, il := 1, plots := 0x101, keys := [0] }

/-- Ring 0 holds d; binding 0 is BOUND; the hub TLB holds the page of local memory, whose first units were written with slot 0's key. -/
def working (d : Desc) : State := { ringed { ring64 with descs := [d] } with
  binds := ⟨[(0, bound0)]⟩, hub := { Hub.reset with walker := { Walker.reset with tlb := [⟨0, home⟩] } }
  stk := { Stacks.reset with mem := ⟨[(126, 0xFF), (127, 0x0F)]⟩, wrote := ⟨[(0, some key0), (1, some key0)]⟩ } }

theorem home_addr {va : Nat} (h : va < 4096) : (home.addr va).toNat = 0xFFF * 2 ^ 52 + 2 ^ 42 + va := by
  simp only [home, Leaf.addr, BitVec.toNat_ofNat]; omega

theorem maps_home {s : State} {va n : Nat} {w : Bool} (t : s.hub.walker.tlb = [⟨0, home⟩]) (p : s.stk.ports = .empty)
    (m : s.mgmt.mid = 0xFFF) (a : va % 64 = 0 ∧ n % 64 = 0 ∧ 0 < n ∧ va % 512 + n ≤ 512 ∧ va + n ≤ 4096) : HubMaps s 0 va n w home := by
  have hv : va < 4096 := by omega
  refine ⟨by omega, a.1, a.2.1, a.2.2.1, a.2.2.2.1, fun j hj => ?_, fun _ => ⟨rfl, rfl⟩, by decide, by decide, ?_, ?_, ?_, fun _ j hj => ?_⟩
  · have : va + j < 4096 := by omega
    simp [tlbFind, t, Leaf.maps, home, this]
  · simp only [paRegion, bitsOf, home_addr hv]; omega
  · simp only [isLocal, paModule, home_addr hv, m]
    have : (4095 * 2 ^ 52 + 2 ^ 42 + va) / 2 ^ 52 = 4095 := by omega
    rw [this]; rfl
  · simp only [palvanValid, paOffset, bitsOf, home_addr hv]
    have h1 : (4095 * 2 ^ 52 + 2 ^ 42 + va) % 2 ^ 48 / 2 ^ 44 % 2 ^ 4 = 0 := by omega
    have h2 : (4095 * 2 ^ 52 + 2 ^ 42 + va) % 2 ^ 48 / 2 ^ 42 % 2 ^ 2 = 1 := by omega
    rw [h1, h2]; rfl
  · simp [channelLost, p, StackPort.reset]

/-- A NOP that waits for the opening of a breath; the state at that opening. -/
def later0 : Desc := { descOf [(8, 16000000)] with eligible := false }
def due0 : State := { working later0 with time := { serving.time with count := 16000000 } }

/-- DescriptorsWithoutWorkAndTiming: a T that is past, one at the opening of a breath, and one at a breath that is open. -/
theorem witness_DescriptorsWithoutWorkAndTiming :
    (∀ op ∈ [0x00, 0x0C, 0x0E], Starts (working (descOf [(0, op)])) 0 (descOf [(0, op)]) op) ∧
    (let d := { descOf [(8, 1), (16, 4)] with eligible := false, doomed := true }
     let s := { working d with time := { serving.time with count := 5 } }
     (s.ring 0).startPoint = some d ∧ s.desc 0 0 = some d ∧ d.notBefore < s.time.count.toNat ∧ d.deadline ≠ 0 ∧
       d.deadline < s.time.count.toNat ∧ d.doomed = true) ∧
    ((due0.ring 0).startPoint = some later0 ∧ due0.desc 0 0 = some later0 ∧ later0.notBefore = due0.time.count.toNat ∧
      breathing due0 = true ∧ due0.time.count.toNat % (due0.time.period.toNat * 16000) = 0 ∧
      due0.time.openBreath.map Prod.fst ≠ some due0.time.count) ∧
    (let s := { due0 with time := { due0.time with openBreath := some (16000000, 50) } }
     later0.notBefore = s.time.count.toNat ∧ s.time.openBreath.map Prod.fst = some s.time.count) := by
  refine ⟨?_, ?_, ?_, ?_⟩
  · unfold Starts; decide +kernel
  all_goals decide +kernel

/-- A completion without a continuation. -/
def completion0 : Completion := ⟨0, 0, 0, 0, .ok, 0, 0, 0, 0, 0, true, [], none, true, some 0, some 0⟩

/-- CompletionsAreWritten: one entry free, and none; a core to notify and a token. -/
theorem witness_CompletionsAreWritten :
    let x : CompRing := { CompRing.reset with en := true, size := 6, waiting := [completion0] }
    x.waiting = [completion0] ∧ x.en = true ∧
    (2 ^ x.size.toNat - ({ x with tail := 64 }.tail - x.head).toNat < completion0.need) ∧
    completion0.slot = none ∧ 1 ≤ 2 ^ x.size.toNat - ({ x with tail := 63 }.tail - x.head).toNat ∧ completion0.final = true ∧
    completion0.signal = some 0 ∧ completion0.notify = some 0 ∧ completion0.binding.toNat < 64 ∧
    (let d := { descOf [(1, 8)] with ended := true }
     (working d).desc 0 0 = some d ∧ d.flag 3 = true ∧ { completion0 with status := .hwError }.status.good = false) := by
  decide +kernel

/-- RingRegisters: the ends of the sizes; heads at TAIL and beyond. -/
theorem witness_RingRegisters : bar0Open (ringed ring64) = true ∧ SubRing.reset.en = false ∧ SubRing.reset.descs = [] ∧ SubRing.reset.inFetch = 0 ∧
    SubRing.reset.stale = [] ∧ { ring64 with inFetch := 1 }.inFetch ≠ 0 ∧ { SubRing.reset with inFetch := 1 }.en = false ∧
    (∀ v ∈ ([0x80000006, 0x80000010] : List Word), v.getLsbD 31 = true ∧ 6 ≤ (v.setWidth 5 : BitVec 5).toNat ∧
      (v.setWidth 5 : BitVec 5).toNat ≤ 16 ∧ ((ringed .reset).cq (v.extractLsb' 14 10)).en = true) ∧
    (∀ v ∈ ([0x80000005, 0x80000011, 0x80004006] : List Word), v.getLsbD 31 = true ∧ ((v.setWidth 5 : BitVec 5).toNat < 6 ∨
      16 < (v.setWidth 5 : BitVec 5).toNat ∨ ((ringed .reset).cq (v.extractLsb' 14 10)).en = false)) ∧
    ring64.en = true ∧ (6 : Word).getLsbD 31 = false ∧ (1 : Word).getLsbD 0 = true ∧ CompRing.reset.en = false ∧
    (∃ e ∈ (ringed ring64).rings.entries, e.2.cq = 0 ∧ e.2.en = true) ∧
    (let x : CompRing := { CompRing.reset with head := 5, tail := 7 }
     (7 - x.head).toNat ≤ (x.tail - x.head).toNat ∧ (x.tail - x.head).toNat < (8 - x.head).toNat) :=
  ⟨by decide, by decide, by decide, by decide, by decide, by decide, by decide, by simp [ringed, State.cq, Table.get, lookupEntry],
    by simp [ringed, State.cq, Table.get, lookupEntry, CompRing.reset], by decide, by decide, by decide, by decide,
    ⟨(0, ring64), by simp [ringed], by decide⟩, by decide⟩

/-- LaunchesStartAndFinish: every core of a section; a launched core that finished. -/
theorem witness_LaunchesStartAndFinish :
    (let d := descOf [(0, 1), (32, 1)]
     let s := working d
     Starts s 0 d 0x01 ∧ FreshJob s 0 d 0 ∧ d.copies = false ∧ (s.bnd 0).log.arm = none ∧
       (BitVec.ofNat 64 (d.num 32 8) : BitVec 64) &&& ~~~(s.bnd 0).sections = 0 ∧ (∀ c ∈ d.launched, countsRunning s c = false) ∧
       bindingRuns s 0 = false ∧ d.launched = [0, 1, 2, 3, 4, 5, 6, 7]) ∧
    (let d := { descOf [(0, 1), (32, 1)] with started := some 0, job := { Job.reset with phase := 1 } }
     let s := { working d with cores := ⟨[(7, { Core.reset with ctl := { CoreCtl.reset with
       launch := some (0, 0), halted := 4, finished := true } })]⟩ }
     Works s 0 d 0 0x01 ∧ d.job.phase = 1 ∧ d.job.log = none ∧ d.job.declined = false ∧ d.flag 2 = false ∧
       d.underLaunch s 0 = [7] ∧ (∀ c ∈ d.underLaunch s 0, (s.core c).ctl.finished = true ∧ (s.core c).ctl.failed = false ∧
         fenceOver s c true = true ∧ coreBinding s c = 0 ∧ isParked s 0 (.scalar c) = false ∧ isParked s 0 (.vector c) = false ∧
         isParked s 0 (.matrix c) = false)) := by
  unfold Starts FreshJob Works
  refine ⟨⟨?_, ?_, ?_⟩, ?_, ?_⟩ <;> decide +kernel

/-- MovesAndFillsWriteTheirRange: the first 512 bytes of the page, and its first 512 to its last. -/
theorem witness_MovesAndFillsWriteTheirRange :
    (let d := descOf [(0, 3), (40, 512), (48, 0x0102030405060708)]
     Starts (working d) 0 d 0x03 ∧ FreshJob (working d) 0 d 0 ∧ HubMaps (working d) 0 (d.num 32 8) (d.num 40 8) true home) ∧
    (let d := descOf [(0, 2), (40, 0xE00), (48, 512)]
     Starts (working d) 0 d 0x02 ∧ FreshJob (working d) 0 d 0 ∧ HubMaps (working d) 0 (d.num 32 8) (d.num 48 8) false home ∧
       HubMaps (working d) 0 (d.num 40 8) (d.num 48 8) true home) := by
  refine ⟨⟨?_, ?_, ?_⟩, ⟨?_, ?_, ?_, ?_⟩⟩ <;> first | (exact maps_home rfl rfl rfl (by decide +kernel)) | (unfold Starts; decide +kernel) |
    (unfold FreshJob; decide +kernel)

/-- A COLLECT of member 63 alone, with its group table at va 0. -/
def alone : Desc := descOf [(0, 4), (34, 63), (40, 2 ^ 63), (48, 0x200), (56, 0x200), (64, 64), (80, 0x400)]

/-- A started COLLECT of members 0 and 1, this module 0. -/
def pair (l : List (Nat × Nat)) (x : Coll) : Desc := { descOf ([(0, 4), (40, 3), (48, 0x200), (56, 0x200), (64, 64), (80, 0x400)] ++ l) with
  started := some 0, job := { Job.reset with phase := 1, coll := some x } }

/-- CollectsOpenCountAndSum: the table names this module, and another; the tick after which the mask is final; a sum that lacks one of two
members; a refused COL_OPEN to member 1 by port 0. -/
theorem witness_CollectsOpenCountAndSum :
    (∀ p ∈ [(⟨[(126, 0xFF), (127, 0x0F)]⟩, true), ((.empty : Memory), false)],
      let s : State := { working alone with stk := { (working alone).stk with mem := p.1 } }
      let entry := natOfBytes ((indices 2).map fun j => readAt s home (alone.num 72 8 + 2 * alone.selfMember + j))
      Starts s 0 alone 0x04 ∧ FreshJob s 0 alone 0 ∧ alone.members = [alone.selfMember] ∧
        (∀ c ∈ coresOf (s.bnd 0).sections, coreRuns (s.core c) = false) ∧ s.allDescs = [(0, alone)] ∧ alone.num 72 8 % 128 = 0 ∧
        HubMaps s 0 (alone.num 72 8) 128 false home ∧ (if p.2 then entry = s.mgmt.mid.toNat else entry % 4096 ≠ s.mgmt.mid.toNat)) ∧
    (let d := pair [(16, 1)] .reset
     let s : State := { working d with time := { serving.time with count := 320001 } }
     Works s 0 d 0 0x04 ∧ d.deadline ≠ 0 ∧ d.deadline + 320000 ≤ s.time.count.toNat) ∧
    (let d := pair [] { Coll.reset with counted := some 1 }
     Works (working d) 0 d 0 0x04 ∧ d.colLen = 64 ∧ (1 : BitVec 64) &&& ~~~(BitVec.ofNat 64 (d.num 40 8)) = 0 ∧ d.members = [0, 1] ∧
       HubMaps (working d) 0 (d.contribVa 0) 64 false home ∧ HubMaps (working d) 0 (d.num 56 8) 64 true home) ∧
    (let e : Sending := ⟨0, 1, 0, false, true, false, 0, 0, [], []⟩
     let x : Coll := { Coll.reset with group := [(0, 0xFFF), (1, 5)], opened := [(0, 7)], sendings := [e] }
     let d := pair [] x
     let s : State := { working d with links := { Links.reset with
       ports := ⟨[(0, { Port.reset with state := .up, reqCredit := 1 })]⟩, routes := ⟨[(5, ⟨true, 1⟩)]⟩ } }
     Works s 0 d 0 0x04 ∧ e.contrib = (0 : BitVec 6).toNat ∧ e.member = (1 : BitVec 6).toNat ∧ x.moduleOf 1 = some 5 ∧ x.stampOf 0 = some 7 ∧
       s.links.holdIds.contains 5 = false ∧ routePort s 5 0 = some 0 ∧ d.deadline = 0 ∧ e.acked = false ∧ e.stopped = false ∧
       (s.port 0).waiting = [] ∧ (s.port 0).replay.length < 512 ∧ 0 < (s.port 0).reqCredit) := by
  refine ⟨fun p hp => ?_, ⟨?_, by decide +kernel⟩, ⟨?_, by decide +kernel, by decide +kernel, by decide +kernel, ?_, ?_⟩, ⟨?_, by decide +kernel⟩⟩
  · simp only [List.mem_cons, List.not_mem_nil, or_false] at hp
    rcases hp with rfl | rfl <;>
      exact ⟨by unfold Starts; decide +kernel, by unfold FreshJob; decide +kernel, by decide +kernel, by decide +kernel, by decide +kernel,
        by decide +kernel, maps_home rfl rfl rfl (by decide +kernel), by decide +kernel⟩
  all_goals first | (exact maps_home rfl rfl rfl (by decide +kernel)) | (unfold Works; decide +kernel)

/-- The page as an Uncached leaf. -/
def homeU : Leaf := { home with attr := 2 }

theorem tile_home {s : State} {i : TileId} {va n : Nat} {w : Bool} (t : (s.tile i).walker.tlb = [⟨0, homeU⟩]) (p : s.stk.ports = .empty)
    (m : s.mgmt.mid = 0xFFF) (a : va + n ≤ 4096 ∧ 0 < n) : TileMaps s i 0 va n w homeU := by
  have hv : va < 4096 := by omega
  have ha : (homeU.addr va).toNat = 0xFFF * 2 ^ 52 + 2 ^ 42 + va := home_addr hv
  refine ⟨by omega, by omega, fun j hj => ?_, fun _ => ⟨rfl, rfl⟩, by decide, by decide, by decide, ?_, ?_, ?_, fun j hj => ?_⟩
  · have : va + j < 4096 := by omega
    simp [tlbFind, t, Leaf.maps, homeU, home, this]
  · simp only [paRegion, bitsOf, ha]; omega
  · simp only [isLocal, paModule, ha, m]
    have : (4095 * 2 ^ 52 + 2 ^ 42 + va) / 2 ^ 52 = 4095 := by omega
    rw [this]; rfl
  · simp only [palvanValid, paOffset, bitsOf, ha]
    have h1 : (4095 * 2 ^ 52 + 2 ^ 42 + va) % 2 ^ 48 / 2 ^ 44 % 2 ^ 4 = 0 := by omega
    have h2 : (4095 * 2 ^ 52 + 2 ^ 42 + va) % 2 ^ 48 / 2 ^ 42 % 2 ^ 2 = 1 := by omega
    rw [h1, h2]; rfl
  · simp [channelLost, p, StackPort.reset]

/-! ## Training -/

/-- A layer table at va 0 whose entry 0 is a program-defined layer of 16 FP32 elements with PARAM at 0x200; a rotation record at 0xC00. -/
def tables : Memory := ⟨[(0x801, 2), (0x858, 16), (0x85C, 1), (0x860, 0x10), (0x861, 1), (0x862, 1), (0x863, 1), (0xC00, 1), (0xC04, 1),
  (0xC10, 1)]⟩

/-- As `working`, with those tables, all written with slot 0's key, and the page Uncached in tile 0's TLB. -/
def training (d : Desc) (m : Memory) : State := { working d with
  stk := { Stacks.reset with mem := m, wrote := ⟨(indices 64).map fun i => (i, some key0)⟩ }
  tiles := ⟨[(0, { Tile.reset with walker := { Walker.reset with tlb := [⟨0, homeU⟩] } })]⟩ }

/-- An UPDATE of layer 0 at step 0 by tile 0; one that runs, with the engines given. -/
def update0 : Desc := descOf [(0, 5), (44, 1), (56, 1)]
def update1 (w : EngineWork) : Desc := { update0 with started := some 0, job := { Job.reset with phase := 1, engines := [w] } }

/-- UpdatesReadCheckAndFinish: a legal entry at its step, and an empty one; engines done, and the last layer of one. -/
theorem witness_UpdatesReadCheckAndFinish :
    (∀ p ∈ [(tables, true), (.empty, false)],
      let s := training update0 p.1
      let e := readList s homeU (update0.entryVa update0.firstLayer) 256
      Starts s 0 update0 0x05 ∧ FreshJob s 0 update0 0 ∧ update0.layerCount = 1 ∧ update0.tiles = [0] ∧ (lowestCore s 0 0).isSome = true ∧
        isParked s 0 (.update 0 0 0) = false ∧ runningOthers s 0 0x05 0 0 = [] ∧ runningOthers s 0 0x06 0 0 = [] ∧
        TileMaps s 0 0 (update0.entryVa update0.firstLayer) 256 false homeU ∧ entryOk e = p.2 ∧ (p.2 = true → entStep e = update0.step ∧
          update0.entryVa update0.firstLayer % 64 = 0 ∧ update0.tableVa % 64 = 0 ∧
          TileMaps s 0 0 (update0.tableVa + 32 * entSched e) 32 false homeU ∧
          schedOk (readList s homeU (update0.tableVa + 32 * entSched e) 32) = true)) ∧
    (let d := update1 ⟨0, [], 0, [], [], 0, none, false, []⟩
     Works (training d tables) 0 d 0 0x05 ∧ ∀ w ∈ d.job.engines, w.layers = [] ∧ w.failed = false ∧ w.xl = []) ∧
    (let w : EngineWork := ⟨0, [0], 3, [], [], 0, none, false, []⟩
     let d := update1 w
     let s := training d tables
     let va := d.entryVa (d.firstLayer + 0) + 136
     Works s 0 d 0 0x05 ∧ isParked s 0 (.update 0 0 0) = false ∧ evicting s 0 = false ∧ va % 64 = 8 ∧
       TileMaps s 0 0 va 8 true homeU ∧ s.stk.wrote.get none (placeOf homeU va / 64) = some (s.keyOf homeU.key)) := by
  refine ⟨fun p hp => ?_, ⟨?_, by decide +kernel⟩, ⟨?_, by decide +kernel, by decide +kernel, by decide +kernel,
    tile_home rfl rfl rfl (by decide +kernel), by decide +kernel⟩⟩
  · simp only [List.mem_cons, List.not_mem_nil, or_false] at hp
    rcases hp with rfl | rfl <;>
      exact ⟨by unfold Starts; decide +kernel, by unfold FreshJob; decide +kernel, by decide +kernel, by decide +kernel, by decide +kernel,
        by decide +kernel, by decide +kernel, by decide +kernel, tile_home rfl rfl rfl (by decide +kernel), by decide +kernel,
        fun _ => ⟨by decide +kernel, by decide +kernel, by decide +kernel, tile_home rfl rfl rfl (by decide +kernel), by decide +kernel⟩⟩
  all_goals unfold Works; decide +kernel

/-- A DRAIN of that layer to 0x400. -/
def drain0 : Desc := descOf [(0, 6), (44, 1), (56, 0x400)]

/-- A RESTORE of the record at 0xC00 that derives 5 and restores n. -/
def restore0 (n force : Nat) : Desc := descOf [(0, 0x0D), (32, 0xC00), (40, 5), (52, force), (56, n)]

/-- As `tables`, with one layer listed in the record: layer 0 of the table at va 0. -/
def tables1 : Memory := ⟨tables.entries ++ [(0xC14, 1)]⟩

/-- DrainsCopyAndRestoresInstall. -/
theorem witness_DrainsCopyAndRestoresInstall :
    (let s := training drain0 tables
     let e := readList s home (drain0.entryVa drain0.firstLayer) 256
     FreshJob s 0 drain0 0 ∧ Starts s 0 drain0 0x06 ∧ drain0.layerCount = 1 ∧ runningOthers s 0 0x05 0 0 = [] ∧
       HubMaps s 0 (drain0.entryVa drain0.firstLayer) 256 false home ∧ entryOk e = true ∧ stepFits e drain0.step = true ∧
       drainTensors e drain0.step = [(0x200, 64)] ∧ HubMaps s 0 0x200 64 false home ∧ HubMaps s 0 drain0.drainDst 128 true home ∧
       ∀ i < 64, ∀ j < 64, placeOf home (0x200 + i) ≠ placeOf home (0x400 + 64 + j)) ∧
    (∀ p ∈ [(5, 0), (6, 1), (6, 0)],
      let d := restore0 p.1 p.2
      let s := training d tables
      let rec_ := readList s home (d.num 32 8) 64
      FreshJob s 0 d 0 ∧ Starts s 0 d 0x0D ∧ HubMaps s 0 (d.num 32 8) 64 false home ∧ bindingRuns s 0 = false ∧
        runningOthers s 0 0x05 0 0 = [] ∧ runningOthers s 0 0x06 0 0 = [] ∧ restoreRecordOk (s.bnd 0).seed rec_ = true ∧
        entNum rec_ 20 4 = 0 ∧ d.num 48 4 < entNum rec_ 4 4 ∧ d.num 40 8 = 5 ∧ d.num 56 8 = p.1 ∧ d.raw.getLsbD 416 = (p.2 == 1)) ∧
    (let d := restore0 5 0
     let s := training d tables1
     let rec_ := readList s home (d.num 32 8) 64
     restoreRecordOk (s.bnd 0).seed rec_ = true ∧ entNum rec_ 20 4 = 1 ∧ entNum rec_ 24 8 + 2048 + 256 * entNum rec_ 32 4 = 0x800 ∧
       entryOk (readList s home 0x800 256) = true ∧ HubMaps s 0 0x800 256 false home ∧ HubMaps s 0 0x880 64 true home ∧
       s.stk.wrote.get none (placeOf home 0x888 / 64) = some (s.keyOf home.key)) := by
  refine ⟨⟨by unfold FreshJob; decide +kernel, by unfold Starts; decide +kernel, by decide +kernel, by decide +kernel,
    maps_home rfl rfl rfl (by decide +kernel), by decide +kernel, by decide +kernel, by decide +kernel, maps_home rfl rfl rfl (by decide),
    maps_home rfl rfl rfl (by decide +kernel), fun i hi j hj => ?_⟩, fun p hp => ?_, by decide +kernel, by decide +kernel, by decide +kernel,
    by decide +kernel, maps_home rfl rfl rfl (by decide), maps_home rfl rfl rfl (by decide), by decide +kernel⟩
  · have h (n : Nat) (h : n < 4096) : placeOf home n = n := by
      have e : home.addr n = BitVec.ofNat 64 (0xFFF * 2 ^ 52 + 2 ^ 42 + n) := by simp [home, Leaf.addr]
      have e1 : (4095 * 2 ^ 52 + 2 ^ 42 + n) % 2 ^ 64 % 2 ^ 48 = 2 ^ 42 + n := by omega
      simp only [placeOf, e, paOffset, BitVec.toNat_ofNat, e1, stackAddr, palvanDecode, bitsOf]
      have a1 : (2 ^ 42 + n) / 2 ^ 44 % 2 ^ 4 = 0 := by omega
      have a2 : (2 ^ 42 + n) / 2 ^ 42 % 2 ^ 2 = 1 := by omega
      have a3 : (2 ^ 42 + n) % 2 ^ 42 = n := by omega
      have a4 : n / 2 ^ 12 % 2 ^ 23 = 0 := by omega
      have a5 : n / 2 ^ 35 % 2 ^ 3 = 0 := by omega
      have a6 : n / 2 ^ 38 % 2 ^ 4 = 0 := by omega
      have a7 : n % 4096 = n := by omega
      rw [a1, a2, a3, a4, a5, a6, a7]; simp
    rw [h _ (by omega), h _ (by omega)]; omega
  · simp only [List.mem_cons, List.not_mem_nil, or_false] at hp
    rcases hp with rfl | rfl | rfl <;>
      exact ⟨by unfold FreshJob; decide +kernel, by unfold Starts; decide +kernel, maps_home rfl rfl rfl (by decide +kernel), by decide +kernel,
        by decide +kernel, by decide +kernel, by decide +kernel, by decide +kernel, by decide +kernel, by decide +kernel, by decide +kernel,
        by decide +kernel⟩

/-- LogmarksWriteOrArm: the last slot of a log of 64, and an automatic one. -/
theorem witness_LogmarksWriteOrArm :
    (let d := descOf [(0, 7), (40, 6)]
     let s := { working d with binds := ⟨[(0, { bound0 with log := { BindLog.reset with size := 6, n := 63 } })]⟩ }
     FreshJob s 0 d 0 ∧ Starts s 0 d 0x07 ∧ d.logAuto = false ∧ d.num 64 4 = 0 ∧ (∀ x ∈ s.allDescs, x.2.job.log = none) ∧
       BitVec.ofNat 64 (d.num 32 8) = (s.bnd 0).log.va ∧ BitVec.ofNat 8 (d.num 40 1) = (s.bnd 0).log.size ∧
       HubMaps s 0 4032 64 true home) ∧
    (let d := descOf [(0, 7), (40, 6), (41, 1)]
     FreshJob (working d) 0 d 0 ∧ Starts (working d) 0 d 0x07 ∧ d.logAuto = true) := by
  refine ⟨⟨by unfold FreshJob; decide +kernel, by unfold Starts; decide +kernel, by decide +kernel, by decide +kernel, by decide +kernel,
    by decide +kernel, by decide +kernel, maps_home rfl rfl rfl (by decide)⟩, by unfold FreshJob; decide +kernel,
    by unfold Starts; decide +kernel, by decide +kernel⟩

/-- A running XSYNC in a phase. -/
def xsync (l : List (Nat × Nat)) (n : Nat) : Desc := { descOf ((0, 8) :: l) with started := some 0, job := { Job.reset with phase := n } }

/-- A fault of number 7 on which core 0's vector queue is parked. -/
def parked0 : Parked := ⟨.vector 0, ⟨some 7, 0, false, false, .open, false⟩⟩

/-- As `working`, with that park; core 0's queue holds a vector load. -/
def stuck (d : Desc) : State := { working d with binds := ⟨[(0, { bound0 with parks := [parked0] })]⟩
                                                 cores := ⟨[(0, { Core.reset with vec := { VecState.reset with queue := [vi .vld 0] } })]⟩ }

/-- XsyncsInStages. -/
theorem witness_XsyncsInStages :
    (∀ p ∈ [(1, true, false, false), (5, true, false, false), (0x10, false, true, false), (8, false, false, true), (0, false, false, false)],
      let d := descOf [(0, 8), (32, p.1)]
      Starts (working d) 0 d 0x08 ∧ d.binding = some 0 ∧ d.job = .reset ∧ d.xInv = p.2.1 ∧ d.xDecline = p.2.2.1 ∧ d.xResume = p.2.2.2) ∧
    (let d := xsync [(32, 7)] 1
     xsyncAt (working d) 0 1 = some (d, 0) ∧ (working d).desc 0 0 = some d ∧ ∀ n : TileId, ((working d).tile n).sectors.wf none = true) ∧
    (∀ p ∈ [(0x11, true, false), (9, false, true), (1, false, false)],
      let d := xsync [(32, p.1)] 2
      xsyncAt (working d) 0 2 = some (d, 0) ∧ (working d).desc 0 0 = some d ∧ holdsDropped (working d) 0 0 d = false ∧ d.xDecline = p.2.1 ∧
        d.xResume = p.2.2) ∧
    (let d := xsync [(32, 8), (56, 7), (60, 1)] 4
     xsyncAt (stuck d) 0 4 = some (d, 0) ∧ (stuck d).desc 0 0 = some d ∧ parked0.park.aside = false ∧ d.num 60 2 = 1 ∧ d.num 56 4 = 7 ∧
       parkedOn (stuck d) 0 7 = [parked0]) ∧
    (let d := xsync [(32, 8), (56, 8), (60, 1)] 4
     xsyncAt (stuck d) 0 4 = some (d, 0) ∧ d.num 56 4 = 8 ∧ parkedOn (stuck d) 0 8 = []) ∧
    (let d := xsync [(32, 16), (64, 7), (68, 1)] 3
     xsyncAt (stuck d) 0 3 = some (d, 0) ∧ (stuck d).desc 0 0 = some d ∧ d.num 68 2 = 1 ∧ d.num 64 4 = 7 ∧ d.xResume = false ∧
       parkedOn (stuck d) 0 7 = [parked0] ∧ parkedOn (stuck d) 0 8 = [] ∧
       ((stuck d).core 0).vec.started = [] ∧ ((stuck d).core 0).vec.queue = [vi .vld 0]) := by
  refine ⟨?_, by decide +kernel, by decide +kernel, by decide +kernel, by decide +kernel, by decide +kernel⟩
  unfold Starts; decide +kernel

/-! ## Bindings -/

/-- As `working`, with binding 0 as given. -/
def holding (d : Desc) (x : Binding) : State := { working d with binds := ⟨[(0, x)]⟩ }

/-- A BIND of section 0, plots 0 and 8, port 0 and slot 0. -/
def bind0 : Desc := descOf [(0, 9), (32, 1), (40, 0x101), (72, 1), (75, 1), (80, 1)]

/-- BindsKeysAndUnbinds. -/
theorem witness_BindsKeysAndUnbinds :
    (let x : Xlat := { Xlat.reset with root := 2 ^ 42, fqSize := 6 }
     let s := holding bind0 { Binding.reset with xlat := x }
     Starts s 0 bind0 0x09 ∧ FreshJob s 0 bind0 0 ∧ bindFormat s 0 bind0 = true ∧ bindFree s 0 bind0 = true ∧ bind0.stubLen = 0 ∧
       (bindSlots bind0).Nodup ∧ Starts (holding bind0 .reset) 0 bind0 0x09 ∧ FreshJob (holding bind0 .reset) 0 bind0 0 ∧
       bindFormat (holding bind0 .reset) 0 bind0 = false) ∧
    (∀ e ∈ [false, true],
      let d := { bind0 with started := some 0, job := { Job.reset with err := e } }
      let s := holding d { bound0 with state := .binding }
      s.desc 0 0 = some d ∧ d.opcode = 0x09 ∧ d.running = true ∧ d.binding = some 0 ∧ isParked s 0 (.job 0 0) = false ∧
        d.job.err = e ∧ d.stubLen ≤ d.job.pos) ∧
    (let d := descOf [(0, 0x0A)]
     Starts (working d) 0 d 0x0A ∧ d.binding = some 0 ∧ bound0.parks = [] ∧ runningOf (working d) 0 = []) ∧
    (let d := { descOf [(0, 0x0A)] with started := some 0 }
     let s := holding d { bound0 with state := .quiescing, unbind := some (0, 0), cutDone := false }
     let u := holding d { bound0 with state := .scrubbing, unbind := some (0, 0) }
     (s.bnd 0).state = .quiescing ∧ (s.bnd 0).cutDone = false ∧ runningOf s 0 = [] ∧ computeOn s = true ∧ quiet s 0 = true ∧
       (∀ c ∈ coresOf (s.bnd 0).sections, (s.core c).ctl.stopping = false) ∧
       (7 : CoreId) ∈ coresOf (s.bnd 0).sections ∧ ({ CoreCtl.reset with stopping := true } : CoreCtl).stopping = true ∧
       (u.bnd 0).state = .scrubbing ∧ computeOn u = true ∧
       (u.bnd 0).unbind = some (0, 0) ∧ u.desc 0 0 = some d ∧ d.opcode = 0x0A ∧ d.running = true ∧ (u.bnd 0).keys.Nodup) ∧
    (let q : Req := ⟨0, .vector 0, some 0, 2 ^ 48, 64, false, none, 0, none, none⟩
     let s : State := { holding (descOf []) { bound0 with state := .quiescing, cutDone := true } with hub := { Hub.reset with reqs := [q] } }
     s.hub.reqs.find? (fun y => y.id == q.id) = some q ∧ q.binding = some 0 ∧ (s.bnd 0).state = .quiescing ∧ (s.bnd 0).cutDone = true ∧
       paRegion q.pa = 1 ∧ q.data = none) ∧
    (∀ p ∈ [(0, true, true), (0, false, true), (1, true, false)],
      let d := descOf [(0, 0x0B), (32, p.1), (33, if p.2.1 then 1 else 0)]
      Starts (working d) 0 d 0x0B ∧ d.binding = some 0 ∧ d.retireOnly = p.2.1 ∧
        decide ((BitVec.ofNat 8 (d.num 32 1) : SlotId) ∈ ((working d).bnd 0).keys) = p.2.2) ∧
    (let v : BitVec 640 := BitVec.ofNat 640 (1 + 2 ^ 32)
     bitsOf v.toNat 0 16 = 1 ∧ bitsOf v.toNat 16 16 = 0 ∧ bitsOf v.toNat 32 32 = serving.mgmt.kekGen.toNat) ∧
    serving.mgmt.kek.isNone = true ∧ ({ serving.mgmt with kek := some 5 } : MgmtState).kek = some 5 := by
  unfold Starts FreshJob
  refine ⟨?_, ?_, ?_, ?_, ?_, ?_, ?_, ?_, ?_⟩ <;> decide +kernel

/-! ## Links -/

/-- Port 17 as given, routing module 5; module 6 is routed over port 0, which is UP with a credit of each channel. -/
def linked (p : Port) : State := { serving with links := { Links.reset with
  ports := ⟨[(0, { Port.reset with state := .up, reqCredit := 1, rspCredit := 1 }), (17, p)]⟩, routes := ⟨[(5, ⟨true, 0x20000⟩), (6, ⟨true, 1⟩)]⟩ } }

/-- A packet of a type from module 6 to module d. -/
def packet (ty : PacketType) (d : ModuleId) (n : BitVec 12) : Packet := ⟨ty, 1, false, 0, d, 6, 0, 9, n, 0, 2 ^ 42, 0, [], 0⟩

/-- PortsAndTheLinkLayer: the last port in each state; the third training failure; the last packet acknowledged and asked again; a request
that waits for its credit; fourteen and fifteen requests in a row; a route written as it stood and anew; a hold with nothing
unacknowledged. -/
theorem witness_PortsAndTheLinkLayer :
    portWf 17 = true ∧ ((linked { Port.reset with state := .training, fails := 2 }).port 17).state = .training ∧
    (∀ j, ((linked { Port.reset with state := .training, fails := 2 }).port j).waiting = []) ∧
    (let s : State := linked { Port.reset with state := .up }
     (s.port 17).state = .up ∧ (s.port 17).replay = [] ∧ ∀ j, (s.port j).waiting = []) ∧
    (let s : State := { linked { Port.reset with state := .down } with mgmt := { serving.mgmt with mid := 0 } }
     (s.port 17).state = .down ∧ (s.port 17).en = true ∧ s.mgmt.mid ≠ 0xFFF ∧ s.mod.state ∈ [ModState.selftest, .service, .serving, .draining]) ∧
    bar0Open (linked .reset) = true ∧ barsAnswer (linked .reset) = true ∧ Port.reset.state ≠ .up ∧
    ({ Port.reset with en := false } : Port).en = false ∧ Port.reset.en = true ∧
    (computeOn (linked .reset) = true ∧ (7 : BitVec 4).toNat < 8 ∧
      ((linked .reset).cal.groups.get .reset (groupKey 2 17)).step = none ∧ (linked .reset).spares.laneOf 17 = none ∧
      laneOut (linked .reset) 2 17 8 = false ∧ ({ SpareMap.reset with lanes := [(17, 0)] } : SpareMap).laneOf 17 = some 0) ∧
    (let x := packet .wr 5 4095
     let p : Port := { Port.reset with
       state := .up, replay := [packet .wr 5 4094, x], naks := some (4095, 14), asks := some (4095, 14), secReplays := 488, secCorr := 999 }
     (linked p).allDescs = [] ∧ p.waiting = [] ∧ p.replay = [packet .wr 5 4094] ++ x :: [] ∧
       (∀ y ∈ [packet .wr 5 4094], y.lseq ≠ x.lseq) ∧
       (∀ y ∈ p.replay, y.lseq ≠ 7) ∧ p.secReplays + 512 ≤ 1000 ∧ p.secCorr + 1 ≤ 1000 ∧ p.naks = some (x.lseq, 14) ∧ p.asks = some (4095, 14) ∧
       ((linked p).time.count - p.secStart).toNat < 16000000000 ∧
       ({ p with asks := some (4095, 15), replay := [] } : Port).asks = some (4095, 15)) ∧
    (let x := packet .rd 5 0
     let r := [packet .wr 5 4095]
     let p : Port := { Port.reset with state := .up, replay := r, waiting := [⟨classOf (linked .reset) x (some 0), x, some 0⟩] }
     (linked p).allDescs = [] ∧ p.waiting = [⟨classOf (linked p) x (some 0), x, some 0⟩] ∧ isRequest x.type = true ∧ r.length < 512 ∧
       p.reqCredit = 0 ∧ ∀ y ∈ r, y.lseq ≠ p.txSeq) ∧
    (let p : Port := { Port.reset with state := .up, peerMid := 4 }
     let s : State := { linked p with mgmt := { serving.mgmt with mid := 5 } }
     (s.port 17).state = .up ∧ s.allDescs = [] ∧ (s.port 17).waiting = [] ∧ (s.port 17).replay = [] ∧ s.mod.state = .serving ∧
       (s.port 17).peerMid.toNat < s.mgmt.mid.toNat ∧ s.cal.en.getLsbD 1 = true ∧ (8 : BitVec 4).toNat < 9 ∧
       (s.cal.groups.get .reset (groupKey 2 17)).step = none ∧ laneOut s 2 17 8 = false) ∧
    (let s : State := { linked .reset with links := { (linked .reset).links with sel := 5 } }
     s.links.routes.get .reset s.links.sel.toNat = ⟨true, 0x20000⟩ ∧ ∀ j, (s.port j).waiting = []) ∧
    (let s : State := { linked .reset with links := { (linked .reset).links with holdIds := [5], oldSent := [(5, 17, 0)], held := [packet .rd 6 0] } }
     s.allDescs = [] ∧ ∀ x ∈ s.links.held, x.dst ∉ s.links.holdIds.filter fun m =>
       !(s.links.oldSent.filter (unacked s)).any fun y => decide (y.1 = m)) := by
  refine ⟨?_, ?_, ?_, ?_, ?_, ?_, ?_, ?_, ?_, ?_, ?_, ?_, ?_, ?_, ?_, ?_⟩ <;> decide +kernel

/-- Port 17 receives; one request of core 0 waits for module 6. -/
def served (q : List Req) : State := { linked { Port.reset with state := .up } with hub := { Hub.reset with reqs := q } }

/-- A request of a write, or of a read. -/
def request (who : Who) (w : Bool) : Req := ⟨3, who, none, 6 * 2 ^ 52 + 2 ^ 42, 64, w, some 0, 9, none, none⟩

/-- An entry of a line of module 6, an Uncached one, whose drain has begun. -/
def sent0 : MergeEntry := ⟨(6 * 2 ^ 52 + 2 ^ 42) / 64, 2, 0, 1, 0, true, true, false, [home]⟩

/-- As `served`, with that entry's write under way. -/
def draining : State := { served [request (.mbuf 0) true] with
  cores := ⟨[(0, { Core.reset with mem := { CoreMem.reset with mbuf := [sent0] } })]⟩ }

theorem draining_still : Still draining := by
  refine ⟨fun c h => ?_, fun c => ?_, rfl⟩ <;> simp only [State.thread, State.core, draining, Table.get, lookupEntry] <;> split <;> rfl

/-- RemoteAccesses: each packet; addresses at the end of the module and beyond; the last hop; each request. -/
theorem witness_RemoteAccesses :
    (∀ ty ∈ [PacketType.rd, .wr, .rdCpl, .wrAck, .errCpl], Served (served []) 17 (packet ty 0xFFF 0) 0) ∧
    (let a := 2 ^ 42
     a < 2 ^ 48 ∧ palvanValid a = true ∧ a % 64 = 0 ∧ channelLost (served []) (stackAddr a) = false ∧ palvanValid (2 ^ 48 - 64) = false) ∧
    ((served []).hub.performed.get [] 6).contains 9 = false ∧
    (let s : State := { served [] with hub := { Hub.reset with performed := ⟨[(6, [9])]⟩ } }
     (s.hub.performed.get [] 6).contains 9 = true) ∧
    Still (served [request (.vector 0) false]) ∧
    requestOf (served [request (.vector 0) false]) 6 9 false = some (request (.vector 0) false) ∧
    (served [request (.vector 0) false]).hub.reqs.find? (fun y => y.id == 3) = some (request (.vector 0) false) ∧
    (Still draining ∧ requestOf draining 6 9 true = some (request (.mbuf 0) true) ∧ (draining.core 0).mem.mbuf = [sent0] ∧
      sent0.drain = true ∧ sent0.begun = true ∧ sent0.attr ≠ 0 ∧ paRegion (BitVec.ofNat 64 (sent0.line * 64)) ≠ 3 ∧
      ∀ y ∈ draining.hub.reqs, y.who = .mbuf 0 → y.data = none → y.id = 3) ∧
    ((packet .rd 6 0).dst ≠ (served []).mgmt.mid ∧ routePort (served []) 6 (2 ^ 42) = some 0 ∧
      ({ packet .rd 6 0 with hops := 6 } : Packet).hops.toNat < 7 ∧ ({ packet .rd 6 0 with hops := 7 } : Packet).hops = 7 ∧
      (served []).links.holdIds.contains 6 = false ∧ ((served []).port 0).waiting = [] ∧ ((served []).port 0).replay.length < 512 ∧
      0 < ((served []).port 0).reqCredit ∧ 0 < ((served []).port 0).rspCredit ∧ isRequest PacketType.rd = true ∧
      isRequest PacketType.rdCpl = false) ∧
    (paRegion (request (.vector 0) false).pa = 0 ∧ isLocal (served []) (request (.vector 0) false).pa = false ∧
      (request (.flush 0 0 0) true).write = true) := by
  refine ⟨?_, ?_, ?_, ?_, core_still rfl rfl, ?_, ?_, ⟨draining_still, ?_⟩, ?_, ?_⟩ <;> (try unfold Served CarriesAnswer) <;> decide +kernel

/-- A COLLECT of members 0 and 1 that sends to all, with 64 bytes of each; this module is 0, module 6 is 1. -/
def receiving (x : Coll) : Desc := pair [(32, 2)] { x with group := [(0, 0xFFF), (1, 6)] }

/-- CollectivePackets: an open that nothing matches, an open, the last contribution's data, and a COL_NAK. -/
theorem witness_CollectivePackets :
    (let p : Packet := { packet .colOpen 0xFFF 0 with key := 1, payload := List.replicate 64 0 }
     let x : Coll := { Coll.reset with group := [(0, 0xFFF), (1, 6)] }
     let d := receiving .reset
     let s : State := { working d with links := (served []).links }
     Served (served []) 17 p 0 ∧ matchCollect (served []) p = none ∧ Served s 17 p 0 ∧ (s.hub.performed.get [] 6).contains 9 = false ∧
       matchCollect s p = some (0, d, 1) ∧ Works s 0 d 0 0x04 ∧ d.job.coll = some x ∧ d.job.phase = 1 ∧ d.num 32 1 = 2 ∧ d.deadline = 0 ∧
       x.stampOf 1 = none ∧ x.inbox = [] ∧ x.sendings = [] ∧ p.payload.length = 64) ∧
    (let p : Packet := { packet .colData 0xFFF 0 with key := 1, addr := 0, payload := List.replicate 64 0 }
     let d := receiving { Coll.reset with opened := [(1, 0)] }
     let s : State := { working d with links := (served []).links }
     Served s 17 p 0 ∧ matchCollect s p = some (0, d, 1) ∧ Works s 0 d 0 0x04 ∧ p.size = 1 ∧ p.addr.toNat + 64 ≤ d.colLen ∧
       (s.hub.performed.get [] 6).contains 9 = false ∧
       (let x : Coll := { Coll.reset with opened := [(1, 0)] }
        (x.stampOf 1).isSome = true ∧ x.counted = none ∧ x.arrived.getLsbD 1 = false) ∧
       d.num 80 8 + 1 * d.colLen + p.addr.toNat = 0x440 ∧ HubMaps s 0 0x440 64 true home) ∧
    (let e : Sending := ⟨0, 1, 9, false, false, false, 0, 0, [], []⟩
     let d := receiving { Coll.reset with sendings := [e] }
     let q := request (.job 0 0) true
     let s : State := { working d with links := (served []).links, hub := { Hub.reset with reqs := [q] } }
     Served s 17 (packet .colNak 0xFFF 0) 0 ∧ requestOf s 6 9 true = some q ∧ s.desc 0 0 = some d ∧ e.tid = (packet .colNak 0xFFF 0).tid ∧
       e.acked = false ∧ (s.hub.performed.get [] 6).contains 9 = false ∧ ({ Coll.reset with group := [(0, 0xFFF), (1, 6)] } : Coll).moduleOf 1 = some 6) := by
  refine ⟨?_, ⟨?_, ?_, ?_, ?_, ?_, ?_, ?_, ?_, maps_home rfl rfl rfl (by decide)⟩, ?_⟩ <;> (try unfold Served CarriesAnswer) <;> (try unfold Works) <;>
    decide +kernel

/-! ## Spares, breaths, power -/

/-- An MMA into accumulator tile 15 of array 3, begun. -/
def summing0 : MRun := { MRun.fresh { mi 0 with op := .mma, am := 8, acc := 15 } with probed := true }

/-- Core 0 sums. -/
def summing : State := (only 0 awake).modCore 0 fun k => { k with mat := { k.mat with started := [summing0] } }

/-- SparesSubstituteFailedUnits: the last row, core, tile and channel; a stack with one spare left, and with none. -/
theorem witness_SparesSubstituteFailedUnits :
    ((32 : BitVec 6).toNat < 33 ∧ counterRuns serving = true ∧ (serving.tile (tileOf 511)).corePend = 0 ∧
      siteOf serving (tileOf 511) ∉ serving.spares.cores ∧ (∀ x ∈ serving.spares.rows, x.1 ≠ 2047) ∧
      ({ serving with spares := { SpareMap.reset with rows := [(2047, 31)] } } : State).spares.rows.find? (fun x => x.1 == 2047) = some (2047, 31) ∧
      betweenArrayInstrs serving 511 3 = true ∧ betweenArrayInstrs summing 0 3 = false ∧ betweenArrayInstrs summing 0 2 = true) ∧
    (let s : State := { serving with tiles := ⟨[(15, { Tile.reset with corePend := 0x80000000 })]⟩ }
     (s.tile (tileOf 511)).corePend.getLsbD (511 % 32) = true ∧ (s.tile 15).pend = false ∧ (s.tile 15).retired = false ∧
       sectionFree s (sectionOf 511) = true) ∧
    (let s : State := { serving with tiles := ⟨[(15, { Tile.reset with pend := true })]⟩ }
     spareSite s 15 = some 17 ∧ (s.tile 15).pend = true ∧ tileFree s 15 = true) ∧
    ((33 : BitVec 6).toNat < 34 ∧ (serving.cal.groups.get .reset (groupKey 3 31)).step = none ∧ (33 : BitVec 6) ∉ StackPort.reset.lost ∧
      StackPort.reset.freeSpares = [32, 33] ∧ ({ StackPort.reset with spared := [(0, 32), (1, 33)] } : StackPort).freeSpares = [] ∧
      (let p : StackPort := { StackPort.reset with spared := [(0, 32)] }
       (∀ x ∈ p.spared, x.1 ≠ (31 : BitVec 6) ∧ x.2 ≠ 31) ∧ p.spared = [] ++ (0, 32) :: [] ∧
         ({ p with lost := p.lost ++ [32] } : StackPort).freeSpares = [33] ∧
         ({ p with lost := [33] ++ [32] } : StackPort).freeSpares = [])) := by
  refine ⟨?_, ?_, ?_, ?_, ?_, ?_, ?_, ?_, ?_⟩
  case refine_9 => exact ⟨by simp, rfl, by decide +kernel, by decide +kernel⟩
  all_goals decide +kernel

/-- Time stands at the second opening of a breath, 16,000,000 ticks after the first. -/
def breathing0 : State := { serving with time := { serving.time with count := 16000000 } }

/-- Group 0 of kind 1 with lane 3 in a step, in a breath of 50 µs that opened at 0. -/
def stepping (n : DWord) : State := { serving with
  time := { serving.time with count := n, openBreath := some (0, 50) }
  cal := { CalState.reset with groups := ⟨[(groupKey 1 0, ⟨4, some 3⟩)]⟩ } }

/-- BreathsAndCalibration. -/
theorem witness_BreathsAndCalibration :
    (breathing0.time.count.toNat % (breathing0.time.period.toNat * 16000) = 0 ∧
      breathing0.time.openBreath.map Prod.fst ≠ some breathing0.time.count ∧ breathing breathing0 = true ∧ breathing0.allDescs = []) ∧
    (let d : Desc := { drain0 with started := some 0, job := { Job.reset with phase := 5 } }
     let s : State := { training d tables with time := breathing0.time }
     s.allDescs = [(0, d)] ∧ Works s 0 d 0 0x06 ∧ d.drainDst + d.drainTotal = 0x400 ∧ HubMaps s 0 0x400 64 true home) ∧
    stepStarts breathing0 breathing0.time.len.toNat 1 0 = true ∧
    (let s : State := { linked { Port.reset with state := .up, peerMid := 6 } with time := breathing0.time, mgmt := { serving.mgmt with mid := 5 } }
     stepStarts s s.time.len.toNat 2 17 = true ∧ s.mod.state = .serving ∧ ∀ n ∈ [0x100, 0x211], (s.cal.groups.get .reset n).step = none) ∧
    ((stepping (48 * 16000)).time.openBreath = some (0, 50) ∧ 0 + (50 - 2) * 16000 ≤ (stepping (48 * 16000)).time.count.toNat ∧
      ((stepping 0).cal.groups.get .reset (groupKey 1 0)).step = some 3) ∧
    (let x := (stepping 0).cal
     ¬((20 : BitVec 8).toNat < x.minV.toNat ∨ (64 : BitVec 8).toNat < x.minH.toNat) ∧ (240 : BitVec 8).toInt.natAbs ≤ x.drift.toNat ∧
       ((20 : BitVec 8).toNat < x.minV.toNat ∨ (63 : BitVec 8).toNat < x.minH.toNat) ∧ ({ CalLane.reset with low := 1 } : CalLane).low < 2 ∧
       stepsClose (stepping (48 * 16000)) = true ∧ stepsClose (stepping (48 * 16000 - 1)) = false) ∧
    bar0Open serving = true := by
  refine ⟨?_, ⟨?_, ?_, ?_, maps_home rfl rfl rfl (by decide)⟩, ?_, ?_, ?_, ?_, ?_⟩ <;> (try unfold Works) <;> decide +kernel

/-- PowerInputsAndLevels: each side of each limit; a message of level 7 and grant 31 for every tile. -/
theorem witness_PowerInputsAndLevels :
    serving.mod.state = .serving ∧ (3999 : BitVec 16).toNat < 4000 ∧ 6000 < (6001 : BitVec 16).toNat ∧
    (∀ v ∈ ([4000, 6000] : List (BitVec 16)), 4000 ≤ v.toNat ∧ v.toNat ≤ 6000) ∧ computeOn serving = true ∧
    (let hot (v : BitVec 8) (n : BitVec 3) : State := serving.setTile 0 { serving.tile 0 with temp := v, neighbour := n }
     let gap (v : BitVec 8) (n : BitVec 3) : Nat := ((hot v n).tile 0).temp.toNat - ((hot v n).tile 1).temp.toNat
     neighbours (hot 21 0) 0 1 = true ∧ 20 < gap 21 0 ∧ neighbours (hot 16 1) 0 1 = true ∧ 15 < gap 16 1 ∧
       ((hot 16 1).tile 0).neighbour ≠ 0 ∧ gap 15 1 ≤ 15 ∧ 100 ≤ ((hot 100 0).tile 0).temp.toNat ∧
       ((hot 95 0).tile 0).temp.toNat ≤ 95 ∧ computeOn (hot 100 0) = true) ∧
    (let draws (iin : BitVec 16) : State := { serving with power := { serving.power with vin := 5000, iin := iin } }
     1050 * effectiveLimit (draws 1597) < 5000 * 1597 ∧ 5000 * 1443 < 950 * effectiveLimit (draws 1443)) ∧
    (let clockAt (n : DWord) : State := { serving with time := { serving.time with count := n } }
     (clockAt 16000).time.count.toNat % 32000 = 16000 ∧ (clockAt 32000).time.count.toNat % 32000 = 0 ∧ computeOn (clockAt 32000) = true) ∧
    (∀ i : TileId, (List.replicate 16 255).getD i.toNat 0 < 256) ∧ bar0Open serving = true ∧
    (∀ v ∈ ([1000, 7600] : List Word), 1000 ≤ (v.setWidth 13 : BitVec 13).toNat ∧ (v.setWidth 13 : BitVec 13).toNat ≤ 7600) ∧
    (∀ v ∈ ([999, 7601] : List Word), (v.setWidth 13 : BitVec 13).toNat < 1000 ∨ 7600 < (v.setWidth 13 : BitVec 13).toNat) ∧
    controllerUp serving = true ∧ counterRuns serving = true := by
  refine ⟨?_, by simp, by simp, by simp, ?_, ?_, ?_, ?_, ?_, ?_, by simp, by simp, ?_, ?_⟩ <;> decide +kernel

/-! ## Start, stop, errors and management -/

/-- The module in a state. -/
def at_ (st : ModState) : State := { State.reset with mod := { ModBlock.reset with state := st, perstLow := false } }

/-- StartUpAndCommands: each state; the lowest inputs. -/
theorem witness_StartUpAndCommands :
    (at_ .off).mod.state = .off ∧ 3600 ≤ (3600 : BitVec 16).toNat ∧ (3599 : BitVec 16).toNat < 3600 ∧
    (let s : State := { at_ .standby with mgmt := { MgmtState.reset with pairing := .unpaired, input := 4000 } }
     s.mod.state = .standby ∧ controllerUp s = true ∧ s.mgmt.pairing ≠ .checking ∧ 4000 ≤ s.mgmt.input.toNat ∧ s.mgmt.input.toNat ≤ 6000 ∧
       s.mgmt.leak = false ∧ s.mgmt.flow = false ∧ s.mgmt.warning = false ∧ s.mgmt.hot = false) ∧
    (State.reset.mod.state = .rising ∧ State.reset.mod.held = false ∧ State.reset.mod.perstHeld = false ∧
      ((State.reset.fw 1).bank (State.reset.fw 1).active).failed = false ∧
      ∀ c ∈ [2, 4], (State.reset.fw c).usable (State.reset.fw c).active = true ∧
        ((State.reset.fw c).bank (State.reset.fw c).active).fails ≤ 3) ∧
    ((at_ .selftest).mod.state = .selftest ∧ (at_ .selftest).mod.held = false ∧ (at_ .selftest).mod.reverify = false ∧
      FailedUnit.bad (.row 511 3 32) = false ∧ FailedUnit.bad (.channel 31 33) = false) ∧
    (let s : State := { at_ .selftest with
       mod := { (at_ .selftest).mod with held := true, reverify := true }, time := { serving.time with count := 16000000000 } }
     s.mod.held = true ∧ s.mod.reverify = true ∧ s.power.uv = false ∧ s.power.ov = false ∧
       16000000000 ≤ (s.time.count - s.power.clearAt).toNat ∧ ¬16000000000 ≤ ((15999999999 : DWord) - s.power.clearAt).toNat) ∧
    (barsAnswer serving = true ∧ serving.mod.cause &&& 0x30 = 0 ∧ anyRuns serving = false ∧ (at_ .service).mod.recovery = false ∧
      anyRuns (only 1 awake) = true) := by decide +kernel

/-- ResetsAndStops: the ends of an orderly stop. -/
theorem witness_ResetsAndStops :
    (serving.mod.state ∈ [ModState.selftest, .service, .serving, .draining] ∧ controllerUp serving = true) ∧
    ({ ModBlock.reset with perstLow := false } : ModBlock).perstLow = false ∧ State.reset.mod.perstLow = true ∧
    (let s : State := { at_ .draining with
       mod := { ModBlock.reset with state := .draining, cause := 0x20 }, time := { serving.time with count := 3200000000 }
       binds := ⟨[(0, bound0)]⟩ }
     s.mod.state = .draining ∧ s.mod.cause &&& 0x30 ≠ 0 ∧ allFree s = false ∧ s.mod.cause.getLsbD 5 = true ∧
       3200000000 ≤ (s.time.count - s.mod.drainAt).toNat) ∧
    allFree serving = true ∧ controllerUp (at_ .standby) = true ∧ serving.mgmt.restarting = false := by decide

/-- Tile 0 holds a sector. -/
def holdsSector (line : Nat) (x : Sector) : State := serving.modTile 0 fun q => { q with sectors := q.sectors.set none line (some x) }

/-- ErrorsStopWhatTheyReach: each side of the input limits, the last site and channel; requests and descriptors in flight. -/
theorem witness_ErrorsStopWhatTheyReach :
    computeOn serving = true ∧ (serving.allDescs = [] ∧ serving.cores = .empty) ∧
    (∀ v ∈ ([3000, 3599, 6301] : List (BitVec 16)), 3000 ≤ v.toNat ∧ v.toNat < 3600 ∨ 6300 < v.toNat) ∧ (2999 : BitVec 16).toNat < 3000 ∧
    controllerUp serving = true ∧
    (let s : State := serving.setTile 15 { serving.tile 15 with temp := 110 }
     computeOn s = true ∧ 110 ≤ (s.tile 15).temp.toNat ∧ s.allDescs = [] ∧ s.cores = .empty) ∧
    (17 : BitVec 5).toNat < 18 ∧ (139 : BitVec 8).toNat < 140 ∧
    (let s : State := { serving with mod := { serving.mod with heartbeatLost := true } }
     s.mgmt.restarting = false ∧ s.mod.heartbeatLost = true) ∧
    (let q : Req := ⟨4, .vector 0, none, 2 ^ 48, 64, false, none, 0, none, none⟩
     let s : State := { serving with hub := { Hub.reset with reqs := [q] } }
     Still s ∧ s.hub.reqs.find? (fun y => y.id == q.id) = some q ∧ paRegion q.pa = 1 ∧ q.data = none ∧ q.write = false ∧
       (hostReads s).length ≤ 768) ∧
    (∀ op ∈ [2, 3],
      let d := { descOf [(0, op)] with started := some 0 }
      (working d).desc 0 0 = some d ∧ d.running = true ∧ d.opcode = op ∧ d.binding = some 0 ∧
        d.job.log = none ∧ ∀ q ∈ (working d).hub.reqs, q.who ≠ .job 0 0) ∧
    (let d := { bind0 with started := some 0 }
     let s : State := { working d with cores := ⟨[(7, { Core.reset with ctl := { CoreCtl.reset with
       xcfg := { CoreCtl.reset.xcfg with bound := true, binding := 0 } } })]⟩ }
     s.allDescs = [(0, d)] ∧ d.running = true ∧ d.opcode = 0x09 ∧ s.desc 0 0 = some d ∧ d.binding = some (coreBinding s 7) ∧
       (s.core 7).ctl.xcfg.bound = true) ∧
    (siteOf serving (tileOf 511) ∉ serving.spares.cores ∧ (serving.tile (tileOf 511)).corePend = 0) ∧
    ((holdsSector 16 ⟨0, 0, true, false, 5, 0, none⟩).tile 0).sector 16 = some ⟨0, 0, true, false, 5, 0, none⟩ ∧
    ((summing.core 0).frozen = false ∧ accumulates (summing.core 0) 3 15 = some summing0) := by
  refine ⟨?_, ⟨rfl, rfl⟩, by simp, ?_, ?_, ?_, ?_, ?_, ?_, ⟨core_still rfl rfl, ?_⟩, ?_, ?_, ?_, ?_, ?_⟩ <;> decide +kernel

/-- A double-bit error leaves the whole 64-bit word of the data local store poisoned, and no other (R242). -/
theorem test_double_bit :
    let s := dataStoreError 0 2 serving
    ((s.core 0).dlsRead 15 10).map Prod.snd = [false, true, true, true, true, true, true, true, true, false] := by decide +kernel

/-- A second lane of one Bore channel is fatal to the module (class 5 of Table 17-5). -/
theorem test_bore_lane :
    let s := boreLaneError 3 7 0xFF serving
    s.mod.state = .serving ∧ (boreLaneError 3 8 0xFF s).mod.state = .faulted := by decide +kernel

/-- The module in SERVING with a mailbox. -/
def boxed (b : Mailbox) : State := { serving with mgmt := { serving.mgmt with mb := b } }

/-- MailboxAndController: the ends of LEN; a full event queue and one message less. -/
theorem witness_MailboxAndController :
    barsAnswer (boxed .reset) = true ∧ controllerUp (boxed .reset) = true ∧
    (∀ v ∈ ([1, 4096] : List Word), v.getLsbD 30 = false ∧ 1 ≤ (v.setWidth 13 : BitVec 13).toNat ∧ (v.setWidth 13 : BitVec 13).toNat ≤ 4096) ∧
    ((0 : Word).setWidth 13 = (0 : BitVec 13) ∧ 4096 < ((4097 : Word).setWidth 13 : BitVec 13).toNat) ∧
    Mailbox.reset.inBusy = false ∧ Mailbox.reset.outValid = false ∧ Mailbox.reset.responses = [] ∧ Mailbox.reset.events = [] ∧
    (let b : Mailbox := { Mailbox.reset with inBusy := true, link := true, outValid := true, responses := [[1]] }
     b.inBusy = true ∧ b.link = true ∧ b.outValid = true ∧ b.responses = [[1]] ∧
       5 ≤ ({ b with len := 5 } : Mailbox).len.toNat ∧ Table.get 0 (⟨[(2, 1), (4, 9)]⟩ : Memory) 2 = 1) ∧
    (List.replicate 63 [(1 : Byte)]).length < 64 ∧ 64 ≤ (List.replicate 64 [(1 : Byte)]).length ∧
    (let s : State := { boxed { Mailbox.reset with outValid := true } with mgmt := { (boxed { Mailbox.reset with outValid := true }).mgmt with
       restarting := true, fw := ⟨[(1, { Firmware.reset with b := ⟨1, 0, [], false, 0⟩, pend := true })]⟩ } }
     s.mgmt.restarting = true ∧ s.mgmt.mb.outValid = true ∧ (s.fw 1).pend = true ∧ (s.fw 1).usable (!(s.fw 1).active) = true ∧
       ((s.fw 1).bank (!(s.fw 1).active)).fails < 3) ∧
    (let bank (failed : Bool) (n : Nat) : Bank := ⟨0, 0, [], failed, n⟩
     let f (x y : Bank) : Firmware := { Firmware.reset with a := x, b := y }
     (f (bank true 0) (bank true 0)).usable false = false ∧ (f (bank true 0) (bank true 0)).usable true = false ∧
       3 ≤ ((f (bank false 3) (bank false 0)).bank false).fails ∧ (f (bank false 3) (bank false 0)).usable true = true ∧
       ((f (bank false 2) (bank false 0)).bank false).fails < 3) := by
  refine ⟨?_, ?_, by simp, by simp, ?_, ?_, ?_, ?_, ?_, ?_, ?_, ?_, ?_⟩ <;> decide +kernel

/-- ImagesPairingAndKek: images of components 1 and 4 at the counter and below it; the pairing states; each state of a session. -/
theorem witness_ImagesPairingAndKek :
    (∀ c ∈ [1, 4],
      let n := 0x4D584B46 + c * 2 ^ 32 + 7 * 2 ^ 96 + 62914560 * 2 ^ 128
      let m := 0x4D584B46 + c * 2 ^ 32 + 7 * 2 ^ 96 + (digest512 []).toNat * 2 ^ 192
      bitsOf m 128 64 = ([] : List Byte).length ∧ bitsOf m 192 512 = (digest512 []).toNat ∧ bitsOf m 0 32 = 0x4D584B46 ∧ bitsOf m 32 8 = c ∧
      bitsOf n 0 32 = 0x4D584B46 ∧ bitsOf n 32 8 = c ∧ bitsOf n 40 24 = 0 ∧ bitsOf n 104 24 = 0 ∧ bitsOf n 704 64 = 0 ∧
        bitsOf n 128 64 ≤ 62914560 ∧ ({ Firmware.reset with counter := 7 } : Firmware).counter.toNat ≤ bitsOf n 96 8 ∧
        bitsOf n 96 8 < ({ Firmware.reset with counter := 8 } : Firmware).counter.toNat) ∧
    (let s : State := { at_ .standby with mgmt := { MgmtState.reset with pairing := .unpaired } }
     controllerUp s = true ∧ s.mod.state = .standby ∧ s.mgmt.pairing = .unpaired ∧ (0xFFE : ModuleId) ≠ 0xFFF ∧ (1 : BitVec 48) ≠ 0) ∧
    (∀ i, ((at_ .standby).port i).replay = [] ∧ ((at_ .standby).port i).waiting = []) ∧ ¬(serving.mod.state = .standby ∨ serving.mod.state = .service) ∧
    (at_ .standby).mgmt.pairing = .checking ∧
    ({ MgmtState.reset with pairRec := some ⟨0, 0, 1, some (1, 2)⟩ } : MgmtState).pairRec.bind PairRecord.lldp = some (1, 2) ∧
    MgmtState.reset.pairRec.bind PairRecord.lldp ≠ some (1, 2) ∧
    hostAlive serving = true ∧ (⟨true, false, true⟩ : Spdm).opening = true ∧ Spdm.reset.opening = false ∧
    (⟨false, true, true⟩ : Spdm).open_ = true ∧ (⟨false, true, true⟩ : Spdm).suiteOk = true ∧ (0xFFFFFFFE : Word) ≠ 0xFFFFFFFF := by
  refine ⟨?_, ?_, ?_, ?_, ?_, ?_, ?_, ?_, ?_, ?_, ?_, ?_, ?_⟩ <;> decide +kernel

/-- An error record of a class. -/
def record (cls : BitVec 3) : ErrRec := ⟨0, 0, cls, 0, 0, 0, 0, 0, 0, 0, [], 0, 0⟩

/-- ErrorRecordsAreDelivered: one entry free and none; 255 records held and 256 of each kind; a window of 1 ms and a tick less; each ERR_CFG. -/
theorem witness_ErrorRecordsAreDelivered :
    (let e : ErrState := { ErrState.reset with en := true, size := 6, tail := 63, formed := [record 0] }
     e.en = true ∧ 0 < 2 ^ e.size.toNat - (e.tail - e.head).toNat ∧ e.hold = [] ∧ e.formed = [record 0] ∧
       2 ^ e.size.toNat - (({ e with tail := 64 } : ErrState).tail - e.head).toNat = 0) ∧
    hostAlive serving = true ∧ (List.replicate 255 (record 0)).length < 256 ∧ 256 ≤ (List.replicate 256 (record 2)).length ∧
    (record 0).cls = 0 ∧ (record 2).cls ≠ 0 ∧ (∀ r ∈ List.replicate 256 (record 2), r.cls ≠ 0) ∧
    (let l := List.replicate 255 (record 2) ++ record 0 :: []
     256 ≤ l.length ∧ ∀ r ∈ ([] : List ErrRec), r.cls ≠ 0) ∧
    (let s : State := { serving with time := { serving.time with count := 16000000 }, err := { ErrState.reset with windows := [record 0] } }
     s.err.windows[0]? = some (record 0) ∧ 16000000 ≤ (s.time.count - (record 0).first).toNat ∧
       (15999999 - (record 0).first : DWord).toNat < 16000000) ∧
    (bar0Open serving = true ∧ barsAnswer serving = true) ∧ (∀ v ∈ ([0x80000006, 0x80000010] : List Word), v.getLsbD 31 = true ∧
      6 ≤ (v.setWidth 5 : BitVec 5).toNat ∧ (v.setWidth 5 : BitVec 5).toNat ≤ 16) ∧
    (∀ v ∈ ([0x80000005, 0x80000011] : List Word), v.getLsbD 31 = true ∧ ((v.setWidth 5 : BitVec 5).toNat < 6 ∨
      16 < (v.setWidth 5 : BitVec 5).toNat)) ∧
    (let e : ErrState := { ErrState.reset with head := 5, tail := 7 }
     (7 - e.head).toNat ≤ (e.tail - e.head).toNat ∧ (e.tail - e.head).toNat < (8 - e.head).toNat) := by
  refine ⟨?_, ?_, ?_, ?_, ?_, ?_, ?_, ?_, ?_, ?_, by simp, by simp, ?_⟩ <;> decide +kernel

/-- The window is open, its size of code n. -/
def windowed (n : BitVec 4) : State := { serving with pcie := { PcieState.reset with en := true, il := 1, base := 0xF01, barSize := n } }

/-- RegistersAndCounters: a window closed, and the last unit of one of 256 GiB and of one of 1 GiB; each state of the host. -/
theorem witness_RegistersAndCounters :
    (barsAnswer serving = true ∧ serving.pcie.en = false ∧ bar0Open serving = true) ∧
    (let s := windowed 8
     computeOn s = true ∧ barsAnswer s = true ∧ s.pcie.en = true ∧ s.pcie.il ≠ 0 ∧ 0x3FFFFFFFC0 % 64 = 0 ∧
       0x3FFFFFFFC0 < 2 ^ (30 + min s.pcie.barSize.toNat 8) ∧
       s.pcie.il.toNat * 2 ^ 42 + s.pcie.base.toNat * 2 ^ 30 / 2 ^ 38 * 2 ^ 38 + 0x3FFFFFFFC0 = 0x7FFFFFFFFC0 ∧
       palvanValid 0x7FFFFFFFFC0 = true ∧ channelLost s (stackAddr 0x7FFFFFFFFC0) = false ∧ (List.replicate 64 (0 : Byte)).length = 64) ∧
    (let s := windowed 0
     computeOn s = true ∧ barsAnswer s = true ∧ 0x3FFFFFC0 % 64 = 0 ∧ 0x3FFFFFC0 < 2 ^ (30 + min s.pcie.barSize.toNat 8) ∧
       s.pcie.il.toNat * 2 ^ 42 + s.pcie.base.toNat * 2 ^ 30 / 2 ^ 30 * 2 ^ 30 + 0x3FFFFFC0 = 0x7C07FFFFFC0 ∧
       palvanValid 0x7C07FFFFFC0 = true ∧ channelLost s (stackAddr 0x7C07FFFFFC0) = false) ∧
    (serving.mod.state ≠ .faulted ∧ (at_ .faulted).mod.state = .faulted ∧ barsAnswer (at_ .faulted) = true) ∧
    (let s : State := { at_ .faulted with pcie := { PcieState.reset with en := true, il := 3 } }
     s.mod.state = .faulted ∧ barsAnswer s = true ∧ s.pcie.en = true ∧ s.pcie.il ≠ 0) ∧
    ((serving.mod.perstLow = false ∧ hostAlive serving = true ∧ ({ PcieState.reset with d3hot := true } : PcieState).d3hot = true) ∧
      (8 : DWord).toNat ≤ 8 ∧ 8 < (9 : DWord).toNat ∧
      (let q := ring64
       ((64 : DWord).setWidth 32 - q.ci).toNat ≤ 2 ^ q.size.toNat ∧ (q.pi - q.ci).toNat ≤ ((64 : DWord).setWidth 32 - q.ci).toNat ∧ q.en = true)) ∧
    (∀ r, (serving.ring r).en = false ∧ (serving.ring r).descs = [] ∧ (serving.ring r).inFetch = 0 ∧ (serving.ring r).stale = []) := by
  refine ⟨?_, ?_, ?_, ?_, ?_, ?_, fun r => ?_⟩
  · decide
  · decide +kernel
  · decide +kernel
  · decide
  · decide
  · decide
  · simp [serving, State.reset, State.ring, SubRing.reset]

/-- StepKeepsInvariant: at reset; StepsTakeOneCommandInOrder: with nothing queued. WellFormedCommandsNeverStop: one of each. -/
theorem witness_StepKeepsInvariant : Machine.Inv State.reset ∧ State.reset.pending = [] ∧ (159999999 + 1) % 160000000 = 0 ∧
    (State.reset.mgmt.uptime + 1) % 160000000 ≠ 0 ∧ State.reset.mod.state ≠ .off ∧ (Instr.laneFailure ⟨17, 8⟩).wf = true ∧
    (Instr.laneFailure ⟨18, 8⟩).wf = false := by
  unfold Machine.Inv; decide

/-! ## Behaviour: values worked out by hand from the tables of the spec -/

/-- The state after a command that goes on. -/
def after (i : Instr) (s : State) : Option State := match exec i s with
  | .next t => some t
  | _ => none

/-- Thread h1 of core 0 with g3 = a and g4 = b, and its g5 after a command. -/
def regs (a b : Word) : State := only 1 { awake with g := (awake.g.set 0 3 a).set 0 4 b }
def g5 (i : Instr) (s : State) : Option Word := (after i s).map fun t => (t.thread 0 1).rg 5
def rf5 : RForm := ⟨0, 1, 5, 3, 4⟩

/-- Table 03-6: ADD wraps. -/
theorem test_add_wraps : g5 (.add rf5) (regs 0xFFFFFFFF 2) = some 1 := by decide
/-- Table 03-6: SUB takes b from a. -/
theorem test_sub_order : g5 (.sub rf5) (regs 3 5) = some 0xFFFFFFFE := by decide
/-- R301, R302, Table 11-4: EN clears with a read of slot 5 in flight: not IDLE, CFG_REJ set, the other fields as they were. -/
theorem test_ring_disabled_in_flight :
    (after (.sqCfg ⟨0, 7⟩) (ringed { ring64 with base := 1, ci := 69, inFetch := 1 })).map (fun t => t.ring 0) =
      some { ring64 with base := 1, ci := 69, en := false, cfgRej := true, stale := [4096 + 5 * 128] } := by decide +kernel
/-- R52: g0 discards what is written. -/
theorem test_add_g0 : (after (.add ⟨0, 1, 0, 3, 4⟩) (regs 1 2)).map (fun t => (t.thread 0 1).rg 0) = some 0 := by decide
/-- Table 03-6: the shift amount is b[4:0]. -/
theorem test_sra_amount : g5 (.sra rf5) (regs 0x80000000 0x21) = some 0xC0000000 := by decide
theorem test_srl_amount : g5 (.srl rf5) (regs 0x80000000 0x21) = some 0x40000000 := by decide
/-- Table 03-6: SLT is signed, SLTU is not. -/
theorem test_slt_signed : g5 (.slt rf5) (regs 0x80000000 1) = some 1 := by decide
theorem test_sltu_unsigned : g5 (.sltu rf5) (regs 0x80000000 1) = some 0 := by decide
/-- Table 03-6: MULH of −1 by −1 has a high half of 0, MULHU one of 0xFFFFFFFE. -/
theorem test_mulh_signed : g5 (.mulh rf5) (regs 0xFFFFFFFF 0xFFFFFFFF) = some 0 := by decide
theorem test_mulhu_unsigned : g5 (.mulhu rf5) (regs 0xFFFFFFFF 0xFFFFFFFF) = some 0xFFFFFFFE := by decide
/-- R69: division by zero and the overflowing pair. -/
theorem test_div_zero : g5 (.div rf5) (regs 7 0) = some 0xFFFFFFFF := by decide
theorem test_rem_zero : g5 (.rem rf5) (regs 7 0) = some 7 := by decide
theorem test_div_overflow : g5 (.div rf5) (regs 0x80000000 0xFFFFFFFF) = some 0x80000000 := by decide
theorem test_rem_overflow : g5 (.rem rf5) (regs 0x80000000 0xFFFFFFFF) = some 0 := by decide
/-- Table 03-6: the quotient of −7 by 2 is rounded toward zero, and the remainder takes the sign of the dividend. -/
theorem test_div_toward_zero : g5 (.div rf5) (regs 0xFFFFFFF9 2) = some 0xFFFFFFFD := by decide
theorem test_rem_sign : g5 (.rem rf5) (regs 0xFFFFFFF9 2) = some 0xFFFFFFFF := by decide
/-- Table 03-6: ADDI sign-extends, ANDI zero-extends its immediate. -/
theorem test_addi_sign : g5 (.addi ⟨0, 1, 5, 3, 0xFFFF⟩) (regs 5 0) = some 4 := by decide
theorem test_andi_zero : g5 (.andi ⟨0, 1, 5, 3, 0x8000⟩) (regs 0xFFFFFFFF 0) = some 0x8000 := by decide
theorem test_lui : g5 (.lui ⟨0, 1, 5, 3, 0x1234⟩) (regs 0 0) = some 0x12340000 := by decide

/-- R79: a taken branch is relative to the branch itself. -/
theorem test_beq_taken : (after (.beq ⟨0, 1, 3, 4, -1⟩) (regs 9 9)).map (fun t => (t.thread 0 1).pc) = some 0x1FC := by decide
/-- R78: the last word of an active loop goes back to its first. -/
theorem test_loop_back : (after (.add rf5) (only 1 { awake with
    lb := awake.lb.set 0 0 0x180, le := awake.le.set 0 0 0x200, lc := awake.lc.set 0 0 2 })).map
      (fun t => ((t.thread 0 1).pc, (t.thread 0 1).lc.get 0 0)) = some (0x180, 1) := by decide

/-- R58, R70: a byte stored to the data local store and read back signed. -/
theorem test_store_load : ((after (.st ⟨0, 1, 4, 3, 0, 0⟩) (regs 0x40 0x1F0)).bind (g5 (.ld ⟨0, 1, 5, 3, 0, 0⟩))) = some 0xFFFFFFF0 := by decide
/-- R4: the bytes of a word stand in the store least significant first. -/
theorem test_little_endian : (after (.st ⟨0, 1, 4, 3, 4, 0⟩) (regs 0x40 0x01020304)).map (fun t => (t.core 0).mem.dls.read 0x40) = some 4 := by
  decide

/-- R106, R108: TRAP 5 enters at 0x100 + 32 · 11 with its argument in ecause, IE clear, and esp 64 lower. -/
theorem test_trap_entry : (after (.trap ⟨0, 1, 0, 0, 5⟩) (only 1 { awake with estat := 1 })).map (fun t =>
    let x := t.thread 0 1
    (x.pc, x.ecause, x.estat.getLsbD 0, x.esp, x.epc)) = some (0x260, 0x50000B, false, 0xFC0, 0x204) := by decide
/-- R67: a shift immediate with a bit above [4:0] is illegal, subcode 2. -/
theorem test_slli_illegal : (after (.slli ⟨0, 1, 5, 3, 0x20⟩) (regs 1 0)).map (fun t => (t.thread 0 1).ecause) = some 0x203 := by decide

/-! Words of the spec's examples (Tables 03-11, 03-17, 05-12 and 07-12, and the examples of VSSCANI and TLDG) and what they spell. -/

theorem test_decode_loop : decodeWord 0 1 0x78080003 0 = some (.loop ⟨0, 1, 0, 8, 3, 0⟩) := by decide
theorem test_decode_ld : decodeWord 0 1 0x40A48000 0 = some (.ld ⟨0, 1, 5, 4, 4, 0⟩) := by decide
theorem test_decode_addi : decodeWord 0 1 0x08840004 0 = some (.addi ⟨0, 1, 4, 4, 4⟩) := by decide
theorem test_decode_add : decodeWord 0 1 0x04C62800 0 = some (.add ⟨0, 1, 6, 6, 5⟩) := by decide
theorem test_decode_patch : decodeWord 0 0 0x74A40005 0 = some (.patch ⟨0, 0, 5, 4, 0⟩) := by decide
theorem test_decode_ifence : decodeWord 0 0 0x74000004 0 = some (.ifence ⟨0, 0⟩) := by decide
theorem test_decode_bne : decodeWord 0 0 0x64C7FFFE 0 = some (.bne ⟨0, 0, 6, 7, -2⟩) := by decide
theorem test_decode_vld : decodeWord 0 0 0xC02A2000 0 = some (.vld ⟨0, 0, 1, 10, 2, false, 0, 0, false⟩) := by decide
theorem test_decode_vfma : decodeWord 0 0 0xA4611020 0 = some (.vfma ⟨0, 0, 3, 1, 2, 4, 0, false⟩) := by decide
theorem test_decode_vst : decodeWord 0 0 0xC46A3000 0 = some (.vst ⟨0, 0, 3, 10, 3, false, 0, 0, false⟩) := by decide
theorem test_decode_fenceG : decodeWord 0 0 0x74000003 0 = some (.fenceG ⟨0, 0⟩) := by decide
theorem test_decode_vsscani : decodeWord 0 0 0xD0C52A32 0 = some (.vsscani ⟨0, 0, 6, 5, 5, 2, true, true, 0⟩) := by decide
theorem test_decode_tldg : decodeWord 0 0 0xE1338040 0x3E200000 = some (.tldg ⟨0, 0, 3, 7, 0, 1, 0, 0x3E200000⟩) := by decide
theorem test_decode_mma : decodeWord 0 0 0xE7C14C20 0xFE22101F = some (.mma ⟨0, 0, 0xF, 0, 1, 2, 3, 0, true, 0, 0xFE22101F⟩) := by decide
theorem test_decode_accrd : decodeWord 0 0 0xED004100 0x7E20101F = some (.accrd ⟨0, 0, 1, 0, 1, 0, true, false, 0, 0x7E20101F⟩) := by
  decide
/-- R67: a reserved major opcode and the all-zero word spell nothing, and report 0x01 and 0x03. -/
theorem test_decode_reserved : decodeWord 0 0 0xFC000000 0 = none ∧ decodeWord 0 0 0 0 = none ∧ illegalSub 0xFC000000 = 1 ∧
    illegalSub 0 = 3 := by decide
/-- R66, R90: a core issues the instruction at the pc of its ready thread: ADDI g4, g4, 4. -/
theorem test_issue_from_store : (match issueCore 0 ((regs 0 7).modCore 0 fun k => { k with
    mem := { k.mem with istore := k.mem.istore.writeNat 0x200 4 0x08840004 } }) with
  | .next t => ((t.thread 0 1).rg 4, (t.thread 0 1).pc)
  | _ => (0, 0)) = (11, 0x204) := by decide +kernel

/-- R31: an idle step of a module in SERVING is one tick of the counter. -/
theorem test_tick : (match step serving with
  | .next t => t.time.count
  | _ => 0) = 1 := by decide
/-- R43: BREATH_LEN of 5 µs is accepted and waits; 4 is refused. -/
theorem test_breathLen : (after (.breathLen ⟨5⟩) serving).map (fun t => (t.time.lenPend, t.time.cfgRej)) = some (some 5, false) := by decide
theorem test_breathLen_low : (after (.breathLen ⟨4⟩) serving).map (fun t => (t.time.lenPend, t.time.cfgRej)) = some (none, true) := by decide
/-- R396, R397: 39.99 V in SERVING drains the module with CAUSE bit 1 and throttles every tile to level 7. -/
theorem test_underVoltage : (after (.underVoltage ⟨3999⟩) serving).map (fun t => (t.mod.state, t.mod.cause, tileLevel t 15)) =
    some (.draining, 2, 7) := by decide
/-- R427: a GO with LEN 0 is refused. -/
theorem test_go_empty : (after (.go ⟨0⟩) serving).map (fun t => (t.mgmt.mb.rej, t.mgmt.mb.inBusy)) = some (true, false) := by decide
/-- Table 14-1: training done brings the port UP. -/
theorem test_training : (after (.portTrainingDone ⟨17, 6, 3⟩) (linked { Port.reset with state := .training })).map
    (fun t => ((t.port 17).state, (t.port 17).peerMid, (t.port 17).peerPort)) = some (.up, 6, 3) := by decide

end Sys2Proof.Tests
end

section
/-!
PROOFS. The state right after cold reset: what each kind of unit of `State.reset` reads as, and its invariant (R458; log entry 3).
-/

namespace Sys2Proof.Machine

@[simp] theorem reset_ring (r : RingId) : State.reset.ring r = .reset := Table.get_empty ..

@[simp] theorem reset_cq (c : CqId) : State.reset.cq c = .reset := Table.get_empty ..

@[simp] theorem reset_bnd (b : BindingId) : State.reset.bnd b = .reset := Table.get_empty ..

@[simp] theorem reset_port (i : BitVec 5) : State.reset.port i = .reset := Table.get_empty ..

@[simp] theorem reset_core (c : CoreId) : State.reset.core c = .reset := Table.get_empty ..

@[simp] theorem Core.reset_thread (h : ThreadId) : Core.reset.thread h = .reset := Table.get_empty ..

@[simp] theorem reset_thread (c : CoreId) (h : ThreadId) : State.reset.thread c h = .reset := by
  simp only [State.thread, reset_core, Core.reset_thread]

/-- Nothing is stored, logged, queued or held right after reset, so every bound of `Inv` holds. -/
theorem inv_reset : Inv State.reset :=
  have stacks_wf : State.reset.stk.mem.wf = true := Table.wf_empty 0
  have log_bound : State.reset.mgmt.log.length ≤ 65536 := Nat.zero_le _
  have events_bound : State.reset.mgmt.mb.events.length ≤ 64 := Nat.zero_le _
  have hold_bound : State.reset.err.hold.length ≤ 256 := Nat.zero_le _
  ⟨stacks_wf, log_bound, events_bound, hold_bound⟩

/-- The beat registers of a cold reset with epoch 0 (R8, R43): the discipline is UNSET because the epoch is. -/
theorem reset_time_registers : State.reset.time.count = 0 ∧ State.reset.time.epoch = 0 ∧ State.reset.time.skew = 0 ∧
    State.reset.time.disc = .unset ∧ State.reset.time.period = 1000 ∧ State.reset.time.len = 50 := by
  have disc : State.reset.time.disc = .unset := by simp [State.reset, TimeState.cold]
  exact ⟨rfl, rfl, rfl, disc, rfl, rfl⟩

/-- Settles O58: `Inv` by `inv_reset`, each fixed register by its reset value, and each unit of an array by what an unlisted key reads as. -/
theorem resetMeetsInvariant : Obligations.ResetMeetsInvariant := by
  unfold Obligations.ResetMeetsInvariant
  obtain ⟨count, epoch, skew, disc, period, len⟩ := reset_time_registers
  have rings (r : RingId) : (State.reset.ring r).en = false := by rw [reset_ring]; rfl
  have cqs (c : CqId) : (State.reset.cq c).en = false := by rw [reset_cq]; rfl
  have bindings (b : BindingId) : (State.reset.bnd b).state = .free := by rw [reset_bnd]; rfl
  have ports (i : BitVec 5) : (State.reset.port i).en = true ∧ (State.reset.port i).state = .off := by
    rw [reset_port]; exact ⟨rfl, rfl⟩
  have threads (c : CoreId) (h : ThreadId) : (State.reset.thread c h).run = false := by rw [reset_thread]; rfl
  exact ⟨inv_reset, rfl, rfl, rfl, rfl, rfl, count, epoch, skew, disc, period, len,
    rfl, rfl, rfl, rfl, rfl, rings, cqs, rfl, bindings, fun i _ => ports i, rfl, threads⟩

end Sys2Proof.Machine
end

section
/-!
PROOFS. What a report of an error leaves alone, and the records that the use of a spare forms (R446, R454).
-/

namespace Sys2Proof.Machine

variable (s : State)

@[simp] theorem modSpares_spares (f : SpareMap → SpareMap) : (s.modSpares f).spares = f s.spares := rfl

/-! ## Reports -/

section
variable (cls : BitVec 3) (kind : Byte) (code unit : BitVec 16) (b : Option BindingId) (addr : DWord) (detail : List Byte)

/-- A report changes the error summary block and, with its copy for the event log, the management state. -/
theorem report_frame : report cls kind code unit b addr detail s =
    { s with
      err := (report cls kind code unit b addr detail s).err
      mgmt := (report cls kind code unit b addr detail s).mgmt } := by
  simp only [report, reportAt]
  split_ifs <;> rfl

@[simp] theorem report_cores : (report cls kind code unit b addr detail s).cores = s.cores :=
  (congrArg State.cores (report_frame ..)).trans rfl

@[simp] theorem report_tiles : (report cls kind code unit b addr detail s).tiles = s.tiles :=
  (congrArg State.tiles (report_frame ..)).trans rfl

@[simp] theorem report_stk : (report cls kind code unit b addr detail s).stk = s.stk :=
  (congrArg State.stk (report_frame ..)).trans rfl

@[simp] theorem report_cal : (report cls kind code unit b addr detail s).cal = s.cal :=
  (congrArg State.cal (report_frame ..)).trans rfl

@[simp] theorem report_spares : (report cls kind code unit b addr detail s).spares = s.spares :=
  (congrArg State.spares (report_frame ..)).trans rfl

/-- A record of class 4 is formed at once, with the next sequence number, and counts in no class (R445, R447). -/
theorem report_class4_err : ∃ r : ErrRec,
    (report 4 kind code unit b addr detail s).err = { s.err with seq := s.err.seq + 1, formed := s.err.formed ++ [r] } ∧
    r.cls = 4 ∧ r.code = code ∧ r.unitKind = kind ∧ r.unit = unit ∧ r.seq = s.err.seq :=
  ⟨_, rfl, rfl, rfl, rfl, rfl, rfl⟩

end

/-! ## DEGRADED (R454) -/

@[simp] theorem refreshDegraded_cores : (refreshDegraded s).cores = s.cores := by
  simp only [refreshDegraded]; split <;> simp

@[simp] theorem refreshDegraded_tiles : (refreshDegraded s).tiles = s.tiles := by
  simp only [refreshDegraded]; split <;> simp

@[simp] theorem refreshDegraded_stk : (refreshDegraded s).stk = s.stk := by
  simp only [refreshDegraded]; split <;> simp

@[simp] theorem refreshDegraded_spares : (refreshDegraded s).spares = s.spares := by
  simp only [refreshDegraded]; split <;> simp

@[simp] theorem refreshDegraded_core (c : CoreId) : (refreshDegraded s).core c = s.core c := by simp [State.core]

@[simp] theorem refreshDegraded_tile (i : TileId) : (refreshDegraded s).tile i = s.tile i := by simp [State.tile]

/-- DEGRADED holds afterwards exactly where a class of spares is exhausted. -/
theorem refreshDegraded_degraded : (refreshDegraded s).err.degraded = decide (exhausted s ≠ 0) := by
  simp only [refreshDegraded]
  split
  · next same => exact same.symm
  · rfl

/-- Records formed earlier stay, and the only new one can be that of the change, of code 0x0042. -/
theorem refreshDegraded_formed : ∃ l : List ErrRec, (refreshDegraded s).err.formed = s.err.formed ++ l ∧ ∀ e ∈ l, e.code = 0x0042 := by
  simp only [refreshDegraded]
  split
  · exact ⟨[], by simp⟩
  · exact ⟨[_], rfl, by simp⟩

theorem mem_formed_of_mem_refreshDegraded {e : ErrRec} (h : e ∈ (refreshDegraded s).err.formed) :
    e ∈ s.err.formed ∨ e.code = 0x0042 := by
  obtain ⟨l, formed, codes⟩ := refreshDegraded_formed s
  rw [formed, List.mem_append] at h
  exact h.imp_right (codes e)

theorem bit_le_one (b : Bool) : bit b ≤ 1 := by cases b <;> decide

/-- Bit 2 of EXH is set once a spare row is in use (R454). -/
theorem exhausted_ne_zero_of_rows {s : State} (h : s.spares.rows ≠ []) : exhausted s ≠ 0 := by
  have rows : bit (decide (s.spares.rows ≠ [])) = 1 := by simp [h, bit]
  intro zero
  have sum : (exhausted s).toNat = 0 := by rw [zero]; rfl
  simp only [exhausted, rows, BitVec.toNat_ofNat] at sum
  have sites := bit_le_one (decide (2 ≤ sparesSites s))
  have cores := bit_le_one (s.spares.cores.any (siteServes s))
  have ports := bit_le_one (decide (sparesPorts s ≠ 0))
  have bore := bit_le_one (decide (s.spares.bore ≠ []))
  have channels := bit_le_one (s.stk.ports.entries.any fun e => e.2.freeSpares.isEmpty)
  omega

/-! ## The record of a spare -/

/-- A record of class 4 with a code and a unit stands among those formed, under sequence number `n`. -/
def SpareRecorded (n : Word) (t : State) (code : BitVec 16) (kind : Byte) (unit : BitVec 16) : Prop :=
  ∃ e ∈ t.err.formed, e.cls = 4 ∧ e.code = code ∧ e.unitKind = kind ∧ e.unit = unit ∧ e.seq = n

section
variable (code : BitVec 16) (cls kind : Byte) (unit : BitVec 16) (x y z : Byte)

@[simp] theorem spareRecord_cores : (spareRecord code cls kind unit x y z s).cores = s.cores := report_cores ..
@[simp] theorem spareRecord_tiles : (spareRecord code cls kind unit x y z s).tiles = s.tiles := report_tiles ..
@[simp] theorem spareRecord_stk : (spareRecord code cls kind unit x y z s).stk = s.stk := report_stk ..
@[simp] theorem spareRecord_spares : (spareRecord code cls kind unit x y z s).spares = s.spares := report_spares ..

@[simp] theorem spareRecord_core (c : CoreId) : (spareRecord code cls kind unit x y z s).core c = s.core c := by simp [State.core]

@[simp] theorem spareRecord_tile (i : TileId) : (spareRecord code cls kind unit x y z s).tile i = s.tile i := by simp [State.tile]

@[simp] theorem siteOf_spareRecord (i : TileId) : siteOf (spareRecord code cls kind unit x y z s) i = siteOf s i := by simp [siteOf]

theorem spareRecord_recorded {n : Word} (seq : s.err.seq = n) :
    SpareRecorded n (spareRecord code cls kind unit x y z s) code kind unit := by
  obtain ⟨r, err, fields⟩ := report_class4_err s kind code unit none 0 [cls, x, y, z]
  refine ⟨r, ?_, seq ▸ fields⟩
  rw [spareRecord, err]
  simp

/-- The record of a spare still stands once DEGRADED has been brought up to date. -/
theorem refreshDegraded_spareRecord_recorded {n : Word} (seq : s.err.seq = n) :
    SpareRecorded n (refreshDegraded (spareRecord code cls kind unit x y z s)) code kind unit := by
  obtain ⟨l, formed, -⟩ := refreshDegraded_formed (spareRecord code cls kind unit x y z s)
  obtain ⟨e, he, fields⟩ := spareRecord_recorded s code cls kind unit x y z seq
  exact ⟨e, formed ▸ List.mem_append_left l he, fields⟩

end

end Sys2Proof.Machine
end

section
/-!
PROOFS. Spare array rows (R189; log entry 32).
-/

namespace Sys2Proof.Machine

/-- ROW_SUBSTITUTION takes effect between two array instructions of a powered module. -/
theorem exec_rowSubstitution {s : State} {c : CoreId} {a : BitVec 2} {row : BitVec 6} (hrow : row.toNat < 33) (up : counterRuns s = true) :
    exec (.rowSubstitution ⟨c, a, row⟩) s = .next (if betweenArrayInstrs s c a = true then failRow c a row s else s) := by
  show execRowSubstitution ⟨c, a, row⟩ s = _
  simp only [execRowSubstitution, powered, up, Bool.true_and, if_neg (Nat.not_le.2 hrow)]
  split <;> rfl

section
variable {s : State} {c : CoreId} {a : BitVec 2} {row : BitVec 6}

/-- The spare map with row `row` of an array replaced. -/
def withRow (s : State) (c : CoreId) (a : BitVec 2) (row : BitVec 6) : State :=
  s.modSpares fun m => { m with rows := m.rows ++ [(c.toNat * 4 + a.toNat, row)] }

@[simp] theorem withRow_spares :
    (withRow s c a row).spares = { s.spares with rows := s.spares.rows ++ [(c.toNat * 4 + a.toNat, row)] } := rfl

/-- A row fails while the spare row is free: it is used up. -/
theorem failRow_of_free (free : ∀ x ∈ s.spares.rows, x.1 ≠ c.toNat * 4 + a.toNat) :
    failRow c a row s = refreshDegraded (if row = 32 then withRow s c a row else
      spareRecord 0x0040 3 0 (c.setWidth 16) (a.setWidth 8) (row.setWidth 8) 0 (withRow s c a row)) := by
  have none_here : s.spares.rows.find? (fun r => r.1 == c.toNat * 4 + a.toNat) = none :=
    List.find?_eq_none.2 fun x hx => by simpa using free x hx
  simp only [failRow, none_here, withRow]
  split <;> rfl

theorem failRow_repeat (h : s.spares.rows.find? (fun r => r.1 == c.toNat * 4 + a.toNat) = some (c.toNat * 4 + a.toNat, row)) :
    failRow c a row s = s := by
  simp [failRow, h]

/-- A second row fails: its record is formed, and its core fails. -/
theorem failRow_of_used {old : BitVec 6}
    (h : s.spares.rows.find? (fun r => r.1 == c.toNat * 4 + a.toNat) = some (c.toNat * 4 + a.toNat, old))
    (other : old ≠ row) :
    failRow c a row s = failCore c (spareRecord 0x0041 3 0 (c.setWidth 16) (a.setWidth 8) (row.setWidth 8) 0 s) := by
  simp [failRow, h, other]

/-- A core fails whose tile has the spare position free: its substitution is pending. -/
theorem failCore_of_free (pend : (s.tile (tileOf c)).pend = false) (retired : (s.tile (tileOf c)).retired = false)
    (core : (s.tile (tileOf c)).corePend = 0) (free : siteOf s (tileOf c) ∉ s.spares.cores) :
    failCore c s = s.setTile (tileOf c) { s.tile (tileOf c) with corePend := BitVec.ofNat 32 (2 ^ (c.toNat % 32)) } := by
  simp [failCore, pend, retired, core, free]

/-- A first failed row is replaced by the spare row of its array. -/
theorem failRow_uses_spare (free : ∀ x ∈ s.spares.rows, x.1 ≠ c.toNat * 4 + a.toNat) :
    let t := failRow c a row s
    t.spares = { s.spares with rows := s.spares.rows ++ [(c.toNat * 4 + a.toNat, row)] } ∧ t.err.degraded = true ∧ t.cores = s.cores ∧
      t.tiles = s.tiles ∧ (row ≠ 32 → SpareRecorded s.err.seq t 0x0040 0 (c.setWidth 16)) ∧
      (row = 32 → ∀ e ∈ t.err.formed, e ∈ s.err.formed ∨ e.code = 0x0042) := by
  rw [failRow_of_free free]
  have degraded (u : State) (h : u.spares = (withRow s c a row).spares) : (refreshDegraded u).err.degraded = true := by
    rw [refreshDegraded_degraded, decide_eq_true_iff]
    exact exhausted_ne_zero_of_rows (by simp [h])
  by_cases spare : row = 32
  · simp only [if_pos spare]
    exact ⟨by simp, degraded _ rfl, by simp [withRow], by simp [withRow], fun h => absurd spare h,
      fun _ _ he => mem_formed_of_mem_refreshDegraded (withRow s c a row) he⟩
  · simp only [if_neg spare]
    exact ⟨by simp, degraded _ (spareRecord_spares ..), by simp [withRow], by simp [withRow],
      fun _ => refreshDegraded_spareRecord_recorded (seq := rfl) .., fun h => absurd h spare⟩

/-- A second failed row fails its core. -/
theorem failRow_fails_core {old : BitVec 6}
    (h : s.spares.rows.find? (fun r => r.1 == c.toNat * 4 + a.toNat) = some (c.toNat * 4 + a.toNat, old)) (other : old ≠ row)
    (pend : (s.tile (tileOf c)).pend = false) (retired : (s.tile (tileOf c)).retired = false) (core : (s.tile (tileOf c)).corePend = 0)
    (free : siteOf s (tileOf c) ∉ s.spares.cores) :
    let t := failRow c a row s
    SpareRecorded s.err.seq t 0x0041 0 (c.setWidth 16) ∧ t.spares = s.spares ∧
      t.tile (tileOf c) = { s.tile (tileOf c) with corePend := BitVec.ofNat 32 (2 ^ (c.toNat % 32)) } ∧ t.cores = s.cores := by
  rw [failRow_of_used h other, failCore_of_free (by simpa) (by simpa) (by simpa) (by simpa)]
  exact ⟨spareRecord_recorded (seq := rfl) .., by simp, by simp, by simp⟩

end

end Sys2Proof.Machine
end

section
/-!
PROOFS. Spare cores and tile sites (R451, R452).
-/

namespace Sys2Proof.Machine

variable {s : State}

/-- A pending core whose section is FREE moves to the tile's spare position, in the binding-reset state (R15, R451). -/
theorem substituteCore_of_pending {c : CoreId} (core : (s.tile (tileOf c)).corePend.getLsbD (c.toNat % 32) = true)
    (pend : (s.tile (tileOf c)).pend = false) (retired : (s.tile (tileOf c)).retired = false) (free : sectionFree s (sectionOf c) = true) :
    let t := substituteCore c s
    t.tile (tileOf c) = { s.tile (tileOf c) with corePend := 0, spareCore := some (BitVec.ofNat 5 (c.toNat % 32)) } ∧
      (∀ j, j ≠ tileOf c → t.tile j = s.tile j) ∧ t.core c = .reset ∧ (∀ k, k ≠ c → t.core k = s.core k) ∧
      t.spares.cores = s.spares.cores ++ [siteOf s (tileOf c)] ∧ SpareRecorded s.err.seq t 0x0040 0 (c.setWidth 16) := by
  simp only [substituteCore, core, pend, retired, free, Bool.not_true, Bool.or_self, Bool.false_eq_true, if_false]
  exact ⟨by simp, fun j hj => by simp [hj], by simp, fun k hk => by simp [hk], by simp,
    refreshDegraded_spareRecord_recorded (seq := rfl) ..⟩

theorem mem_tileCores (i : TileId) (c : CoreId) : c ∈ tileCores i ↔ tileOf c = i := by
  have hc := c.isLt
  simp only [tileCores, indices, List.mem_map, List.mem_range, tileOf, ← BitVec.toNat_inj, BitVec.toNat_ofNat]
  constructor
  · rintro ⟨j, hj, same⟩
    have hi := i.isLt
    omega
  · intro same
    exact ⟨c.toNat % 32, by omega, by omega⟩

/-- Cores put into the binding-reset state, one after the other. -/
def resetCores (l : List CoreId) (s : State) : State := l.foldl (fun s c => s.setCore c .reset) s

theorem resetCores_frame (l : List CoreId) (s : State) : resetCores l s = { s with cores := (resetCores l s).cores } := by
  induction l generalizing s with
  | nil => rfl
  | cons c r ih => exact ih (s.setCore c .reset)

@[simp] theorem resetCores_tile (l : List CoreId) (s : State) (i : TileId) : (resetCores l s).tile i = s.tile i :=
  (congrArg (State.tile · i) (resetCores_frame l s)).trans rfl

@[simp] theorem resetCores_spares (l : List CoreId) (s : State) : (resetCores l s).spares = s.spares :=
  (congrArg State.spares (resetCores_frame l s)).trans rfl

@[simp] theorem resetCores_err (l : List CoreId) (s : State) : (resetCores l s).err = s.err :=
  (congrArg State.err (resetCores_frame l s)).trans rfl

theorem resetCores_core (l : List CoreId) (s : State) (k : CoreId) :
    (resetCores l s).core k = if k ∈ l then .reset else s.core k := by
  induction l generalizing s with
  | nil => rfl
  | cons c r ih =>
    rw [show resetCores (c :: r) s = resetCores r (s.setCore c .reset) from rfl, ih, core_setCore]
    by_cases hr : k ∈ r <;> by_cases hc : k = c <;> simp [hr, hc]

/-- The tile with its L2 and its walker as R270 zeroes them. -/
def Tile.zeroed (x : Tile) : Tile := { x with sectors := .empty, sets := .empty, fills := [], fresh := [], walker := .reset }

theorem zeroTile_eq (i : TileId) (s : State) : zeroTile i s = (resetCores (tileCores i) s).modTile i .zeroed := rfl

theorem zeroTile_core (i : TileId) (s : State) (c : CoreId) :
    (zeroTile i s).core c = if tileOf c = i then .reset else s.core c := by
  simp [zeroTile_eq, resetCores_core, mem_tileCores]

theorem zeroTile_tile (i j : TileId) (s : State) :
    (zeroTile i s).tile j = if j = i then (s.tile i).zeroed else s.tile j := by
  simp [zeroTile_eq, tile_modTile]

@[simp] theorem zeroTile_spares (i : TileId) (s : State) : (zeroTile i s).spares = s.spares := by
  simp [zeroTile_eq]

@[simp] theorem zeroTile_err (i : TileId) (s : State) : (zeroTile i s).err = s.err := by
  simp [zeroTile_eq]

/-- A pending tile whose sections are FREE moves to a spare site, with its stores zero (R15, R452). -/
theorem substituteTile_of_pending {i : TileId} {site : BitVec 5} (spare : spareSite s i = some site) (pend : (s.tile i).pend = true)
    (free : tileFree s i = true) :
    let t := substituteTile i s
    siteOf t i = site ∧ (t.tile i).pend = false ∧ (∀ line, (t.tile i).sector line = none) ∧
      (∀ c, tileOf c = i → t.core c = .reset) ∧ (∀ c, tileOf c ≠ i → t.core c = s.core c) ∧
      t.spares.sites = s.spares.sites ++ [siteOf s i] ∧ (∀ j, j ≠ i → t.tile j = s.tile j) ∧
      SpareRecorded s.err.seq t 0x0040 1 (i.setWidth 16) := by
  simp only [substituteTile, spare, pend, free, Bool.not_true, Bool.or_self, Bool.false_eq_true, if_false]
  refine ⟨?_, ?_, fun line => ?_, fun c here => ?_, fun c there => ?_, ?_, fun j hj => ?_, ?_⟩
  · simp [siteOf, zeroTile_tile, Tile.zeroed]
  · simp [zeroTile_tile, Tile.zeroed]
  · simp [zeroTile_tile, Tile.zeroed, Tile.sector]
  · simp [zeroTile_core, here]
  · simp [zeroTile_core, there]
  · simp
  · simp [zeroTile_tile, hj]
  · exact refreshDegraded_spareRecord_recorded (seq := by simp) ..

end Sys2Proof.Machine
end

section
/-!
PROOFS. Spare channels of a stack (R450, R453; log entry 32): what a copy carries poisoned, and what becomes of the stack's spares.
-/

namespace Sys2Proof.Machine

/-! ## Units that a copy carries poisoned -/

/-- Of the stacks only the poison bits of the units in `U` differ, which are set; calibration stays. -/
structure Poisons (s t : State) (U : Nat → Prop) : Prop where
  cal : t.cal = s.cal
  rest : t.stk = { s.stk with psn := t.stk.psn }
  bits : ∀ k, t.stk.psn.get false k = true ↔ s.stk.psn.get false k = true ∨ U k

theorem Poisons.refl (s : State) : Poisons s s fun _ => False := ⟨rfl, rfl, fun _ => by simp⟩

theorem Poisons.trans {s t u : State} {U V : Nat → Prop} (h : Poisons s t U) (h' : Poisons t u V) : Poisons s u fun k => U k ∨ V k where
  cal := h'.cal.trans h.cal
  rest := by
    have rest := h'.rest
    rwa [h.rest] at rest
  bits k := by rw [h'.bits, h.bits, or_assoc]

theorem Poisons.congr {s t : State} {U V : Nat → Prop} (h : Poisons s t U) (same : ∀ k, U k ↔ V k) : Poisons s t V :=
  ⟨h.cal, h.rest, fun k => by rw [h.bits, same]⟩

theorem Poisons.ports {s t : State} {U : Nat → Prop} (h : Poisons s t U) : t.stk.ports = s.stk.ports :=
  (congrArg Stacks.ports h.rest).trans rfl

theorem poisonUnit_poisons (n : Nat) (pa : DWord) (b : Option BindingId) (scrub : Bool) (s : State) :
    Poisons s (poisonUnit (64 * n) pa b scrub s) (n = ·) := by
  have unit : 64 * n / 64 = n := by omega
  simp only [poisonUnit, unit]
  split
  · next already => exact ⟨rfl, rfl, fun k => ⟨.inl, fun h => h.elim id (· ▸ already)⟩⟩
  · refine ⟨by simp, by simp, fun k => ?_⟩
    by_cases hk : k = n
    · simp [hk]
    · simp [Table.get_set, hk, Ne.symm hk]

/-- The unit that unit `u` of a stack is among those of all stacks. -/
def copiedUnit (o : ChannelForm) (u : BitVec 31) : Nat := o.stack.toNat * 2 ^ 31 + u.toNat

/-- Unit `u` of the stack lies on the channel that is copied. -/
abbrev onChannel (o : ChannelForm) (p : StackPort) (u : BitVec 31) : Prop :=
  p.carrier (BitVec.ofNat 6 (Config.channelOf (copiedUnit o u))) = o.channel

/-- The copy of one unit that it finds uncorrectable. -/
def copyUnit (o : ChannelForm) (p : StackPort) (s : State) (u : BitVec 31) : State :=
  if onChannel o p u then
    poisonUnit (64 * copiedUnit o u) (localPa s (offsetOf s (64 * copiedUnit o u))) none false s
  else s

theorem copyUnit_poisons (o : ChannelForm) (p : StackPort) (s : State) (u : BitVec 31) :
    Poisons s (copyUnit o p s u) fun k => onChannel o p u ∧ copiedUnit o u = k := by
  unfold copyUnit
  split
  · next on => exact (poisonUnit_poisons ..).congr fun k => (and_iff_right on).symm
  · next off => exact (Poisons.refl s).congr fun k => ⟨False.elim, fun h => off h.1⟩

theorem foldl_copyUnit_poisons (o : ChannelForm) (p : StackPort) (l : List (BitVec 31)) (s : State) :
    Poisons s (l.foldl (copyUnit o p) s) fun k => ∃ u ∈ l, onChannel o p u ∧ copiedUnit o u = k := by
  induction l generalizing s with
  | nil => exact (Poisons.refl s).congr (by simp)
  | cons u r ih => exact ((copyUnit_poisons o p s u).trans (ih _)).congr (by simp)

theorem poisonCopied_eq (o : ChannelForm) (s : State) :
    poisonCopied o s = o.bad.foldl (copyUnit o (s.stk.ports.get .reset o.stack.toNat)) s := rfl

/-! ## The spares of a stack -/

/-- Of the stacks only what stack `n` records of its channels differs, which becomes `q`. -/
structure PortBecomes (s t : State) (n : Nat) (q : StackPort) : Prop where
  rest : t.stk = { s.stk with ports := t.stk.ports }
  here : t.stk.ports.get .reset n = q
  others : ∀ k, k ≠ n → t.stk.ports.get .reset k = s.stk.ports.get .reset k

/-- What stack `n` records of its channels becomes `p`. -/
def State.setStackPort (s : State) (n : Nat) (p : StackPort) : State :=
  { s with stk := { s.stk with ports := s.stk.ports.set .reset n p } }

theorem PortBecomes.of_stk_eq {s t : State} {n : Nat} {q : StackPort} (h : t.stk = (s.setStackPort n q).stk) : PortBecomes s t n q where
  rest := by rw [h]; rfl
  here := by rw [h]; exact Table.get_set_same ..
  others k hk := by rw [h]; exact Table.get_set_other _ _ _ hk

theorem PortBecomes.refl {s : State} {n : Nat} {q : StackPort} (h : s.stk.ports.get .reset n = q) : PortBecomes s s n q :=
  ⟨rfl, h, fun _ _ => rfl⟩

/-- A spare channel takes over units of channel `ch`: its record is formed, and DEGRADED brought up to date. -/
def spareTaken (n : Nat) (ch : BitVec 6) (q : StackPort) (s : State) : State :=
  refreshDegraded (spareRecord 0x0040 6 2 (BitVec.ofNat 16 n) (ch.setWidth 8) 0 (BitVec.ofNat 8 q.freeSpares.length) (s.setStackPort n q))

/-- Channel `ch` is lost with the units that it carried: its record is formed. -/
def channelGone (n : Nat) (ch : BitVec 6) (q : StackPort) (s : State) : State :=
  spareRecord 0x0041 6 2 (BitVec.ofNat 16 n) (ch.setWidth 8) 0 0 (s.setStackPort n q)

section
variable {s : State} {n : Nat} {ch : BitVec 6} {p : StackPort}

theorem spareTaken_becomes (q : StackPort) : PortBecomes s (spareTaken n ch q s) n q := .of_stk_eq (by simp [spareTaken])

theorem channelGone_becomes (q : StackPort) : PortBecomes s (channelGone n ch q s) n q := .of_stk_eq (by simp [channelGone])

theorem spareTaken_recorded (n : BitVec 5) (q : StackPort) :
    SpareRecorded s.err.seq (spareTaken n.toNat ch q s) 0x0040 2 (n.setWidth 16) :=
  BitVec.ofNat_toNat 16 n ▸ refreshDegraded_spareRecord_recorded (seq := rfl) ..

theorem channelGone_recorded (n : BitVec 5) (q : StackPort) :
    SpareRecorded s.err.seq (channelGone n.toNat ch q s) 0x0041 2 (n.setWidth 16) :=
  BitVec.ofNat_toNat 16 n ▸ spareRecord_recorded (seq := rfl) ..

theorem revertStep_of_idle {kind group : Nat} (h : (s.cal.groups.get .reset (groupKey kind group)).step = none) :
    revertStep kind group s = s := by
  simp only [revertStep, h]

variable (idle : (s.cal.groups.get .reset (groupKey 3 n)).step = none) (port : s.stk.ports.get .reset n = p)

include idle port in
/-- A channel that is lost or replaced fails again without effect. -/
theorem failChannel_again (h : ch ∈ p.lost ∨ ∃ x ∈ p.spared, x.1 = ch) : failChannel n ch s = s := by
  have known : (p.lost.contains ch || p.spared.any fun x => x.1 == ch) = true := by simpa using h
  simp only [failChannel, revertStep_of_idle idle, port, known, if_true]

variable (kept : ch ∉ p.lost) (unspared : ∀ x ∈ p.spared, x.1 ≠ ch)

include kept unspared in
theorem channel_unknown : (p.lost.contains ch || p.spared.any fun x => x.1 == ch) = false :=
  Bool.or_eq_false_iff.2 ⟨by simpa using kept, List.any_eq_false.2 fun x hx => by simpa using unspared x hx⟩

theorem no_carrier (own : ∀ x ∈ p.spared, x.2 ≠ ch) : p.spared.find? (fun x => x.2 == ch) = none :=
  List.find?_eq_none.2 fun x hx => by simpa using own x hx

include idle port kept unspared

theorem failChannel_takes_spare (own : ∀ x ∈ p.spared, x.2 ≠ ch) (low : ch.toNat < 32) {y : BitVec 6} {l : List (BitVec 6)}
    (free : p.freeSpares = y :: l) : failChannel n ch s = spareTaken n ch { p with spared := p.spared ++ [(ch, y)] } s := by
  simp only [failChannel, revertStep_of_idle idle, port, channel_unknown kept unspared, no_carrier own, free, decide_eq_true_eq,
    Nat.not_le.2 low, Bool.false_eq_true, if_false]
  rfl

theorem failChannel_without_spare (own : ∀ x ∈ p.spared, x.2 ≠ ch) (low : ch.toNat < 32) (free : p.freeSpares = []) :
    failChannel n ch s = channelGone n ch { p with lost := p.lost ++ [ch] } s := by
  simp only [failChannel, revertStep_of_idle idle, port, channel_unknown kept unspared, no_carrier own, free, decide_eq_true_eq,
    Nat.not_le.2 low, Bool.false_eq_true, if_false]
  rfl

theorem failChannel_idle_spare (own : ∀ x ∈ p.spared, x.2 ≠ ch) (high : 32 ≤ ch.toNat) :
    failChannel n ch s = refreshDegraded (s.setStackPort n { p with lost := p.lost ++ [ch] }) := by
  simp only [failChannel, revertStep_of_idle idle, port, channel_unknown kept unspared, no_carrier own, high, decide_true,
    Bool.false_eq_true, if_false, if_true]
  rfl

section
variable {pre post : List (BitVec 6 × BitVec 6)} {x : BitVec 6 × BitVec 6} (carries : p.spared = pre ++ x :: post) (here : x.2 = ch)
  (only : ∀ z ∈ pre ++ post, z.2 ≠ ch)

omit idle port kept unspared in
include carries here only in
theorem find_carrier : p.spared.find? (fun z => z.2 == ch) = some x := by
  have before : pre.find? (fun z => z.2 == ch) = none :=
    List.find?_eq_none.2 fun z hz => by simpa using only z (List.mem_append_left _ hz)
  simp [carries, before, here]

omit idle port kept unspared in
include carries here only in
theorem map_carrier (y : BitVec 6) :
    p.spared.map (fun z => if z.2 == ch then (x.1, y) else z) = pre ++ (x.1, y) :: post := by
  have others (l : List (BitVec 6 × BitVec 6)) (hl : ∀ z ∈ l, z.2 ≠ ch) : l.map (fun z => if z.2 == ch then (x.1, y) else z) = l :=
    (List.map_congr_left fun z hz => by simp [hl z hz]).trans l.map_id
  rw [carries, List.map_append, List.map_cons, others pre fun z hz => only z (List.mem_append_left _ hz),
    others post fun z hz => only z (List.mem_append_right _ hz), if_pos (beq_iff_eq.2 here)]

include carries here only

theorem failChannel_passes_on {y : BitVec 6} {l : List (BitVec 6)}
    (free : ({ p with lost := p.lost ++ [ch] } : StackPort).freeSpares = y :: l) :
    failChannel n ch s = spareTaken n ch { p with lost := p.lost ++ [ch], spared := pre ++ (x.1, y) :: post } s := by
  simp only [failChannel, revertStep_of_idle idle, port, channel_unknown kept unspared, find_carrier carries here only, free,
    map_carrier carries here only, Bool.false_eq_true, if_false]
  rfl

theorem failChannel_ends_carrying (free : ({ p with lost := p.lost ++ [ch] } : StackPort).freeSpares = []) :
    failChannel n ch s = channelGone n ch { p with lost := p.lost ++ [ch] } s := by
  simp only [failChannel, revertStep_of_idle idle, port, channel_unknown kept unspared, find_carrier carries here only, free,
    Bool.false_eq_true, if_false]
  rfl

end

end

/-! ## The copy -/

/-- What STACK_CHANNEL_COPY leaves: of the stacks, the record of stack `o.stack` becomes `q`, and the units that the copy names
of those on the channel are poisoned. -/
def Copied (s t : State) (o : ChannelForm) (q : StackPort) : Prop :=
  t.stk = { s.stk with ports := t.stk.ports, psn := t.stk.psn } ∧ t.stk.ports.get .reset o.stack.toNat = q ∧
    (∀ k, k ≠ o.stack.toNat → t.stk.ports.get .reset k = s.stk.ports.get .reset k) ∧
    ∀ k, t.stk.psn.get false k = true ↔
      s.stk.psn.get false k = true ∨ ∃ u ∈ o.bad, onChannel o (s.stk.ports.get .reset o.stack.toNat) u ∧ copiedUnit o u = k

theorem Copied.of_poisons_becomes {s t u : State} {o : ChannelForm} {q : StackPort}
    (poisons : Poisons s t fun k => ∃ u ∈ o.bad, onChannel o (s.stk.ports.get .reset o.stack.toNat) u ∧ copiedUnit o u = k)
    (becomes : PortBecomes t u o.stack.toNat q) : Copied s u o q := by
  refine ⟨?_, becomes.here, fun k hk => ?_, fun k => ?_⟩
  · have rest := becomes.rest
    rw [poisons.rest] at rest
    rw [rest]
  · rw [becomes.others k hk, poisons.ports]
  · rw [becomes.rest]
    exact poisons.bits k

/-- STACK_CHANNEL_COPY in a powered module with no calibration step in the stack: where a failure of the channel is `f`, which makes
the record of the stack `q`, so does the copy, and without uncorrectable units it does nothing else. -/
theorem stackChannelCopy_completes {s : State} {n : BitVec 5} {ch : BitVec 6} {bad : List (BitVec 31)} {q : StackPort} {P : State → Prop}
    (hch : ch.toNat < 34) (up : counterRuns s = true) (idle : (s.cal.groups.get .reset (groupKey 3 n.toNat)).step = none)
    (f : State → State)
    (fails : ∀ t : State, (t.cal.groups.get .reset (groupKey 3 n.toNat)).step = none →
      t.stk.ports.get .reset n.toNat = s.stk.ports.get .reset n.toNat → failChannel n.toNat ch t = f t ∧ PortBecomes t (f t) n.toNat q)
    (post : P (f s)) :
    Completes (.stackChannelCopy ⟨n, ch, bad⟩) s fun t => Copied s t ⟨n, ch, bad⟩ q ∧ (bad = [] → P t) := by
  have poisons : Poisons s (poisonCopied ⟨n, ch, bad⟩ s) _ := poisonCopied_eq ⟨n, ch, bad⟩ s ▸ foldl_copyUnit_poisons ..
  obtain ⟨failed, becomes⟩ := fails (poisonCopied ⟨n, ch, bad⟩ s) (by rw [poisons.cal, idle]) (by rw [poisons.ports])
  refine ⟨f (poisonCopied ⟨n, ch, bad⟩ s), ?_, .of_poisons_becomes poisons becomes, ?_⟩
  · show execStackChannelCopy ⟨n, ch, bad⟩ s = _
    simp only [execStackChannelCopy, powered, up, if_neg (Nat.not_le.2 hch), if_true, failed]
  · rintro rfl
    exact post

end Sys2Proof.Machine
end

section
/-!
PROOFS. Spares take the place of failed units: each command's clause, and the obligation (R15, R189, R450 to R454; log entry 32).
-/

namespace Sys2Proof.Machine

/-- Settles O46: rows by `failRow_uses_spare` and `failRow_fails_core`, cores and tiles by `substituteCore_of_pending` and
`substituteTile_of_pending`, channels by what `failChannel` makes of each kind of channel. -/
theorem sparesSubstituteFailedUnits : Obligations.SparesSubstituteFailedUnits := by
  unfold Obligations.SparesSubstituteFailedUnits
  intro s
  refine ⟨fun c a row hrow up => ⟨fun busy => ?row_waits, fun between => ⟨fun free => ?row_first, fun same => ?row_again,
      fun old used other pend retired core free => ?row_second⟩⟩,
    fun c core pend retired free => ⟨_, rfl, substituteCore_of_pending core pend retired free⟩,
    fun i site spare pend free => ⟨_, rfl, substituteTile_of_pending spare pend free⟩,
    fun n ch bad hch up idle => ?channel⟩
  case row_waits => exact ⟨s, by simp [exec_rowSubstitution hrow up, busy], rfl⟩
  case row_first => exact ⟨failRow c a row s, by simp [exec_rowSubstitution hrow up, between], failRow_uses_spare free⟩
  case row_again => exact ⟨s, by simp [exec_rowSubstitution hrow up, between, failRow_repeat same], rfl⟩
  case row_second =>
    exact ⟨failRow c a row s, by simp [exec_rowSubstitution hrow up, between], failRow_fails_core used other pend retired core free⟩
  case channel =>
    refine ⟨fun known => ?_, fun kept unspared => ⟨fun own => ⟨fun y l low free => ?_, fun low none_free => ?_, fun high => ?_⟩,
      fun pre x post carries here only => ⟨fun y l free => ?_, fun none_free => ?_⟩⟩⟩
    · exact stackChannelCopy_completes hch up idle id
        (fun t it same => ⟨failChannel_again it same known, .refl same⟩) rfl
    · exact stackChannelCopy_completes hch up idle (spareTaken n.toNat ch _)
        (fun t it same => ⟨failChannel_takes_spare it same kept unspared own low free, spareTaken_becomes _⟩)
        (spareTaken_recorded ..)
    · exact stackChannelCopy_completes hch up idle (channelGone n.toNat ch _)
        (fun t it same => ⟨failChannel_without_spare it same kept unspared own low none_free, channelGone_becomes _⟩)
        (channelGone_recorded ..)
    · exact stackChannelCopy_completes hch up idle (fun t => refreshDegraded (t.setStackPort n.toNat _))
        (fun t it same => ⟨failChannel_idle_spare it same kept unspared own high, .of_stk_eq (refreshDegraded_stk _)⟩)
        (fun _ he => mem_formed_of_mem_refreshDegraded (s.setStackPort n.toNat _) he)
    · exact stackChannelCopy_completes hch up idle (spareTaken n.toNat ch _)
        (fun t it same => ⟨failChannel_passes_on it same kept unspared carries here only free, spareTaken_becomes _⟩)
        (spareTaken_recorded ..)
    · exact stackChannelCopy_completes hch up idle (channelGone n.toNat ch _)
        (fun t it same => ⟨failChannel_ends_carrying it same kept unspared carries here only none_free, channelGone_becomes _⟩)
        (channelGone_recorded ..)

end Sys2Proof.Machine
end

section
/-!
PROOFS. The breath registers (R42, R43).
-/

namespace Sys2Proof.Machine

theorem hostAlive_of_bar0Open {s : State} (h : bar0Open s = true) : hostAlive s = true := by
  simp only [bar0Open, barsAnswer, Bool.and_eq_true] at h
  exact h.1.1.1

theorem bitsOf_zero (v : Word) (n : Nat) : bitsOf v.toNat 0 n = (v.setWidth n).toNat := by
  simp [bitsOf]

/-- Where a second boundary 1 ms or more after a beat time has come, the schedule changes (R43). -/
theorem changeAt_le {a b now : Nat} (boundary : b % second = 0) (late : a + 16000000 ≤ b) (come : b ≤ now) : changeAt a ≤ now := by
  unfold changeAt second at *
  omega

section
variable (v : Word) (s : State)

theorem writePeriod_of_legal (h : 250 ≤ (v.setWidth 14).toNat ∧ (v.setWidth 14).toNat ≤ 16000 ∧
    2 * (acceptedLen s.time).toNat ≤ (v.setWidth 14).toNat) :
    writePeriod v s = s.modTime fun t => { t with periodPend := some (v.setWidth 14), acceptedAt := t.count } := by
  rw [writePeriod, bitsOf_zero, if_pos (by omega), BitVec.ofNat_toNat, BitVec.setWidth_eq]

theorem writePeriod_of_illegal (h : (v.setWidth 14).toNat < 250 ∨ 16000 < (v.setWidth 14).toNat ∨
    (v.setWidth 14).toNat < 2 * (acceptedLen s.time).toNat) :
    writePeriod v s = s.modTime fun t => { t with cfgRej := true } := by
  rw [writePeriod, bitsOf_zero, if_neg (by omega)]

theorem writeLen_of_legal (h : 5 ≤ (v.setWidth 8).toNat ∧ (v.setWidth 8).toNat ≤ 200 ∧
    2 * (v.setWidth 8).toNat ≤ (acceptedPeriod s.time).toNat) :
    writeLen v s = s.modTime fun t => { t with lenPend := some (v.setWidth 8), acceptedAt := t.count } := by
  rw [writeLen, bitsOf_zero, if_pos (by omega), BitVec.ofNat_toNat, BitVec.setWidth_eq]

theorem writeLen_of_illegal (h : (v.setWidth 8).toNat < 5 ∨ 200 < (v.setWidth 8).toNat ∨
    (acceptedPeriod s.time).toNat < 2 * (v.setWidth 8).toNat) :
    writeLen v s = s.modTime fun t => { t with cfgRej := true } := by
  rw [writeLen, bitsOf_zero, if_neg (by omega)]

end

/-- Settles O29: both writes by the ranges of `writePeriod` and `writeLen`, the change by `changeAt_le`. -/
theorem breathSchedule : Obligations.BreathSchedule := by
  unfold Obligations.BreathSchedule
  intro s v opened
  have period : exec (.breathPeriod ⟨v⟩) s = .next (writePeriod v s) := if_pos opened
  have len : exec (.breathLen ⟨v⟩) s = .next (writeLen v s) := if_pos opened
  refine ⟨fun legal => ⟨_, period, ?_⟩, fun illegal => ⟨_, period, ?_⟩, fun legal => ⟨_, len, ?_⟩,
    fun illegal => ⟨_, len, ?_⟩, fun pends ⟨b, boundary, late, come⟩ => ⟨_, ?_, rfl⟩⟩
  · rw [writePeriod_of_legal v s legal]; rfl
  · rw [writePeriod_of_illegal v s illegal]; rfl
  · rw [writeLen_of_legal v s legal]; rfl
  · rw [writeLen_of_illegal v s illegal]; rfl
  · exact if_pos ⟨hostAlive_of_bar0Open opened, pends, changeAt_le boundary late come⟩

end Sys2Proof.Machine
end

section
/-!
PROOFS. Time sources, the approach to the source, and the crossings of a second (R31, R33, R34, R37 to R41, R491; log entry 45).
-/

namespace Sys2Proof.Machine

/-! ## Sources that qualify and are lost (R37, R491) -/

section
variable {s : State}

theorem sourceLost_of_disciplined {ptp : Bool} (h : s.time.disc = .locked ∨ ptp ∧ s.time.disc = .ptp) :
    sourceLost ptp s = s.modTime fun t => TimeState.lowerGoal ptp
      { t with disc := .holdover, bound := uncert s, holdSince := t.count, slewing := false, lost := true } := by
  simp only [sourceLost, if_pos h]; rfl

theorem sourceLost_of_undisciplined {ptp : Bool} (h : ¬(s.time.disc = .locked ∨ ptp ∧ s.time.disc = .ptp)) :
    sourceLost ptp s = s.modTime (TimeState.lowerGoal ptp) := by
  simp only [sourceLost, if_neg h]

/-- The goal that stays once BEAT_PPS or BEAT_10M is lost: at most PTP. -/
def TimeState.goalWithoutEdge (t : TimeState) : Option Discipline := if t.goal = some .locked then some .ptp else t.goal

theorem sourceLost_of_locked (h : s.time.disc = .locked) : sourceLost false s = s.modTime fun t => { t with
    disc := .holdover, bound := uncert s, holdSince := t.count, slewing := false, lost := true, goal := t.goalWithoutEdge } := by
  rw [sourceLost_of_disciplined (.inl h)]
  unfold State.modTime TimeState.lowerGoal TimeState.goalWithoutEdge
  by_cases goal : s.time.goal = some .locked <;> simp [goal]

theorem sourceLost_of_unlocked (h : s.time.disc ≠ .locked) :
    ∃ slews, (s.time.goal ≠ some .locked → slews = s.time.slewing) ∧
      sourceLost false s = s.modTime fun t => { t with goal := t.goalWithoutEdge, slewing := slews } := by
  rw [sourceLost_of_undisciplined (by simp [h])]
  unfold State.modTime TimeState.lowerGoal TimeState.goalWithoutEdge
  by_cases goal : s.time.goal = some .locked
  · exact ⟨_, fun other => absurd goal other, by simp [goal]; rfl⟩
  · exact ⟨_, fun _ => rfl, by simp [goal]⟩

section
variable (alive : hostAlive s = true)
include alive

theorem exec_beatPpsEdge (b : Bool) : exec (.beatPpsEdge ⟨b⟩) s = .next (s.modTime fun t => { t with
    ppsEdges := if b ∧ s.time.ppsEdges ≠ 0 then s.time.ppsEdges + 1 else 1
    ppsOk := t.ppsOk || decide (3 ≤ if b ∧ s.time.ppsEdges ≠ 0 then s.time.ppsEdges + 1 else 1) }) :=
  if_neg (by simp [alive])

theorem exec_ptpMessage (b : Bool) : exec (.ptpMessage ⟨b⟩) s = .next (s.modTime fun t => { t with
    ptpMsgs := if b ∧ s.time.ptpMsgs ≠ 0 then s.time.ptpMsgs + 1 else 1
    ptpOk := t.ptpOk || decide (2 ≤ if b ∧ s.time.ptpMsgs ≠ 0 then s.time.ptpMsgs + 1 else 1) }) :=
  if_neg (by simp [alive])

theorem exec_ppsLoss : exec .ppsLoss s = .next ((sourceLost false s).modTime fun t => { t with ppsOk := false, ppsEdges := 0 }) :=
  if_neg (by simp [alive])

theorem exec_beat10mLoss : exec .beat10mLoss s = .next ((sourceLost false s).modTime fun t => { t with tenOk := false }) :=
  if_neg (by simp [alive])

theorem exec_ptpLoss : exec .ptpLoss s = .next ((sourceLost true s).modTime fun t => { t with ptpOk := false, ptpMsgs := 0 }) :=
  if_neg (by simp [alive])

end

end

/-! ## A forward step of the counter (R41) -/

theorem mem_entries_mapListed {α : Type} [DecidableEq α] {d : α} {t : Table α} {f : Nat → α → α} {e : Nat × α}
    (h : e ∈ (t.mapListed d f).entries) : ∃ x ∈ t.entries, e = (x.1, f x.1 x.2) := by
  unfold Table.mapListed at h
  revert h
  induction t.entries with
  | nil => intro h; simp [Table.empty] at h
  | cons x r ih =>
    intro h
    rw [List.foldr_cons, Table.set] at h
    split at h
    · obtain ⟨y, hy, he⟩ := ih ((drop_sublist ..).subset h)
      exact ⟨y, List.mem_cons_of_mem x hy, he⟩
    · rcases mem_insert_key h with rfl | h
      · exact ⟨x, List.mem_cons_self, rfl⟩
      · obtain ⟨y, hy, he⟩ := ih h
        exact ⟨y, List.mem_cons_of_mem x hy, he⟩

theorem allDescs_eq_nil_iff (s : State) : s.allDescs = [] ↔ ∀ e ∈ s.rings.entries, e.2.descs = [] := by
  simp [State.allDescs]

theorem missSkipped_of_no_descs {s : State} (h : s.allDescs = []) : missSkipped s = s := by
  rw [missSkipped, h, List.foldl_nil]

/-- With no descriptor accepted a forward step sets the counter and touches the ring table alone. -/
theorem stepForward_of_no_descs {s : State} {n : Nat} (forward : s.time.count.toNat ≤ n) (fits : n < 2 ^ 64) (h : s.allDescs = []) :
    ∃ rings, stepForward n s = { s.modTime fun t => { t with count := BitVec.ofNat 64 n } with rings := rings } := by
  have reached : max s.time.count.toNat (min n (2 ^ 64 - 1)) = n := by omega
  unfold stepForward
  rw [reached, missSkipped_of_no_descs]
  · exact ⟨_, rfl⟩
  · rw [allDescs_eq_nil_iff] at h ⊢
    intro e he
    obtain ⟨x, hx, rfl⟩ := mem_entries_mapListed he
    simp [h x hx]

/-! ## Approaching the source (R38, R40) -/

section
variable {s : State} {d : Discipline} {diff : Int}

theorem boundTicks_le (d : Discipline) : boundTicks d ≤ 800 := by
  unfold boundTicks boundOf
  split <;> omega

theorem boundOf_pos (d : Discipline) : 0 < boundOf d := by
  unfold boundOf
  split <;> omega

theorem zero_near (d : Discipline) : (0 : Int).natAbs < boundTicks d := by
  have := boundOf_pos d
  simp only [boundTicks, Int.natAbs_zero]
  omega

theorem approach_near (near : diff.natAbs < boundTicks d) (may : mayEnter s d = true) : approach d diff s = enterDisciplined d s :=
  if_pos ⟨near, may⟩

theorem approach_small (far : ¬(diff.natAbs < boundTicks d ∧ mayEnter s d = true)) (small : diff.natAbs ≤ 16000) :
    approach d diff s = s.modTime fun t => { t with slewing := true } := by
  rw [approach, if_neg far, if_pos small]

theorem approach_zero : approach d 0 s =
    if mayEnter s d then enterDisciplined d s else s.modTime fun t => { t with slewing := true } := by
  split
  · next may => exact approach_near (zero_near d) may
  · next unmet => exact approach_small (fun h => unmet h.2) (by simp)

theorem approach_large (large : 16000 < diff.natAbs) : approach d diff s = jumpPending diff s := by
  have := boundTicks_le d
  rw [approach, if_neg (by omega), if_neg (by omega)]

theorem mayEnter_of {d : Discipline} (h : d = .locked ∧ s.time.allOk = true ∨ d = .ptp ∧ s.time.ptpOk = true ∧ s.time.allOk = false ∧
    (s.time.disc ≠ .holdover ∨ 50 ≤ uncert s)) : mayEnter s d = true := by
  obtain ⟨rfl, all⟩ | ⟨rfl, ptp, part, grown⟩ := h
  · simpa [mayEnter] using all
  · simpa [mayEnter, ptp, part] using grown

end

/-! ## A crossing (R39, R40) -/

/-- The discipline state that the qualified sources give at a second edge. -/
def TimeState.given (t : TimeState) : Discipline := if t.allOk then .locked else .ptp

/-- The time block once a second edge has measured a difference. -/
def TimeState.measured (diff : Int) (t : TimeState) : TimeState := { t with diff := some diff, goal := some t.given, acquired := true }

theorem given_disciplined (t : TimeState) : t.given = .locked ∨ t.given = .ptp := by
  unfold TimeState.given
  split <;> simp

theorem on_of_hostAlive {s : State} (alive : hostAlive s = true) : s.mod.state ≠ .off := by
  simp only [hostAlive, Bool.and_eq_true, decide_eq_true_eq] at alive
  exact alive.1

section
variable {s : State} {diff : Int}

@[simp] theorem uncert_measured : uncert (s.modTime (.measured diff)) = uncert s := rfl

theorem mayEnter_given (ptp : s.time.ptpOk = true) (h : s.time.disc ≠ .holdover ∨ s.time.allOk = true ∨ 50 ≤ uncert s) :
    mayEnter s s.time.given = true := by
  refine mayEnter_of ?_
  by_cases all : s.time.allOk = true
  · exact .inl ⟨by simp [TimeState.given, all], all⟩
  · exact .inr ⟨by simp [TimeState.given, all], ptp, by simpa using all, by tauto⟩

variable {o : CrossingForm}

/-- The source time at the edge less the counter. -/
def edgeDiff (t : TimeState) (o : CrossingForm) : Int := sourceTime t o - t.count.toNat

section
variable (alive : hostAlive s = true) (counts : s.time.expired = false) (ptp : s.time.ptpOk = true)
include alive counts ptp

theorem timeCrossing_first (free : s.time.disc = .free) (first : s.time.acquired = false) (ahead : 0 < edgeDiff s.time o) :
    exec (.timeCrossing o) s =
      .next (stepToSource (sourceTime s.time o) s.time.given (s.modTime (.measured (edgeDiff s.time o)))) := by
  show execTimeCrossing o s = _
  unfold edgeDiff at ahead
  simp only [execTimeCrossing, alive, counts, ptp, free, first, ahead]
  rfl

theorem timeCrossing_later (free : s.time.disc = .free) (later : edgeDiff s.time o ≤ 0 ∨ s.time.acquired = true) :
    exec (.timeCrossing o) s = .next (approach s.time.given (edgeDiff s.time o) (s.modTime (.measured (edgeDiff s.time o)))) := by
  show execTimeCrossing o s = _
  unfold edgeDiff at later
  have unstepped : ¬(0 < sourceTime s.time o - s.time.count.toNat ∧ (!s.time.acquired) = true) := by
    rcases later with behind | acquired
    · omega
    · simp [acquired]
  simp only [execTimeCrossing, alive, counts, ptp, free, if_neg unstepped]
  rfl

theorem timeCrossing_disciplined (disc : s.time.disc = .locked ∨ s.time.disc = .ptp) :
    exec (.timeCrossing o) s = .next (if s.time.given = s.time.disc ∧ (edgeDiff s.time o).natAbs ≤ 16000 then
      (s.modTime (.measured (edgeDiff s.time o))).modTime fun t => { t with slewing := true }
      else approach s.time.given (edgeDiff s.time o) (s.modTime (.measured (edgeDiff s.time o)))) := by
  show execTimeCrossing o s = _
  rcases disc with disc | disc <;>
  · simp only [execTimeCrossing, alive, counts, ptp, disc]
    rfl

theorem timeCrossing_accepted (held : s.time.disc = .holdover) (pend : s.time.jumpPend = true) (accepted : s.time.jumpOk = true)
    (forward : s.time.jumpDir = true) :
    exec (.timeCrossing o) s =
      .next (stepToSource (sourceTime s.time o) s.time.given (s.modTime (.measured (edgeDiff s.time o)))) := by
  show execTimeCrossing o s = _
  simp only [execTimeCrossing, alive, counts, ptp, held, pend, accepted, forward]
  rfl

end

/-- A step to a source that is not behind the counter brings it there and leaves no difference. -/
theorem stepToSource_ahead {target : Int} {d : Discipline} (ahead : s.time.count.toNat ≤ target) (fits : target < 2 ^ 64)
    (h : s.allDescs = []) : ∃ rings, stepToSource target d s = approach d 0 { s.modTime fun t => { t with
      count := BitVec.ofNat 64 target.toNat, diff := some 0, jumpPend := false, jumpOk := false } with rings := rings } := by
  obtain ⟨rings, step⟩ := stepForward_of_no_descs (s := s) (n := target.toNat) (by omega) (by omega) h
  have left : target - ((BitVec.ofNat 64 target.toNat).toNat : Int) = 0 := by
    rw [BitVec.toNat_ofNat, Nat.mod_eq_of_lt (by omega)]
    omega
  refine ⟨rings, ?_⟩
  simp only [stepToSource, step, State.modTime, left]

/-! ## A jump that waits for acceptance (R40) -/

theorem logEvent_of_on (on : s.mod.state ≠ .off) (source severity : Byte) (code : BitVec 16) (data : List Byte) :
    ∃ e : EventRec, e.code = code ∧ logEvent source severity code data s =
      { s with mgmt := { s.mgmt with log := (e :: s.mgmt.log).take 65536, logSeq := s.mgmt.logSeq + 1 } } :=
  ⟨_, rfl, if_neg on⟩

theorem jumpPending_frame (on : s.mod.state ≠ .off) : ∃ e : EventRec, e.code = Config.eventCode 1 ∧ jumpPending diff s =
    { s with
      time := { (if s.time.disc = .holdover then s else enterHoldover s).time with
        jumpPend := true, jumpDir := decide (0 < diff), jumpOk := false, slewing := false }
      mgmt := { s.mgmt with log := (e :: s.mgmt.log).take 65536, logSeq := s.mgmt.logSeq + 1 } } := by
  unfold jumpPending
  split
  · exact logEvent_of_on (s := s.modTime _) on ..
  · exact logEvent_of_on (s := (enterHoldover s).modTime _) on ..

/-! ## What becomes of a crossing -/

/-- The time block once a crossing has stepped the counter to the source. -/
def TimeState.landed (t : TimeState) (o : CrossingForm) : TimeState := { t.measured (edgeDiff t o) with
  count := BitVec.ofNat 64 (sourceTime t o).toNat, diff := some 0, jumpPend := false, jumpOk := false }

theorem landed_count {t : TimeState} (ahead : t.count.toNat ≤ sourceTime t o) (fits : sourceTime t o < 2 ^ 64) :
    ((t.landed o).count.toNat : Int) = sourceTime t o := by
  show ((BitVec.ofNat 64 _).toNat : Int) = _
  rw [BitVec.toNat_ofNat, Nat.mod_eq_of_lt (by omega)]
  omega

theorem landed_later {t : TimeState} (ahead : t.count.toNat ≤ sourceTime t o) (fits : sourceTime t o < 2 ^ 64) :
    t.count.toNat ≤ (t.landed o).count.toNat := by
  have := landed_count ahead fits
  omega

section
variable (alive : hostAlive s = true) (counts : s.time.expired = false) (ptp : s.time.ptpOk = true)
include alive counts ptp

/-- The first crossing with the source ahead steps the counter to it and enters the state that the sources give. -/
theorem timeCrossing_enters_ahead (free : s.time.disc = .free) (first : s.time.acquired = false) (ahead : 0 < edgeDiff s.time o)
    (fits : sourceTime s.time o < 2 ^ 64) (h : s.allDescs = []) :
    ∃ rings, exec (.timeCrossing o) s = .next (enterDisciplined s.time.given { s with time := s.time.landed o, rings := rings }) := by
  have forward : (s.time.count.toNat : Int) ≤ sourceTime s.time o := by unfold edgeDiff at ahead; omega
  obtain ⟨rings, step⟩ := stepToSource_ahead (s := s.modTime (.measured (edgeDiff s.time o))) (d := s.time.given) forward fits h
  refine ⟨rings, ?_⟩
  rw [timeCrossing_first alive counts ptp free first ahead, step, approach_near (zero_near _)]
  · rfl
  · exact mayEnter_given (s := { s with time := s.time.landed o, rings := rings }) ptp (.inl fun h => nomatch free.symm.trans h)

theorem timeCrossing_enters_near (free : s.time.disc = .free) (later : edgeDiff s.time o ≤ 0 ∨ s.time.acquired = true)
    (near : (edgeDiff s.time o).natAbs < boundTicks s.time.given) :
    exec (.timeCrossing o) s = .next (enterDisciplined s.time.given (s.modTime (.measured (edgeDiff s.time o)))) := by
  rw [timeCrossing_later alive counts ptp free later, approach_near near]
  exact mayEnter_given (s := s.modTime _) ptp (.inl fun h => nomatch free.symm.trans h)

theorem timeCrossing_slews (disc : s.time.disc = s.time.given ∨ s.time.disc = .free ∧
    (edgeDiff s.time o ≤ 0 ∨ s.time.acquired = true) ∧ boundTicks s.time.given ≤ (edgeDiff s.time o).natAbs)
    (small : (edgeDiff s.time o).natAbs ≤ 16000) :
    exec (.timeCrossing o) s =
      .next ((s.modTime (.measured (edgeDiff s.time o))).modTime fun t => { t with slewing := true }) := by
  rcases disc with same | ⟨free, later, far⟩
  · rw [timeCrossing_disciplined alive counts ptp (same ▸ given_disciplined s.time), if_pos ⟨same.symm, small⟩]
  · rw [timeCrossing_later alive counts ptp free later, approach_small (fun h => absurd h.1 (Nat.not_lt.2 far)) small]

omit counts ptp in
theorem slewLock_enters {d : Discipline} {e : Int} (slews : s.time.slewing = true) (he : s.time.diff = some e) (hd : s.time.goal = some d)
    (near : e.natAbs < boundTicks d) (may : mayEnter s d = true) : exec .slewLock s = .next (enterDisciplined d s) := by
  show execSlewLock s = _
  simp only [execSlewLock, he, hd]
  exact if_pos ⟨alive, slews, near, may⟩

omit counts ptp in
theorem holdoverToPtp_approaches {e : Int} (held : s.time.disc = .holdover) (unpending : s.time.jumpPend = false)
    (he : s.time.diff = some e) (hd : s.time.goal = some .ptp) (may : mayEnter s .ptp = true) :
    exec .holdoverToPtp s = .next (approach .ptp e s) := by
  show execHoldoverToPtp s = _
  simp only [execHoldoverToPtp, he, hd]
  exact if_pos ⟨alive, held, by simp [unpending], may⟩

/-- A large difference in FREE after the first edge, in PTP or in LOCKED enters HOLDOVER with a jump that waits. -/
theorem timeCrossing_pends (disc : s.time.disc = .free ∧ (edgeDiff s.time o ≤ 0 ∨ s.time.acquired = true) ∨
    s.time.disc = .locked ∨ s.time.disc = .ptp) (large : 16000 < (edgeDiff s.time o).natAbs) :
    ∃ e : EventRec, e.code = Config.eventCode 1 ∧ exec (.timeCrossing o) s = .next { s with
      time := { s.time.measured (edgeDiff s.time o) with
        disc := .holdover, bound := uncert s, holdSince := s.time.count
        jumpPend := true, jumpDir := decide (0 < edgeDiff s.time o), jumpOk := false, slewing := false }
      mgmt := { s.mgmt with log := (e :: s.mgmt.log).take 65536, logSeq := s.mgmt.logSeq + 1 } } := by
  obtain ⟨e, code, pends⟩ := jumpPending_frame (s := s.modTime (.measured (edgeDiff s.time o))) (diff := edgeDiff s.time o)
    (on_of_hostAlive alive)
  have approached : exec (.timeCrossing o) s =
      .next (approach s.time.given (edgeDiff s.time o) (s.modTime (.measured (edgeDiff s.time o)))) := by
    rcases disc with ⟨free, later⟩ | disc
    · exact timeCrossing_later alive counts ptp free later
    · rw [timeCrossing_disciplined alive counts ptp disc, if_neg (by omega)]
  have unheld : (s.modTime (.measured (edgeDiff s.time o))).time.disc ≠ .holdover := by
    show s.time.disc ≠ .holdover
    rcases disc with ⟨h, -⟩ | h | h <;> simp [h]
  refine ⟨e, code, ?_⟩
  rw [approached, approach_large large, pends, if_neg unheld]
  rfl

omit alive counts ptp in
/-- In HOLDOVER the bound grows with the counter (R37). -/
theorem uncert_holdover_mono {t : State} (held : s.time.disc = .holdover) (held' : t.time.disc = .holdover)
    (bound : t.time.bound = s.time.bound) (since : t.time.holdSince = s.time.holdSince)
    (h : s.time.holdSince.toNat ≤ s.time.count.toNat) (later : s.time.count.toNat ≤ t.time.count.toNat) : uncert s ≤ uncert t := by
  have longer : (s.time.count - s.time.holdSince).toNat ≤ (t.time.count - t.time.holdSince).toNat := by
    rw [BitVec.toNat_sub_of_le (by rwa [BitVec.le_def]), since, BitVec.toNat_sub_of_le (by rw [BitVec.le_def]; omega)]
    omega
  simp only [uncert, held, held', bound]
  omega

/-- An accepted forward jump brings the counter to the source; the state is entered where the sources give it. -/
theorem timeCrossing_jumps (held : s.time.disc = .holdover) (pend : s.time.jumpPend = true) (accepted : s.time.jumpOk = true)
    (forward : s.time.jumpDir = true) (ahead : s.time.count.toNat ≤ sourceTime s.time o) (fits : sourceTime s.time o < 2 ^ 64)
    (h : s.allDescs = []) : ∃ rings,
      exec (.timeCrossing o) s = .next (approach s.time.given 0 { s with time := s.time.landed o, rings := rings }) := by
  obtain ⟨rings, step⟩ := stepToSource_ahead (s := s.modTime (.measured (edgeDiff s.time o))) (d := s.time.given) ahead fits h
  refine ⟨rings, ?_⟩
  rw [timeCrossing_accepted alive counts ptp held pend accepted forward, step]
  rfl

end

end
/-- Settles O28: losses by what `sourceLost` does in and out of LOCKED, crossings by the `timeCrossing_` lemmas, and what ends a slew or
HOLDOVER by `enterDisciplined` and `approach`. -/
theorem timeSourcesAndDiscipline : Obligations.TimeSourcesAndDiscipline := by
  unfold Obligations.TimeSourcesAndDiscipline
  refine ⟨fun s alive => ?_, fun s o alive => ?_⟩
  · refine ⟨fun later => ⟨_, exec_beatPpsEdge alive true, ?_⟩, ⟨_, exec_beatPpsEdge alive false, ?_⟩,
      fun later => ⟨_, exec_ptpMessage alive true, ?_⟩, ⟨_, exec_ptpMessage alive false, ?_⟩, ⟨_, if_neg (by simp [alive]), rfl⟩,
      fun locked => ⟨⟨_, exec_ppsLoss alive, ?_⟩, ⟨_, exec_beat10mLoss alive, ?_⟩⟩, fun disc => ⟨_, exec_ptpLoss alive, ?_⟩,
      fun unlocked unptp => ⟨_, exec_ptpLoss alive, ?_⟩, fun unlocked => ?unlocked⟩
    · simp [later, State.modTime]
    · simp [State.modTime]
    · have qualifies : 2 ≤ s.time.ptpMsgs + 1 := by omega
      simp [later, qualifies, State.modTime]
    · simp [State.modTime]
    · rw [sourceLost_of_locked locked]; rfl
    · rw [sourceLost_of_locked locked]; rfl
    · rw [sourceLost_of_disciplined (by simpa using disc)]; rfl
    · rw [sourceLost_of_undisciplined (by simp [unlocked, unptp])]; rfl
    case unlocked =>
      obtain ⟨slews, same, lost⟩ := sourceLost_of_unlocked unlocked
      refine ⟨⟨_, exec_ppsLoss alive, ?_⟩, ⟨_, exec_beat10mLoss alive, ?_⟩⟩ <;> rw [lost] <;> exact ⟨same, rfl⟩
  · intro x all target diff d bound entered may
    have target_eq : target = sourceTime s.time o := by simp [target, x, sourceTime, second]
    have diff_eq : diff = edgeDiff s.time o := by simp only [diff, target_eq]; rfl
    have all_iff : all ↔ s.time.allOk = true := by simp [all, x, TimeState.allOk, and_assoc]
    have may_enter {g : Discipline} (h : may g) : mayEnter s g = true :=
      mayEnter_of <| h.imp (fun ⟨hg, ha⟩ => ⟨hg, all_iff.1 ha⟩)
        fun ⟨hg, hp, ha, hr⟩ => ⟨hg, hp, by simpa [all_iff] using ha, hr⟩
    clear_value target diff
    subst target_eq diff_eq
    refine ⟨fun counts ptp => ⟨fun free first ahead fits none => ?first, fun free far => ?large,
        fun free later near => ⟨_, timeCrossing_enters_near alive counts ptp free later near, ⟨rfl, rfl, rfl, rfl⟩, rfl, rfl, rfl⟩,
        fun disc low high => ⟨_, timeCrossing_slews alive counts ptp disc (by omega), rfl⟩, fun disc far => ?lost,
        fun held pend accepted forward ahead fits none => ?accepted⟩,
      fun opened pend => ⟨_, (if_pos opened).trans (congrArg Host.Outcome.next (if_pos pend)), rfl⟩,
      fun e g he hg slews near mayg => ?lock,
      fun e he hg held unpending mayp => ?again, fun last => ⟨_, if_pos last, rfl⟩⟩
    case first =>
      obtain ⟨rings, step⟩ := timeCrossing_enters_ahead alive counts ptp free first ahead fits none
      have forward : (s.time.count.toNat : Int) ≤ sourceTime s.time o := by unfold edgeDiff at ahead; omega
      exact ⟨_, step, ⟨rfl, rfl, rfl, rfl⟩, landed_count forward fits, rfl, rfl, rfl, rfl⟩
    case large =>
      obtain ⟨e, code, step⟩ := timeCrossing_pends (o := o) alive counts ptp (.inl ⟨free, far.imp (by omega) And.left⟩) (by omega)
      exact ⟨_, step, rfl, ⟨e, rfl, code⟩, rfl⟩
    case lost =>
      obtain ⟨e, code, step⟩ := timeCrossing_pends (o := o) alive counts ptp (.inr disc) (by omega)
      exact ⟨_, step, rfl, rfl, rfl, rfl⟩
    case accepted =>
      obtain ⟨rings, step⟩ := timeCrossing_jumps alive counts ptp held pend accepted forward ahead fits none
      refine ⟨_, step, ?_⟩
      rw [approach_zero]
      split
      · exact ⟨landed_count ahead fits, rfl, rfl, fun _ => ⟨rfl, rfl, rfl, rfl⟩⟩
      · next unmet =>
        refine ⟨landed_count ahead fits, rfl, rfl, fun given =>
          absurd (mayEnter_given (s := { s with time := s.time.landed o, rings := rings }) ptp (.inr ?_)) unmet⟩
        exact given.imp all_iff.1 fun ⟨since, grown⟩ =>
          grown.trans (uncert_holdover_mono held held rfl rfl since (landed_later ahead fits))
    case lock =>
      exact ⟨enterDisciplined g s, slewLock_enters alive slews he hg near (may_enter mayg), ⟨rfl, rfl, rfl, rfl⟩, rfl⟩
    case again =>
      have step := holdoverToPtp_approaches alive held unpending he hg (may_enter mayp)
      refine ⟨fun near => ⟨_, step, ?_⟩, fun low high => ⟨_, step, ?_⟩, fun far => ⟨_, step, ?_⟩⟩
      · rw [approach_near near (may_enter mayp)]
        exact ⟨⟨rfl, rfl, rfl, rfl⟩, rfl, rfl⟩
      · rw [approach_small (fun h => absurd (h.1.trans_le (boundTicks_le _)) (Nat.not_lt.2 low)) high]
        rfl
      · obtain ⟨_, -, pends⟩ := jumpPending_frame (diff := e) (on_of_hostAlive alive)
        rw [approach_large far, pends, if_pos held]
end Sys2Proof.Machine
end

section
/-!
PROOFS. Descriptors that start, finish or miss their time, and those without work (R46, R48, R306, R308 to R310, R313, R314, R494).
-/

namespace Sys2Proof.Machine

/-! ## Numbers as bytes (R4) -/

theorem bytesOfNat_length (n v : Nat) : (bytesOfNat n v).length = n := by
  induction n generalizing v with
  | zero => rfl
  | succ n ih => simp [bytesOfNat, ih]

theorem natOfBytes_bytesOfNat (n v : Nat) : natOfBytes (bytesOfNat n v) = v % 256 ^ n := by
  induction n generalizing v with
  | zero => simp [bytesOfNat, natOfBytes, Nat.mod_one]
  | succ n ih =>
    rw [bytesOfNat, natOfBytes, ih, BitVec.toNat_ofNat, show 256 ^ (n + 1) = 256 * 256 ^ n from Nat.pow_succ']
    exact Nat.mod_mul.symm

theorem natOfBytes_bytesOf {w : Nat} {n : Nat} (v : BitVec w) (h : 2 ^ w ≤ 256 ^ n) : natOfBytes (bytesOf n v) = v.toNat := by
  rw [bytesOf, natOfBytes_bytesOfNat, Nat.mod_eq_of_lt (v.isLt.trans_le h)]

/-! ## Performance counters (R480) -/

section
variable (ev unit : Nat) (b : Option BindingId) (n : Nat) (s : State)

theorem perfCount_frame : perfCount ev unit b n s = { s with perf := (perfCount ev unit b n s).perf } := by
  unfold perfCount
  split <;> rfl

end

/-! ## The descriptor of a ring with an index -/

theorem find?_updateFirst {α : Type} {p q : α → Bool} {f : α → α} (keeps : ∀ x, q (f x) = q x) (l : List α) :
    (updateFirst p f l).find? q = (l.find? q) ∨
      ∃ x, l.find? q = some x ∧ p x = true ∧ (updateFirst p f l).find? q = some (f x) := by
  induction l with
  | nil => exact .inl rfl
  | cons x r ih =>
    simp only [updateFirst]
    by_cases hp : p x = true <;> by_cases hq : q x = true
    · exact .inr ⟨x, by simp [hq], hp, by simp [hp, keeps, hq]⟩
    · exact .inl (by simp [hp, keeps, hq])
    · exact .inl (by simp [hp, hq])
    · simpa [hp, hq] using ih

theorem find?_updateFirst_same {α : Type} {p : α → Bool} {f : α → α} (keeps : ∀ x, p (f x) = p x) (l : List α) :
    (updateFirst p f l).find? p = (l.find? p).map f := by
  induction l with
  | nil => rfl
  | cons x r ih =>
    by_cases hp : p x = true
    · simp [updateFirst, hp, keeps]
    · simp [updateFirst, hp, ih]

section
variable {s : State} {r : RingId} {f : Desc → Desc}

theorem desc_modDesc_same {i : Nat} (keeps : ∀ d, (f d).index = d.index) : (s.modDesc r i f).desc r i = (s.desc r i).map f := by
  simp only [State.desc, State.modDesc, ring_modRing_same]
  exact find?_updateFirst_same (fun x => by rw [keeps]) _

/-- A change of the descriptor with index j leaves the one with index i or changes it. -/
theorem desc_modDesc_cases {i j : Nat} {d : Desc} (keeps : ∀ d, (f d).index = d.index) (h : s.desc r i = some d) :
    (s.modDesc r j f).desc r i = some d ∨ (s.modDesc r j f).desc r i = some (f d) := by
  simp only [State.desc, State.modDesc, ring_modRing_same] at h ⊢
  rcases find?_updateFirst (p := fun d => decide (d.index = j)) (q := fun d => decide (d.index = i))
    (fun x => by rw [keeps]) (s.ring r).descs with same | ⟨x, hx, -, new⟩
  · exact .inl (same.trans h)
  · cases hx.symm.trans h
    exact .inr new

theorem modDesc_ring_cq {i : Nat} (x : RingId) : ((s.modDesc r i f).ring x).cq = (s.ring x).cq := by
  rw [State.modDesc, ring_modRing]
  split
  · next h => rw [h]
  · rfl

theorem modDesc_ring_other {i : Nat} {x : RingId} (h : x ≠ r) : (s.modDesc r i f).ring x = s.ring x := by
  simp [State.modDesc, h]

theorem startPoint_unstarted {q : SubRing} {d : Desc} (h : q.startPoint = some d) : d.started = none ∧ d.ended = false := by
  unfold SubRing.startPoint at h
  split at h
  · next x found =>
    split at h
    · cases h
    · next unended =>
      cases h
      exact ⟨by simpa using List.find?_some found, by simpa using unended⟩
  · cases h

end

/-! ## Finishing (R306, R310, R313) -/

section
variable {s t : State} {r : RingId} {d : Desc} {st : Status} {detail : List Byte}

/-- The final completion of descriptor `d` of ring r. -/
structure FinalOf (s : State) (r : RingId) (d : Desc) (st : Status) (detail : List Byte) (c : Completion) : Prop where
  ring : c.ring = r
  index : c.index = d.index
  ringIndex : c.ringIndex = d.ringIndex
  tag : c.tag = d.tag
  status : c.status = st
  final : c.final = true
  detail : c.detail = detail
  accepted : c.accepted = d.accepted
  opcode : c.opcode.toNat = d.opcode
  irq : c.irq = d.flag 1
  finished : c.finished = s.time.count ∨ st = .rejectFormat ∧ c.finished = d.accepted

theorem opcode_lt (d : Desc) : d.opcode < 256 := Nat.mod_lt _ (by decide)

/-- A descriptor once it has finished. -/
def Desc.closed (d : Desc) : Desc := { d with ended := true }

/-- A descriptor that has not ended ends, its reads are forgotten, an error is counted, and its final completion waits. -/
theorem finishDesc_eq (here : s.desc r d.index = some d) (unended : d.ended = false) : ∃ c hub perf, FinalOf s r d st detail c ∧
    finishDesc r d.index st detail s = queueCompletion (s.ring r).cq c
      { s.modDesc r d.index .closed with hub := hub, perf := perf } := by
  have counted : ∃ perf, (if st = .ok then s else perfCount 0x31 0 d.binding 1 s) = { s with perf := perf } := by
    split
    · exact ⟨s.perf, rfl⟩
    · exact ⟨_, perfCount_frame ..⟩
  obtain ⟨perf, counted⟩ := counted
  simp only [finishDesc, here, unended, Bool.false_eq_true, if_false, counted]
  refine ⟨_, _, perf, ⟨rfl, rfl, rfl, rfl, rfl, rfl, rfl, rfl, ?_, rfl, ?_⟩,
    congrArg (queueCompletion · _ _) (modDesc_ring_cq (s := { s with perf := perf }) r)⟩
  · exact Nat.mod_eq_of_lt (opcode_lt d)
  · by_cases h : st = .rejectFormat ∧ d.started = none
    · exact .inr ⟨h.1, if_pos h⟩
    · exact .inl (if_neg h)

theorem finishDesc_finishes (here : s.desc r d.index = some d) (unended : d.ended = false) :
    Finishes s (finishDesc r d.index st detail s) r d st detail := by
  obtain ⟨c, hub, perf, final, step⟩ := finishDesc_eq (st := st) (detail := detail) here unended
  rw [step]
  refine ⟨⟨c, ?_, final.ring, final.index, final.ringIndex, final.tag, final.status, final.final, final.detail, final.accepted,
    final.opcode, final.irq, final.finished⟩, ⟨d.closed, ?_, rfl, rfl⟩, fun x hx => ?_, fun x hx => ?_⟩
  · exact congrArg CompRing.waiting (cq_modCq_same ..)
  · exact (desc_modDesc_same (f := .closed) fun _ => rfl).trans (congrArg (Option.map Desc.closed) here)
  · exact cq_modCq_other _ _ hx
  · exact modDesc_ring_other (f := .closed) hx

theorem settleBarrier_finishes (h : Finishes s t r d st detail) : Finishes s (settleBarrier r t) r d st detail := by
  obtain ⟨completion, ⟨e, here, ended, raw⟩, cqs, rings⟩ := h
  unfold settleBarrier
  dsimp only
  split
  · next p _ =>
    split
    · refine ⟨completion, ?_, cqs, fun x hx => (modDesc_ring_other hx).trans (rings x hx)⟩
      rcases desc_modDesc_cases (j := p.index) (f := fun x => { x with settled := true, doomed := (t.ring r).barrier })
        (fun _ => rfl) here with same | new
      · exact ⟨e, same, ended, raw⟩
      · exact ⟨_, new, ended, raw⟩
    · exact ⟨completion, ⟨e, here, ended, raw⟩, cqs, rings⟩
  · exact ⟨completion, ⟨e, here, ended, raw⟩, cqs, rings⟩

theorem finishDesc_stores (here : s.desc r d.index = some d) (unended : d.ended = false) :
    (finishDesc r d.index st detail s).cores = s.cores ∧ (finishDesc r d.index st detail s).stk = s.stk := by
  obtain ⟨c, hub, perf, -, step⟩ := finishDesc_eq (st := st) (detail := detail) here unended
  rw [step]
  exact ⟨rfl, rfl⟩

theorem settleBarrier_stores : (settleBarrier r s).cores = s.cores ∧ (settleBarrier r s).stk = s.stk := by
  unfold settleBarrier
  dsimp only
  split
  · split <;> exact ⟨rfl, rfl⟩
  · exact ⟨rfl, rfl⟩

/-- A descriptor at the start point that ends there, without effect on cores or stacks (R48, R310). -/
theorem finishes_unstarted (point : (s.ring r).startPoint = some d) (here : s.desc r d.index = some d) :
    let t := settleBarrier r (finishDesc r d.index st detail s)
    Finishes s t r d st detail ∧ t.cores = s.cores ∧ t.stk = s.stk := by
  have unended := (startPoint_unstarted point).2
  obtain ⟨cores, stk⟩ := finishDesc_stores (st := st) (detail := detail) here unended
  obtain ⟨cores', stk'⟩ := settleBarrier_stores (s := finishDesc r d.index st detail s) (r := r)
  exact ⟨settleBarrier_finishes (finishDesc_finishes here unended), cores'.trans cores, stk'.trans stk⟩

/-! ## Starting (R308, R494) -/

/-- The state in which the work of descriptor `d` of ring r begins: the round robin has gone on, and the start is counted. -/
def begun (r : RingId) (d : Desc) (s : State) : State :=
  perfCount 0x30 0 d.binding 1 ((advanceStart r d s).modDesc r d.index fun x => { x with started := some s.time.count })

/-- A start touches the ring table, the round robin and the performance counters. -/
theorem begun_eq (r : RingId) (d : Desc) (s : State) : ∃ turn perf, begun r d s =
    { s.modDesc r d.index fun x => { x with started := some s.time.count } with
      hub := { s.hub with rrStart := turn }, perf := perf } := by
  unfold begun advanceStart
  rw [perfCount_frame]
  split
  · exact ⟨s.hub.rrStart, _, rfl⟩
  · exact ⟨r + 1, _, rfl⟩

theorem begun_desc (here : s.desc r d.index = some d) :
    (begun r d s).desc r d.index = some { d with started := some s.time.count } := by
  obtain ⟨turn, perf, step⟩ := begun_eq r d s
  rw [step]
  exact (desc_modDesc_same (f := fun x => { x with started := some s.time.count }) fun _ => rfl).trans (by rw [here]; rfl)

theorem startDesc_of_starts {opcode : Nat} {want : Desc → Bool} {work : Desc → State → State} (starts : Starts s r d opcode)
    (wanted : want d = true) (alone : d.needsEngine = false) :
    startDesc r want work s = settleBarrier r (work d (begun r d s)) := by
  obtain ⟨point, here, -, ready, intime, lawful⟩ := starts
  have time : (advanceStart r d s).time = s.time := by
    unfold advanceStart
    split <;> rfl
  have late : deadlinePassed (advanceStart r d s) d = false := by rwa [deadlinePassed, time]
  have lawful' : legal (begun r d s) d = true := by
    obtain ⟨turn, perf, step⟩ := begun_eq r d s
    rw [step]
    exact lawful
  unfold begun at lawful' ⊢
  simp only [startDesc, point, wanted, ready, late, time, lawful', alone, Bool.and_self, Bool.not_true, Bool.false_eq_true,
    if_false, if_true]

/-- What finishes the descriptor that has just begun finishes it from where it stood. -/
theorem finishes_of_begun (h : Finishes (begun r d s) t r { d with started := some s.time.count } st detail) :
    Finishes s t r d st detail := by
  obtain ⟨turn, perf, step⟩ := begun_eq r d s
  have cq : ((begun r d s).ring r).cq = (s.ring r).cq := by
    rw [step]
    exact modDesc_ring_cq (f := fun x => { x with started := some s.time.count }) r
  have other (x : RingId) (hx : x ≠ r) : (begun r d s).ring x = s.ring x := by
    rw [step]
    exact modDesc_ring_other (f := fun x => { x with started := some s.time.count }) hx
  have cqs (x : CqId) : (begun r d s).cq x = s.cq x := by rw [step]; rfl
  have count : (begun r d s).time.count = s.time.count := by rw [step]; rfl
  obtain ⟨completion, desc, others, rings⟩ := h
  rw [cq, cqs, count] at completion
  rw [cq] at others
  exact ⟨completion, desc, fun x hx => (others x hx).trans (cqs x), fun x hx => (rings x hx).trans (other x hx)⟩

theorem startDesc_finishes {opcode : Nat} {want : Desc → Bool} {detail : Desc → State → List Byte} (starts : Starts s r d opcode)
    (wanted : want d = true) (alone : d.needsEngine = false) :
    Finishes s (startDesc r want (fun d s => finishDesc r d.index .ok (detail d s) s) s) r d .ok (detail d (begun r d s)) := by
  rw [startDesc_of_starts starts wanted alone]
  obtain ⟨point, here, -⟩ := starts
  exact settleBarrier_finishes (finishes_of_begun (finishDesc_finishes (d := { d with started := some s.time.count })
    (begun_desc here) (startPoint_unstarted point).2))

end

/-- A FENCE that may start has every earlier descriptor of its ring completed (R308). -/
theorem allBefore_of_startable {s : State} {r : RingId} {d : Desc} (ready : startable s r d = true) (fence : d.opcode = 0x0C) :
    (s.ring r).allBefore d = true := by
  simp only [startable, mayStart, fence, beq_self_eq_true, Bool.or_true, Bool.not_true, Bool.false_or, Bool.and_eq_true] at ready
  obtain ⟨⟨⟨-, all⟩, -⟩, -⟩ := ready
  exact all

/-! ## PROBE (R314) -/

theorem probeDetail_eq (r : RingId) (d : Desc) (s : State) : ∃ b, probeDetail r d s = BitVec.ofNat 8 s.mod.state.code :: b :: 0 :: 0 ::
    (bytesOf 4 (s.hub.tokens.get 0 (d.num 32 2 % 4096)) ++ (bytesOf 8 s.time.count ++ bytesOfNat 4 ((s.ring r).descs.length - 1))) :=
  ⟨_, by simp [probeDetail]; rfl⟩

/-- The module state, the counter of the token and the beat time stand at bytes 0, 4 and 8 of the detail (Table 11-11). -/
theorem probeDetail_fields (r : RingId) (d : Desc) (s : State) : (probeDetail r d s).length = 20 ∧
    (probeDetail r d s)[0]? = some (BitVec.ofNat 8 s.mod.state.code) ∧
    natOfBytes ((probeDetail r d s).drop 8 |>.take 8) = s.time.count.toNat ∧
    natOfBytes ((probeDetail r d s).drop 4 |>.take 4) = (s.hub.tokens.get 0 (d.num 32 2 % 4096)).toNat := by
  obtain ⟨b, detail⟩ := probeDetail_eq r d s
  have token : (bytesOf 4 (s.hub.tokens.get 0 (d.num 32 2 % 4096))).length = 4 := bytesOfNat_length ..
  have count : (bytesOf 8 s.time.count).length = 8 := bytesOfNat_length ..
  rw [detail]
  refine ⟨by simp only [List.length_cons, List.length_append, token, count, bytesOfNat_length], rfl, ?_, ?_⟩
  · rw [show ∀ l : List Byte, List.drop 8 (_ :: b :: 0 :: 0 :: l) = List.drop 4 l from fun _ => rfl, List.drop_left' token,
      List.take_left' count]
    exact natOfBytes_bytesOf _ (by norm_num)
  · rw [show ∀ l : List Byte, List.drop 4 (_ :: b :: 0 :: 0 :: l) = l from fun _ => rfl, List.take_left' token]
    exact natOfBytes_bytesOf _ (by norm_num)

theorem breath_opens_iff (s : State) : (breathing s && breathDue s) = true ↔ breathing s = true ∧
    s.time.count.toNat % (s.time.period.toNat * 16000) = 0 ∧ s.time.openBreath.map Prod.fst ≠ some s.time.count := by
  simp [breathDue]

/-- Settles O32: starts by `startDesc_finishes`, the detail of a PROBE by `probeDetail_fields`, and what ends unstarted by
`finishDesc_finishes`. -/
theorem descriptorsWithoutWorkAndTiming : Obligations.DescriptorsWithoutWorkAndTiming := by
  unfold Obligations.DescriptorsWithoutWorkAndTiming
  refine ⟨fun s r d => ⟨fun starts => ?nop, fun starts => ?fence, fun starts => ?probe⟩,
    fun s r d point here => ⟨⟨fun same due => ?waits, fun reached => ?eligible⟩, fun given late => ?late, fun doomed => ?abort⟩⟩
  case nop =>
    obtain ⟨-, -, opcode, -⟩ := id starts
    exact ⟨_, rfl, startDesc_finishes (detail := fun _ _ => []) starts (by simp [opcode]) (by simp [Desc.needsEngine, opcode])⟩
  case fence =>
    obtain ⟨-, -, opcode, ready, -⟩ := id starts
    refine ⟨_, rfl, startDesc_finishes (detail := fun _ _ => []) starts (by simp [opcode]) (by simp [Desc.needsEngine, opcode]), ?_⟩
    exact allBefore_of_startable ready opcode
  case probe =>
    obtain ⟨-, here, opcode, -⟩ := id starts
    refine ⟨_, rfl, _, startDesc_finishes (detail := probeDetail r) starts (by simp [opcode]) (by simp [Desc.needsEngine, opcode]), ?_⟩
    obtain ⟨turn, perf, step⟩ := begun_eq r d s
    rw [step]
    exact probeDetail_fields r d _
  case waits =>
    refine ⟨s, ?_, rfl⟩
    show execNotBefore ⟨r⟩ s = _
    simp only [execNotBefore, point]
    exact if_neg (by simp [same, (breath_opens_iff s).2 due])
  case eligible =>
    refine ⟨s.modDesc r d.index fun x => { x with eligible := true }, ?_,
      (desc_modDesc_same (f := fun x => { x with eligible := true }) fun _ => rfl).trans (by rw [here]; rfl), rfl,
      fun x hx => modDesc_ring_other hx⟩
    show execNotBefore ⟨r⟩ s = _
    simp only [execNotBefore, point]
    exact if_pos (reached.imp_right fun ⟨same, free⟩ => ⟨same, congrArg (!·) (Bool.eq_false_iff.2 (mt (breath_opens_iff s).1 free))⟩)
  case late =>
    have passed : deadlinePassed s d = true := by simp [deadlinePassed, given, late]
    refine ⟨settleBarrier r (finishDesc r d.index .deadlineMissed [] s), ?_, finishes_unstarted point here⟩
    show execDeadlineMissed ⟨r, d.index⟩ s = _
    obtain ⟨unstarted, unended⟩ := startPoint_unstarted point
    simp [execDeadlineMissed, here, unstarted, unended, passed]
  case abort =>
    refine ⟨settleBarrier r (finishDesc r d.index .aborted [] s), ?_, finishes_unstarted point here⟩
    show execBarrierAbort ⟨r⟩ s = _
    simp [execBarrierAbort, point, doomed]

end Sys2Proof.Machine
end

section
/-!
PROOFS. Calibration groups and lanes: steps reverted and done, corrected errors, CAL_CTL (R45, R414, R445, R447, Table 15-6).
-/

namespace Sys2Proof.Machine

/-! ## Groups and lanes -/

/-- The calibration state of a group. -/
abbrev groupOf (s : State) (kind group : Nat) : CalGroup := s.cal.groups.get .reset (groupKey kind group)

section
variable (s : State) (kind group lane : Nat)

@[simp] theorem groupOf_modGroup (f : CalGroup → CalGroup) : groupOf (modGroup kind group f s) kind group = f (groupOf s kind group) :=
  Table.get_set_same ..

@[simp] theorem groupOf_modLane (f : CalLane → CalLane) (k n : Nat) : groupOf (modLane kind group lane f s) k n = groupOf s k n := rfl

@[simp] theorem laneOf_modLane (f : CalLane → CalLane) :
    laneOf (modLane kind group lane f s) kind group lane = f (laneOf s kind group lane) := Table.get_set_same ..

@[simp] theorem laneOf_modGroup (f : CalGroup → CalGroup) (k n l : Nat) : laneOf (modGroup kind group f s) k n l = laneOf s k n l := rfl

@[simp] theorem modGroup_err (f : CalGroup → CalGroup) : (modGroup kind group f s).err = s.err := rfl
@[simp] theorem modLane_err (f : CalLane → CalLane) : (modLane kind group lane f s).err = s.err := rfl

end

section
variable {s : State} {kind group : Nat} {lane : BitVec 6}

/-- A step that is reverted leaves its lane in service, with its settings (R45). -/
theorem revertStep_of_step (h : (groupOf s kind group).step = some lane) :
    groupOf (revertStep kind group s) kind group = { groupOf s kind group with step := none } ∧
      laneOf (revertStep kind group s) kind group lane.toNat = { laneOf s kind group lane.toNat with active := false } ∧
      (revertStep kind group s).time = s.time ∧ (revertStep kind group s).err = s.err := by
  have settled : groupOf (modLane kind group lane.toNat (fun x => { x with active := false })
        (modGroup kind group (fun g => { g with step := none }) s)) kind group = { groupOf s kind group with step := none } ∧
      laneOf (modLane kind group lane.toNat (fun x => { x with active := false })
        (modGroup kind group (fun g => { g with step := none }) s)) kind group lane.toNat =
        { laneOf s kind group lane.toNat with active := false } := by simp
  simp only [revertStep, h]
  split <;> exact ⟨settled.1, settled.2, rfl, rfl⟩

end

/-! ## A corrected error (R445, R447) -/

section
variable (kind : Byte) (code unit : BitVec 16) (b : Option BindingId) (addr : DWord) (detail : List Byte) (s : State)

theorem report_class0_counts :
    (report 0 kind code unit b addr detail s).err.cnt.get 0 0 = satAdd (s.err.cnt.get 0 0) 1 := by
  have counted : (s.err.cnt.modify 0 0 fun v => satAdd v 1).get 0 0 = satAdd (s.err.cnt.get 0 0) 1 := Table.get_set_same ..
  simp only [report, reportAt, show (0 : BitVec 3).toNat < 4 by decide, if_true]
  split <;> exact counted

/-- The occurrence stands in a window of its code and unit, an open one or its own. -/
theorem report_class0_window : ∃ w ∈ (report 0 kind code unit b addr detail s).err.windows, w.code = code ∧ w.unit = unit := by
  simp only [report, reportAt, show (0 : BitVec 3).toNat < 4 by decide, if_true]
  split
  · next merges =>
    obtain ⟨w, hw, merged⟩ := List.any_eq_true.1 merges
    refine ⟨_, List.mem_map_of_mem hw, ?_⟩
    rw [if_pos merged]
    exact ⟨rfl, rfl⟩
  · exact ⟨_, List.mem_append_right _ (List.mem_singleton.2 rfl), rfl, rfl⟩

end

/-! ## A step done (R414) -/

/-- A step of a group has ended, and its results are recorded. -/
def stepRecorded (o : CalDoneForm) (lane : Nat) (s : State) : State :=
  let kind := o.kind.toNat
  let group := o.group.toNat
  let s := modGroup kind group (fun x => { x with step := none }) s
  let s := if kind = 2 then s.modPort (BitVec.ofNat 5 group) fun p => { p with calLane := none } else s
  modLane kind group lane (CalLane.record o s.time.count (belowMin s o)) s

section
variable {s : State} {o : CalDoneForm} {lane : BitVec 6}

theorem stepRecorded_frame (lane : Nat) : ∃ cal links, stepRecorded o lane s = { s with cal := cal, links := links } ∧
    cal.minV = s.cal.minV ∧ cal.minH = s.cal.minH ∧ cal.drift = s.cal.drift := by
  unfold stepRecorded
  dsimp only
  split <;> exact ⟨_, _, rfl, rfl, rfl, rfl⟩

theorem stepRecorded_group (lane : Nat) : (groupOf (stepRecorded o lane s) o.kind.toNat o.group.toNat).step = none := by
  have ended : (groupOf (modGroup o.kind.toNat o.group.toNat (fun x => { x with step := none }) s) o.kind.toNat o.group.toNat).step =
      none := by rw [groupOf_modGroup]
  unfold stepRecorded
  dsimp only
  rw [groupOf_modLane]
  split <;> exact ended

theorem stepRecorded_lane (lane : Nat) : laneOf (stepRecorded o lane s) o.kind.toNat o.group.toNat lane =
    (laneOf s o.kind.toNat o.group.toNat lane).record o s.time.count (belowMin s o) := by
  unfold stepRecorded
  dsimp only
  rw [laneOf_modLane]
  split <;> rfl

theorem mgmtEvent_frame (severity : Byte) (n : Nat) : ∃ mgmt, mgmtEvent severity n s = { s with mgmt := mgmt } := by
  unfold mgmtEvent logEvent
  split <;> exact ⟨_, rfl⟩

theorem driftAlarm_cal (lane : Nat) : (driftAlarm lane o s).cal =
    (modLane o.kind.toNat o.group.toNat lane (fun x => { x with alarms := satAdd x.alarms 1 }) s).cal := by
  unfold driftAlarm
  dsimp only
  obtain ⟨mgmt, event⟩ := mgmtEvent_frame (s := modLane o.kind.toNat o.group.toNat lane
    (fun x => { x with alarms := satAdd x.alarms 1 }) s) 1 0x20
  rw [report_cal, event]

theorem driftAlarm_lane (lane : Nat) : laneOf (driftAlarm lane o s) o.kind.toNat o.group.toNat lane =
    { laneOf s o.kind.toNat o.group.toNat lane with alarms := satAdd (laneOf s o.kind.toNat o.group.toNat lane).alarms 1 } := by
  rw [laneOf, driftAlarm_cal]
  exact laneOf_modLane ..

theorem driftAlarm_group (lane : Nat) :
    groupOf (driftAlarm lane o s) o.kind.toNat o.group.toNat = groupOf s o.kind.toNat o.group.toNat := by
  rw [groupOf, driftAlarm_cal]
  rfl

theorem driftAlarm_err (lane : Nat) : (driftAlarm lane o s).err.cnt.get 0 0 = satAdd (s.err.cnt.get 0 0) 1 ∧
    ∃ w ∈ (driftAlarm lane o s).err.windows, w.code = 0x0003 ∧ w.unit = o.group.setWidth 16 := by
  obtain ⟨mgmt, event⟩ := mgmtEvent_frame (s := modLane o.kind.toNat o.group.toNat lane
    (fun x => { x with alarms := satAdd x.alarms 1 }) s) 1 0x20
  refine ⟨?_, report_class0_window ..⟩
  unfold driftAlarm
  dsimp only
  rw [report_class0_counts, event]
  rfl

theorem exec_calStepDone_reverts (close : stepsClose s = true) :
    exec (.calStepDone o) s = .next (revertStep o.kind.toNat o.group.toNat s) := if_pos close

/-- A step's results may raise a drift alarm. -/
def drifted (o : CalDoneForm) (lane : Nat) (s : State) : State := if drifts s o then driftAlarm lane o s else s

/-- A step that is not reverted is recorded and may raise its alarm; a lane whose margins were not low
twice before stays in service. -/
theorem exec_calStepDone (step : (groupOf s o.kind.toNat o.group.toNat).step = some lane) (open_ : stepsClose s = false)
    (few : belowMin s o = true → (laneOf s o.kind.toNat o.group.toNat lane.toNat).low < 2) :
    exec (.calStepDone o) s = .next (drifted o lane.toNat (stepRecorded o lane.toNat s)) := by
  have recorded : (laneOf (stepRecorded o lane.toNat s) o.kind.toNat o.group.toNat lane.toNat).low < 3 := by
    rw [stepRecorded_lane, CalLane.record]
    by_cases low : belowMin s o = true
    · simpa only [low, if_true] using Nat.succ_lt_succ (few low)
    · simp [low]
  have low : (laneOf (drifted o lane.toNat (stepRecorded o lane.toNat s)) o.kind.toNat o.group.toNat lane.toNat).low < 3 := by
    unfold drifted
    split
    · rwa [driftAlarm_lane]
    · exact recorded
  show execCalStepDone o s = _
  unfold execCalStepDone
  rw [open_]
  simp only [step, Bool.false_eq_true, if_false]
  exact congrArg Host.Outcome.next (if_neg (Nat.not_le.2 low))

theorem belowMin_iff : belowMin s o = true ↔ o.vmargin.toNat < s.cal.minV.toNat ∨ o.hmargin.toNat < s.cal.minH.toNat := by
  simp [belowMin]

theorem drifts_stepRecorded (lane : Nat) : drifts (stepRecorded o lane s) o = drifts s o := by
  obtain ⟨cal, links, frame, v, h, d⟩ := stepRecorded_frame (s := s) (o := o) lane
  simp only [drifts, belowMin, frame, v, h, d]

/-- Margins and drift within their limits: the results are recorded, and nothing is reported. -/
theorem drifted_of_calm (fine : belowMin s o = false) (still : o.phase.toInt.natAbs ≤ s.cal.drift.toNat) (lane : Nat) :
    drifted o lane (stepRecorded o lane s) = stepRecorded o lane s := by
  have calm : drifts s o = false := by simp [drifts, fine, still]
  rw [drifted, drifts_stepRecorded, calm]
  rfl

/-- A margin below its minimum raises the drift alarm (R414). -/
theorem drifted_of_low (low : belowMin s o = true) (lane : Nat) :
    drifted o lane (stepRecorded o lane s) = driftAlarm lane o (stepRecorded o lane s) := by
  have alarm : drifts s o = true := by simp [drifts, low]
  rw [drifted, drifts_stepRecorded, alarm]
  rfl

theorem stepRecorded_err (lane : Nat) : (stepRecorded o lane s).err = s.err := by
  obtain ⟨cal, links, frame, -⟩ := stepRecorded_frame (s := s) (o := o) lane
  rw [frame]

end

/-! ## CAL_CTL (Table 15-6) -/

theorem bitsOf_eq_extractLsb' (v : Word) (lo n : Nat) : BitVec.ofNat n (bitsOf v.toNat lo n) = v.extractLsb' lo n := by
  apply BitVec.eq_of_toNat_eq
  simp [bitsOf, Nat.shiftRight_eq_div_pow]

theorem writeCalCtl_eq (v : Word) (s : State) : writeCalCtl v s = { s with cal := { s.cal with
    minV := v.extractLsb' 24 8, minH := v.extractLsb' 16 8, drift := v.extractLsb' 8 8, en := v.setWidth 3 } } := by
  have en : v.extractLsb' 0 3 = v.setWidth 3 := by
    apply BitVec.eq_of_toNat_eq
    simp
  simp only [writeCalCtl, bitsOf_eq_extractLsb', en]

end Sys2Proof.Machine
end

section
/-!
PROOFS. The opening of a breath: telemetry, beat alarms and steps that start (R42, R44, R102, R410 to R412, R420).
-/

namespace Sys2Proof.Machine

/-! ## The opening of a breath (R44) -/

theorem revertSteps_of_idle {s : State} (idle : ∀ n, (s.cal.groups.get .reset n).step = none) : revertSteps s = s := by
  have all (l : List (Nat × CalGroup)) : l.foldl (fun s e => revertStep (e.1 / 256) (e.1 % 256) s) s = s := by
    induction l with
    | nil => rfl
    | cons e r ih => rw [List.foldl_cons, revertStep_of_idle (idle _), ih]
  exact all _

/-- Every accepted descriptor has started. -/
def AllStarted (s : State) : Prop := ∀ e ∈ s.rings.entries, ∀ d ∈ e.2.descs, d.started.isSome = true

theorem readyPoints_of_started {s : State} (h : AllStarted s) : readyPoints s = [] := by
  refine List.filterMap_eq_nil_iff.2 fun e he => ?_
  have none_waits : e.2.startPoint = none := by
    have unfound : e.2.descs.find? (fun d => d.started.isNone) = none :=
      List.find?_eq_none.2 fun d hd => by
        simpa [Option.isSome_iff_ne_none] using h e he d hd
    rw [SubRing.startPoint, unfound]
  rw [none_waits]

theorem startNamed_of_started {s : State} (h : AllStarted s) (n : Nat) (records : List (Option (BitVec 640))) :
    startNamed n records s = s := by
  cases n with
  | zero => rfl
  | succ n => simp only [startNamed, readyPoints_of_started h, List.find?_nil]

/-- A breath has opened: overdue steps are reverted, and the heartbeat is there (R42, R45). -/
def breathBegun (s : State) : State :=
  ((revertSteps s).modTime fun t => { t with openBreath := some (s.time.count, s.time.len) }).modMod fun m =>
    { m with heartbeatLost := false }

/-- The state in which the commit records of a breath are written, where no descriptor that names it starts. -/
def openedBreath (readings : List Reading) (s : State) : State :=
  forgetNames (beatAlarm (admitNamed (sample readings (breathBegun s))))

theorem revertStep_frame (kind group : Nat) (s : State) : ∃ cal links, revertStep kind group s = { s with cal := cal, links := links } := by
  unfold revertStep
  split
  · exact ⟨_, _, rfl⟩
  · dsimp only
    split <;> exact ⟨_, _, rfl⟩

theorem revertSteps_frame (s : State) : ∃ cal links, revertSteps s = { s with cal := cal, links := links } := by
  have all (l : List (Nat × CalGroup)) : ∀ s : State, ∃ cal links,
      l.foldl (fun s e => revertStep (e.1 / 256) (e.1 % 256) s) s = { s with cal := cal, links := links } := by
    induction l with
    | nil => exact fun s => ⟨_, _, rfl⟩
    | cons e r ih =>
      intro s
      obtain ⟨cal, links, first⟩ := revertStep_frame (e.1 / 256) (e.1 % 256) s
      obtain ⟨cal', links', rest⟩ := ih (revertStep (e.1 / 256) (e.1 % 256) s)
      exact ⟨cal', links', by rw [List.foldl_cons, rest, first]⟩
  exact all _ s

theorem allStarted_admitNamed {s : State} (h : AllStarted s) : AllStarted (admitNamed s) := by
  intro e he d hd
  obtain ⟨x, hx, rfl⟩ := mem_entries_mapListed he
  obtain ⟨y, hy, rfl⟩ := List.mem_map.1 hd
  exact h x hx y hy

/-- A breath that opens while every accepted descriptor has started: telemetry, alarms, commit records and calibration steps, in
this order. -/
theorem exec_breathOpen {s : State} {gs : List GroupForm} {rs : List Reading} {ks : List (Option (BitVec 640))}
    (opens : (breathing s && breathDue s) = true) (h : AllStarted s) :
    let t := commitDrains s.time.count (drainsDue s) (openedBreath rs s)
    exec (.breathOpen ⟨gs, rs, ks⟩) s =
      .next (if t.mod.state = .service ∨ t.mod.state = .serving then gs.foldl (fun t g => startStep s.time.len.toNat g t) t else t) := by
  have open_ : (!breathing s || !breathDue s) = false := by
    rw [← Bool.not_and, opens]
    rfl
  obtain ⟨cal, links, frame⟩ := revertSteps_frame s
  have started : AllStarted (beatAlarm (admitNamed (sample rs (breathBegun s)))) := by
    refine allStarted_admitNamed (s := sample rs (breathBegun s)) ?_
    rw [breathBegun, frame]
    exact h
  have due : drainsDue (breathBegun s) = drainsDue s := by
    rw [breathBegun, frame]
    rfl
  intro t
  show execBreathOpen _ s = _
  unfold breathBegun at started due
  simp only [execBreathOpen, open_, Bool.false_eq_true, if_false, startNamed_of_started started, due]
  exact (apply_ite Host.Outcome.next _ _ _).symm

/-- Every running thread that enables source 16 takes the alarm (R102). -/
theorem beatAlarm_thread (s : State) (c : CoreId) (h : ThreadId) : (beatAlarm s).thread c h = { s.thread c h with
    beatPend := if (s.thread c h).run && (s.thread c h).eien.getLsbD 16 then some s.time.count else (s.thread c h).beatPend } := by
  have core : (beatAlarm s).core c = (s.core c).pendAll 16 fun th => { th with beatPend := some s.time.count } :=
    Table.get_mapListed _ _ _ _ rfl
  rw [State.thread, core]
  refine (Table.get_mapListed _ _ _ _ rfl).trans ?_
  show (if (s.thread c h).run && (s.thread c h).eien.getLsbD 16 then _ else s.thread c h) = _
  split <;> rfl

/-! ## Sensors (R44, R420) -/

/-- The compute-side readings among those listed, entered one after the other. -/
def sampled (rs : List Reading) (t : Table Word) : Table Word :=
  rs.foldl (fun t r => if r.sensor.toNat < 304 then t.set 0 r.sensor.toNat r.value else t) t

theorem sampled_get_other {rs : List Reading} {n : Nat} (h : ∀ r ∈ rs, r.sensor.toNat = n → 304 ≤ r.sensor.toNat) (t : Table Word) :
    (sampled rs t).get 0 n = t.get 0 n := by
  induction rs generalizing t with
  | nil => rfl
  | cons r rs ih =>
    refine (ih (fun x hx => h x (List.mem_cons_of_mem r hx)) _).trans ?_
    dsimp only
    split
    · next low => exact Table.get_set_other _ _ _ fun same => absurd (h r List.mem_cons_self same.symm) (Nat.not_le.2 low)
    · rfl

theorem sampled_single {r : Reading} (low : r.sensor.toNat < 304) (t : Table Word) :
    (sampled [r] t).get 0 r.sensor.toNat = r.value := by
  simp [sampled, low]

/-- With no step in progress the opening touches time, the heartbeat, telemetry, the alarms and what descriptors name. -/
theorem openedBreath_of_idle {s : State} (idle : ∀ n, (s.cal.groups.get .reset n).step = none) (rs : List Reading) :
    ∃ rings cores, openedBreath rs s = { s with
      time := { s.time with openBreath := some (s.time.count, s.time.len) }, mod := { s.mod with heartbeatLost := false }
      mgmt := { s.mgmt with
        sampled := s.time.count, sensors := sampled rs s.mgmt.sensors, counters := s.perf.cnt, errorCounts := s.err.cnt }
      rings := rings, cores := cores } := by
  rw [openedBreath, breathBegun, revertSteps_of_idle idle]
  exact ⟨_, _, rfl⟩

theorem openedBreath_thread {s : State} (rs : List Reading) (c : CoreId) (h : ThreadId) :
    (openedBreath rs s).thread c h = { s.thread c h with
      beatPend := if (s.thread c h).run && (s.thread c h).eien.getLsbD 16 then some s.time.count else (s.thread c h).beatPend } := by
  obtain ⟨cal, links, frame⟩ := revertSteps_frame s
  refine (beatAlarm_thread (admitNamed (sample rs (breathBegun s))) c h).trans ?_
  rw [breathBegun, frame]
  rfl

theorem allStarted_of_no_descs {s : State} (h : s.allDescs = []) : AllStarted s := by
  intro e he d hd
  rw [(allDescs_eq_nil_iff s).1 h e he] at hd
  cases hd

theorem exec_breathOpen_of_no_descs {s : State} {gs : List GroupForm} {rs : List Reading} {ks : List (Option (BitVec 640))}
    (opens : (breathing s && breathDue s) = true) (h : s.allDescs = []) :
    exec (.breathOpen ⟨gs, rs, ks⟩) s = .next (if (openedBreath rs s).mod.state = .service ∨ (openedBreath rs s).mod.state = .serving then
      gs.foldl (fun t g => startStep s.time.len.toNat g t) (openedBreath rs s) else openedBreath rs s) := by
  have due : drainsDue s = [] := by rw [drainsDue, h, List.filter_nil]
  rw [exec_breathOpen opens (allStarted_of_no_descs h), due]
  rfl

/-! ## A step starts (R410 to R412) -/

theorem turn_mem {l : List Nat} (h : l ≠ []) (next : Nat) : turn l next ∈ l := by
  unfold turn
  cases found : l.find? fun x => decide (next ≤ x) with
  | some x => exact List.mem_of_find?_eq_some found
  | none =>
    obtain ⟨x, r, rfl⟩ := List.exists_cons_of_ne_nil h
    exact List.mem_cons_self

theorem beginStep_effect (s : State) (kind group lane : Nat) :
    groupOf (beginStep kind group lane s) kind group = ⟨BitVec.ofNat 6 (lane + 1), some (BitVec.ofNat 6 lane)⟩ ∧
      (laneOf (beginStep kind group lane s) kind group lane).active = true ∧
      (beginStep kind group lane s).stk = s.stk ∧ (beginStep kind group lane s).out = s.out := by
  have begun : groupOf (modGroup kind group (fun x => { x with next := BitVec.ofNat 6 (lane + 1), step := some (BitVec.ofNat 6 lane) }) s)
      kind group = ⟨BitVec.ofNat 6 (lane + 1), some (BitVec.ofNat 6 lane)⟩ := groupOf_modGroup ..
  have active (t : State) : (laneOf (modLane kind group lane (fun x => { x with active := true }) t) kind group lane).active = true := by
    rw [laneOf_modLane]
  unfold beginStep
  dsimp only
  split <;> exact ⟨begun, active _, rfl, rfl⟩

/-- What tells the peer of a Sutrum port of the lane whose step starts (R411). -/
def tellPeer (kind group lane : Nat) (s : State) : State :=
  if kind = 2 then emit (.calStep (BitVec.ofNat 5 group) (BitVec.ofNat 4 lane)) s else s

/-- A step that starts takes a lane of the rotation. -/
theorem startStep_of_starts {s : State} {g : GroupForm} {len : Nat} (h : stepStarts s len g.kind.toNat g.group.toNat = true) :
    ∃ lane ∈ rotation s g.kind.toNat g.group.toNat,
      startStep len g s = beginStep g.kind.toNat g.group.toNat lane (tellPeer g.kind.toNat g.group.toNat lane s) := by
  have free : spareFree s g.kind.toNat g.group.toNat = true := by
    simp only [stepStarts, Bool.and_eq_true] at h
    exact h.1.2
  have lanes : rotation s g.kind.toNat g.group.toNat ≠ [] := by
    intro none
    rw [spareFree, none] at free
    cases free
  exact ⟨_, turn_mem lanes (groupOf s g.kind.toNat g.group.toNat).next.toNat, if_neg (by simp [h])⟩

end Sys2Proof.Machine
end

section
/-!
PROOFS. A hub engine that writes a whole unit of the stacks whose translation is at hand (R262, R263, R267, R278, R286).
-/

namespace Sys2Proof.Machine

/-! ## Where the bytes of a unit lie (R262, R263) -/

theorem bitsOf_add_of_unit {a j lo : Nat} (n : Nat) (unit : a % 64 = 0) (hj : j < 64) (high : 6 ≤ lo) :
    bitsOf (a + j) lo n = bitsOf a lo n := by
  obtain ⟨k, rfl⟩ := Nat.exists_eq_add_of_le high
  have quotient : (a + j) / 64 = a / 64 := by omega
  simp only [bitsOf, Nat.pow_add, show (2 : Nat) ^ 6 = 64 by norm_num, ← Nat.div_div_eq_div_mul, quotient]

theorem palvanDecode_add {off j : Nat} (unit : off % 64 = 0) (hj : j < 64) :
    palvanDecode (off + j) = (palvanDecode off).map fun p => (p.1, p.2.1, p.2.2 + j) := by
  have low : (off + j) % 2 ^ 42 = off % 2 ^ 42 + j := by omega
  have unit' : off % 2 ^ 42 % 64 = 0 := by omega
  have page : (off % 2 ^ 42 + j) % 4096 = off % 2 ^ 42 % 4096 + j := by omega
  unfold palvanDecode
  simp only [low, page, bitsOf_add_of_unit _ unit hj (show 6 ≤ 44 by decide), bitsOf_add_of_unit _ unit hj (show 6 ≤ 42 by decide)]
  simp only [bitsOf_add_of_unit _ unit' hj (show 6 ≤ 12 by decide), bitsOf_add_of_unit _ unit' hj (show 6 ≤ 35 by decide),
    bitsOf_add_of_unit _ unit' hj (show 6 ≤ 37 by decide), bitsOf_add_of_unit _ unit' hj (show 6 ≤ 38 by decide),
    bitsOf_add_of_unit _ unit' hj (show 6 ≤ 39 by decide), bitsOf_add_of_unit _ unit' hj (show 6 ≤ 40 by decide), ← Nat.add_assoc]
  split_ifs
  · rfl
  · split <;> rfl

theorem palvanDecode_isSome {off : Nat} (valid : palvanValid off = true) : ∃ p, palvanDecode off = some p ∧ p.2.2 % 64 = off % 64 := by
  simp only [palvanValid, Bool.and_eq_true, beq_iff_eq, bne_iff_ne] at valid
  obtain ⟨top, form⟩ := valid
  have bound : bitsOf off 42 2 < 4 := Nat.mod_lt _ (by decide)
  have unit (k : Nat) : (k * 4096 + off % 2 ^ 42 % 4096) % 64 = off % 64 := by omega
  unfold palvanDecode
  rw [if_neg (by simpa using top)]
  dsimp only
  generalize bitsOf off 42 2 = il at form bound ⊢
  interval_cases il
  · exact absurd rfl form
  · exact ⟨_, rfl, unit _⟩
  · exact ⟨_, rfl, unit _⟩
  · exact ⟨_, rfl, unit _⟩

theorem stackAddr_add {off j : Nat} (valid : palvanValid off = true) (unit : off % 64 = 0) (hj : j < 64) :
    stackAddr (off + j) = stackAddr off + j := by
  obtain ⟨p, decoded, -⟩ := palvanDecode_isSome valid
  simp only [stackAddr, palvanDecode_add unit hj, decoded, Option.map_some, Nat.add_assoc]

theorem stackAddr_unit {off : Nat} (valid : palvanValid off = true) (unit : off % 64 = 0) : stackAddr off % 64 = 0 := by
  obtain ⟨⟨st, slot, o⟩, decoded, same⟩ := palvanDecode_isSome valid
  have aligned : o % 64 = 0 := same.trans unit
  have plot : (st * 8 + slot) * 2 ^ 34 % 64 = 0 := by omega
  simp only [stackAddr, decoded]
  rw [Nat.add_mod, plot, aligned]

section
variable {l : Leaf} {va j : Nat}

/-- A leaf maps the unit at `va` to whole units of the stacks. -/
structure MapsUnit (l : Leaf) (va : Nat) : Prop where
  below : l.va ≤ va
  unit : va % 64 = 0
  paUnit : l.pa % 64 = 0
  vaUnit : l.va % 64 = 0
  valid : palvanValid (paOffset (l.addr va)) = true

theorem MapsUnit.addr_add (h : MapsUnit l va) (hj : j < 64) : (l.addr (va + j)).toNat = (l.addr va).toNat + j := by
  obtain ⟨below, unit, paUnit, vaUnit, -⟩ := h
  simp only [Leaf.addr, BitVec.toNat_ofNat]
  omega

theorem MapsUnit.addr_unit (h : MapsUnit l va) : (l.addr va).toNat % 64 = 0 := by
  obtain ⟨below, unit, paUnit, vaUnit, -⟩ := h
  simp only [Leaf.addr, BitVec.toNat_ofNat]
  omega

theorem MapsUnit.offset_unit (h : MapsUnit l va) : paOffset (l.addr va) % 64 = 0 := by
  have := h.addr_unit
  unfold paOffset
  omega

theorem MapsUnit.placeOf_add (h : MapsUnit l va) (hj : j < 64) : placeOf l (va + j) = placeOf l va + j := by
  have offset : paOffset (l.addr (va + j)) = paOffset (l.addr va) + j := by
    have := h.addr_unit
    unfold paOffset
    rw [h.addr_add hj]
    omega
  rw [placeOf, placeOf, offset, stackAddr_add h.valid h.offset_unit hj]

theorem MapsUnit.placeOf_unit (h : MapsUnit l va) : placeOf l va % 64 = 0 := stackAddr_unit h.valid h.offset_unit

end

/-! ## Writing a whole unit (R267) -/

theorem read_writeBytes_inside (l : List Byte) (m : Memory) (a : Nat) {j : Nat} (h : j < l.length) :
    (m.writeBytes a l).read (a + j) = l.getD j 0 := by
  induction l generalizing m a j with
  | nil => cases h
  | cons b r ih =>
    show ((m.write a b).writeBytes (a + 1) r).read (a + j) = _
    cases j with
    | zero => rw [Memory.read_writeBytes_other _ _ _ _ (.inl (by omega))]; simp
    | succ j =>
      rw [show a + (j + 1) = a + 1 + j by omega, ih _ _ (by simpa using h)]
      rfl

theorem map_getD_indices {l : List Byte} {n : Nat} (h : l.length = n) : (indices n).map (fun i => l.getD i 0) = l := by
  subst h
  refine List.ext_getElem (by simp [indices]) fun i h1 h2 => ?_
  rw [List.getElem_map, show (indices l.length)[i]'(by simpa [indices] using h2) = i from List.getElem_range _, List.getD_eq_getElem _ _ h2]

theorem storeUnit_whole {data : List Byte} (h : data.length = 64) (a : Nat) (key : KeyId) (psn : Bool) (s : State) :
    storeUnit a key (BitVec.allOnes 64) data psn s = { s with stk := { s.stk with
      mem := s.stk.mem.writeBytes a data, wrote := s.stk.wrote.set none (a / 64) (some key),
      psn := s.stk.psn.set false (a / 64) psn } } := by
  have bytes (old : List Byte) :
      (indices 64).map (fun i => if (BitVec.allOnes 64).getLsbD i then data.getD i 0 else old.getD i 0) = data := by
    refine Eq.trans (List.map_congr_left fun i hi => ?_) (map_getD_indices h)
    have low : i < 64 := by simpa [indices] using hi
    rw [if_pos (by rw [BitVec.getLsbD_allOnes, decide_eq_true low])]
  simp only [storeUnit, bytes]
  rfl

theorem askStack_frame (src : Source) (a : Nat) (s : State) :
    ∃ ports, askStack src a s = { s with stk := { s.stk with ports := ports } } := by
  unfold askStack
  dsimp only
  split <;> exact ⟨_, rfl⟩

theorem arrive_frame (p : StackPort) (src n : Nat) :
    p.arrive src n = { p with queued := (p.arrive src n).queued, atNode := (p.arrive src n).atNode } := by
  simp only [StackPort.arrive]

theorem portsStay_arrive {k : Nat} (s : State) (src : Nat) (waiting : (s.stk.ports.get .reset k).sources ≠ []) :
    PortsStay s { s with stk := { s.stk with ports := s.stk.ports.set .reset k ((s.stk.ports.get .reset k).arrive src 1) } } := by
  intro n
  by_cases h : n = k
  · subst h
    simp only [Table.get_set_same]
    exact ⟨arrive_frame .., fun none => absurd none waiting⟩
  · simp [Table.get_set_other _ _ _ h]

theorem askStack_portsStay (src : Source) (a : Nat) (s : State) : PortsStay s (askStack src a s) := by
  unfold askStack
  dsimp only
  split
  · exact fun n => ⟨rfl, fun _ => rfl⟩
  · next waiting => exact portsStay_arrive s _ waiting

/-- A whole unit is written under a leaf, and of the rest only the performance counters differ. -/
theorem writeUnit_wrote {l : Leaf} {va : Nat} {data : List Byte} (h : MapsUnit l va) (size : data.length = 64) (src : Source)
    (b : Option BindingId) (psn : Bool) (s : State) :
    ∃ stk perf, writeUnit src (paOffset (l.addr va)) l.key b (BitVec.allOnes 64) data psn s = { s with stk := stk, perf := perf } ∧
      Wrote s { s with stk := stk, perf := perf } l va 64 fun j => data.getD j 0 := by
  obtain ⟨ports, ask⟩ := askStack_frame src (placeOf l va) s
  have stays := askStack_portsStay src (placeOf l va) s
  rw [ask] at stays
  have counts (t : State) : ∃ perf, perfCount 0x11 (stackOf (placeOf l va)) b 1 t = { t with perf := perf } := ⟨_, perfCount_frame ..⟩
  obtain ⟨perf, counted⟩ := counts (storeUnit (placeOf l va) (s.keyOf l.key) (BitVec.allOnes 64) data psn (askStack src (placeOf l va) s))
  refine ⟨{ s.stk with
      ports := ports, mem := s.stk.mem.writeBytes (placeOf l va) data, psn := s.stk.psn.set false (placeOf l va / 64) psn
      wrote := s.stk.wrote.set none (placeOf l va / 64) (some (s.keyOf l.key)) }, perf, ?_, fun j hj => ⟨?_, ?_⟩, fun a ha => ?_, stays⟩
  · rw [writeUnit, if_neg (by decide)]
    refine counted.trans ?_
    rw [ask, storeUnit_whole size]
  · rw [h.placeOf_add hj]
    exact read_writeBytes_inside _ _ _ (by omega)
  · have same : placeOf l (va + j) / 64 = placeOf l va / 64 := by
      have := h.placeOf_unit
      rw [h.placeOf_add hj]
      omega
    rw [same]
    exact Table.get_set_same ..
  · refine Memory.read_writeBytes_other _ _ _ _ ?_
    by_contra inside
    rw [not_or, Nat.not_lt, Nat.not_le] at inside
    obtain ⟨above, below⟩ := inside
    refine ha (a - placeOf l va) (by omega) ?_
    rw [h.placeOf_add (by omega)]
    omega

/-! ## A hub engine's translation at hand (R278, R286) -/

/-- The engine of descriptor i of ring r is not parked, has no request under way and holds no translation. -/
structure Unengaged (s : State) (r : RingId) (i : Nat) (b : BindingId) : Prop where
  free : isParked s b (.job r i) = false
  idle : ∀ q ∈ s.hub.reqs, q.who.descriptor ≠ some (r, i)
  bare : heldLeaves s (.job r i) = []

theorem tlbFind_maps {l : List TlbEntry} {b : BindingId} {va : Nat} {e : TlbEntry} (h : tlbFind l b va = some e) :
    e.leaf.maps va = true := by
  have := List.find?_some h
  simp only [Bool.and_eq_true] at this
  exact this.2

section
variable {s : State} {r : RingId} {i : Nat} {b : BindingId} {va : Nat} {l : Leaf}

theorem Unengaged.no_flight (h : Unengaged s r i b) (write : Bool) : inFlight s (.job r i) b va write = none := by
  unfold inFlight
  dsimp only
  rw [List.filterMap_eq_nil_iff.2]
  · rfl
  · intro q hq
    split
    · exact if_neg fun own => h.idle q hq (by rw [own.1]; rfl)
    · rfl

theorem Unengaged.not_outstanding (h : Unengaged s r i b) : outstanding s (.job r i) = false := by
  refine List.any_eq_false.2 fun q hq => ?_
  have other : q.who ≠ .job r i := fun own => h.idle q hq (by rw [own]; rfl)
  simp [other]

/-- A leaf of the hub TLB that permits the access serves the engine at once. -/
theorem Unengaged.xlate_eq (h : Unengaged s r i b) (range : va < 2 ^ 48) (found : tlbFind s.hub.walker.tlb b va = some ⟨b, l⟩)
    (write probe : Bool)
    (permits : write = true → l.w = true ∧ l.old = false) : xlate (.job r i) b (BitVec.ofNat 64 va) write probe s = (.leaf l, s) := by
  have number : (BitVec.ofNat 64 va).toNat = va := by
    rw [BitVec.toNat_ofNat, Nat.mod_eq_of_lt (by omega)]
  have top : bitsOf va 48 16 = 0 := by
    rw [bitsOf, Nat.div_eq_of_lt range, Nat.zero_mod]
  have maps : l.maps va = true := tlbFind_maps found
  have allowed : (l.w || !write) && (!l.old || !write || Who.queued (.job r i)) = true := by
    cases write with
    | false => simp
    | true => simp [permits rfl]
  have core : Who.core (.job r i) = none := rfl
  have walker : Who.walker (.job r i) = none := rfl
  simp only [xlate, h.free, number, top, h.no_flight, h.bare, core, walker, found, Bool.false_eq_true, if_false, ne_eq,
    not_true_eq_false, Option.none_or, List.find?_nil]
  refine if_pos ?_
  rw [Bool.and_assoc, maps]
  simpa using allowed

theorem pieces_one {blk fuel a len : Nat} (some_ : 0 < len) (fits : a % blk + len ≤ blk) : pieces blk (fuel + 2) a len = [(a, len)] := by
  have whole : min len (blk - a % blk) = len := by omega
  have rest : pieces blk (fuel + 1) (a + len) 0 = [] := rfl
  rw [pieces, if_neg (by omega)]
  simp only [whole, Nat.sub_self, rest]

/-- A whole unit of local Palvan memory is written in one piece. -/
theorem physWriteBlock_whole (place : MapsUnit l va) {data : List PByte} (size : data.length = 64) (region : paRegion (l.addr va) = 0)
    (loc : isLocal s (l.addr va) = true) (who : Who) (b : Option BindingId) :
    physWriteBlock who b (l.addr va) l.via data s =
      writeUnit who.source (paOffset (l.addr va)) l.key b (BitVec.allOnes 64) (plain data) (anyPsn data) s := by
  have unit := place.addr_unit
  have one : unitPieces (l.addr va).toNat 64 = [((l.addr va).toNat, 64)] := pieces_one (by omega) (by omega)
  have base : BitVec.ofNat 64 ((l.addr va).toNat / 64 * 64) = l.addr va := by
    rw [Nat.div_mul_cancel (Nat.dvd_of_mod_eq_zero unit), BitVec.ofNat_toNat, BitVec.setWidth_eq]
  have mask : maskOf 0 64 = BitVec.allOnes 64 := by decide
  have bytes : placeAt 0 (plain data) = plain data := by simp [placeAt, plain, size]
  rw [physWriteBlock, if_neg (by simp [loc]), physWrite, size, one]
  simp only [List.foldl_cons, List.foldl_nil, Nat.sub_self, List.drop_zero, List.take_of_length_le size.le, unit, base, mask, bytes]
  rw [physWriteUnit, if_neg (by decide), region]
  simp only [loc, if_true]
  rfl

/-- A whole unit is written at once for the engine. -/
theorem Unengaged.engineWriteAll_eq (h : Unengaged s r i b) (hub : HubMaps s b va 64 true l) {data : List PByte} (size : data.length = 64) :
    engineWriteAll (.job r i) b va data s =
      (true, writeUnit hubSource (paOffset (l.addr va)) l.key (some b) (BitVec.allOnes 64) (plain data) (anyPsn data) s) := by
  obtain ⟨range, unit, -, -, -, found, permits, paPage, vaPage, region, loc, valid, -⟩ := hub
  have hit (n : Nat) (hn : n = va) (probe : Bool) : xlate (.job r i) b (BitVec.ofNat 64 n) true probe s = (.leaf l, s) := by
    subst hn
    exact h.xlate_eq (by omega) (by simpa using found 0 (by decide)) true probe permits
  have place : MapsUnit l va := by
    have maps := tlbFind_maps (found 0 (by decide))
    simp only [Leaf.maps, decide_eq_true_eq] at maps
    exact ⟨by omega, unit, by omega, by omega, valid⟩
  have page : pieces 4096 (64 / 4096 + 2) va 64 = [(va, 64)] := pieces_one (by omega) (by omega)
  have block : pieces 512 (64 / 512 + 2) va 64 = [(va, 64)] := pieces_one (by omega) (by omega)
  simp only [engineWriteAll, probeRange, size, page, block, List.foldl_cons, List.foldl_nil, hit _ rfl, if_true, Nat.sub_self,
    List.drop_zero,
    List.take_of_length_le size.le, engineWrite]
  exact congrArg (Prod.mk true) (physWriteBlock_whole place size region loc ..)

end

end Sys2Proof.Machine
end

section
/-!
PROOFS. The commit record, and the DRAIN that writes it (R364, Table 13-5).
-/

namespace Sys2Proof.Machine

/-! ## The commit record (Table 13-5) -/

theorem keccakF_length (a : List (BitVec 64)) : (keccakF a).length = 25 := by
  have rounds : ∀ l : List Nat, l ≠ [] → ∀ a, (l.foldl keccakRound a).length = 25 := by
    intro l
    induction l with
    | nil => exact fun h => absurd rfl h
    | cons n r ih =>
      intro _ a
      rw [List.foldl_cons]
      by_cases last : r = []
      · subst last
        simp [keccakRound, keccakBuild]
      · exact ih last _
  exact rounds _ (by decide) a

theorem shakeAbsorb_length (fuel : Nat) {a : List (BitVec 64)} (h : a.length = 25) (m : List Byte) :
    (shakeAbsorb fuel a m).length = 25 := by
  induction fuel generalizing a m with
  | zero => exact h
  | succ n ih =>
    rw [shakeAbsorb]
    split
    · exact h
    · exact ih (keccakF_length _) _

theorem flatMap_bytes_length (a : List (BitVec 64)) : (a.flatMap fun l => bytesOfNat 8 l.toNat).length = a.length * 8 := by
  simp [List.length_flatMap, bytesOfNat_length]

theorem shake256_length {n : Nat} (h : n ≤ 200) (m : List Byte) : (shake256 n m).length = n := by
  rw [shake256, List.length_take, flatMap_bytes_length, shakeAbsorb_length _ (List.length_replicate ..)]
  omega

theorem bytesOfNat_getD {n j : Nat} (h : j < n) (v : Nat) : (bytesOfNat n v).getD j 0 = BitVec.ofNat 8 (v / 2 ^ (8 * j)) := by
  induction n generalizing v j with
  | zero => cases h
  | succ n ih =>
    cases j with
    | zero => simp [bytesOfNat]
    | succ j =>
      show (bytesOfNat n (v / 256)).getD j 0 = _
      rw [ih (by omega), Nat.div_div_eq_div_mul, show (2 : Nat) ^ (8 * (j + 1)) = 256 * 2 ^ (8 * j) by ring]

theorem plain_marked (p : Bool) (l : List Byte) : plain (marked p l) = l := by
  rw [plain, marked, List.map_map]
  exact List.map_id l

/-- The bytes of a commit record after BREATH and STEP. -/
def recordTail (s : State) (b : BindingId) (d : Desc) : List Byte :=
  bytesOfNat 4 d.firstLayer ++ (bytesOfNat 4 d.layerCount ++ (bytesOfNat 8 d.job.data.length ++
    (shake256 16 (plain d.job.data) ++ (bytesOf 8 (s.bnd b).seed ++ (bytesOfNat 2 s.mgmt.mid.toNat ++ List.replicate 6 0)))))

theorem plain_commitRecord (s : State) (b : BindingId) (d : Desc) (opened : DWord) :
    plain (commitRecord s b d opened) = bytesOfNat 8 opened.toNat ++ (bytesOfNat 8 d.step ++ recordTail s b d) := by
  rw [commitRecord, plain_marked, recordTail]
  simp only [List.append_assoc]
  rfl

theorem recordTail_length (s : State) (b : BindingId) (d : Desc) : (recordTail s b d).length = 48 := by
  have seed : (bytesOf 8 (s.bnd b).seed).length = 8 := bytesOfNat_length ..
  simp only [recordTail, List.length_append, bytesOfNat_length, shake256_length (show 16 ≤ 200 by decide), seed, List.length_replicate]

theorem plain_commitRecord_length (s : State) (b : BindingId) (d : Desc) (opened : DWord) :
    (plain (commitRecord s b d opened)).length = 64 := by
  simp only [plain_commitRecord, List.length_append, bytesOfNat_length, recordTail_length]

/-- Bytes 0 to 15 of a commit record: the breath and the step (Table 13-5). -/
theorem commitRecord_breath_step (s : State) (b : BindingId) (d : Desc) (opened : DWord) {j : Nat} (h : j < 8) :
    (plain (commitRecord s b d opened)).getD j 0 = BitVec.ofNat 8 (opened.toNat / 2 ^ (8 * j)) ∧
      (plain (commitRecord s b d opened)).getD (8 + j) 0 = BitVec.ofNat 8 (d.step / 2 ^ (8 * j)) := by
  rw [plain_commitRecord]
  constructor
  · rw [List.getD_append _ _ _ _ (by rwa [bytesOfNat_length]), bytesOfNat_getD h]
  · rw [List.getD_append_right _ _ _ _ (by rw [bytesOfNat_length]; omega), bytesOfNat_length, Nat.add_sub_cancel_left,
      List.getD_append _ _ _ _ (by rwa [bytesOfNat_length]), bytesOfNat_getD h]

theorem HubMaps.mapsUnit {s : State} {b : BindingId} {va : Nat} {l : Leaf} (h : HubMaps s b va 64 true l) : MapsUnit l va := by
  obtain ⟨range, unit, -, -, -, found, -, paPage, vaPage, -, -, valid, -⟩ := h
  have maps := tlbFind_maps (found 0 (by decide))
  simp only [Leaf.maps, decide_eq_true_eq] at maps
  exact ⟨by omega, unit, by omega, by omega, valid⟩

/-! ## The DRAIN that writes its commit record (R364) -/

/-- Descriptor `d` of ring r, a running DRAIN for binding b, is at phase n, and nothing holds its engine. -/
structure AtPhase (s : State) (r : RingId) (d : Desc) (b : BindingId) (n : Nat) : Prop where
  here : s.desc r d.index = some d
  running : d.running = true
  binding : d.binding = some b
  err : d.job.err = false
  phase : d.job.phase = n
  free : Unengaged s r d.index b
  linksFull : linksFull s = false

section
variable {s : State} {r : RingId} {d : Desc} {b : BindingId} {n : Nat}

theorem AtPhase.unended (h : AtPhase s r d b n) : d.ended = false := by
  have := h.running
  simp only [Desc.running, Bool.and_eq_true, Bool.not_eq_true'] at this
  exact this.2

theorem AtPhase.jobState (h : AtPhase s r d b n) : jobState s r d.index = some (d, b) := by
  simp [Machine.jobState, h.here, h.binding, h.running, h.free.free]

/-- The state of a descriptor that goes to phase n. -/
def Desc.at (d : Desc) (n : Nat) : Desc := { d with job := { d.job with phase := n, xl := [] } }

theorem desc_modJob_same (i : Nat) (f : Job → Job) :
    (s.modJob r i f).desc r i = (s.desc r i).map fun d => { d with job := f d.job } := desc_modDesc_same fun _ => rfl

theorem toPhase_eq (i n : Nat) (s : State) : ∃ hub, (∀ q ∈ hub.reqs, q ∈ s.hub.reqs) ∧ toPhase r i n s =
    { (s.modJob r i fun j => { j with phase := n }).modJob r i (fun j => { j with xl := [] }) with hub := hub } :=
  ⟨_, fun _ hq => (List.mem_filter.1 hq).1, rfl⟩

theorem toPhase_desc (h : s.desc r d.index = some d) (n : Nat) : (toPhase r d.index n s).desc r d.index = some (d.at n) := by
  obtain ⟨hub, -, step⟩ := toPhase_eq (r := r) d.index n s
  have both : ((s.modJob r d.index fun j => { j with phase := n }).modJob r d.index (fun j => { j with xl := [] })).desc r d.index =
      some (d.at n) := by
    rw [desc_modJob_same, desc_modJob_same, h]
    rfl
  rw [step]
  exact both

theorem ring_modJob_other {i : Nat} {f : Job → Job} {x : RingId} (hx : x ≠ r) : (s.modJob r i f).ring x = s.ring x :=
  modDesc_ring_other hx

theorem modJob_ring_cq (i : Nat) (f : Job → Job) (x : RingId) : ((s.modJob r i f).ring x).cq = (s.ring x).cq := modDesc_ring_cq x

theorem toPhase_ring_other (i n : Nat) {x : RingId} (hx : x ≠ r) : (toPhase r i n s).ring x = s.ring x := by
  obtain ⟨hub, -, step⟩ := toPhase_eq (r := r) i n s
  have both : ((s.modJob r i fun j => { j with phase := n }).modJob r i (fun j => { j with xl := [] })).ring x = s.ring x := by
    rw [ring_modJob_other hx, ring_modJob_other hx]
  rw [step]
  exact both

theorem toPhase_ring_cq (i n : Nat) (x : RingId) : ((toPhase r i n s).ring x).cq = (s.ring x).cq := by
  obtain ⟨hub, -, step⟩ := toPhase_eq (r := r) i n s
  have both : (((s.modJob r i fun j => { j with phase := n }).modJob r i (fun j => { j with xl := [] })).ring x).cq = (s.ring x).cq := by
    rw [modJob_ring_cq, modJob_ring_cq]
  rw [step]
  exact both

theorem toPhase_stk (i n : Nat) : (toPhase r i n s).stk = s.stk := rfl
theorem toPhase_cq (i n : Nat) (x : CqId) : (toPhase r i n s).cq x = s.cq x := rfl
theorem toPhase_count (i n : Nat) : (toPhase r i n s).time.count = s.time.count := rfl

theorem AtPhase.toPhase (h : AtPhase s r d b n) (m : Nat) : AtPhase (toPhase r d.index m s) r (d.at m) b m where
  here := toPhase_desc h.here m
  running := h.running
  binding := h.binding
  err := h.err
  phase := rfl
  free := ⟨h.free.free, fun q hq => h.free.idle q (List.mem_filter.1 hq).1, by
    show heldLeaves (Machine.toPhase r d.index m s) (.job r d.index) = []
    simp only [heldLeaves, toPhase_desc h.here m]
    rfl⟩
  linksFull := h.linksFull

/-- Nothing of a DRAIN depends on the stacks and the counters. -/
theorem AtPhase.stored (h : AtPhase s r d b n) (stk : Stacks) (perf : PerfState) : AtPhase { s with stk := stk, perf := perf } r d b n :=
  ⟨h.here, h.running, h.binding, h.err, h.phase, ⟨h.free.free, h.free.idle, h.free.bare⟩, h.linksFull⟩

theorem drainStep_commit {l : Leaf} {opened : DWord} (h : AtPhase s r d b 6) (named : d.job.named = some opened)
    (hub : HubMaps s b (d.drainDst + d.drainTotal) 64 true l) :
    drainStep r d.index s = (true, toPhase r d.index 7 (writeUnit hubSource (paOffset (l.addr (d.drainDst + d.drainTotal))) l.key (some b)
      (BitVec.allOnes 64) (plain (commitRecord s b d opened)) (anyPsn (commitRecord s b d opened)) s)) := by
  have size : (commitRecord s b d opened).length = 64 := by
    rw [← plain_commitRecord_length s b d opened, plain, List.length_map]
  simp only [drainStep, h.jobState, h.err, h.phase, named, h.linksFull, h.free.engineWriteAll_eq hub size, Bool.false_eq_true, if_false]

theorem drainStep_ends (h : AtPhase s r d b 7) : drainStep r d.index s = (false, endJob r d.index .ok s) := by
  simp only [drainStep, h.jobState, h.err, h.phase, h.free.not_outstanding, Bool.false_eq_true, if_false]

theorem endJob_drain (h : AtPhase s r d b 7) (opcode : d.opcode = 0x06) : endJob r d.index .ok s =
    finishDesc r d.index .ok (bytesOfNat 8 (d.job.pos - d.job.lost) ++ [0, 0, 0, 0]) s := by
  have performed : performedBytes s r d = d.job.pos - d.job.lost := by
    simp [performedBytes, opcode, h.phase]
  simp only [endJob, h.here, jobDetail, opcode, performed]
  rfl

theorem jobErr_finishDesc {st : Status} {detail : List Byte} (h : AtPhase s r d b n) :
    jobErr (finishDesc r d.index st detail s) r d.index = false := by
  obtain ⟨c, hub, perf, -, step⟩ := finishDesc_eq (st := st) (detail := detail) h.here h.unended
  have here : (finishDesc r d.index st detail s).desc r d.index = some d.closed := by
    rw [step]
    exact (desc_modDesc_same (f := .closed) fun _ => rfl).trans (congrArg (Option.map Desc.closed) h.here)
  rw [jobErr, here]
  exact h.err

/-- What finishes a descriptor at a later state finishes it from an earlier one with the same rings and time. -/
theorem Finishes.of_earlier {t u : State} {e : Desc} {st : Status} {detail : List Byte} (h : Finishes u t r e st detail)
    (cq : (u.ring r).cq = (s.ring r).cq) (cqs : ∀ x, u.cq x = s.cq x) (count : u.time.count = s.time.count)
    (rings : ∀ x, x ≠ r → u.ring x = s.ring x) (index : e.index = d.index) (raw : e.raw = d.raw) (ringIndex : e.ringIndex = d.ringIndex)
    (accepted : e.accepted = d.accepted) : Finishes s t r d st detail := by
  obtain ⟨completion, desc, others, otherRings⟩ := h
  have num (lo n : Nat) : e.num lo n = d.num lo n := by rw [Desc.num, Desc.num, raw]
  have tag : e.tag = d.tag := congrArg (BitVec.ofNat 32) (num 4 4)
  have opcode : e.opcode = d.opcode := num 0 1
  have flag : e.flag 1 = d.flag 1 := by rw [Desc.flag, Desc.flag, raw]
  rw [cq, cqs, count, index, ringIndex, accepted, tag, opcode, flag] at completion
  rw [cq] at others
  rw [index, raw] at desc
  exact ⟨completion, desc, fun x hx => (others x hx).trans (cqs x), fun x hx => (otherRings x hx).trans (rings x hx)⟩

theorem repeatStep_two {step : State → Bool × State} {s t u : State} {fuel : Nat} (one : step s = (true, t)) (two : step t = (false, u)) :
    repeatStep step (fuel + 2) s = u := by
  simp only [repeatStep, one, two]

theorem Wrote.of_stk {t u : State} {l : Leaf} {va n : Nat} {f : Nat → Byte} (h : Wrote s t l va n f) (stk : u.stk = t.stk) :
    Wrote s u l va n f := by
  unfold Wrote PortsStay at h ⊢
  rwa [stk]

/-- A DRAIN whose breath has opened writes its commit record in the stacks and finishes. -/
theorem runDrain_commits {l : Leaf} {opened : DWord} (h : AtPhase s r d b 6) (opcode : d.opcode = 0x06)
    (named : d.job.named = some opened) (hub : HubMaps s b (d.drainDst + d.drainTotal) 64 true l) :
    Wrote s (runDrain r d.index s) l (d.drainDst + d.drainTotal) 64 (fun j => (plain (commitRecord s b d opened)).getD j 0) ∧
      Finishes s (runDrain r d.index s) r d .ok (bytesOfNat 8 (d.job.pos - d.job.lost) ++ [0, 0, 0, 0]) := by
  obtain ⟨stk, perf, wrote, record⟩ := writeUnit_wrote (s := s) (hub.mapsUnit) (plain_commitRecord_length s b d opened) hubSource (some b)
    (anyPsn (commitRecord s b d opened))
  have first := drainStep_commit h named hub
  rw [wrote] at first
  have last := (h.stored stk perf).toPhase 7
  have unended : (d.at 7).ended = false := last.unended
  have run : runDrain r d.index s =
      finishDesc r d.index .ok (bytesOfNat 8 (d.job.pos - d.job.lost) ++ [0, 0, 0, 0])
        (toPhase r d.index 7 { s with stk := stk, perf := perf }) := by
    obtain ⟨n, fuel⟩ : ∃ n, 2 ^ 50 = n + 2 := ⟨2 ^ 50 - 2, by norm_num⟩
    have noErr := jobErr_finishDesc (st := .ok) (detail := bytesOfNat 8 (d.job.pos - d.job.lost) ++ [0, 0, 0, 0]) last
    have ends := drainStep_ends last
    rw [endJob_drain last opcode] at ends
    simp only [runDrain, fuel, repeatStep_two first ends]
    exact if_neg (by rw [Bool.not_eq_true]; exact noErr)
  rw [run]
  refine ⟨record.of_stk ((finishDesc_stores last.here last.unended).2.trans (toPhase_stk ..)), ?_⟩
  refine (finishDesc_finishes last.here last.unended).of_earlier ?_ (fun x => ?_) ?_ (fun x hx => ?_) rfl rfl rfl rfl
  · exact toPhase_ring_cq (s := { s with stk := stk, perf := perf }) d.index 7 r
  · exact toPhase_cq (s := { s with stk := stk, perf := perf }) d.index 7 x
  · exact toPhase_count (s := { s with stk := stk, perf := perf }) d.index 7
  · exact toPhase_ring_other (s := { s with stk := stk, perf := perf }) d.index 7 hx

end

end Sys2Proof.Machine
end

section
/-!
PROOFS. What the opening of a breath leaves, and a DRAIN that waits for it (R44, R364).
-/

namespace Sys2Proof.Machine

/-! ## What the opening of a breath leaves (R44) -/

theorem mem_entries_set {α : Type} [DecidableEq α] {d v : α} {t : Table α} {k : Nat} {e : Nat × α} (h : e ∈ (t.set d k v).entries) :
    e = (k, v) ∨ e ∈ t.entries := by
  unfold Table.set at h
  split at h
  · exact .inr ((drop_sublist k t.entries).subset h)
  · exact mem_insert_key h

theorem get_mem_or_default {α : Type} (d : α) (t : Table α) (k : Nat) : (k, t.get d k) ∈ t.entries ∨ t.get d k = d := by
  unfold Table.get
  induction t.entries with
  | nil => exact .inr rfl
  | cons e r ih =>
    obtain ⟨j, v⟩ := e
    rw [lookupEntry]
    split
    · next same => exact .inl (same ▸ List.mem_cons_self)
    · exact ih.imp_left (List.mem_cons_of_mem _)

section
variable {s : State}

theorem linksFull_eq_false_iff : linksFull s = false ↔ ∀ e ∈ s.links.ports.entries, e.2.waiting.length + e.2.replay.length < 512 := by
  simp [linksFull]

theorem linksFull_modPort (h : linksFull s = false) (i : BitVec 5) {f : Port → Port}
    (keeps : ∀ p, (f p).waiting = p.waiting ∧ (f p).replay = p.replay) : linksFull (s.modPort i f) = false := by
  rw [linksFull_eq_false_iff] at h ⊢
  intro e he
  rcases mem_entries_set he with rfl | old
  · obtain ⟨waiting, replay⟩ := keeps (s.port i)
    show (f (s.port i)).waiting.length + (f (s.port i)).replay.length < 512
    rw [waiting, replay]
    rcases get_mem_or_default .reset s.links.ports i.toNat with listed | fresh
    · exact h _ listed
    · rw [State.port, fresh]
      decide
  · exact h e old

theorem linksFull_revertStep (h : linksFull s = false) (kind group : Nat) : linksFull (revertStep kind group s) = false := by
  unfold revertStep
  split
  · exact h
  · dsimp only
    split
    · exact linksFull_modPort (s := modLane kind group _ _ (modGroup kind group _ s)) h _ fun p => ⟨rfl, rfl⟩
    · exact h

theorem linksFull_revertSteps (h : linksFull s = false) : linksFull (revertSteps s) = false := by
  have all (l : List (Nat × CalGroup)) : ∀ s : State, linksFull s = false →
      linksFull (l.foldl (fun s e => revertStep (e.1 / 256) (e.1 % 256) s) s) = false := by
    induction l with
    | nil => exact fun s h => h
    | cons e r ih => exact fun s h => ih _ (linksFull_revertStep h _ _)
  exact all _ s h

theorem openedBreath_frame (rs : List Reading) (s : State) : ∃ cal links rings cores mgmt, openedBreath rs s = { s with
      cal := cal, links := links, rings := rings, cores := cores, mgmt := mgmt, mod := { s.mod with heartbeatLost := false }
      time := { s.time with openBreath := some (s.time.count, s.time.len) } } ∧
    mgmt.mid = s.mgmt.mid := by
  obtain ⟨cal, links, frame⟩ := revertSteps_frame s
  rw [openedBreath, breathBegun, frame]
  exact ⟨_, _, _, _, _, rfl, rfl⟩

theorem linksFull_openedBreath (h : linksFull s = false) (rs : List Reading) : linksFull (openedBreath rs s) = false :=
  linksFull_revertSteps h

/-- An accepted descriptor once a breath that it does not name has opened. -/
def Desc.opened (now : Nat) (d : Desc) : Desc := { d with eligible := d.eligible || decide (d.notBefore ≤ now), named := false }

theorem openedBreath_ring (rs : List Reading) (s : State) (x : RingId) :
    (openedBreath rs s).ring x = { s.ring x with descs := (s.ring x).descs.map (.opened s.time.count.toNat) } := by
  obtain ⟨cal, links, frame⟩ := revertSteps_frame s
  have begun : (breathBegun s).rings = s.rings ∧ (breathBegun s).time.count = s.time.count := by
    rw [breathBegun, frame]
    exact ⟨rfl, rfl⟩
  have admitted := Table.get_mapListed .reset (breathBegun s).rings (fun _ q => { q with descs := q.descs.map fun d =>
      { d with
        eligible := d.eligible || decide (d.notBefore ≤ (breathBegun s).time.count.toNat)
        named := d.started.isNone && d.notBefore == (breathBegun s).time.count.toNat &&
          (breathBegun s).time.count.toNat != 0 } }) x.toNat rfl
  have forgotten := Table.get_mapListed .reset (admitNamed (sample rs (breathBegun s))).rings
    (fun _ q => { q with descs := q.descs.map fun d => { d with named := false } }) x.toNat rfl
  refine forgotten.trans ?_
  refine (congrArg (fun q : SubRing => ({ q with descs := q.descs.map fun d => { d with named := false } } : SubRing)) admitted).trans ?_
  simp only [begun, List.map_map]
  rfl

/-! ## A breath with one DRAIN that waits for it -/

variable {r : RingId} {d : Desc} {b : BindingId}

theorem mem_descs_only (h : s.allDescs = [(r, d)]) {e : Nat × SubRing} (he : e ∈ s.rings.entries) {x : Desc} (hx : x ∈ e.2.descs) :
    BitVec.ofNat 12 e.1 = r ∧ x = d := by
  have : (BitVec.ofNat 12 e.1, x) ∈ s.allDescs := List.mem_flatMap.2 ⟨e, he, List.mem_map_of_mem hx⟩
  rw [h, List.mem_singleton] at this
  exact Prod.ext_iff.1 this

theorem allStarted_of_only (h : s.allDescs = [(r, d)]) (running : d.running = true) : AllStarted s := by
  intro e he x hx
  rw [(mem_descs_only h he hx).2]
  simp only [Desc.running, Bool.and_eq_true] at running
  exact running.1

theorem descs_other_ring (h : s.allDescs = [(r, d)]) {x : RingId} (hx : x ≠ r) : (s.ring x).descs = [] := by
  refine List.eq_nil_iff_forall_not_mem.2 fun y hy => ?_
  rcases get_mem_or_default .reset s.rings x.toNat with listed | fresh
  · refine hx ?_
    rw [← (mem_descs_only h listed hy).1, BitVec.ofNat_toNat, BitVec.setWidth_eq]
  · rw [State.ring, fresh] at hy
    cases hy

theorem openedBreath_desc (here : s.desc r d.index = some d) (rs : List Reading) :
    (openedBreath rs s).desc r d.index = some (d.opened s.time.count.toNat) := by
  rw [State.desc, openedBreath_ring, List.find?_map]
  exact congrArg (Option.map _) here

/-- A DRAIN that writes the commit record of the breath that opens now. -/
def Desc.committing (opened : DWord) (d : Desc) : Desc :=
  { d.opened opened.toNat with job := { d.job with phase := 6, named := some opened } }

/-- The state in which it writes it. -/
def committing (rs : List Reading) (s : State) (r : RingId) (i : Nat) : State :=
  (openedBreath rs s).modJob r i fun j => { j with phase := 6, named := some s.time.count }

theorem committing_desc (here : s.desc r d.index = some d) (rs : List Reading) :
    (committing rs s r d.index).desc r d.index = some (d.committing s.time.count) := by
  rw [committing, desc_modJob_same, openedBreath_desc here]
  rfl

theorem commitDrains_one (works : Works s r d b 0x06) (phase : d.job.phase = 5) (rs : List Reading) :
    commitDrains s.time.count [(r, d)] (openedBreath rs s) = runDrain r d.index (committing rs s r d.index) := by
  obtain ⟨here, opcode, running, -⟩ := works
  have waits : (d.opened s.time.count.toNat).awaitsBreath = true := by
    show d.awaitsBreath = true
    simp [Desc.awaitsBreath, running, opcode, phase]
  simp only [commitDrains, List.foldl_cons, List.foldl_nil, openedBreath_desc here, waits, if_true]
  rfl

theorem committing_atPhase (works : Works s r d b 0x06) (rs : List Reading) :
    AtPhase (committing rs s r d.index) r (d.committing s.time.count) b 6 := by
  obtain ⟨here, opcode, running, binding, err, xl, fills, reqs, free, full⟩ := works
  have desc := committing_desc here rs
  obtain ⟨cal, links, rings, cores, mgmt, frame, -⟩ := openedBreath_frame rs s
  refine ⟨desc, running, binding, err, rfl, ⟨?_, ?_, ?_⟩, linksFull_openedBreath full rs⟩
  · rw [committing, frame]
    exact free
  · rw [committing, frame]
    exact reqs
  · show heldLeaves (committing rs s r d.index) (.job r d.index) = []
    rw [heldLeaves, desc]
    exact xl

theorem committing_hubMaps {va n : Nat} {l : Leaf} (h : HubMaps s b va n true l) (rs : List Reading) (i : Nat) :
    HubMaps (committing rs s r i) b va n true l := by
  obtain ⟨range, unit, whole, some_, block, found, permits, paPage, vaPage, region, loc, valid, -⟩ := h
  obtain ⟨cal, links, rings, cores, mgmt, frame, mid⟩ := openedBreath_frame rs s
  rw [committing, frame]
  refine ⟨range, unit, whole, some_, block, found, permits, paPage, vaPage, region, ?_, valid, fun h => nomatch h⟩
  rw [isLocal] at loc ⊢
  rwa [modJob_mgmt, mid]

theorem Wrote.of_earlier {u t : State} {l : Leaf} {va n : Nat} {f : Nat → Byte} (h : Wrote u t l va n f) (stk : u.stk = s.stk)
    (key : u.keyOf l.key = s.keyOf l.key) : Wrote s t l va n f := by
  unfold Wrote PortsStay at h ⊢
  rwa [stk, key] at h

/-- The DRAIN that waits for a breath writes its commit record in it, and finishes. -/
theorem runDrain_committing (alone : s.allDescs = [(r, d)]) (works : Works s r d b 0x06) {l : Leaf}
    (hub : HubMaps s b (d.drainDst + d.drainTotal) 64 true l) (rs : List Reading) :
    Wrote s (runDrain r d.index (committing rs s r d.index)) l (d.drainDst + d.drainTotal) 64
        (fun j => (plain (commitRecord (committing rs s r d.index) b (d.committing s.time.count) s.time.count)).getD j 0) ∧
      Finishes s (runDrain r d.index (committing rs s r d.index)) r d .ok (bytesOfNat 8 (d.job.pos - d.job.lost) ++ [0, 0, 0, 0]) := by
  obtain ⟨-, opcode, -⟩ := id works
  obtain ⟨wrote, finishes⟩ := runDrain_commits (committing_atPhase works rs) opcode rfl (committing_hubMaps hub rs d.index)
  obtain ⟨cal, links, rings, cores, mgmt, frame, -⟩ := openedBreath_frame rs s
  have stk : (committing rs s r d.index).stk = s.stk := by rw [committing, frame]; rfl
  have slots : (committing rs s r d.index).keyOf l.key = s.keyOf l.key := by rw [committing, frame]; rfl
  have cqs (x : CqId) : (committing rs s r d.index).cq x = s.cq x := by rw [committing, frame]; rfl
  have count : (committing rs s r d.index).time.count = s.time.count := by rw [committing, frame]; rfl
  have cq : ((committing rs s r d.index).ring r).cq = (s.ring r).cq := by rw [committing, modJob_ring_cq, openedBreath_ring]
  have others (x : RingId) (hx : x ≠ r) : (committing rs s r d.index).ring x = s.ring x := by
    have empty := descs_other_ring alone hx
    rw [committing, ring_modJob_other hx, openedBreath_ring, empty, List.map_nil, ← empty]
  exact ⟨wrote.of_earlier stk slots, finishes.of_earlier cq cqs count others rfl rfl rfl rfl⟩

end

end Sys2Proof.Machine
end

section
/-!
PROOFS. Breaths and calibration (R42, R44, R102, R364, R410 to R415).
-/

namespace Sys2Proof.Machine

section
variable {s : State} {rs : List Reading} {ks : List (Option (BitVec 640))}

theorem exec_breathOpen_of_drain {r : RingId} {d : Desc} {b : BindingId} (opens : (breathing s && breathDue s) = true)
    (alone : s.allDescs = [(r, d)]) (works : Works s r d b 0x06) (phase : d.job.phase = 5) :
    exec (.breathOpen ⟨[], rs, ks⟩) s = .next (runDrain r d.index (committing rs s r d.index)) := by
  obtain ⟨-, opcode, running, -⟩ := id works
  have due : drainsDue s = [(r, d)] := by
    simp [drainsDue, alone, Desc.awaitsBreath, running, opcode, phase]
  have opened := exec_breathOpen (gs := []) (rs := rs) (ks := ks) opens (allStarted_of_only alone running)
  simpa only [due, commitDrains_one works phase, List.foldl_nil, ite_self] using opened

/-- A breath that lists one group which may start a step starts it. -/
theorem exec_breathOpen_of_group {g : GroupForm} (opens : (breathing s && breathDue s) = true) (none_ : s.allDescs = [])
    (idle : ∀ n, (s.cal.groups.get .reset n).step = none) (state : s.mod.state = .service ∨ s.mod.state = .serving)
    (starts : stepStarts s s.time.len.toNat g.kind.toNat g.group.toNat = true) :
    ∃ lane ∈ rotation s g.kind.toNat g.group.toNat, exec (.breathOpen ⟨[g], rs, ks⟩) s =
      .next (beginStep g.kind.toNat g.group.toNat lane (tellPeer g.kind.toNat g.group.toNat lane (openedBreath rs s))) := by
  obtain ⟨rings, cores, frame⟩ := openedBreath_of_idle idle rs
  have starts' : stepStarts (openedBreath rs s) s.time.len.toNat g.kind.toNat g.group.toNat = true := by
    rw [frame]
    exact starts
  have state' : (openedBreath rs s).mod.state = .service ∨ (openedBreath rs s).mod.state = .serving := by
    rw [frame]
    exact state
  obtain ⟨lane, listed, step⟩ := startStep_of_starts starts'
  refine ⟨lane, by rw [frame] at listed; exact listed, ?_⟩
  rw [exec_breathOpen_of_no_descs opens none_, if_pos state', List.foldl_cons, List.foldl_nil, step]

end

/-- Settles O47: openings by `exec_breathOpen`, the DRAIN by `runDrain_committing`, steps by `startStep_of_starts`, `revertStep_of_step` and
`exec_calStepDone`, the limits by `writeCalCtl_eq`. -/
theorem breathsAndCalibration : Obligations.BreathsAndCalibration := by
  unfold Obligations.BreathsAndCalibration
  intro s now opens group
  have open_ (h : opens) : (breathing s && breathDue s) = true := by
    obtain ⟨due, fresh, alive⟩ := h
    exact (breath_opens_iff s).2 ⟨alive, due, fresh⟩
  refine ⟨fun rs ks h idle none_ => ?plain, fun r d b l rs ks h alone works phase => ?drain,
    fun g rs ks h idle none_ state starts => ?starts,
    fun g lane t0 len breath late step => ?overdue, fun o lane step => ?done, fun v host => ?limits⟩
  case plain =>
    obtain ⟨rings, cores, frame⟩ := openedBreath_of_idle idle rs
    refine ⟨openedBreath rs s, ?_, ?_, ?_, openedBreath_thread rs, ?_, ?_, ?_, ?_, ?_, ?_, ?_⟩
    · rw [exec_breathOpen_of_no_descs (open_ h) none_]
      exact congrArg Host.Outcome.next (ite_self _)
    · rw [frame]
    · rw [frame]
    · rw [frame]
    · intro n other
      rw [frame]
      exact sampled_get_other (fun x hx same => absurd same (other x hx)) _
    · intro n high
      rw [frame]
      exact sampled_get_other (fun x hx same => same ▸ high) _
    · intro x only low
      rw [frame, only]
      exact sampled_single low _
    · rw [frame]
    · rw [frame]
    · rw [frame]
  case drain =>
    intro va hub
    obtain ⟨wrote, finishes⟩ := runDrain_committing alone works hub rs
    exact ⟨_, exec_breathOpen_of_drain (open_ h) alone works phase,
      ⟨_, wrote, fun j hj => (commitRecord_breath_step _ b _ _ hj).1, fun j hj => (commitRecord_breath_step _ b _ _ hj).2⟩, finishes⟩
  case starts =>
    obtain ⟨rings, cores, frame⟩ := openedBreath_of_idle idle rs
    obtain ⟨lane, listed, step⟩ := exec_breathOpen_of_group (rs := rs) (ks := ks) (open_ h) none_ idle state starts
    obtain ⟨begun, active, stk, out⟩ := beginStep_effect (tellPeer g.kind.toNat g.group.toNat lane (openedBreath rs s)) g.kind.toNat
      g.group.toNat lane
    refine ⟨_, step, lane, listed, congrArg CalGroup.step begun, active, congrArg CalGroup.next begun, stk.trans ?_, out.trans ?_⟩
    · rw [tellPeer, frame]
      split <;> rfl
    · rw [tellPeer, frame]
      split <;> rfl
  case overdue =>
    have close : stepsClose s = true := by simpa [stepsClose, breath] using late
    obtain ⟨ended, freed, time, err⟩ := revertStep_of_step step
    exact ⟨_, if_pos close, ended, freed, time, err⟩
  case done =>
    intro k n x low done
    refine ⟨fun close => ?late, fun fine open_ still => ?calm, fun below open_ few => ?alarm⟩
    case late =>
      obtain ⟨ended, freed, -, err⟩ := revertStep_of_step step
      exact ⟨_, exec_calStepDone_reverts close, congrArg CalGroup.step ended, freed, err⟩
    case calm =>
      have high : belowMin s o = false := Bool.eq_false_iff.2 (mt belowMin_iff.1 fine)
      have record := stepRecorded_lane (s := s) (o := o) lane.toNat
      rw [high] at record
      refine ⟨_, exec_calStepDone step open_ fun h => absurd (high.symm.trans h) nofun, ?_⟩
      rw [drifted_of_calm high still]
      exact ⟨⟨record, stepRecorded_group _⟩, stepRecorded_err _⟩
    case alarm =>
      have below : belowMin s o = true := belowMin_iff.2 below
      have record := stepRecorded_lane (s := s) (o := o) lane.toNat
      rw [below] at record
      refine ⟨_, exec_calStepDone step open_ fun _ => few, ?_⟩
      rw [drifted_of_low below]
      obtain ⟨counted, window⟩ := driftAlarm_err (s := stepRecorded o lane.toNat s) (o := o) lane.toNat
      rw [stepRecorded_err] at counted
      refine ⟨⟨?_, ?_⟩, counted, window⟩
      · rw [driftAlarm_lane, record]
        rfl
      · exact (congrArg CalGroup.step (driftAlarm_group _)).trans (stepRecorded_group _)
  case limits =>
    exact ⟨_, if_pos host, writeCalCtl_eq v s⟩

end Sys2Proof.Machine
end

section
/-!
PROOFS. A tick of the beat counter, of the facility side and of an idle module; what a core issues (O57).
-/

namespace Sys2Proof.Machine

/-! ## A tick (R29 to R31, R38, R420) -/

section
variable (m : MgmtState) (s : State)

theorem foldl_set_get_other {l : List Nat} {n : Nat} (v : Nat → Word) (h : n ∉ l) (t : Table Word) :
    (l.foldl (fun t n => t.set 0 n (v n)) t).get 0 n = t.get 0 n := by
  induction l generalizing t with
  | nil => rfl
  | cons k r ih =>
    rw [List.mem_cons, not_or] at h
    exact (ih h.2 _).trans (Table.get_set_other _ _ _ h.1)

theorem not_mem_facilitySensors {n : Nat} (h : n < 304 ∨ 412 ≤ n) : n ∉ facilitySensors := by
  simp only [facilitySensors, List.mem_map, List.mem_range, not_exists, not_and]
  omega

/-- Of the facility side a tick counts on, reads the sensors of the facility anew, and may end what they showed. -/
theorem tick_facility : m.tick = { m with
      uptime := m.uptime + 1, sensors := m.tick.sensors, leak := m.tick.leak, hot := m.tick.hot, alert := m.tick.alert } ∧
    (∀ k, k < 304 ∨ 412 ≤ k → m.tick.sensors.get 0 k = m.sensors.get 0 k) ∧ (m.tick.leak = true → m.leak = true) ∧
    (m.tick.hot = true → m.hot = true) ∧ (m.tick.alert = true → m.alert = true) := by
  unfold MgmtState.tick
  dsimp only
  split
  · have both {a b : Bool} (h : (a && b) = true) : a = true := (Bool.and_eq_true_iff.1 h).1
    exact ⟨rfl, fun k hk => foldl_set_get_other _ (not_mem_facilitySensors hk) _, both, both, both⟩
  · exact ⟨rfl, fun _ _ => rfl, id, id, id⟩

/-- Between two samples a tick of the facility side counts on and nothing else (R420). -/
theorem tick_unsampled (h : (m.uptime + 1) % 160000000 ≠ 0 ∨ m.restarting = true) : m.tick = { m with uptime := m.uptime + 1 } :=
  if_neg <| by
    rcases h with h | h
    · simp [h]
    · simp [h]

theorem facilityTick_eq : facilityTick s = { s with mgmt := (facilityTick s).mgmt } := by
  unfold facilityTick
  split <;> rfl

theorem slewTo_eq (c : DWord) (t : TimeState) : ∃ d, t.slewTo c = { t with diff := d } ∧
    (d = t.diff ∨ t.slewing = true ∧ d = t.diff.map nearer) := by
  unfold TimeState.slewTo
  split
  · next slews => exact ⟨_, rfl, .inr ⟨slews.1, rfl⟩⟩
  · exact ⟨_, rfl, .inl rfl⟩

/-- Beat time rests below RISING and at its last value (R30, R31). -/
abbrev rests (s : State) : Prop := s.mod.state = .off ∨ s.mod.state = .standby ∨ s.time.count = BitVec.allOnes 64

theorem beatTick_eq : ∃ d, (d = s.time.diff ∨ s.time.slewing = true ∧ d = s.time.diff.map nearer) ∧
    beatTick s = { s with time := if rests s then s.time else { s.time with count := s.time.count + 1, diff := d } } := by
  obtain ⟨d, slewed, small⟩ := slewTo_eq (s.time.count + 1) s.time
  refine ⟨d, small, ?_⟩
  unfold beatTick
  split
  · rfl
  · rw [slewed]

theorem drawBelow_eq (n : Nat) : ∃ free, (drawBelow n s).2 = { s with free := free } := by
  unfold drawBelow
  split
  · exact ⟨s.free, rfl⟩
  · exact ⟨_, rfl⟩

end

/-! ## An idle step (R66, R90) -/

theorem idle_eq (s : State) : ∃ n d, (d = s.time.diff ∨ s.time.slewing = true ∧ d = s.time.diff.map nearer) ∧
    let u := { s with
      free := n, mgmt := (facilityTick s).mgmt
      time := if rests s then s.time else { s.time with count := s.time.count + 1, diff := d } }
    (idle s = .next u ∨ ∃ c ∈ runningCores s, idle s = issueCore c u) := by
  obtain ⟨d, small, ticked⟩ := beatTick_eq (facilityTick s)
  rw [facilityTick_eq s] at small ticked
  obtain ⟨n, drawn⟩ := drawBelow_eq (tick s) ((runningCores (tick s)).length + 1)
  have state : tick s = { s with
      mgmt := (facilityTick s).mgmt, time := if rests s then s.time else { s.time with count := s.time.count + 1, diff := d } } := by
    rw [tick, facilityTick_eq s, ticked]
  have cores : runningCores (tick s) = runningCores s := by
    rw [state]
    rfl
  refine ⟨n, d, small, ?_⟩
  unfold idle
  dsimp only
  cases choice : drawBelow ((runningCores (tick s)).length + 1) (tick s) with
  | mk k u =>
    rw [choice, state] at drawn
    subst drawn
    dsimp only
    split
    · next c found =>
      rw [cores] at found
      exact .inr ⟨c, List.mem_of_getElem? found, rfl⟩
    · exact .inl rfl

theorem issueCore_eq {s : State} {c : CoreId} {h : ThreadId} {i : Instr}
    (first : (threadsFrom (s.core c).ctl.last).find? (issues s c) = some h)
    (spells : decodeWord c h (wordAt (s.core c) (s.thread c h).pc) (wordAt (s.core c) ((s.thread c h).pc + 4)) = some i) :
    issueCore c s = exec i (s.modCore c fun k => { k with ctl := { k.ctl with last := h } }) := by
  have issued : ∀ u : State, u.core c = { s.core c with ctl := { (s.core c).ctl with last := h } } → fetchIssue c h u = exec i u := by
    intro u core
    have word :
        decodeWord c h (wordAt (u.core c) ((u.core c).thread h).pc) (wordAt (u.core c) (((u.core c).thread h).pc + 4)) = some i := by
      rw [core]
      exact spells
    simp only [fetchIssue, word]
  simp only [issueCore, first]
  exact issued _ (core_modCore_same ..)

end Sys2Proof.Machine
end

section
/-!
PROOFS. The queue, what leaves it as it is: the rules, and the memory side. No function of the model but `step` writes
`pending`; each gets one lemma that says so, grouped by the model's files in their order of use.
-/

namespace Sys2Proof.Machine

/-- A result leaves the queue of `s` as it is. -/
def LeavesQueue (s : State) (r : Result) : Prop := ∀ t, r = .next t → t.pending = s.pending

section
variable {s : State}

@[simp] theorem leavesQueue_next {t : State} : LeavesQueue s (.next t) ↔ t.pending = s.pending :=
  ⟨fun h => h t rfl, fun h u hu => by cases hu; exact h⟩

@[simp] theorem leavesQueue_fault {f : Fault} : LeavesQueue s (.fault f) := fun _ h => nomatch h

@[simp] theorem leavesQueue_refused {f : Refusal} : LeavesQueue s (.refused f) := fun _ h => nomatch h

/-- A command that takes effect under a condition, and does nothing without it. -/
theorem leavesQueue_nextIf {c : Prop} [Decidable c] {t : State} (keeps : t.pending = s.pending) :
    LeavesQueue s (if c then .next t else .next s) := by
  split <;> simp [keeps]

/-- A command that does nothing under a condition, and takes effect without it. -/
theorem leavesQueue_nextUnless {c : Prop} [Decidable c] {t : State} (keeps : t.pending = s.pending) :
    LeavesQueue s (if c then .next s else .next t) := by
  split <;> simp [keeps]

/-- A result leaves the queue of every state that has the same one. -/
theorem LeavesQueue.of_eq {u : State} {r : Result} (h : LeavesQueue u r) (same : u.pending = s.pending) : LeavesQueue s r :=
  fun t next => (h t next).trans same

/-- A fold leaves the queue when each of its steps does. -/
@[simp] theorem foldl_pending {α : Type} {f : State → α → State} (keeps : ∀ s a, (f s a).pending = s.pending) (l : List α) (s : State) :
    (l.foldl f s).pending = s.pending := by
  induction l generalizing s with
  | nil => rfl
  | cons a l ih => rw [List.foldl_cons, ih, keeps]

theorem foldl_flip_pending {α : Type} {f : α → State → State} (keeps : ∀ s a, (f a s).pending = s.pending) (l : List α) (s : State) :
    (l.foldl (fun s a => f a s) s).pending = s.pending := foldl_pending keeps l s

@[simp] theorem foldl_snd_pending {α β : Type} {f : β × State → α → β × State} (keeps : ∀ p a, (f p a).2.pending = p.2.pending)
    (l : List α) (p : β × State) : (l.foldl f p).2.pending = p.2.pending := by
  induction l generalizing p with
  | nil => rfl
  | cons a l ih => rw [List.foldl_cons, ih, keeps]

@[simp] theorem foldl_snd_snd_pending {α β γ : Type} {f : β × γ × State → α → β × γ × State}
    (keeps : ∀ p a, (f p a).2.2.pending = p.2.2.pending) (l : List α) (p : β × γ × State) :
    (l.foldl f p).2.2.pending = p.2.2.pending := by
  induction l generalizing p with
  | nil => rfl
  | cons a l ih => rw [List.foldl_cons, ih, keeps]

/-- A fold of steps that may fail, once it succeeds, started from a state with the same queue. -/
theorem foldl_bind_pending {α : Type} {f : State → α → Option State} (keeps : ∀ s a t, f s a = some t → t.pending = s.pending)
    {l : List α} {o : Option State} {t : State} (h : l.foldl (fun a n => a.bind fun s => f s n) o = some t) :
    ∃ s, o = some s ∧ t.pending = s.pending := by
  induction l generalizing o with
  | nil => exact ⟨t, h, rfl⟩
  | cons a l ih =>
    obtain ⟨u, bound, rest⟩ := ih h
    obtain ⟨s, rfl, step⟩ := Option.bind_eq_some_iff.1 bound
    exact ⟨s, rfl, rest.trans (keeps _ _ _ step)⟩

theorem snd_pending_of_eq {β : Type} {p : β × State} {x : β} {t : State} (h : p = (x, t)) {u : State} (keeps : p.2.pending = u.pending) :
    t.pending = u.pending := by
  rw [← keeps, h]

theorem getD_pending {o : Option State} {d : State} (keeps : ∀ u, o = some u → u.pending = s.pending) (default_ : d.pending = s.pending) :
    (o.getD d).pending = s.pending := by
  cases o with
  | none => exact default_
  | some u => exact keeps u rfl

/-! ### Access -/

@[simp] theorem perfCount_pending {ev unit b n} : (perfCount ev unit b n s).pending = s.pending := by
  unfold perfCount
  split <;> rfl

/-! ### Report -/

@[simp] theorem logEvent_pending {source severity code data} : (logEvent source severity code data s).pending = s.pending := by
  unfold logEvent
  split <;> rfl

@[simp] theorem mgmtEvent_pending {severity n} : (mgmtEvent severity n s).pending = s.pending := by simp [mgmtEvent]

@[simp] theorem formRecord_pending {r} : (formRecord r s).pending = s.pending := rfl

@[simp] theorem reportAt_pending {stamp cls unitKind code unit b addr detail} :
    (reportAt stamp cls unitKind code unit b addr detail s).pending = s.pending := by
  simp [reportAt, apply_ite State.pending]

@[simp] theorem report_pending {cls unitKind code unit b addr detail} :
    (report cls unitKind code unit b addr detail s).pending = s.pending := by
  simp [report]

@[simp] theorem reportFacility_pending {unitKind code unit detail} : (reportFacility unitKind code unit detail s).pending = s.pending :=
  rfl

@[simp] theorem refreshDegraded_pending : (refreshDegraded s).pending = s.pending := by simp [refreshDegraded, apply_ite State.pending]

@[simp] theorem spareRecord_pending {code cls unitKind unit b41 b42 b43} :
    (spareRecord code cls unitKind unit b41 b42 b43 s).pending = s.pending :=
  rfl

/-! ### Stack -/

@[simp] theorem askStack_pending {src a} : (askStack src a s).pending = s.pending := by simp [askStack, apply_ite State.pending]

@[simp] theorem poisonUnit_pending {a pa b scrub} : (poisonUnit a pa b scrub s).pending = s.pending := by
  unfold poisonUnit
  split <;> rfl

@[simp] theorem readUnit_pending {src off slot b} : (readUnit src off slot b s).2.pending = s.pending := by
  simp [readUnit, apply_ite State.pending]

@[simp] theorem storeUnit_pending {a key mask data psn} : (storeUnit a key mask data psn s).pending = s.pending := rfl

@[simp] theorem writeUnit_pending {src off slot b mask data psn} : (writeUnit src off slot b mask data psn s).pending = s.pending := by
  unfold writeUnit
  split <;> simp

@[simp] theorem palvanRead_pending {src off len slot b} : (palvanRead src off len slot b s).2.pending = s.pending := by simp [palvanRead]

@[simp] theorem palvanWrite_pending {src off l slot b} : (palvanWrite src off l slot b s).pending = s.pending := by simp [palvanWrite]

/-! ### Link -/

@[simp] theorem putOn_pending {i x} : (putOn i x s).pending = s.pending := by simp [putOn]

@[simp] theorem slotStep_pending {i} : (slotStep i s).pending = s.pending := by
  simp only [slotStep]
  (repeat' split) <;> simp

@[simp] theorem pumpPort_pending {i} : (pumpPort i s).pending = s.pending := by
  unfold pumpPort
  split <;> simp

@[simp] theorem sendOn_pending {i p b} : (sendOn i p b s).pending = s.pending := by simp [sendOn]

@[simp] theorem sendPacket_pending {p b} : (sendPacket p b s).2.pending = s.pending := by
  unfold sendPacket
  (repeat' split) <;> simp

@[simp] theorem withdraw_pending {mine} : (withdraw mine s).pending = s.pending := rfl

@[simp] theorem respond_pending {t req payload psn} : (respond t req payload psn s).pending = s.pending := by simp [respond]

@[simp] theorem markErrBind_pending {b} : (markErrBind b s).pending = s.pending := by
  unfold markErrBind
  split <;> rfl

@[simp] theorem loseBytes_pending {who n} : (loseBytes who n s).pending = s.pending := by
  unfold loseBytes
  split <;> rfl

@[simp] theorem engineError_pending {who b pa} : (engineError who b pa s).pending = s.pending := by
  unfold engineError
  split <;> simp

@[simp] theorem linkReadError_pending {port b pa} : (linkReadError port b pa s).pending = s.pending := rfl

@[simp] theorem addReq_pending {who b pa len write port tid data leaf} :
    (addReq who b pa len write port tid data leaf s).pending = s.pending :=
  rfl

@[simp] theorem takeTid_pending {m} : (takeTid m s).2.pending = s.pending := rfl

@[simp] theorem sendRead_pending {who b pa len v} : (sendRead who b pa len v s).pending = s.pending := by
  grind [sendRead, takeTid_pending, sendPacket_pending, addReq_pending, engineError_pending, linkReadError_pending]

@[simp] theorem sendWrite_pending {who b pa mask data psn v} : (sendWrite who b pa mask data psn v s).pending = s.pending := by
  grind [sendWrite, takeTid_pending, sendPacket_pending, addReq_pending, engineError_pending, loseBytes_pending]

@[simp] theorem emitRead_pending {q} : (emitRead q s).pending = s.pending := by simp [emitRead]

@[simp] theorem sendHostRead_pending {who b pa len v} : (sendHostRead who b pa len v s).pending = s.pending := by
  unfold sendHostRead
  split <;> simp

@[simp] theorem sendWaiting_pending {t : State} : (sendWaiting s t).pending = t.pending := by simp [sendWaiting]

@[simp] theorem hostPoison_pending {b addr} : (hostPoison b addr s).pending = s.pending := rfl

@[simp] theorem hostWrite_pending {b addr l} : (hostWrite b addr l s).pending = s.pending := by simp [hostWrite, apply_ite State.pending]

@[simp] theorem takeReads_pending {who l} : (takeReads who l s).pending = s.pending := rfl

@[simp] theorem forgetReads_pending {who} : (forgetReads who s).pending = s.pending := by
  simp only [forgetReads]
  (repeat' split) <;> simp

@[simp] theorem dropReturned_pending {who} : (dropReturned who s).pending = s.pending := rfl

/-! ### Cache -/

@[simp] theorem clearL2Resv_pending {t line own} : (clearL2Resv t line own s).pending = s.pending := rfl

@[simp] theorem dlsWrite_pending {c a l own} : (dlsWrite c a l own s).pending = s.pending := rfl

@[simp] theorem l1InvalidateTile_pending {t line sharers own} : (l1InvalidateTile t line sharers own s).pending = s.pending := rfl

@[simp] theorem physWriteUnit_pending {who b pa v mask data psn} : (physWriteUnit who b pa v mask data psn s).pending = s.pending := by
  unfold physWriteUnit
  dsimp only
  (repeat' split) <;> grind [foldl_pending, foldl_snd_pending, physWriteUnit, writeUnit_pending, sendWrite_pending, hostWrite_pending,
    dlsWrite_pending]

@[simp] theorem physWrite_pending {who b pa v l} : (physWrite who b pa v l s).pending = s.pending := by simp [physWrite]

@[simp] theorem physWriteBlock_pending {who b pa v l} : (physWriteBlock who b pa v l s).pending = s.pending := by
  unfold physWriteBlock
  split <;> simp

@[simp] theorem awaitRead_pending {who b pa len v} : (awaitRead who b pa len v s).2.pending = s.pending := by
  simp only [awaitRead]
  (repeat' split) <;> simp

@[simp] theorem physRead_pending {who b pa len v} : (physRead who b pa len v s).2.pending = s.pending := by
  simp only [physRead]
  (repeat' split) <;> simp

@[simp] theorem l2Drop_pending {t line} : (l2Drop t line s).pending = s.pending := by
  unfold l2Drop
  split <;> rfl

@[simp] theorem l2WriteBack_pending {who t line} : (l2WriteBack who t line s).pending = s.pending := by
  unfold l2WriteBack
  (repeat' split) <;> simp

@[simp] theorem l2EvictLine_pending {t by_ slice line256} : (l2EvictLine t by_ slice line256 s).pending = s.pending := by
  unfold l2EvictLine
  exact foldl_pending (fun s a => by dsimp only; (repeat' split) <;> simp) _ _

@[simp] theorem l2Allocate_pending {t slice line} : (l2Allocate t slice line s).pending = s.pending := by
  simp only [l2Allocate]
  (repeat' split) <;> simp

@[simp] theorem l2Install_pending {t line x} : (l2Install t line x s).pending = s.pending := by simp [l2Install]

@[simp] theorem countHit_pending {who t line b} : (countHit who t line b s).pending = s.pending := by
  unfold countHit
  split <;> simp

@[simp] theorem fillArrived_pending {t f} : (fillArrived t f s).2.pending = s.pending := by
  unfold fillArrived
  split <;> simp

@[simp] theorem sendFill_pending {t f} : (sendFill t f s).pending = s.pending := by simp [sendFill, apply_ite State.pending]

@[simp] theorem queueFill_pending {who t pa slice v b} : (queueFill who t pa slice v b s).pending = s.pending := by
  simp [queueFill, apply_ite State.pending]

@[simp] theorem l2Read_pending {who t slice b pa v} : (l2Read who t slice b pa v s).2.pending = s.pending := by
  simp only [l2Read]
  (repeat' split) <;> simp

@[simp] theorem l2Write_pending {t slice b pa v mask data psn who} :
    (l2Write t slice b pa v mask data psn who s).2.pending = s.pending := by
  unfold l2Write
  dsimp only
  (repeat' split) <;> simp

/-! ### Xlat -/

@[simp] theorem readTable_pending {src off n b} : (readTable src off n b s).2.pending = s.pending := by simp [readTable]

@[simp] theorem walkFrom_pending {src b va fuel lvl tbl home met} :
    (walkFrom src b va fuel lvl tbl home met s).2.2.pending = s.pending := by
  induction fuel generalizing lvl tbl home met s with
  | zero => rfl
  | succ n ih => grind [walkFrom, readTable_pending]

@[simp] theorem walkTables_pending {src cache b va} : (walkTables src cache b va s).2.2.pending = s.pending := by
  simp only [walkTables]
  (repeat' split) <;> simp

@[simp] theorem tlbInsert_pending {e l} : (tlbInsert e l s).2.pending = s.pending := by
  simp only [tlbInsert]
  (repeat' split) <;> simp

@[simp] theorem cacheInsert_pending {met cache} : (cacheInsert met cache s).2.pending = s.pending := by
  simp [cacheInsert, apply_ite State.pending, apply_ite Prod.snd]

@[simp] theorem collectOne_pending {b} : (collectOne b s).pending = s.pending := by
  simp only [collectOne]
  (repeat' split) <;> simp

@[simp] theorem recordFault_pending {who b va cause level write probe} :
    (recordFault who b va cause level write probe s).pending = s.pending :=
  rfl

@[simp] theorem unpark_pending {b who} : (unpark b who s).pending = s.pending := rfl

@[simp] theorem queueWalk_pending {w} : (queueWalk w s).pending = s.pending := by
  unfold queueWalk
  split <;> rfl

@[simp] theorem xlate_pending {who b va write probe} : (xlate who b va write probe s).2.pending = s.pending := by
  simp only [xlate]
  (repeat' split) <;> simp

@[simp] theorem tablePoison_pending {t b pa level} : (tablePoison t b pa level s).pending = s.pending := by
  unfold tablePoison
  split <;> rfl

@[simp] theorem modRec_pending {r i f} : (modRec r i f s).pending = s.pending := rfl

@[simp] theorem modHeld_pending {r i t f} : (modHeld r i t f s).pending = s.pending := rfl

@[simp] theorem holdLeaf_pending {who l} : (holdLeaf who l s).pending = s.pending := by
  unfold holdLeaf
  split <;> rfl

@[simp] theorem keepOld_pending {who l} : (keepOld who l s).pending = s.pending := by
  unfold keepOld
  (repeat' split) <;> simp

@[simp] theorem doWalk_pending {w} : (doWalk w s).pending = s.pending := by
  simp only [doWalk]
  (repeat' split) <;> simp

/-! ### Bulk -/

@[simp] theorem bulkRead1_pending {who b va len} : (bulkRead1 who b va len s).2.pending = s.pending := by
  grind [bulkRead1, xlate_pending, l2Read_pending, physRead_pending]

@[simp] theorem bulkAsk_pending {who b va len} : (bulkAsk who b va len s).2.pending = s.pending := by
  simp only [bulkAsk]
  (repeat' split) <;> simp

@[simp] theorem bulkRead_pending {who b va len} : (bulkRead who b va len s).2.pending = s.pending :=
  foldl_snd_pending (fun p a => by grind [bulkRead1_pending]) _ _

@[simp] theorem bulkReady_pending {who b va len} : (bulkReady who b va len s).2.pending = s.pending := by
  grind [bulkReady, xlate_pending, queueFill_pending]

@[simp] theorem bulkWrite1_pending {who b va l} : (bulkWrite1 who b va l s).2.pending = s.pending := by
  unfold bulkWrite1
  split <;> grind [xlate_pending, l2Write_pending, modCore_pending, physWriteUnit_pending]

@[simp] theorem bulkWrite_pending {who b va l} : (bulkWrite who b va l s).2.pending = s.pending := by
  simp [bulkWrite, apply_ite State.pending, apply_ite Prod.snd]

@[simp] theorem probeRange_pending {who b va len write probe} : (probeRange who b va len write probe s).2.pending = s.pending :=
  foldl_snd_pending (fun p a => by grind [xlate_pending]) _ _

@[simp] theorem engineRead_pending {who b va len} : (engineRead who b va len s).2.pending = s.pending := by
  unfold engineRead
  dsimp only
  (repeat' split) <;> grind [foldl_pending, foldl_snd_pending, engineRead, xlate_pending, physRead_pending]

@[simp] theorem engineWrite_pending {who b va l} : (engineWrite who b va l s).2.pending = s.pending := by
  grind [engineWrite, xlate_pending, physWriteBlock_pending]

@[simp] theorem engineReadAll_pending {who b va len} : (engineReadAll who b va len s).2.pending = s.pending :=
  foldl_snd_pending (fun p a => by grind [engineRead_pending]) _ _

@[simp] theorem engineWriteAll_pending {who b va l} : (engineWriteAll who b va l s).2.pending = s.pending := by
  grind [engineWriteAll, probeRange_pending, foldl_snd_pending, engineWrite_pending]

@[simp] theorem rangeLeaf_pending {t b va} : (rangeLeaf t b va s).2.pending = s.pending := by
  grind [rangeLeaf, walkTables_pending, perfCount_pending, cacheInsert_pending, tlbInsert_pending, modTile_pending, tablePoison_pending]

@[simp] theorem sectorOp_pending {op who t line} : (sectorOp op who t line s).pending = s.pending := by
  simp [sectorOp, apply_ite State.pending]

@[simp] theorem skipPage_pending {c} : (skipPage c s).pending = s.pending := rfl

@[simp] theorem rangeOp_pending {op c b va len} : (rangeOp op c b va len s).pending = s.pending := by
  unfold rangeOp
  dsimp only
  (repeat' split) <;> grind [foldl_pending, foldl_snd_pending, rangeOp, rangeLeaf_pending, sectorOp_pending, skipPage_pending]

@[simp] theorem startRangeOp_pending {c op} : (startRangeOp c op s).pending = s.pending := by simp [startRangeOp, apply_ite State.pending]

@[simp] theorem windowWrite_pending {c off len v} : (windowWrite c off len v s).pending = s.pending := by
  unfold windowWrite
  (repeat' split) <;> simp

@[simp] theorem performEntry_pending {c e} : (performEntry c e s).2.pending = s.pending := by
  grind [performEntry, l2Write_pending, modCore_pending, windowWrite_pending, physWriteUnit_pending]

@[simp] theorem drainOldest_pending {c} : (drainOldest c s).pending = s.pending := by
  grind [drainOldest, performEntry_pending, modCore_pending]
end

end Sys2Proof.Machine
end

section
/-!
PROOFS. The queue, what leaves it as it is: the engines' runs, the hub, the rings and the rules of a core's operations.
-/

namespace Sys2Proof.Machine

section
variable {s : State}

/-! ### VectorRun -/

@[simp] theorem probeAll_pending {who b write probe l} : (probeAll who b write probe l s).2.pending = s.pending :=
  foldl_snd_pending (fun p a => by grind [probeRange_pending]) _ _

@[simp] theorem readAccesses_pending {who b l} : (readAccesses who b l s).2.pending = s.pending := by
  have probed := probeAll_pending (s := s) (who := who) (b := b) (write := false) (probe := false) (l := l)
  unfold readAccesses
  split
  · next failed => exact snd_pending_of_eq failed probed
  · next ready =>
    have start := snd_pending_of_eq ready probed
    split
    · next read =>
      simpa [start] using snd_pending_of_eq read (foldl_snd_pending (fun p a => by grind [bulkRead_pending]) _ _)
    · next read =>
      simpa [start] using snd_pending_of_eq read (foldl_snd_pending (fun p a => by grind [bulkRead_pending]) _ _)

@[simp] theorem writeAccesses_pending {who b l} : (writeAccesses who b l s).2.pending = s.pending := by
  unfold writeAccesses
  dsimp only
  (repeat' split) <;> grind [foldl_pending, foldl_snd_pending, writeAccesses, probeAll_pending, bulkReady_pending, bulkWrite_pending]

@[simp] theorem loadGroup_pending {c r} : (loadGroup c r s).2.2.pending = s.pending := by
  grind [loadGroup, readAccesses_pending, modCore_pending]

@[simp] theorem storeGroup_pending {c r} : (storeGroup c r s).2.2.pending = s.pending := by
  grind [storeGroup, writeAccesses_pending, modCore_pending]

@[simp] theorem runGroup_pending {c r} : (runGroup c r s).2.2.pending = s.pending := by
  grind [runGroup, perfCount_pending, loadGroup_pending, storeGroup_pending, setCore_pending]

@[simp] theorem runGroups_pending {c upto fuel r} : (runGroups c upto fuel r s).2.2.pending = s.pending := by
  induction fuel generalizing r s with
  | zero => rfl
  | succ n ih => grind [runGroups, runGroup_pending]

@[simp] theorem drawHalf_pending {i} : (drawHalf i s).2.pending = s.pending := by
  unfold drawHalf
  split <;> rfl

@[simp] theorem poisonCause_pending {c matrix sub va pc} : (poisonCause c matrix sub va pc s).pending = s.pending := rfl

@[simp] theorem finishV_pending {c r} : (finishV c r s).pending = s.pending := by
  grind [finishV, drawHalf_pending, perfCount_pending, modCore_pending, poisonCause_pending]

@[simp] theorem beginV_pending {c i} : (beginV c i s).2.pending = s.pending := by grind [beginV, probeAll_pending]

theorem leadGroup_pending {c names n} {u : State} (h : leadGroup c names s n = some u) : u.pending = s.pending := by
  grind [leadGroup, runGroup_pending, modCore_pending]

theorem leadAll_pending {c i} {u : State} (h : leadAll c i s = some u) : u.pending = s.pending := by
  obtain ⟨t, start, step⟩ := foldl_bind_pending (fun _ _ _ => leadGroup_pending) h
  cases start
  exact step

@[simp] theorem startVector_pending {c} : (startVector c s).pending = s.pending := by
  grind [startVector, leadAll_pending, beginV_pending, drawHalf_pending, modCore_pending]

@[simp] theorem raiseV_pending {c r vec sub a} : (raiseV c r vec sub a s).pending = s.pending := rfl

@[simp] theorem sendLoad_pending {c r} : (sendLoad c r s).2.pending = s.pending := by
  simp [sendLoad, apply_ite State.pending, apply_ite Prod.snd]

@[simp] theorem waitV_pending {c r} : (waitV c r s).pending = s.pending := by simp [waitV]

@[simp] theorem completeVector_pending {c n} : (completeVector c n s).pending = s.pending := by
  grind [completeVector, beginV_pending, raiseV_pending, drawHalf_pending, runGroups_pending, finishV_pending, forgetReads_pending,
    modCore_pending, waitV_pending]

/-! ### MatrixRun -/

@[simp] theorem tileUnit_pending {c r} : (tileUnit c r s).2.2.pending = s.pending := by
  grind [tileUnit, writeAccesses_pending, readAccesses_pending, modCore_pending]

@[simp] theorem runUnit_pending {c free r} : (runUnit c free r s).2.2.pending = s.pending := by
  simp only [runUnit]
  (repeat' split) <;> simp

@[simp] theorem runUnits_pending {c free upto fuel r} : (runUnits c free upto fuel r s).2.2.pending = s.pending := by
  induction fuel generalizing r s with
  | zero => rfl
  | succ n ih => grind [runUnits, runUnit_pending]

@[simp] theorem beginM_pending {c i} : (beginM c i s).2.2.pending = s.pending := by grind [beginM, probeAll_pending]

@[simp] theorem finishM_pending {c r} : (finishM c r s).pending = s.pending := by
  unfold finishM
  split <;> simp

@[simp] theorem startMatrix_pending {c} : (startMatrix c s).pending = s.pending := by grind [startMatrix, beginM_pending, modCore_pending]

@[simp] theorem raiseM_pending {c r vec sub a} : (raiseM c r vec sub a s).pending = s.pending := rfl

@[simp] theorem completeMatrix_pending {c n free} : (completeMatrix c n free s).pending = s.pending := by
  grind [completeMatrix, beginM_pending, raiseM_pending, modCore_pending, runUnits_pending, finishM_pending, forgetReads_pending]

/-! ### Hub -/

@[simp] theorem queueCompletion_pending {q c} : (queueCompletion q c s).pending = s.pending := rfl

@[simp] theorem finishDesc_pending {r i st detail} : (finishDesc r i st detail s).pending = s.pending := by
  unfold finishDesc
  (repeat' split) <;> simp

@[simp] theorem haltCompletion_pending {r i c t slot} : (haltCompletion r i c t slot s).pending = s.pending := by
  unfold haltCompletion
  split <;> rfl

@[simp] theorem writeEntry_pending {q n bytes60} : (writeEntry q n bytes60 s).pending = s.pending := by simp [writeEntry]

@[simp] theorem settleBarrier_pending {r} : (settleBarrier r s).pending = s.pending := by
  simp only [settleBarrier]
  (repeat' split) <;> simp

@[simp] theorem takeEngine_pending {r i e} : (takeEngine r i e s).pending = s.pending := rfl

@[simp] theorem freedEngine_pending {e} : (freedEngine e s).pending = s.pending := rfl

@[simp] theorem releaseRecord_pending {r i} : (releaseRecord r i s).pending = s.pending := by
  unfold releaseRecord
  split <;> rfl

@[simp] theorem releaseEngine_pending {r i} : (releaseEngine r i s).pending = s.pending := by
  unfold releaseEngine
  (repeat' split) <;> simp

@[simp] theorem advanceStart_pending {r d} : (advanceStart r d s).pending = s.pending := by
  unfold advanceStart
  split <;> rfl

theorem startDesc_pending {r want work} (keeps : ∀ d s, (work d s).pending = s.pending) :
    (startDesc r want work s).pending = s.pending := by
  grind [startDesc, advanceStart_pending, settleBarrier_pending, finishDesc_pending, perfCount_pending, modDesc_pending,
    takeEngine_pending]

/-! ### Rings -/

@[simp] theorem ringDoorbell_pending {r p} : (ringDoorbell r p s).pending = s.pending := by simp [ringDoorbell, apply_ite State.pending]

@[simp] theorem execDescriptorFetch_leavesQueue : LeavesQueue s (execDescriptorFetch s) := by
  unfold execDescriptorFetch
  (repeat' split) <;> simp

@[simp] theorem execDescriptorAccept_leavesQueue {o} : LeavesQueue s (execDescriptorAccept o s) := by
  simp only [execDescriptorAccept]
  (repeat' split) <;> simp

@[simp] theorem execNotBefore_leavesQueue {o} : LeavesQueue s (execNotBefore o s) := by
  unfold execNotBefore
  (repeat' split) <;> simp

@[simp] theorem execDeadlineMissed_leavesQueue {o} : LeavesQueue s (execDeadlineMissed o s) := by
  unfold execDeadlineMissed
  (repeat' split) <;> simp

@[simp] theorem execBarrierAbort_leavesQueue {o} : LeavesQueue s (execBarrierAbort o s) := by
  unfold execBarrierAbort
  (repeat' split) <;> simp

@[simp] theorem afterFinal_pending {q c} : (afterFinal q c s).pending = s.pending := by
  unfold afterFinal
  (repeat' split) <;> simp

@[simp] theorem writeCompletion_pending {q c} : (writeCompletion q c s).pending = s.pending := by
  unfold writeCompletion
  (repeat' split) <;> simp

@[simp] theorem execCompletionWrite_leavesQueue {o} : LeavesQueue s (execCompletionWrite o s) := by
  simp only [execCompletionWrite]
  (repeat' split) <;> simp

@[simp] theorem execCompletionWrErr_leavesQueue {o} : LeavesQueue s (execCompletionWrErr o s) := by
  simp only [execCompletionWrErr]
  (repeat' split) <;> simp

@[simp] theorem writeSqCfg_pending {r v} : (writeSqCfg r v s).pending = s.pending := by simp [writeSqCfg, apply_ite State.pending]

@[simp] theorem writeCqCfg_pending {c v} : (writeCqCfg c v s).pending = s.pending := by simp [writeCqCfg, apply_ite State.pending]

@[simp] theorem writeCqHead_pending {c h} : (writeCqHead c h s).pending = s.pending := by simp [writeCqHead, apply_ite State.pending]

@[simp] theorem execNop_leavesQueue {o} : LeavesQueue s (execNop o s) := leavesQueue_next.2 (startDesc_pending fun d s => by simp)

@[simp] theorem execDescriptorFence_leavesQueue {o} : LeavesQueue s (execDescriptorFence o s) :=
  leavesQueue_next.2 (startDesc_pending fun d s => by simp)

@[simp] theorem execProbe_leavesQueue {o} : LeavesQueue s (execProbe o s) := leavesQueue_next.2 (startDesc_pending fun d s => by simp)

/-! ### Spares -/

@[simp] theorem failTile_pending {t} : (failTile t s).pending = s.pending := by simp [failTile, apply_ite State.pending]

@[simp] theorem failCore_pending {c} : (failCore c s).pending = s.pending := by simp [failCore, apply_ite State.pending]

@[simp] theorem substituteCore_pending {c} : (substituteCore c s).pending = s.pending := by simp [substituteCore, apply_ite State.pending]

@[simp] theorem zeroTile_pending {t} : (zeroTile t s).pending = s.pending := by
  grind [zeroTile, modTile_pending, foldl_pending, setCore_pending]

@[simp] theorem substituteTile_pending {t} : (substituteTile t s).pending = s.pending := by
  simp only [substituteTile]
  (repeat' split) <;> simp

@[simp] theorem failRow_pending {c a row} : (failRow c a row s).pending = s.pending := by
  simp only [failRow]
  (repeat' split) <;> simp

@[simp] theorem modGroup_pending {kind group f} : (modGroup kind group f s).pending = s.pending := rfl

@[simp] theorem modLane_pending {kind group lane f} : (modLane kind group lane f s).pending = s.pending := rfl

@[simp] theorem revertStep_pending {kind group} : (revertStep kind group s).pending = s.pending := by
  unfold revertStep
  (repeat' split) <;> simp

@[simp] theorem beginStep_pending {kind group lane} : (beginStep kind group lane s).pending = s.pending := by
  unfold beginStep
  split <;> rfl

@[simp] theorem failChannel_pending {st ch} : (failChannel st ch s).pending = s.pending := by
  simp only [failChannel]
  (repeat' split) <;> simp

@[simp] theorem failBore_pending {group lane} : (failBore group lane s).pending = s.pending := by simp [failBore]

@[simp] theorem execRowSubstitution_leavesQueue {o} : LeavesQueue s (execRowSubstitution o s) := by
  unfold execRowSubstitution
  (repeat' split) <;> simp

@[simp] theorem poisonCopied_pending {o} : (poisonCopied o s).pending = s.pending := by simp [poisonCopied, apply_ite State.pending]

@[simp] theorem execStackChannelCopy_leavesQueue {o} : LeavesQueue s (execStackChannelCopy o s) := by
  unfold execStackChannelCopy
  (repeat' split) <;> simp

/-! ### Notice -/

@[simp] theorem assertNmi_pending {bits} : (assertNmi bits s).pending = s.pending := rfl

@[simp] theorem enterState_pending {st} : (enterState st s).pending = s.pending := by simp [enterState, apply_ite State.pending]

@[simp] theorem addCause_pending {bits} : (addCause bits s).pending = s.pending := rfl

@[simp] theorem toDraining_pending {bits} : (toDraining bits s).pending = s.pending := by
  unfold toDraining
  split <;> rfl

/-! ### Ops -/

@[simp] theorem softGroups_pending {c upto fuel r} : (softGroups c upto fuel r s).2.pending = s.pending := by
  induction fuel generalizing r s with
  | zero => rfl
  | succ n ih => grind [softGroups, runGroup_pending]

@[simp] theorem softUnits_pending {c upto fuel r} : (softUnits c upto fuel r s).2.pending = s.pending := by
  induction fuel generalizing r s with
  | zero => rfl
  | succ n ih => grind [softUnits, runUnit_pending]

@[simp] theorem drawBelow_pending {n} : (drawBelow n s).2.pending = s.pending := by
  unfold drawBelow
  split <;> rfl

@[simp] theorem freezeVector_pending {c} : (freezeVector c s).pending = s.pending := by
  grind [freezeVector, drawBelow_pending, softGroups_pending, foldl_snd_snd_pending, forgetReads_pending, modCore_pending]

@[simp] theorem freezeMatrix_pending {c} : (freezeMatrix c s).pending = s.pending := by
  unfold freezeMatrix
  dsimp only
  (repeat' split) <;> simp [apply_ite State.pending]

theorem drainStarted_pending {c free} {u : State} (h : drainStarted c free s = some u) : u.pending = s.pending := by
  grind [drainStarted, foldl_pending, completeVector_pending, completeMatrix_pending]

theorem freeze_pending {c} {u : State} (h : freeze c s = some u) : u.pending = s.pending := by
  grind [freeze, drainStarted_pending, freezeMatrix_pending, freezeVector_pending]

@[simp] theorem dropParks_pending {c l} : (dropParks c l s).pending = s.pending := rfl

@[simp] theorem dropQueues_pending {c} : (dropQueues c s).pending = s.pending := by simp [dropQueues]

@[simp] theorem haltThread_pending {c t} : (haltThread c t s).pending = s.pending := by
  simp only [haltThread]
  (repeat' split) <;> simp

theorem takeException_pending {c t x pc parked} {u : State} (h : takeException c t x pc parked s = some u) : u.pending = s.pending := by
  grind [takeException, modThread_pending, freeze_pending, dlsWrite_pending, haltThread_pending]

@[simp] theorem raise_pending {c t x pc} : (raise c t x pc s).pending = s.pending := by
  grind [raise, takeException_pending, getD_pending]

@[simp] theorem takeLater_pending {c t x} : (takeLater c t x s).pending = s.pending := by
  grind [takeLater, takeException_pending, modThread_pending, getD_pending]

@[simp] theorem takeOwed_pending {c t} : (takeOwed c t s).pending = s.pending := by
  unfold takeOwed
  split <;> simp

@[simp] theorem tookCause_pending {c t} : (tookCause c t s).pending = s.pending := rfl

@[simp] theorem takeNmi_pending {c t} : (takeNmi c t s).pending = s.pending := by
  grind [takeNmi, takeException_pending, modBnd_pending, modThread_pending]

@[simp] theorem clearSource_pending {c t vec} : (clearSource c t vec s).pending = s.pending := rfl

@[simp] theorem applyQsw_pending {c qsw eprog qfrz} : (applyQsw c qsw eprog qfrz s).pending = s.pending := by
  simp [applyQsw, apply_ite State.pending]

@[simp] theorem repark_pending {c t} : (repark c t s).pending = s.pending := by
  simp only [repark]
  (repeat' split) <;> simp

@[simp] theorem returnFromException_pending {c t} : (returnFromException c t s).pending = s.pending := by
  simp [returnFromException, apply_ite State.pending]

@[simp] theorem settleMerge_pending {c} : (settleMerge c s).pending = s.pending := by simp [settleMerge]

@[simp] theorem stopCore_pending {c} : (stopCore c s).pending = s.pending := by
  grind [stopCore, drainStarted_pending, freezeMatrix_pending, freezeVector_pending, dropParks_pending, dropQueues_pending,
    modCore_pending, settleMerge_pending, getD_pending]

@[simp] theorem settleStop_pending {c} : (settleStop c s).pending = s.pending := by
  unfold settleStop
  split <;> simp

@[simp] theorem endParked_pending {c} : (endParked c s).pending = s.pending := by simp [endParked, apply_ite State.pending]

@[simp] theorem quiesceCore_pending {c} : (quiesceCore c s).pending = s.pending := by
  grind [quiesceCore, endParked_pending, drainStarted_pending, freezeMatrix_pending, freezeVector_pending, modCore_pending,
    settleStop_pending, getD_pending]

@[simp] theorem parityFault_pending {c t sub off} : (parityFault c t sub off s).pending = s.pending := by
  grind [parityFault, takeException_pending, report_pending]

theorem issueWith_leavesQueue {c t bad shape gs fs fw body} (shaped : ∀ f ∈ shape, ∀ s : State, (f s).pending = s.pending)
    (keeps : ∀ s : State, (body s).pending = s.pending) : LeavesQueue s (issueWith c t bad shape gs fs fw body s) := by
  unfold issueWith
  dsimp only
  split_ifs <;> simp
  repeat' split
  all_goals simp_all

theorem issue_leavesQueue {c t bad gs fs fw body} (keeps : ∀ s : State, (body s).pending = s.pending) :
    LeavesQueue s (issue c t bad gs fs fw body s) :=
  issueWith_leavesQueue nofun keeps

@[simp] theorem retire_pending {c t alu} : (retire c t alu s).pending = s.pending := rfl

@[simp] theorem retireThen_pending {c t x} : (retireThen c t x s).pending = s.pending := by simp [retireThen]
end

end Sys2Proof.Machine
end

section
/-!
PROOFS. The queue, what leaves it as it is: the control core's own instructions.
-/

namespace Sys2Proof.Machine

section
variable {s : State}

/-! ### Flags -/

@[simp] theorem fpComplete_pending {c t flags fl} : (fpComplete c t flags fl s).pending = s.pending := by
  simp [fpComplete, apply_ite State.pending]

@[simp] theorem fpResult_pending {c t rd r} : (fpResult c t rd r s).pending = s.pending := by simp [fpResult]

@[simp] theorem fpToG_pending {c t rd v flags fl} : (fpToG c t rd v flags fl s).pending = s.pending := by simp [fpToG]

/-! ### Integer -/

@[simp] theorem writeG_pending {c t rd alu v} : (writeG c t rd alu v s).pending = s.pending := by simp [writeG]

@[simp] theorem aluReg_leavesQueue {o alu f} : LeavesQueue s (aluReg o alu f s) := issue_leavesQueue fun s => by simp

@[simp] theorem aluImm_leavesQueue {o bad f} : LeavesQueue s (aluImm o bad f s) := issue_leavesQueue fun s => by simp

@[simp] theorem execSll_leavesQueue {o} : LeavesQueue s (execSll o s) := by simp [execSll]

@[simp] theorem execSrl_leavesQueue {o} : LeavesQueue s (execSrl o s) := by simp [execSrl]

@[simp] theorem execSra_leavesQueue {o} : LeavesQueue s (execSra o s) := by simp [execSra]

@[simp] theorem execSlt_leavesQueue {o} : LeavesQueue s (execSlt o s) := by simp [execSlt]

@[simp] theorem execSltu_leavesQueue {o} : LeavesQueue s (execSltu o s) := by simp [execSltu]

@[simp] theorem execMulh_leavesQueue {o} : LeavesQueue s (execMulh o s) := by simp [execMulh]

@[simp] theorem execMulhu_leavesQueue {o} : LeavesQueue s (execMulhu o s) := by simp [execMulhu]

@[simp] theorem execDiv_leavesQueue {o} : LeavesQueue s (execDiv o s) := by simp [execDiv]

@[simp] theorem execDivu_leavesQueue {o} : LeavesQueue s (execDivu o s) := by simp [execDivu]

@[simp] theorem execRem_leavesQueue {o} : LeavesQueue s (execRem o s) := by simp [execRem]

@[simp] theorem execRemu_leavesQueue {o} : LeavesQueue s (execRemu o s) := by simp [execRemu]

@[simp] theorem execAddi_leavesQueue {o} : LeavesQueue s (execAddi o s) := by simp [execAddi]

@[simp] theorem execAndi_leavesQueue {o} : LeavesQueue s (execAndi o s) := by simp [execAndi]

@[simp] theorem execOri_leavesQueue {o} : LeavesQueue s (execOri o s) := by simp [execOri]

@[simp] theorem execXori_leavesQueue {o} : LeavesQueue s (execXori o s) := by simp [execXori]

@[simp] theorem execSlti_leavesQueue {o} : LeavesQueue s (execSlti o s) := by simp [execSlti]

@[simp] theorem execSltiu_leavesQueue {o} : LeavesQueue s (execSltiu o s) := by simp [execSltiu]

@[simp] theorem execSlli_leavesQueue {o} : LeavesQueue s (execSlli o s) := by simp [execSlli]

@[simp] theorem execSrli_leavesQueue {o} : LeavesQueue s (execSrli o s) := by simp [execSrli]

@[simp] theorem execSrai_leavesQueue {o} : LeavesQueue s (execSrai o s) := by simp [execSrai]

@[simp] theorem execLui_leavesQueue {o} : LeavesQueue s (execLui o s) := issue_leavesQueue fun s => by simp

/-! ### Pages -/

@[simp] theorem writeThreadRun_pending {c v} : (writeThreadRun c v s).pending = s.pending := rfl

@[simp] theorem writeThreadStop_pending {c v} : (writeThreadStop c v s).pending = s.pending := rfl

@[simp] theorem writeSwi_pending {c v} : (writeSwi c v s).pending = s.pending := rfl

@[simp] theorem writeSwiClr_pending {c v} : (writeSwiClr c v s).pending = s.pending := rfl

@[simp] theorem pageWrite_pending {c off v} : (pageWrite c off v s).pending = s.pending := by
  unfold pageWrite
  split <;> rfl

/-! ### LoadStore -/

@[simp] theorem finishLoad_pending {c t a data} : (finishLoad c t a data s).pending = s.pending := by
  unfold finishLoad
  split <;> simp

@[simp] theorem execLd_leavesQueue {o} : LeavesQueue s (execLd o s) := by
  grind [LeavesQueue, execLd, issue_leavesQueue, raise_pending, finishLoad_pending, modCore_pending]

@[simp] theorem localWrite_pending {c t a l} : (localWrite c t a l s).pending = s.pending := by
  unfold localWrite
  split <;> simp

@[simp] theorem execSt_leavesQueue {o} : LeavesQueue s (execSt o s) := by
  grind [LeavesQueue, execSt, issue_leavesQueue, raise_pending, localWrite_pending, retire_pending]

@[simp] theorem execSpan_leavesQueue {o} : LeavesQueue s (execSpan o s) := issue_leavesQueue fun s => by simp

@[simp] theorem execSpanr_leavesQueue {o} : LeavesQueue s (execSpanr o s) := issue_leavesQueue fun s => by simp

@[simp] theorem checkPieces_pending {c write l} : (checkPieces c write l s).2.pending = s.pending :=
  foldl_snd_pending (fun p a => by grind [xlate_pending]) _ _

@[simp] theorem holdScalar_pending {c op} : (holdScalar c op s).pending = s.pending := rfl

@[simp] theorem leaveScalar_pending {c} : (leaveScalar c s).pending = s.pending := rfl

theorem faultScalar_pending {c x} {u : State} (h : faultScalar c x s = some u) : u.pending = s.pending := by
  grind [faultScalar, takeException_pending, leaveScalar_pending]

@[simp] theorem scalarFault_pending {c x} : (scalarFault c x s).pending = s.pending := by
  grind [scalarFault, faultScalar_pending, getD_pending]

@[simp] theorem drainFor_pending {c l} : (drainFor c l s).pending = s.pending := rfl

@[simp] theorem readSector_pending {c pa v keep} : (readSector c pa v keep s).2.pending = s.pending := by
  grind [readSector, l2Read_pending, modCore_pending, modTile_pending]

@[simp] theorem readPiece_pending {c p whole lr} : (readPiece c p whole lr s).2.pending = s.pending := by
  grind [readPiece, modCore_pending, readSector_pending, physRead_pending]

@[simp] theorem readPieces_pending {c l lr} : (readPieces c l lr s).2.pending = s.pending :=
  foldl_snd_pending (fun p a => by grind [readPiece_pending]) _ _

@[simp] theorem attemptLdx_pending {c o} : (attemptLdx c o s).pending = s.pending := by
  grind [attemptLdx, scalarFault_pending, checkPieces_pending, holdScalar_pending, finishLoad_pending, modCore_pending,
    leaveScalar_pending, drainFor_pending, readPieces_pending]

@[simp] theorem attemptStx_pending {c o} : (attemptStx c o s).pending = s.pending := by
  grind [attemptStx, scalarFault_pending, checkPieces_pending, holdScalar_pending, retire_pending, modCore_pending, leaveScalar_pending]

/-! ### Atomic -/

@[simp] theorem finishLr_pending {c t rd a r data} : (finishLr c t rd a r data s).pending = s.pending := by
  unfold finishLr
  split <;> simp

@[simp] theorem execLrW_leavesQueue {o} : LeavesQueue s (execLrW o s) := by
  grind [LeavesQueue, execLrW, issue_leavesQueue, raise_pending, finishLr_pending]

@[simp] theorem finishSc_pending {c t rd ok} : (finishSc c t rd ok s).pending = s.pending := by simp [finishSc]

@[simp] theorem execScW_leavesQueue {o} : LeavesQueue s (execScW o s) := by
  grind [LeavesQueue, execScW, issue_leavesQueue, raise_pending, finishSc_pending, dlsWrite_pending]

@[simp] theorem checkLrx_pending {c write va} : (checkLrx c write va s).2.pending = s.pending := by grind [checkLrx, xlate_pending]

@[simp] theorem lrxPieces_pending {c o write} : (lrxPieces c o write s).2.2.pending = s.pending := by
  simp only [lrxPieces]
  (repeat' split) <;> simp

@[simp] theorem attemptLrx_pending {c o} : (attemptLrx c o s).pending = s.pending := by
  grind [attemptLrx, lrxPieces_pending, holdScalar_pending, scalarFault_pending, finishLr_pending, leaveScalar_pending, drainFor_pending,
    readPieces_pending]

@[simp] theorem attemptScx_pending {c o} : (attemptScx c o s).pending = s.pending := by
  grind [attemptScx, lrxPieces_pending, holdScalar_pending, scalarFault_pending, finishSc_pending, leaveScalar_pending, drainFor_pending,
    l2Write_pending, modCore_pending]

/-! ### System -/

@[simp] theorem execTrap_leavesQueue {o} : LeavesQueue s (execTrap o s) := issue_leavesQueue fun s => by simp

@[simp] theorem attemptFence_pending {c t o g} : (attemptFence c t o g s).pending = s.pending := by
  unfold attemptFence
  split <;> simp

@[simp] theorem startFence_pending {o g} : (startFence o g s).pending = s.pending := by simp [startFence]

@[simp] theorem execFence_leavesQueue {o} : LeavesQueue s (execFence o s) := issue_leavesQueue fun s => by simp

@[simp] theorem execFenceG_leavesQueue {o} : LeavesQueue s (execFenceG o s) := issue_leavesQueue fun s => by simp

@[simp] theorem retryScalar_pending {c} : (retryScalar c s).pending = s.pending := by
  unfold retryScalar
  (repeat' split) <;> grind [faultScalar_pending, unpark_pending, attemptLdx_pending, attemptStx_pending, attemptLrx_pending,
    attemptScx_pending, getD_pending]

@[simp] theorem retryFence_pending {c t} : (retryFence c t s).pending = s.pending := by
  unfold retryFence
  split <;> simp

@[simp] theorem kickCore_pending {c} : (kickCore c s).pending = s.pending := by simp [kickCore]

@[simp] theorem resumeScalar_pending {c} : (resumeScalar c s).pending = s.pending := by
  unfold resumeScalar
  split <;> simp

@[simp] theorem execEret_leavesQueue {o} : LeavesQueue s (execEret o s) := by
  grind [LeavesQueue, execEret, issue_leavesQueue, returnFromException_pending, retryScalar_pending, resumeScalar_pending]

@[simp] theorem execIfence_leavesQueue {o} : LeavesQueue s (execIfence o s) := issue_leavesQueue fun s => by simp

@[simp] theorem execPatch_leavesQueue {o} : LeavesQueue s (execPatch o s) := by
  grind [LeavesQueue, execPatch, issue_leavesQueue, raise_pending, retire_pending, modThread_pending]

@[simp] theorem csrLatch_pending {c t n} : (csrLatch s c t n).pending = s.pending := by
  unfold csrLatch
  split <;> rfl

@[simp] theorem csrWrite_pending {c t n v} : (csrWrite c t n v s).pending = s.pending := by
  unfold csrWrite
  split <;> rfl

@[simp] theorem execCsrr_leavesQueue {o} : LeavesQueue s (execCsrr o s) := by
  unfold execCsrr
  exact issue_leavesQueue fun s => by split <;> simp

@[simp] theorem csrModify_leavesQueue {o f} : LeavesQueue s (csrModify o f s) := by
  unfold csrModify
  exact issue_leavesQueue fun s => by split <;> simp

@[simp] theorem execCsrw_leavesQueue {o} : LeavesQueue s (execCsrw o s) := by simp [execCsrw]

@[simp] theorem execCsrc_leavesQueue {o} : LeavesQueue s (execCsrc o s) := by simp [execCsrc]

@[simp] theorem beginWait_pending {c t} : (beginWait c t s).pending = s.pending := by simp [beginWait, apply_ite State.pending]

@[simp] theorem execWait_leavesQueue {o} : LeavesQueue s (execWait o s) := issue_leavesQueue fun s => by simp
end

end Sys2Proof.Machine
end

section
/-!
PROOFS. The queue, what leaves it as it is: the controller's work on descriptors.
-/

namespace Sys2Proof.Machine

section
variable {s : State}

/-! ### Engine -/

@[simp] theorem endJob_pending {r i st} : (endJob r i st s).pending = s.pending := by
  unfold endJob
  split <;> simp

theorem repeatStep_pending {step} (keeps : ∀ s, (step s).2.pending = s.pending) {fuel} :
    (repeatStep step fuel s).pending = s.pending := by
  induction fuel generalizing s with
  | zero => rfl
  | succ n ih => grind [repeatStep]

@[simp] theorem advanceJob_pending {r i n} : (advanceJob r i n s).pending = s.pending := rfl

@[simp] theorem readAhead_pending {r i l} : (readAhead r i l s).pending = s.pending := rfl

@[simp] theorem moveStep_pending {r i} : (moveStep r i s).2.pending = s.pending := by
  grind [moveStep, endJob_pending, engineRead_pending, readAhead_pending, engineWrite_pending, advanceJob_pending, modJob_pending]

@[simp] theorem runMove_pending {r i} : (runMove r i s).pending = s.pending := by grind [runMove, repeatStep_pending, moveStep_pending]

@[simp] theorem fillStep_pending {r i} : (fillStep r i s).2.pending = s.pending := by
  grind [fillStep, endJob_pending, engineWrite_pending, advanceJob_pending]

@[simp] theorem runFill_pending {r i} : (runFill r i s).pending = s.pending := by grind [runFill, repeatStep_pending, fillStep_pending]

@[simp] theorem execMove_leavesQueue {o} : LeavesQueue s (execMove o s) := leavesQueue_next.2 (startDesc_pending fun d s => by simp)

@[simp] theorem execFill_leavesQueue {o} : LeavesQueue s (execFill o s) := leavesQueue_next.2 (startDesc_pending fun d s => by simp)

/-! ### Logs -/

@[simp] theorem numberLog_pending {b r} : (numberLog b r s).2.pending = s.pending := rfl

@[simp] theorem recordDone_pending {who r i} : (recordDone who r i s).pending = s.pending := by
  unfold recordDone
  split <;> rfl

@[simp] theorem logStep_pending {r i} : (logStep r i s).2.pending = s.pending := by
  grind [logStep, modRec_pending, engineRead_pending, recordDone_pending, engineWrite_pending]

@[simp] theorem runRecord_pending {r i} : (runRecord r i s).pending = s.pending := by
  grind [runRecord, repeatStep_pending, logStep_pending]

@[simp] theorem runLogmark_pending {r i} : (runLogmark r i s).pending = s.pending := by simp [runLogmark, apply_ite State.pending]

@[simp] theorem execLogmark_leavesQueue {o} : LeavesQueue s (execLogmark o s) :=
  leavesQueue_next.2 (startDesc_pending fun d s => by split <;> simp)

@[simp] theorem execLogmarkAuto_leavesQueue {o} : LeavesQueue s (execLogmarkAuto o s) :=
  leavesQueue_next.2 (startDesc_pending fun d s => by split <;> simp)

@[simp] theorem launchLog_pending {r i b rpos} : (launchLog r i b rpos s).pending = s.pending := by
  simp only [launchLog]
  (repeat' split) <;> simp

/-! ### Launch -/

@[simp] theorem handOver_pending {c} : (handOver c s).pending = s.pending := by
  simp only [handOver]
  (repeat' split) <;> simp

@[simp] theorem launchCores_pending {r i b} : (launchCores r i b s).pending = s.pending := by
  grind [launchCores, releaseEngine_pending, modJob_pending, foldl_pending, modCore_pending, handOver_pending]

@[simp] theorem codeStep_pending {r i} : (codeStep r i s).2.pending = s.pending := by
  grind [codeStep, engineRead_pending, advanceJob_pending, launchCores_pending, endJob_pending, foldl_pending, modCore_pending]

@[simp] theorem leaveLaunch_pending {r i} : (leaveLaunch r i s).pending = s.pending := rfl

@[simp] theorem endLaunch_pending {r i st} : (endLaunch r i st s).pending = s.pending := by simp [endLaunch]

@[simp] theorem haveEngine_pending {r i} : (haveEngine r i s).2.pending = s.pending := by
  unfold haveEngine
  (repeat' split) <;> simp

@[simp] theorem haveRecordEngine_pending {r i l} : (haveRecordEngine r i l s).2.pending = s.pending := by
  unfold haveRecordEngine
  (repeat' split) <;> simp

@[simp] theorem runLaunchLog_pending {r i} : (runLaunchLog r i s).pending = s.pending := by
  grind [runLaunchLog, haveRecordEngine_pending, runRecord_pending, releaseRecord_pending]

@[simp] theorem runHistogram_pending {r i} : (runHistogram r i s).pending = s.pending := by
  unfold runHistogram
  split <;> grind [endLaunch_pending, haveEngine_pending, engineWriteAll_pending, modJob_pending]

@[simp] theorem runLaunch_pending {r i} : (runLaunch r i s).pending = s.pending := by
  grind [runLaunch, runLaunchLog_pending, repeatStep_pending, codeStep_pending, endLaunch_pending, runHistogram_pending]

@[simp] theorem execLaunch_leavesQueue {o} : LeavesQueue s (execLaunch o s) := by
  grind [LeavesQueue, execLaunch, startDesc_pending, endJob_pending, launchLog_pending, runLaunch_pending, runLaunchLog_pending,
    launchCores_pending]

/-! ### Collect -/

@[simp] theorem modColl_pending {r i f} : (modColl r i f s).pending = s.pending := rfl

@[simp] theorem sendCol_pending {r i b t m c tag addr payload psn} :
    (sendCol r i b t m c tag addr payload psn s).2.pending = s.pending := by
  grind [sendCol, takeTid_pending, sendPacket_pending, addReq_pending, engineError_pending]

@[simp] theorem sendOpen_pending {r i b c m} : (sendOpen r i b c m s).pending = s.pending := by
  simp only [sendOpen]
  (repeat' split) <;> simp

@[simp] theorem openSendings_pending {r i b c stamp src} : (openSendings r i b c stamp src s).pending = s.pending := by
  unfold openSendings
  split <;> simp

@[simp] theorem modSending_pending {r i n f} : (modSending r i n f s).pending = s.pending := rfl

@[simp] theorem sendData_pending {r i n} : (sendData r i n s).2.pending = s.pending := by
  unfold sendData
  (repeat' split) <;> grind [engineRead_pending, dropReturned_pending, sendCol_pending, modSending_pending]

@[simp] theorem sendRound_pending {r i} : (sendRound r i s).2.pending = s.pending := by
  unfold sendRound
  split
  · split
    · exact foldl_snd_pending (fun p k => by grind [sendData_pending, modColl_pending]) _ _
    · rfl
  · rfl

@[simp] theorem setFinal_pending {r i} : (setFinal r i s).pending = s.pending := by
  unfold setFinal
  split <;> rfl

@[simp] theorem receiveData_pending {r i c p} : (receiveData r i c p s).pending = s.pending := by
  simp only [receiveData]
  (repeat' split) <;> simp

@[simp] theorem stageStep_pending {r i} : (stageStep r i s).2.pending = s.pending := by
  unfold stageStep
  split <;> grind [respond_pending, modColl_pending, engineWriteAll_pending, modJob_pending]

@[simp] theorem zeroSumRegs_pending {c} : (zeroSumRegs c s).pending = s.pending := rfl

@[simp] theorem sumStep_pending {r i} : (sumStep r i s).2.pending = s.pending := by
  unfold sumStep
  repeat' split
  any_goals rfl
  dsimp only
  split
  · next read =>
    have start := snd_pending_of_eq read (foldl_snd_pending (fun p a => by grind [engineReadAll_pending]) _ _)
    grind [engineWrite_pending, zeroSumRegs_pending, modColl_pending, modJob_pending, dropReturned_pending]
  · next read => exact snd_pending_of_eq read (foldl_snd_pending (fun p a => by grind [engineReadAll_pending]) _ _)

@[simp] theorem finishCollect_pending {r i b st} : (finishCollect r i b st s).pending = s.pending := by
  grind [finishCollect, endJob_pending, foldl_pending, zeroSumRegs_pending]

@[simp] theorem beginCollect_pending {r i b d table} : (beginCollect r i b d table s).pending = s.pending := by
  simp [beginCollect, apply_ite State.pending]

@[simp] theorem runCollect_pending {r i} : (runCollect r i s).pending = s.pending := by
  have begins {b : BindingId} {d : Desc} : (match engineRead (.job r i) b (d.num 72 8) 128 s with
      | (some t, s) => if jobErr s r i then s else beginCollect r i b d t s
      | (none, s) => s).pending = s.pending := by
    grind [engineRead_pending, beginCollect_pending]
  unfold runCollect
  split
  · rfl
  · dsimp only
    generalize ht : repeatStep (sendRound r i) (2 ^ 32) _ = t
    have settled : t.pending = s.pending := by
      rw [← ht, repeatStep_pending fun _ => sendRound_pending, repeatStep_pending fun _ => stageStep_pending]
      split
      · exact begins
      · rfl
    have summed {n} : (repeatStep (sumStep r i) n t).pending = s.pending :=
      (repeatStep_pending fun _ => sumStep_pending).trans settled
    (repeat' split) <;> simp only [settled, summed, endJob_pending, finishCollect_pending]

@[simp] theorem execCollect_leavesQueue {o} : LeavesQueue s (execCollect o s) := by
  grind [LeavesQueue, execCollect, startDesc_pending, runCollect_pending, modJob_pending, endJob_pending]

@[simp] theorem stopSendings_pending {r i} : (stopSendings r i s).pending = s.pending := by
  unfold stopSendings
  (repeat' split) <;> simp

@[simp] theorem execCollectDeadline_leavesQueue {o} : LeavesQueue s (execCollectDeadline o s) := by
  unfold execCollectDeadline
  (repeat' split) <;> simp

@[simp] theorem execCollectSum_leavesQueue {o} : LeavesQueue s (execCollectSum o s) := by
  unfold execCollectSum
  (repeat' split) <;> simp

@[simp] theorem execColOpenResend_leavesQueue {o} : LeavesQueue s (execColOpenResend o s) := by
  simp only [execColOpenResend]
  (repeat' split) <;> simp

@[simp] theorem receiveOpen_pending {p} : (receiveOpen p s).pending = s.pending := by
  unfold receiveOpen
  (repeat' split) <;> simp

@[simp] theorem receiveCol_pending {p} : (receiveCol p s).pending = s.pending := by
  unfold receiveCol
  (repeat' split) <;> simp

@[simp] theorem collectAnswer_pending {r i m f} : (collectAnswer r i m f s).pending = s.pending := rfl

/-! ### Update -/

@[simp] theorem abandonDrains_pending {b r d} : (abandonDrains b r d s).pending = s.pending := by
  simp [abandonDrains, apply_ite State.pending]

@[simp] theorem engineDone_pending {who r i} : (engineDone who r i s).pending = s.pending := by
  unfold engineDone
  split <;> rfl

@[simp] theorem endUpdate_pending {r i st} : (endUpdate r i st s).pending = s.pending := by
  grind [endUpdate, endJob_pending, foldl_pending, dropReturned_pending]

@[simp] theorem updateReadStep_pending {r i} : (updateReadStep r i s).2.pending = s.pending := by
  unfold updateReadStep
  split <;> grind [endUpdate_pending, bulkRead_pending, engineDone_pending, modJob_pending, abandonDrains_pending]

@[simp] theorem modEngine_pending {r i t f} : (modEngine r i t f s).pending = s.pending := rfl

@[simp] theorem engineStore_pending {who b va l} : (engineStore who b va l s).2.pending = s.pending := by
  grind [engineStore, bulkWrite_pending, xlate_pending, l2WriteBack_pending]

@[simp] theorem startLayer_pending {r i c entry va eta step} : (startLayer r i c entry va eta step s).pending = s.pending := by
  simp [startLayer]

@[simp] theorem layerRead_pending {r i b d e entry sched} : (layerRead r i b d e entry sched s).2.pending = s.pending := by
  grind [layerRead, modEngine_pending, bulkRead_pending, engineDone_pending, modJob_pending]

@[simp] theorem layerWrite_pending {r i b d e entry} : (layerWrite r i b d e entry s).2.pending = s.pending := by
  grind [layerWrite, modEngine_pending, engineStore_pending, engineDone_pending]

@[simp] theorem layerProgram_pending {r i b d e entry sched} : (layerProgram r i b d e entry sched s).2.pending = s.pending := by
  simp only [layerProgram]
  (repeat' split) <;> simp

@[simp] theorem engineStep_pending {r i t} : (engineStep r i t s).2.pending = s.pending := by
  unfold engineStep
  split <;> grind [layerProgram_pending, layerRead_pending, layerWrite_pending, modEngine_pending, engineStore_pending,
    engineDone_pending]

@[simp] theorem runUpdate_pending {r i} : (runUpdate r i s).pending = s.pending := by
  grind [runUpdate, repeatStep_pending, updateReadStep_pending, engineStep_pending, endUpdate_pending, foldl_pending, foldl_snd_pending]

@[simp] theorem execUpdate_leavesQueue {o} : LeavesQueue s (execUpdate o s) := by
  grind [LeavesQueue, execUpdate, startDesc_pending, runUpdate_pending, endUpdate_pending]

@[simp] theorem execUpdateFinish_leavesQueue {o} : LeavesQueue s (execUpdateFinish o s) := by
  simp only [execUpdateFinish]
  (repeat' split) <;> simp

/-! ### Drain -/

@[simp] theorem toPhase_pending {r i n} : (toPhase r i n s).pending = s.pending := rfl

@[simp] theorem drainCopy_pending {r i b d} : (drainCopy r i b d s).2.pending = s.pending := by
  grind [drainCopy, engineRead_pending, readAhead_pending, engineWrite_pending, advanceJob_pending]

@[simp] theorem drainStep_pending {r i} : (drainStep r i s).2.pending = s.pending := by
  unfold drainStep
  split <;> grind [engineRead_pending, engineDone_pending, modJob_pending, toPhase_pending, endJob_pending, engineWriteAll_pending,
    drainCopy_pending]

@[simp] theorem runDrain_pending {r i} : (runDrain r i s).pending = s.pending := by
  grind [runDrain, repeatStep_pending, drainStep_pending, endJob_pending]

@[simp] theorem execDrain_leavesQueue {o} : LeavesQueue s (execDrain o s) := by
  grind [LeavesQueue, execDrain, startDesc_pending, runDrain_pending, endJob_pending]

@[simp] theorem commitDrains_pending {opened due} : (commitDrains opened due s).pending = s.pending :=
  foldl_pending (fun s a => by (repeat' split) <;> simp) _ _

@[simp] theorem installPos_pending {b p} : (installPos b p s).pending = s.pending := by
  grind [installPos, modLog_pending, foldl_pending, modCore_pending]

@[simp] theorem restoreOutcome_pending {r i b d} : (restoreOutcome r i b d s).2.pending = s.pending := by
  simp only [restoreOutcome]
  (repeat' split) <;> simp

@[simp] theorem restoreStep_pending {r i} : (restoreStep r i s).2.pending = s.pending := by
  grind [restoreStep, engineRead_pending, toPhase_pending, modJob_pending, endJob_pending, engineDone_pending, restoreOutcome_pending,
    engineWrite_pending]

@[simp] theorem runRestore_pending {r i} : (runRestore r i s).pending = s.pending := by
  grind [runRestore, repeatStep_pending, restoreStep_pending, endJob_pending]

@[simp] theorem execRestore_leavesQueue {o} : LeavesQueue s (execRestore o s) := leavesQueue_next.2 (startDesc_pending fun d s => by simp)

/-! ### Binding -/

@[simp] theorem changeKey_pending {k key src} : (changeKey k key src s).pending = s.pending := rfl

@[simp] theorem retireKey_pending {k} : (retireKey k s).pending = s.pending := rfl

@[simp] theorem walkStub_pending {b va} : (walkStub b va s).2.pending = s.pending := by
  grind [walkStub, walkTables_pending, perfCount_pending, tablePoison_pending]

@[simp] theorem probeStub_pending {b d} : (probeStub b d s).2.pending = s.pending :=
  foldl_snd_pending (fun p a => by grind [walkStub_pending, modBnd_pending]) _ _

@[simp] theorem claimAll_pending {b d} : (claimAll b d s).pending = s.pending := by
  grind [claimAll, foldl_pending, setSlot_pending, modCore_pending, modBnd_pending]

@[simp] theorem stubStep_pending {r i} : (stubStep r i s).2.pending = s.pending := by
  grind [stubStep, engineRead_pending, dropReturned_pending, modJob_pending, walkStub_pending, engineError_pending, foldl_pending,
    modCore_pending]

@[simp] theorem runBind_pending {r i} : (runBind r i s).pending = s.pending := by grind [runBind, repeatStep_pending, stubStep_pending]

@[simp] theorem execBind_leavesQueue {o} : LeavesQueue s (execBind o s) := by
  grind [LeavesQueue, execBind, startDesc_pending, endJob_pending, probeStub_pending, runBind_pending, claimAll_pending]

@[simp] theorem enterBind_pending {b st} : (enterBind b st s).pending = s.pending := rfl

@[simp] theorem execBindFinish_leavesQueue {o} : LeavesQueue s (execBindFinish o s) := by
  unfold execBindFinish
  (repeat' split) <;> simp

@[simp] theorem endAny_pending {r i st} : (endAny r i st s).pending = s.pending := by
  unfold endAny
  (repeat' split) <;> simp

@[simp] theorem stopBinding_pending {r i b} : (stopBinding r i b s).pending = s.pending := by simp [stopBinding, apply_ite State.pending]

@[simp] theorem execUnbind_leavesQueue {o} : LeavesQueue s (execUnbind o s) :=
  leavesQueue_next.2 (startDesc_pending fun d s => by split <;> simp)

@[simp] theorem execUnbindTimeout_leavesQueue {o} : LeavesQueue s (execUnbindTimeout o s) := by
  grind [LeavesQueue, execUnbindTimeout, foldl_pending, endAny_pending, stopCore_pending, modBnd_pending]

@[simp] theorem dropReq_pending {id} : (dropReq id s).pending = s.pending := rfl

@[simp] theorem execHostRetireTimeout_leavesQueue {o} : LeavesQueue s (execHostRetireTimeout o s) := by
  unfold execHostRetireTimeout
  (repeat' split) <;> simp

@[simp] theorem scrubTile_pending {b t} : (scrubTile b t s).pending = s.pending := by simp [scrubTile]

@[simp] theorem scrubSections_pending {b} : (scrubSections b s).pending = s.pending := by
  grind [scrubSections, foldl_pending, scrubTile_pending, setCore_pending]

@[simp] theorem releaseBinding_pending {b} : (releaseBinding b s).pending = s.pending := by
  grind [releaseBinding, foldl_pending, retireKey_pending, setSlot_pending, setBnd_pending]

@[simp] theorem substituteWaiting_pending {sections} : (substituteWaiting sections s).pending = s.pending := by simp [substituteWaiting]

@[simp] theorem execScrub_leavesQueue {o} : LeavesQueue s (execScrub o s) := by
  simp only [execScrub]
  (repeat' split) <;> simp

@[simp] theorem startRekey_pending {r record} : (startRekey r record s).pending = s.pending := by
  refine startDesc_pending fun d s => ?_
  dsimp only
  (repeat' split) <;> simp

@[simp] theorem execRekey_leavesQueue {o} : LeavesQueue s (execRekey o s) := by simp [execRekey]

@[simp] theorem execRetireOnly_leavesQueue {o} : LeavesQueue s (execRetireOnly o s) :=
  leavesQueue_next.2 (startDesc_pending fun d s => by split <;> simp)
end

end Sys2Proof.Machine
end

section
/-!
PROOFS. The queue, what leaves it as it is: time, power, kicks, links, resets and the module's life.
-/

namespace Sys2Proof.Machine

section
variable {s : State}

/-! ### Branch -/

@[simp] theorem branchIf_leavesQueue {o test} : LeavesQueue s (branchIf o test s) := by
  grind [LeavesQueue, branchIf, issue_leavesQueue, modThread_pending, retire_pending]

@[simp] theorem execJalr_leavesQueue {o} : LeavesQueue s (execJalr o s) := by
  grind [LeavesQueue, execJalr, issueWith_leavesQueue, modThread_pending]

@[simp] theorem execJal_leavesQueue {o} : LeavesQueue s (execJal o s) := issue_leavesQueue fun s => by simp

@[simp] theorem execLoop_leavesQueue {o} : LeavesQueue s (execLoop o s) := by
  grind [LeavesQueue, execLoop, issue_leavesQueue, raise_pending, modThread_pending]

/-! ### Time -/

@[simp] theorem enterHoldover_pending : (enterHoldover s).pending = s.pending := rfl

@[simp] theorem enterDisciplined_pending {d} : (enterDisciplined d s).pending = s.pending := rfl

@[simp] theorem sourceLost_pending {ptp} : (sourceLost ptp s).pending = s.pending := by
  unfold sourceLost
  split <;> rfl

@[simp] theorem missSkipped_pending : (missSkipped s).pending = s.pending := by simp [missSkipped, apply_ite State.pending]

@[simp] theorem stepForward_pending {target} : (stepForward target s).pending = s.pending := by simp [stepForward]

@[simp] theorem jumpPending_pending {diff} : (jumpPending diff s).pending = s.pending := by
  unfold jumpPending
  split <;> simp

@[simp] theorem approach_pending {d diff} : (approach d diff s).pending = s.pending := by simp [approach, apply_ite State.pending]

@[simp] theorem stepToSource_pending {target d} : (stepToSource target d s).pending = s.pending := by simp [stepToSource]

@[simp] theorem execTimeCrossing_leavesQueue {o} : LeavesQueue s (execTimeCrossing o s) := by
  simp only [execTimeCrossing]
  (repeat' split) <;> simp

@[simp] theorem acceptJump_pending : (acceptJump s).pending = s.pending := by
  unfold acceptJump
  split <;> rfl

@[simp] theorem execSlewLock_leavesQueue : LeavesQueue s (execSlewLock s) := by
  unfold execSlewLock
  (repeat' split) <;> simp

@[simp] theorem execHoldoverToPtp_leavesQueue : LeavesQueue s (execHoldoverToPtp s) := by
  unfold execHoldoverToPtp
  (repeat' split) <;> simp

@[simp] theorem writePeriod_pending {v} : (writePeriod v s).pending = s.pending := by simp [writePeriod, apply_ite State.pending]

@[simp] theorem writeLen_pending {v} : (writeLen v s).pending = s.pending := by simp [writeLen, apply_ite State.pending]

/-! ### Power -/

@[simp] theorem setInput_pending {v} : (setInput v s).pending = s.pending := rfl

@[simp] theorem inputAlarm_pending {cause} : (inputAlarm cause s).pending = s.pending := by
  simp only [inputAlarm]
  (repeat' split) <;> simp

@[simp] theorem execRequestSample_leavesQueue : LeavesQueue s (execRequestSample s) := by
  grind [LeavesQueue, execRequestSample, foldl_pending, modTile_pending, modMod_pending]

@[simp] theorem applyLevel_pending {t level} : (applyLevel t level s).pending = s.pending := by
  unfold applyLevel
  split <;> rfl

@[simp] theorem execBellowsInterval_leavesQueue {o} : LeavesQueue s (execBellowsInterval o s) := by
  grind [LeavesQueue, execBellowsInterval, setInput_pending, foldl_pending, modTile_pending, modPower_pending, applyLevel_pending]

@[simp] theorem execThrottleSilence_leavesQueue : LeavesQueue s (execThrottleSilence s) := by
  grind [LeavesQueue, execThrottleSilence, foldl_pending, modTile_pending, modPower_pending]

@[simp] theorem writePwrLimit_pending {v} : (writePwrLimit v s).pending = s.pending := by simp [writePwrLimit, apply_ite State.pending]

/-! ### Errors -/

@[simp] theorem writeRecord_pending {r} : (writeRecord r s).pending = s.pending := by simp [writeRecord]

@[simp] theorem execErrorRecordWrite_leavesQueue : LeavesQueue s (execErrorRecordWrite s) := by
  simp only [execErrorRecordWrite]
  (repeat' split) <;> simp

@[simp] theorem execCeMergeWindow_leavesQueue {o} : LeavesQueue s (execCeMergeWindow o s) := by
  unfold execCeMergeWindow
  (repeat' split) <;> simp

@[simp] theorem writeErrCfg_pending {v} : (writeErrCfg v s).pending = s.pending := rfl

@[simp] theorem writeErrHead_pending {h} : (writeErrHead h s).pending = s.pending := rfl

/-! ### Kick -/

@[simp] theorem runJobAlone_pending {r i} : (runJobAlone r i s).pending = s.pending := by
  unfold runJobAlone
  (repeat' split) <;> simp

@[simp] theorem logTurn_pending {b} : (logTurn b s).2.pending = s.pending := by
  unfold logTurn
  split <;> simp

@[simp] theorem runLogs_pending {b} : (runLogs b s).pending = s.pending := by
  unfold runLogs
  split <;> grind [repeatStep_pending, logTurn_pending]

@[simp] theorem runJob_pending {r i} : (runJob r i s).pending = s.pending := by
  unfold runJob
  (repeat' split) <;> simp

@[simp] theorem runJobs_pending : (runJobs s).pending = s.pending := by simp [runJobs]

@[simp] theorem runUpdates_pending : (runUpdates s).pending = s.pending := by simp [runUpdates, apply_ite State.pending]

@[simp] theorem execLaunchFinish_leavesQueue {o} : LeavesQueue s (execLaunchFinish o s) := by
  grind [LeavesQueue, execLaunchFinish, runLogs_pending, runLaunch_pending, foldl_pending, modCore_pending, runLaunchLog_pending,
    runHistogram_pending, modJob_pending]

@[simp] theorem kick_pending {who} : (kick who s).pending = s.pending := by
  unfold kick
  (repeat' split) <;> simp

@[simp] theorem execWalk_leavesQueue {o} : LeavesQueue s (execWalk o s) := by
  simp only [execWalk]
  (repeat' split) <;> simp

@[simp] theorem kickTile_pending {t} : (kickTile t s).pending = s.pending := by simp [kickTile]

@[simp] theorem installFill_pending {t f l} : (installFill t f l s).pending = s.pending := by
  unfold installFill
  split <;> simp

@[simp] theorem execL2Fill_leavesQueue {o} : LeavesQueue s (execL2Fill o s) := by
  unfold execL2Fill
  split
  · simp
  · split
    · next arrived => simpa using snd_pending_of_eq arrived fillArrived_pending
    · next arrived =>
      have start := snd_pending_of_eq arrived fillArrived_pending
      simp only [leavesQueue_next, kickTile_pending, modTile_pending]
      rw [foldl_pending fun _ _ => keepOld_pending, installFill_pending, dropReturned_pending, start]

@[simp] theorem execHostReadCompletion_leavesQueue {o} : LeavesQueue s (execHostReadCompletion o s) := by
  unfold execHostReadCompletion
  (repeat' split) <;> simp

@[simp] theorem readFinds_pending {stack unit b scrub found} : (readFinds stack unit b scrub found s).pending = s.pending := by
  simp only [readFinds]
  (repeat' split) <;> simp

@[simp] theorem execAdmissionSlot_leavesQueue {o} : LeavesQueue s (execAdmissionSlot o s) := by
  simp only [execAdmissionSlot]
  (repeat' split) <;> simp

/-! ### Xsync -/

@[simp] theorem addCount_pending {r i n k} : (addCount r i n k s).pending = s.pending := rfl

@[simp] theorem forgetLeaves_pending {d b} : (forgetLeaves d b s).pending = s.pending := by simp [forgetLeaves, apply_ite State.pending]

@[simp] theorem dropRange_pending {d b} : (dropRange d b s).pending = s.pending := by
  grind [dropRange, foldl_pending, modCore_pending, modTile_pending, forgetLeaves_pending]

@[simp] theorem afterRetirement_pending {r d} : (afterRetirement r d s).pending = s.pending := by
  simp [afterRetirement, apply_ite State.pending]

@[simp] theorem execInv_leavesQueue {o} : LeavesQueue s (execInv o s) := by
  grind [LeavesQueue, execInv, startDesc_pending, addCount_pending, modJob_pending, dropRange_pending, afterRetirement_pending]

@[simp] theorem execL2f_leavesQueue {o} : LeavesQueue s (execL2f o s) := by
  unfold execL2f
  split <;> simp

@[simp] theorem execXsyncRetirement_leavesQueue {o} : LeavesQueue s (execXsyncRetirement o s) := by
  unfold execXsyncRetirement
  (repeat' split) <;> simp

@[simp] theorem answerPark_pending {b p a} : (answerPark b p a s).pending = s.pending := rfl

@[simp] theorem noteResume_pending {c n} : (noteResume c n s).pending = s.pending := rfl

@[simp] theorem resumePark_pending {b n p} : (resumePark b n p s).pending = s.pending := by
  unfold resumePark
  (repeat' split) <;> simp

@[simp] theorem declineHead_pending {c matrix p} : (declineHead c matrix p s).pending = s.pending := by
  simp only [declineHead]
  (repeat' split) <;> simp

@[simp] theorem declineLaunch_pending {r i} : (declineLaunch r i s).pending = s.pending := by simp [declineLaunch]

@[simp] theorem declineRecord_pending {r i n} : (declineRecord r i n s).pending = s.pending := by simp [declineRecord]

@[simp] theorem declineJob_pending {r i n} : (declineJob r i n s).pending = s.pending := by
  simp only [declineJob]
  (repeat' split) <;> simp

@[simp] theorem declineUpdate_pending {r i t n} : (declineUpdate r i t n s).pending = s.pending := by
  simp only [declineUpdate]
  (repeat' split) <;> simp

@[simp] theorem declinePark_pending {b n p} : (declinePark b n p s).pending = s.pending := by
  unfold declinePark
  (repeat' split) <;> simp

theorem answerRange_pending {r i b k act n m} (keeps : ∀ seq p s, (act seq p s).pending = s.pending) :
    (answerRange r i b k act n m s).pending = s.pending := by
  grind [answerRange, foldl_pending, addCount_pending]

@[simp] theorem execDecline_leavesQueue {o} : LeavesQueue s (execDecline o s) := by
  grind [LeavesQueue, execDecline, answerRange_pending, declinePark_pending, modJob_pending, endJob_pending]

@[simp] theorem execResume_leavesQueue {o} : LeavesQueue s (execResume o s) := by
  grind [LeavesQueue, execResume, answerRange_pending, resumePark_pending, endJob_pending]

/-! ### Links -/

@[simp] theorem deliverRead_pending {q l} : (deliverRead q l s).pending = s.pending := by simp [deliverRead, apply_ite State.pending]

@[simp] theorem retireError_pending {q} : (retireError q s).pending = s.pending := by
  unfold retireError
  split <;> simp

@[simp] theorem sendAgain_pending {p} : (sendAgain p s).pending = s.pending := by
  simp only [sendAgain]
  (repeat' split) <;> simp

@[simp] theorem holdRoutes_pending {ids} : (holdRoutes ids s).pending = s.pending := rfl

@[simp] theorem leaveUp_pending {i st} : (leaveUp i st s).pending = s.pending := by simp [leaveUp, apply_ite State.pending]

@[simp] theorem writeRouteData_pending {v} : (writeRouteData v s).pending = s.pending := by simp [writeRouteData, apply_ite State.pending]

@[simp] theorem failLane_pending {i lane} : (failLane i lane s).pending = s.pending := by
  simp only [failLane]
  (repeat' split) <;> simp

@[simp] theorem execLaneFailure_leavesQueue {o} : LeavesQueue s (execLaneFailure o s) := by
  unfold execLaneFailure
  (repeat' split) <;> simp

@[simp] theorem execPortTrainingDone_leavesQueue {o} : LeavesQueue s (execPortTrainingDone o s) := by
  simp only [execPortTrainingDone]
  (repeat' split) <;> simp

@[simp] theorem execTrainingFailure_leavesQueue {o} : LeavesQueue s (execTrainingFailure o s) := by
  simp only [execTrainingFailure]
  (repeat' split) <;> simp

@[simp] theorem execPeerSignalLoss_leavesQueue {o} : LeavesQueue s (execPeerSignalLoss o s) := by
  unfold execPeerSignalLoss
  (repeat' split) <;> simp

@[simp] theorem execPeerSignalDetect_leavesQueue {o} : LeavesQueue s (execPeerSignalDetect o s) := by
  unfold execPeerSignalDetect
  (repeat' split) <;> simp

@[simp] theorem writePortCtl_pending {i v} : (writePortCtl i v s).pending = s.pending := by simp [writePortCtl, apply_ite State.pending]

@[simp] theorem execPortCtl_leavesQueue {o} : LeavesQueue s (execPortCtl o s) := by
  unfold execPortCtl
  (repeat' split) <;> simp

@[simp] theorem execPortErr_leavesQueue {o} : LeavesQueue s (execPortErr o s) := by
  unfold execPortErr
  (repeat' split) <;> simp

@[simp] theorem retrain_pending {i} : (retrain i s).pending = s.pending := by simp [retrain]

@[simp] theorem askAgain_pending {i lseq} : (askAgain i lseq s).pending = s.pending := by simp [askAgain, apply_ite State.pending]

@[simp] theorem countLink_pending {i corrections replays} : (countLink i corrections replays s).pending = s.pending := by
  simp [countLink, apply_ite State.pending]

@[simp] theorem countReplays_pending {i n} : (countReplays i n s).pending = s.pending := by simp [countReplays]

theorem arrive_leavesQueue {o body} (keeps : ∀ s : State, (body s).pending = s.pending) : LeavesQueue s (arrive o body s) := by
  unfold arrive
  dsimp only
  split_ifs <;> simp [keeps]

@[simp] theorem discard_pending {i} : (discard i s).pending = s.pending := rfl

@[simp] theorem replayFrom_pending {i lseq} : (replayFrom i lseq s).pending = s.pending := by
  grind [replayFrom, foldl_pending, emit_pending, retrain_pending, countReplays_pending, setPort_pending]

@[simp] theorem followStep_pending {i lane} : (followStep i lane s).pending = s.pending := by simp [followStep, apply_ite State.pending]

@[simp] theorem execLink_leavesQueue {o} : LeavesQueue s (execLink o s) := by
  unfold execLink
  (repeat' split) <;> simp

@[simp] theorem execCrcFailure_leavesQueue {o} : LeavesQueue s (execCrcFailure o s) := by
  unfold execCrcFailure
  (repeat' split) <;> simp

@[simp] theorem forwardPacket_pending {p} : (forwardPacket p s).pending = s.pending := by
  grind [forwardPacket, respond_pending, sendPacket_pending]

@[simp] theorem remember_pending {p} : (remember p s).pending = s.pending := rfl

@[simp] theorem homeRead_pending {p} : (homeRead p s).pending = s.pending := by simp [homeRead, apply_ite State.pending]

@[simp] theorem homeWrite_pending {p} : (homeWrite p s).pending = s.pending := by simp [homeWrite, apply_ite State.pending]

theorem routed_leavesQueue {want o here} (keeps : ∀ s : State, (here s).pending = s.pending) :
    LeavesQueue s (routed want o here s) := by
  unfold routed
  split
  · simp
  · split
    · exact arrive_leavesQueue fun s => by (repeat' split) <;> simp [keeps]
    · split
      · exact arrive_leavesQueue fun s => by simp
      · simp

theorem execRd_leavesQueue {o} : LeavesQueue s (execRd o s) :=
  routed_leavesQueue fun s => by simp

theorem execWr_leavesQueue {o} : LeavesQueue s (execWr o s) :=
  routed_leavesQueue fun s => by simp

theorem execRdCpl_leavesQueue {o} : LeavesQueue s (execRdCpl o s) :=
  routed_leavesQueue fun s => by
    (repeat' split) <;> simp

theorem execWrAck_leavesQueue {o} : LeavesQueue s (execWrAck o s) :=
  routed_leavesQueue fun s => by
    (repeat' split) <;> simp

theorem execErrCpl_leavesQueue {o} : LeavesQueue s (execErrCpl o s) :=
  routed_leavesQueue fun s => by
    (repeat' split) <;> simp

theorem execColOpen_leavesQueue {o} : LeavesQueue s (execColOpen o s) :=
  routed_leavesQueue fun s => by
    (repeat' split) <;> simp

theorem execColData_leavesQueue {o} : LeavesQueue s (execColData o s) :=
  routed_leavesQueue fun s => by
    (repeat' split) <;> simp

theorem execColNak_leavesQueue {o} : LeavesQueue s (execColNak o s) :=
  routed_leavesQueue fun s => by
    (repeat' split) <;> simp

@[simp] theorem execRequestTimeout_leavesQueue {o} : LeavesQueue s (execRequestTimeout o s) := by
  unfold execRequestTimeout
  (repeat' split) <;> simp

/-! ### Reset -/

@[simp] theorem modFw_pending {l f} : (modFw l f s).pending = s.pending := foldl_pending (fun _ _ => by simp) _ _

@[simp] theorem measure_pending {i x} : (measure i x s).pending = s.pending := rfl

@[simp] theorem measureImage_pending {c} : (measureImage c s).pending = s.pending := rfl

@[simp] theorem measureRecords_pending : (measureRecords s).pending = s.pending := rfl

@[simp] theorem destroyKek_pending : (destroyKek s).pending = s.pending := rfl

@[simp] theorem coldState_pending : (coldState s).pending = s.pending := rfl

@[simp] theorem enterStandby_pending {fw} : (enterStandby fw s).pending = s.pending := by simp [enterStandby]

@[simp] theorem coldReset_pending : (coldReset s).pending = s.pending := rfl

@[simp] theorem enterOff_pending : (enterOff s).pending = s.pending := by simp [enterOff]

@[simp] theorem enterRising_pending : (enterRising s).pending = s.pending := rfl

@[simp] theorem stopAllCores_pending : (stopAllCores s).pending = s.pending := by simp [stopAllCores]

@[simp] theorem retireAllSlots_pending : (retireAllSlots s).pending = s.pending := by simp [retireAllSlots]

@[simp] theorem warmState_pending {kind} : (warmState kind s).pending = s.pending := by simp [warmState]

@[simp] theorem warmReset_pending {kind} : (warmReset kind s).pending = s.pending := by
  unfold warmReset
  split <;> simp

@[simp] theorem endAllDescs_pending : (endAllDescs s).pending = s.pending := by simp [endAllDescs, apply_ite State.pending]

@[simp] theorem switchOff_pending : (switchOff s).pending = s.pending := rfl

@[simp] theorem enterFaulted_pending {bits} : (enterFaulted bits s).pending = s.pending := by simp [enterFaulted, apply_ite State.pending]

@[simp] theorem forceDraining_pending {bits} : (forceDraining bits s).pending = s.pending := by
  unfold forceDraining
  split <;> simp

@[simp] theorem orderlyStop_pending {bits} : (orderlyStop bits s).pending = s.pending := by simp [orderlyStop, apply_ite State.pending]

/-! ### Life -/

@[simp] theorem startController_pending {o} : (startController o s).pending = s.pending := by
  simp [startController, apply_ite State.pending]

@[simp] theorem startAgain_pending {reached} : (startAgain reached s).pending = s.pending := by simp [startAgain]

@[simp] theorem execFacEnAssert_leavesQueue {o} : LeavesQueue s (execFacEnAssert o s) := by
  unfold execFacEnAssert
  (repeat' split) <;> simp

@[simp] theorem verifyAll_pending {o} : (verifyAll o s).pending = s.pending := by simp [verifyAll, apply_ite State.pending]

@[simp] theorem startPorts_pending : (startPorts s).pending = s.pending := by simp [startPorts, apply_ite State.pending]

@[simp] theorem loadMaps_pending : (loadMaps s).pending = s.pending := rfl

@[simp] theorem execRisingComplete_leavesQueue {o} : LeavesQueue s (execRisingComplete o s) := by
  unfold execRisingComplete
  (repeat' split) <;> simp

@[simp] theorem enterServing_pending : (enterServing s).pending = s.pending := rfl

@[simp] theorem failUnit_pending {u} : (failUnit u s).pending = s.pending := by
  unfold failUnit
  split <;> simp

@[simp] theorem substituteAll_pending : (substituteAll s).pending = s.pending := by simp [substituteAll]

@[simp] theorem selftestRound_pending {l} : (selftestRound l s).pending = s.pending := by simp [selftestRound]

@[simp] theorem execSelftestComplete_leavesQueue {o} : LeavesQueue s (execSelftestComplete o s) := by
  unfold execSelftestComplete
  split
  · simp
  · split
    · simp
    · rw [leavesQueue_next]
      generalize tests : modFw computeFw Firmware.reached _ = t
      have kept : t.pending = s.pending := by
        rw [← tests, modFw_pending, foldl_flip_pending (f := selftestRound) fun _ _ => selftestRound_pending,
          substituteAll_pending]
      split <;> simp [kept]

@[simp] theorem perform_pending {n} : (perform n s).pending = s.pending := by
  unfold perform
  split <;> simp

@[simp] theorem command_pending {n f} : (command n f s).pending = s.pending := by simp [command, apply_ite State.pending]

@[simp] theorem writeModCmd_pending {v} : (writeModCmd v s).pending = s.pending := by simp [writeModCmd, apply_ite State.pending]

@[simp] theorem driveAlert_pending : (driveAlert s).pending = s.pending := rfl

@[simp] theorem facilityLimit_pending : (facilityLimit s).pending = s.pending := by
  unfold facilityLimit
  split <;> simp

@[simp] theorem execInputLimit_leavesQueue {o} : LeavesQueue s (execInputLimit o s) := by
  unfold execInputLimit
  (repeat' split) <;> simp

@[simp] theorem overTemp_pending {t} : (overTemp t s).pending = s.pending := by
  unfold overTemp
  split <;> simp

@[simp] theorem execTileOvertemp_leavesQueue {o} : LeavesQueue s (execTileOvertemp o s) := by
  unfold execTileOvertemp
  split <;> simp

@[simp] theorem restartController_pending {mismatch} : (restartController mismatch s).pending = s.pending := by
  unfold restartController
  split <;> rfl

@[simp] theorem execLockstepMismatch_leavesQueue : LeavesQueue s (execLockstepMismatch s) := by
  unfold execLockstepMismatch
  split <;> simp

@[simp] theorem execFatalError_leavesQueue {o} : LeavesQueue s (execFatalError o s) := by
  unfold execFatalError
  (repeat' split) <;> simp

@[simp] theorem hostReadError_pending {q poisoned} : (hostReadError q poisoned s).pending = s.pending := by
  unfold hostReadError
  split <;> simp

@[simp] theorem execHostRequestError_leavesQueue {o} : LeavesQueue s (execHostRequestError o s) := by
  unfold execHostRequestError
  (repeat' split) <;> simp

@[simp] theorem failBind_pending {b} : (failBind b s).pending = s.pending := foldl_pending (fun _ _ => by simp) _ _

@[simp] theorem coreError_pending {c file} : (coreError c file s).pending = s.pending := by simp [coreError]

@[simp] theorem descError_pending {r d pa} : (descError r d pa s).pending = s.pending := by
  unfold descError
  (repeat' split) <;> simp

@[simp] theorem dataStoreError_pending {c word} : (dataStoreError c word s).pending = s.pending := rfl

@[simp] theorem instrStoreError_pending {c word} : (instrStoreError c word s).pending = s.pending := rfl

@[simp] theorem sectorError_pending {t line} : (sectorError t line s).pending = s.pending := by
  unfold sectorError
  split <;> rfl

@[simp] theorem residueError_pending {c a row acc} : (residueError c a row acc s).pending = s.pending := by
  unfold residueError
  split <;> simp

@[simp] theorem boreLaneError_pending {ch lane second} : (boreLaneError ch lane second s).pending = s.pending := by
  simp [boreLaneError, apply_ite State.pending]

@[simp] theorem execHwError_leavesQueue {o} : LeavesQueue s (execHwError o s) := by
  unfold execHwError
  (repeat' split) <;> simp
end

end Sys2Proof.Machine
end

section
/-!
PROOFS. The queue, what leaves it as it is: breaths, spares, the queues of the engines, management and registers.
-/

namespace Sys2Proof.Machine

section
variable {s : State}

/-! ### Breath -/

@[simp] theorem startStep_pending {len g} : (startStep len g s).pending = s.pending := by simp [startStep, apply_ite State.pending]

@[simp] theorem admitNamed_pending : (admitNamed s).pending = s.pending := rfl

@[simp] theorem beatAlarm_pending : (beatAlarm s).pending = s.pending := rfl

@[simp] theorem sample_pending {l} : (sample l s).pending = s.pending := rfl

theorem reached_pending {x} (keeps : LeavesQueue s x) : (reached x s).pending = s.pending := by
  cases x with
  | next t => exact keeps t rfl
  | fault => rfl
  | refused => rfl

@[simp] theorem startAt_pending {r record} : (startAt r record s).pending = s.pending := by
  grind [startAt, reached_pending, execNop_leavesQueue, execLaunch_leavesQueue, execMove_leavesQueue, execFill_leavesQueue,
    execCollect_leavesQueue, execUpdate_leavesQueue, execDrain_leavesQueue, execLogmarkAuto_leavesQueue, execLogmark_leavesQueue,
    execInv_leavesQueue, execBind_leavesQueue, execUnbind_leavesQueue, execRetireOnly_leavesQueue, execRekey_leavesQueue,
    execDescriptorFence_leavesQueue, execRestore_leavesQueue, execProbe_leavesQueue]

@[simp] theorem startNamed_pending {n records} : (startNamed n records s).pending = s.pending := by
  induction n generalizing records s with
  | zero => rfl
  | succ n ih => grind [startNamed, startAt_pending]

@[simp] theorem forgetNames_pending : (forgetNames s).pending = s.pending := rfl

@[simp] theorem revertSteps_pending : (revertSteps s).pending = s.pending := by simp [revertSteps]

@[simp] theorem execBreathOpen_leavesQueue {o} : LeavesQueue s (execBreathOpen o s) := by
  simp only [execBreathOpen]
  (repeat' split) <;> simp

@[simp] theorem failCalLane_pending {kind group lane} : (failCalLane kind group lane s).pending = s.pending := by
  unfold failCalLane
  (repeat' split) <;> simp

@[simp] theorem driftAlarm_pending {lane o} : (driftAlarm lane o s).pending = s.pending := by simp [driftAlarm]

@[simp] theorem execCalStepDone_leavesQueue {o} : LeavesQueue s (execCalStepDone o s) := by
  simp only [execCalStepDone]
  (repeat' split) <;> simp

@[simp] theorem writeCalCtl_pending {v} : (writeCalCtl v s).pending = s.pending := rfl

/-! ### Faults -/

@[simp] theorem writeBatch_pending {b} : (writeBatch b s).pending = s.pending := by simp [writeBatch]

@[simp] theorem clearWrErr_pending {b} : (clearWrErr b s).pending = s.pending := rfl

@[simp] theorem writeFqStatus_pending {b v} : (writeFqStatus b v s).pending = s.pending := by
  unfold writeFqStatus
  split <;> rfl

@[simp] theorem writeFqHead_pending {b h} : (writeFqHead b h s).pending = s.pending := rfl

@[simp] theorem writeXlatCfg_pending {b f} : (writeXlatCfg b f s).pending = s.pending := by
  unfold writeXlatCfg
  split <;> rfl

@[simp] theorem writeXlat1_pending {b off wide v} : (writeXlat1 b off wide v s).pending = s.pending := by
  unfold writeXlat1
  split <;> simp

@[simp] theorem writeXlat_pending {b off wide v} : (writeXlat b off wide v s).pending = s.pending := by
  simp [writeXlat, apply_ite State.pending]

/-! ### VectorQueue -/

@[simp] theorem pushV_pending {c i} : (pushV c i s).pending = s.pending := by simp [pushV]

@[simp] theorem enqueueV_leavesQueue {c t bad zero gs mk} : LeavesQueue s (enqueueV c t bad zero gs mk s) := by
  grind [LeavesQueue, enqueueV, issue_leavesQueue, pushV_pending]

@[simp] theorem vS_leavesQueue {o op} : LeavesQueue s (vS o op s) := by simp [vS]

@[simp] theorem vUnary_leavesQueue {o op} : LeavesQueue s (vUnary o op s) := by simp [vUnary]

@[simp] theorem vCompare_leavesQueue {o op} : LeavesQueue s (vCompare o op s) := by simp [vCompare]

@[simp] theorem vClip_leavesQueue {o op} : LeavesQueue s (vClip o op s) := by simp [vClip]

@[simp] theorem vMove_leavesQueue {o op zero gs} : LeavesQueue s (vMove o op zero gs s) := by simp [vMove]

@[simp] theorem vSlideImm_leavesQueue {o op} : LeavesQueue s (vSlideImm o op s) := by simp [vSlideImm]

@[simp] theorem vLogic_leavesQueue {o op zero} : LeavesQueue s (vLogic o op zero s) := by simp [vLogic]

@[simp] theorem vSummary_leavesQueue {o op} : LeavesQueue s (vSummary o op s) := by simp [vSummary]

@[simp] theorem vFused_leavesQueue {o op} : LeavesQueue s (vFused o op s) := by simp [vFused]

@[simp] theorem vScan_leavesQueue {o op} : LeavesQueue s (vScan o op s) := by simp [vScan]

/-! ### MatrixQueue -/

@[simp] theorem retireLong_pending {c} : (retireLong c s).pending = s.pending := by simp [retireLong, apply_ite State.pending]

@[simp] theorem pushM_pending {c i} : (pushM c i s).pending = s.pending := by simp [pushM]

theorem shapeFault_pending {c shape mask} {f : State → State} (h : shapeFault c shape mask s = some f) (u : State) :
    (f u).pending = u.pending := by
  unfold shapeFault at h
  dsimp only at h
  split at h
  · cases h
    exact parityFault_pending
  · split at h
    · cases h
      exact raise_pending
    · cases h

@[simp] theorem enqueueM_leavesQueue {c t zero noArray shape mask gs mk} :
    LeavesQueue s (enqueueM c t zero noArray shape mask gs mk s) := by
  unfold enqueueM
  dsimp only
  generalize Option.map _ _ = bad
  generalize second : (if bad.isSome then none else shapeFault c shape mask s) = f
  split
  · simp
  · refine issueWith_leavesQueue (fun g found u => ?_) fun u => by simp
    rw [← second] at found
    split at found
    · cases found
    · exact shapeFault_pending found u

@[simp] theorem tileMove_leavesQueue {o op} : LeavesQueue s (tileMove o op s) := by simp [tileMove]

@[simp] theorem execTldg_leavesQueue {o} : LeavesQueue s (execTldg o s) := by simp [execTldg]

@[simp] theorem execTzero_leavesQueue {o} : LeavesQueue s (execTzero o s) := by simp [execTzero]

@[simp] theorem execTtag_leavesQueue {o} : LeavesQueue s (execTtag o s) := by simp [execTtag]

@[simp] theorem execMma_leavesQueue {o} : LeavesQueue s (execMma o s) := by simp [execMma]

@[simp] theorem execWload_leavesQueue {o} : LeavesQueue s (execWload o s) := by simp [execWload]

@[simp] theorem xMove_leavesQueue {o op} : LeavesQueue s (xMove o op s) := by simp [xMove]

@[simp] theorem accMove_leavesQueue {o op zero mask} : LeavesQueue s (accMove o op zero mask s) := by simp [accMove]

/-! ### Mgmt -/

@[simp] theorem deliverOut_pending : (deliverOut s).pending = s.pending := by
  simp only [deliverOut]
  (repeat' split) <;> simp

@[simp] theorem writeMbIn_pending {off l} : (writeMbIn off l s).pending = s.pending := rfl

@[simp] theorem ackOut_pending : (ackOut s).pending = s.pending := by
  unfold ackOut
  split <;> simp

@[simp] theorem writeMbCtl_pending {v} : (writeMbCtl v s).pending = s.pending := by
  unfold writeMbCtl
  split <;> simp

@[simp] theorem queueEvent_pending {m} : (queueEvent m s).pending = s.pending := by
  unfold queueEvent
  split <;> simp

@[simp] theorem execMbResponse_leavesQueue {o} : LeavesQueue s (execMbResponse o s) := by
  unfold execMbResponse
  (repeat' split) <;> simp

@[simp] theorem execControllerRestartDone_leavesQueue : LeavesQueue s (execControllerRestartDone s) := by
  simp only [execControllerRestartDone]
  (repeat' split) <;> simp

@[simp] theorem execFirmwareImage_leavesQueue {o} : LeavesQueue s (execFirmwareImage o s) := by
  simp only [execFirmwareImage]
  (repeat' split) <;> simp

@[simp] theorem portsFollowId_pending : (portsFollowId s).pending = s.pending :=
  foldl_pending (fun s a => by grind [modPort_pending, leaveUp_pending]) _ _

@[simp] theorem unpairNow_pending : (unpairNow s).pending = s.pending := by simp [unpairNow]

@[simp] theorem refusePairing_pending : (refusePairing s).pending = s.pending := rfl

@[simp] theorem execPair_leavesQueue {o} : LeavesQueue s (execPair o s) := by
  unfold execPair
  (repeat' split) <;> simp

@[simp] theorem execUnpair_leavesQueue : LeavesQueue s (execUnpair s) := by
  unfold execUnpair
  (repeat' split) <;> simp

@[simp] theorem execLldpdu_leavesQueue {o} : LeavesQueue s (execLldpdu o s) := by
  simp only [execLldpdu]
  (repeat' split) <;> simp

@[simp] theorem answerSpdm_leavesQueue {name} : LeavesQueue s (answerSpdm name s) := by
  unfold answerSpdm
  split <;> simp

@[simp] theorem execGetCertificate_leavesQueue : LeavesQueue s (execGetCertificate s) := by
  unfold execGetCertificate
  split
  · exact answerSpdm_leavesQueue.of_eq (emit_pending ..)
  · exact answerSpdm_leavesQueue

@[simp] theorem execGetMeasurements_leavesQueue : LeavesQueue s (execGetMeasurements s) := by
  unfold execGetMeasurements
  split
  · exact answerSpdm_leavesQueue.of_eq (emit_pending ..)
  · exact answerSpdm_leavesQueue

@[simp] theorem execFinish_leavesQueue : LeavesQueue s (execFinish s) := by
  unfold execFinish
  (repeat' split) <;> simp

@[simp] theorem execEndSession_leavesQueue : LeavesQueue s (execEndSession s) := by
  unfold execEndSession
  (repeat' split) <;> simp

@[simp] theorem execSetKek_leavesQueue {o} : LeavesQueue s (execSetKek o s) := by
  unfold execSetKek
  (repeat' split) <;> simp

/-! ### Queues -/

@[simp] theorem execInterruptEntry_leavesQueue {o} : LeavesQueue s (execInterruptEntry o s) := by
  grind [LeavesQueue, execInterruptEntry, takeOwed_pending, takeException_pending, tookCause_pending, clearSource_pending]

@[simp] theorem nmiThread_pending {c t} : (nmiThread c t s).pending = s.pending := by simp [nmiThread, apply_ite State.pending]

@[simp] theorem execQueuedCauseEntry_leavesQueue {o} : LeavesQueue s (execQueuedCauseEntry o s) := by
  grind [LeavesQueue, execQueuedCauseEntry, takeOwed_pending, takeException_pending, tookCause_pending, modCore_pending]

@[simp] theorem execQueuedComplete_leavesQueue {o} : LeavesQueue s (execQueuedComplete o s) := by
  unfold execQueuedComplete
  split <;> simp

/-! ### Regs -/

@[simp] theorem execBar4Read_leavesQueue {o} : LeavesQueue s (execBar4Read o s) := by
  simp only [execBar4Read]
  (repeat' split) <;> simp

@[simp] theorem writeBar4Win_pending {v wide high} : (writeBar4Win v wide high s).pending = s.pending := by simp [writeBar4Win]

@[simp] theorem freezeCounters_pending : (freezeCounters s).pending = s.pending := rfl

@[simp] theorem clearCounters_pending : (clearCounters s).pending = s.pending := rfl

@[simp] theorem writePerfCtl_pending {v} : (writePerfCtl v s).pending = s.pending := by simp [writePerfCtl, apply_ite State.pending]

@[simp] theorem writePerfSel_pending {n v} : (writePerfSel n v s).pending = s.pending := rfl

@[simp] theorem writePerfCnt_pending {n v wide high events} : (writePerfCnt n v wide high events s).pending = s.pending := rfl

@[simp] theorem writeSqBase_pending {r v wide high} : (writeSqBase r v wide high s).pending = s.pending := rfl

@[simp] theorem writeCqBase_pending {c v wide high} : (writeCqBase c v wide high s).pending = s.pending := rfl

@[simp] theorem writeErrBase_pending {v wide high} : (writeErrBase v wide high s).pending = s.pending := rfl

@[simp] theorem writeCalSel_pending {v} : (writeCalSel v s).pending = s.pending := rfl

@[simp] theorem clearW1c_pending {off v} : (clearW1c off v s).pending = s.pending := by simp [clearW1c, apply_ite State.pending]

@[simp] theorem writeAlways_pending {off v} : (writeAlways off v s).pending = s.pending := by simp [writeAlways, apply_ite State.pending]

@[simp] theorem writeArray_pending {off v} : (writeArray off v s).pending = s.pending := by
  grind [writeArray, writePortCtl_pending, writeSqBase_pending, writeSqCfg_pending, modRing_pending, writeCqBase_pending,
    writeCqCfg_pending, writePerfSel_pending, writePerfCnt_pending]

@[simp] theorem writeOrdinary_pending {off v} : (writeOrdinary off v s).pending = s.pending := by
  simp [writeOrdinary, apply_ite State.pending]

@[simp] theorem write32_pending {off v} : (write32 off v s).pending = s.pending := by simp [write32, apply_ite State.pending]

@[simp] theorem write64_pending {off v} : (write64 off v s).pending = s.pending := by simp [write64, apply_ite State.pending]

@[simp] theorem writeBar0_pending {off size v} : (writeBar0 off size v s).pending = s.pending := by
  simp [writeBar0, apply_ite State.pending]

@[simp] theorem writeBar2_pending {off size v} : (writeBar2 off size v s).pending = s.pending := by
  simp [writeBar2, apply_ite State.pending]

@[simp] theorem writeBarSize_pending {v} : (writeBarSize v s).pending = s.pending := by
  unfold writeBarSize
  split <;> rfl

@[simp] theorem writePowerState_pending {v} : (writePowerState v s).pending = s.pending := rfl

@[simp] theorem execRegWrite_leavesQueue {o} : LeavesQueue s (execRegWrite o s) := by
  unfold execRegWrite
  (repeat' split) <;> simp

/-! ### ScalarFp -/

@[simp] theorem fpTwo_leavesQueue {o f} : LeavesQueue s (fpTwo o f s) := issue_leavesQueue fun s => by simp

@[simp] theorem fpTest_leavesQueue {o x} : LeavesQueue s (fpTest o x s) := issue_leavesQueue fun s => by simp

@[simp] theorem fpFused_leavesQueue {o np nc} : LeavesQueue s (fpFused o np nc s) := issue_leavesQueue fun s => by simp

@[simp] theorem fpConvert_leavesQueue {o src} : LeavesQueue s (fpConvert o src s) := issue_leavesQueue fun s => by simp

@[simp] theorem fpToInt_leavesQueue {o signed} : LeavesQueue s (fpToInt o signed s) := issue_leavesQueue fun s => by simp

@[simp] theorem fpFromInt_leavesQueue {o signed} : LeavesQueue s (fpFromInt o signed s) := issue_leavesQueue fun s => by simp

@[simp] theorem execFsqrt_leavesQueue {o} : LeavesQueue s (execFsqrt o s) := issue_leavesQueue fun s => by simp

@[simp] theorem execFmin_leavesQueue {o} : LeavesQueue s (execFmin o s) := by simp [execFmin]

@[simp] theorem execFmax_leavesQueue {o} : LeavesQueue s (execFmax o s) := by simp [execFmax]

@[simp] theorem execFsgnj_leavesQueue {o} : LeavesQueue s (execFsgnj o s) := by simp [execFsgnj]

@[simp] theorem execFclass_leavesQueue {o} : LeavesQueue s (execFclass o s) := issue_leavesQueue fun s => by simp

@[simp] theorem execFmvGf_leavesQueue {o} : LeavesQueue s (execFmvGf o s) := issue_leavesQueue fun s => by simp

@[simp] theorem execFmvFg_leavesQueue {o} : LeavesQueue s (execFmvFg o s) := issue_leavesQueue fun s => by simp

/-! ### Step -/

@[simp] theorem State.withFetchWord_pending {nbits w} : (State.withFetchWord s nbits w).pending = s.pending := rfl
end

end Sys2Proof.Machine
end

section
/-!
PROOFS. No command touches the queue, and what a step does (O57).
-/

namespace Sys2Proof.Machine

/-- No command touches the queue: it is the machine's input, from which a step alone takes (notes/assumptions/1.md). -/
theorem exec_leavesQueue : ∀ (c : Instr) (s : State), LeavesQueue s (exec c s)
  | .add o, s => show LeavesQueue s (execAdd o s) from aluReg_leavesQueue
  | .sub o, s => show LeavesQueue s (execSub o s) from aluReg_leavesQueue
  | .and o, s => show LeavesQueue s (execAnd o s) from aluReg_leavesQueue
  | .or o, s => show LeavesQueue s (execOr o s) from aluReg_leavesQueue
  | .xor o, s => show LeavesQueue s (execXor o s) from aluReg_leavesQueue
  | .sll o, s => show LeavesQueue s (execSll o s) from execSll_leavesQueue
  | .srl o, s => show LeavesQueue s (execSrl o s) from execSrl_leavesQueue
  | .sra o, s => show LeavesQueue s (execSra o s) from execSra_leavesQueue
  | .slt o, s => show LeavesQueue s (execSlt o s) from execSlt_leavesQueue
  | .sltu o, s => show LeavesQueue s (execSltu o s) from execSltu_leavesQueue
  | .mul o, s => show LeavesQueue s (execMul o s) from aluReg_leavesQueue
  | .mulh o, s => show LeavesQueue s (execMulh o s) from execMulh_leavesQueue
  | .mulhu o, s => show LeavesQueue s (execMulhu o s) from execMulhu_leavesQueue
  | .div o, s => show LeavesQueue s (execDiv o s) from execDiv_leavesQueue
  | .divu o, s => show LeavesQueue s (execDivu o s) from execDivu_leavesQueue
  | .rem o, s => show LeavesQueue s (execRem o s) from execRem_leavesQueue
  | .remu o, s => show LeavesQueue s (execRemu o s) from execRemu_leavesQueue
  | .addi o, s => show LeavesQueue s (execAddi o s) from execAddi_leavesQueue
  | .andi o, s => show LeavesQueue s (execAndi o s) from execAndi_leavesQueue
  | .ori o, s => show LeavesQueue s (execOri o s) from execOri_leavesQueue
  | .xori o, s => show LeavesQueue s (execXori o s) from execXori_leavesQueue
  | .slti o, s => show LeavesQueue s (execSlti o s) from execSlti_leavesQueue
  | .sltiu o, s => show LeavesQueue s (execSltiu o s) from execSltiu_leavesQueue
  | .slli o, s => show LeavesQueue s (execSlli o s) from execSlli_leavesQueue
  | .srli o, s => show LeavesQueue s (execSrli o s) from execSrli_leavesQueue
  | .srai o, s => show LeavesQueue s (execSrai o s) from execSrai_leavesQueue
  | .lui o, s => show LeavesQueue s (execLui o s) from execLui_leavesQueue
  | .ld o, s => show LeavesQueue s (execLd o s) from execLd_leavesQueue
  | .st o, s => show LeavesQueue s (execSt o s) from execSt_leavesQueue
  | .ldx o, s => show LeavesQueue s (execLdx o s) from issue_leavesQueue fun _ => attemptLdx_pending
  | .stx o, s => show LeavesQueue s (execStx o s) from issue_leavesQueue fun _ => attemptStx_pending
  | .span o, s => show LeavesQueue s (execSpan o s) from execSpan_leavesQueue
  | .spanr o, s => show LeavesQueue s (execSpanr o s) from execSpanr_leavesQueue
  | .beq o, s => show LeavesQueue s (execBeq o s) from branchIf_leavesQueue
  | .bne o, s => show LeavesQueue s (execBne o s) from branchIf_leavesQueue
  | .jalr o, s => show LeavesQueue s (execJalr o s) from execJalr_leavesQueue
  | .jal o, s => show LeavesQueue s (execJal o s) from execJal_leavesQueue
  | .fadd o, s => show LeavesQueue s (execFadd o s) from fpTwo_leavesQueue
  | .fsub o, s => show LeavesQueue s (execFsub o s) from fpTwo_leavesQueue
  | .fmul o, s => show LeavesQueue s (execFmul o s) from fpTwo_leavesQueue
  | .fdiv o, s => show LeavesQueue s (execFdiv o s) from fpTwo_leavesQueue
  | .fsqrt o, s => show LeavesQueue s (execFsqrt o s) from execFsqrt_leavesQueue
  | .fmin o, s => show LeavesQueue s (execFmin o s) from execFmin_leavesQueue
  | .fmax o, s => show LeavesQueue s (execFmax o s) from execFmax_leavesQueue
  | .fsgnj o, s => show LeavesQueue s (execFsgnj o s) from execFsgnj_leavesQueue
  | .feq o, s => show LeavesQueue s (execFeq o s) from fpTest_leavesQueue
  | .flt o, s => show LeavesQueue s (execFlt o s) from fpTest_leavesQueue
  | .fle o, s => show LeavesQueue s (execFle o s) from fpTest_leavesQueue
  | .fclass o, s => show LeavesQueue s (execFclass o s) from execFclass_leavesQueue
  | .fmadd o, s => show LeavesQueue s (execFmadd o s) from fpFused_leavesQueue
  | .fmsub o, s => show LeavesQueue s (execFmsub o s) from fpFused_leavesQueue
  | .fnmadd o, s => show LeavesQueue s (execFnmadd o s) from fpFused_leavesQueue
  | .fnmsub o, s => show LeavesQueue s (execFnmsub o s) from fpFused_leavesQueue
  | .fcvtDS o, s => show LeavesQueue s (execFcvtDS o s) from fpConvert_leavesQueue
  | .fcvtSD o, s => show LeavesQueue s (execFcvtSD o s) from fpConvert_leavesQueue
  | .fcvtW o, s => show LeavesQueue s (execFcvtW o s) from fpToInt_leavesQueue
  | .fcvtWu o, s => show LeavesQueue s (execFcvtWu o s) from fpToInt_leavesQueue
  | .fcvtFw o, s => show LeavesQueue s (execFcvtFw o s) from fpFromInt_leavesQueue
  | .fcvtFwu o, s => show LeavesQueue s (execFcvtFwu o s) from fpFromInt_leavesQueue
  | .fmvGf o, s => show LeavesQueue s (execFmvGf o s) from execFmvGf_leavesQueue
  | .fmvFg o, s => show LeavesQueue s (execFmvFg o s) from execFmvFg_leavesQueue
  | .loop o, s => show LeavesQueue s (execLoop o s) from execLoop_leavesQueue
  | .lrW o, s => show LeavesQueue s (execLrW o s) from execLrW_leavesQueue
  | .scW o, s => show LeavesQueue s (execScW o s) from execScW_leavesQueue
  | .lrxW o, s => show LeavesQueue s (execLrxW o s) from issue_leavesQueue fun _ => attemptLrx_pending
  | .scxW o, s => show LeavesQueue s (execScxW o s) from issue_leavesQueue fun _ => attemptScx_pending
  | .trap o, s => show LeavesQueue s (execTrap o s) from execTrap_leavesQueue
  | .eret o, s => show LeavesQueue s (execEret o s) from execEret_leavesQueue
  | .fence o, s => show LeavesQueue s (execFence o s) from execFence_leavesQueue
  | .fenceG o, s => show LeavesQueue s (execFenceG o s) from execFenceG_leavesQueue
  | .ifence o, s => show LeavesQueue s (execIfence o s) from execIfence_leavesQueue
  | .patch o, s => show LeavesQueue s (execPatch o s) from execPatch_leavesQueue
  | .csrr o, s => show LeavesQueue s (execCsrr o s) from execCsrr_leavesQueue
  | .csrw o, s => show LeavesQueue s (execCsrw o s) from execCsrw_leavesQueue
  | .csrs o, s => show LeavesQueue s (execCsrs o s) from csrModify_leavesQueue
  | .csrc o, s => show LeavesQueue s (execCsrc o s) from execCsrc_leavesQueue
  | .wait o, s => show LeavesQueue s (execWait o s) from execWait_leavesQueue
  | .waitWake o, s => show LeavesQueue s (execWaitWake o s) from leavesQueue_nextIf rfl
  | .threadRun o, s => show LeavesQueue s (execThreadRun o s) from leavesQueue_next.2 writeThreadRun_pending
  | .threadStop o, s => show LeavesQueue s (execThreadStop o s) from leavesQueue_next.2 writeThreadStop_pending
  | .swi o, s => show LeavesQueue s (execSwi o s) from leavesQueue_next.2 writeSwi_pending
  | .swiClr o, s => show LeavesQueue s (execSwiClr o s) from leavesQueue_next.2 writeSwiClr_pending
  | .interruptEntry o, s => show LeavesQueue s (execInterruptEntry o s) from execInterruptEntry_leavesQueue
  | .nmiEntry o, s => show LeavesQueue s (execNmiEntry o s) from leavesQueue_next.2 (by simp)
  | .queuedCauseEntry o, s => show LeavesQueue s (execQueuedCauseEntry o s) from execQueuedCauseEntry_leavesQueue
  | .vectorStart o, s => show LeavesQueue s (execVectorStart o s) from leavesQueue_next.2 startVector_pending
  | .matrixStart o, s => show LeavesQueue s (execMatrixStart o s) from leavesQueue_next.2 startMatrix_pending
  | .queuedComplete o, s => show LeavesQueue s (execQueuedComplete o s) from execQueuedComplete_leavesQueue
  | .vfadd o, s => show LeavesQueue s (execVfadd o s) from vS_leavesQueue
  | .vfsub o, s => show LeavesQueue s (execVfsub o s) from vS_leavesQueue
  | .vfmul o, s => show LeavesQueue s (execVfmul o s) from vS_leavesQueue
  | .vfmin o, s => show LeavesQueue s (execVfmin o s) from vS_leavesQueue
  | .vfmax o, s => show LeavesQueue s (execVfmax o s) from vS_leavesQueue
  | .vfsgnj o, s => show LeavesQueue s (execVfsgnj o s) from vS_leavesQueue
  | .vadd2 o, s => show LeavesQueue s (execVadd2 o s) from vS_leavesQueue
  | .vfexp o, s => show LeavesQueue s (execVfexp o s) from vUnary_leavesQueue
  | .vflog o, s => show LeavesQueue s (execVflog o s) from vUnary_leavesQueue
  | .vfsin o, s => show LeavesQueue s (execVfsin o s) from vUnary_leavesQueue
  | .vfcos o, s => show LeavesQueue s (execVfcos o s) from vUnary_leavesQueue
  | .vfrsqrt o, s => show LeavesQueue s (execVfrsqrt o s) from vUnary_leavesQueue
  | .vfrcp o, s => show LeavesQueue s (execVfrcp o s) from vUnary_leavesQueue
  | .vcvt o, s => show LeavesQueue s (execVcvt o s) from vUnary_leavesQueue
  | .vfma o, s => show LeavesQueue s (execVfma o s) from vFused_leavesQueue
  | .vfms o, s => show LeavesQueue s (execVfms o s) from vFused_leavesQueue
  | .vfnma o, s => show LeavesQueue s (execVfnma o s) from vFused_leavesQueue
  | .vfnms o, s => show LeavesQueue s (execVfnms o s) from vFused_leavesQueue
  | .vfma2 o, s => show LeavesQueue s (execVfma2 o s) from vFused_leavesQueue
  | .vadd o, s => show LeavesQueue s (execVadd o s) from vS_leavesQueue
  | .vsub o, s => show LeavesQueue s (execVsub o s) from vS_leavesQueue
  | .vmul o, s => show LeavesQueue s (execVmul o s) from vS_leavesQueue
  | .vmulh o, s => show LeavesQueue s (execVmulh o s) from vS_leavesQueue
  | .vmulhu o, s => show LeavesQueue s (execVmulhu o s) from vS_leavesQueue
  | .vand o, s => show LeavesQueue s (execVand o s) from vS_leavesQueue
  | .vor o, s => show LeavesQueue s (execVor o s) from vS_leavesQueue
  | .vxor o, s => show LeavesQueue s (execVxor o s) from vS_leavesQueue
  | .vsll o, s => show LeavesQueue s (execVsll o s) from vS_leavesQueue
  | .vsrl o, s => show LeavesQueue s (execVsrl o s) from vS_leavesQueue
  | .vsra o, s => show LeavesQueue s (execVsra o s) from vS_leavesQueue
  | .vmin o, s => show LeavesQueue s (execVmin o s) from vS_leavesQueue
  | .vmax o, s => show LeavesQueue s (execVmax o s) from vS_leavesQueue
  | .vminu o, s => show LeavesQueue s (execVminu o s) from vS_leavesQueue
  | .vmaxu o, s => show LeavesQueue s (execVmaxu o s) from vS_leavesQueue
  | .vmerge o, s => show LeavesQueue s (execVmerge o s) from vS_leavesQueue
  | .vsadd o, s => show LeavesQueue s (execVsadd o s) from vS_leavesQueue
  | .vsaddu o, s => show LeavesQueue s (execVsaddu o s) from vS_leavesQueue
  | .vssub o, s => show LeavesQueue s (execVssub o s) from vS_leavesQueue
  | .vssubu o, s => show LeavesQueue s (execVssubu o s) from vS_leavesQueue
  | .vaadd o, s => show LeavesQueue s (execVaadd o s) from vS_leavesQueue
  | .vaaddu o, s => show LeavesQueue s (execVaaddu o s) from vS_leavesQueue
  | .vasub o, s => show LeavesQueue s (execVasub o s) from vS_leavesQueue
  | .vsmul o, s => show LeavesQueue s (execVsmul o s) from vS_leavesQueue
  | .vssrl o, s => show LeavesQueue s (execVssrl o s) from vS_leavesQueue
  | .vssra o, s => show LeavesQueue s (execVssra o s) from vS_leavesQueue
  | .vnclip o, s => show LeavesQueue s (execVnclip o s) from vClip_leavesQueue
  | .vnclipu o, s => show LeavesQueue s (execVnclipu o s) from vClip_leavesQueue
  | .vceq o, s => show LeavesQueue s (execVceq o s) from vCompare_leavesQueue
  | .vcne o, s => show LeavesQueue s (execVcne o s) from vCompare_leavesQueue
  | .vclt o, s => show LeavesQueue s (execVclt o s) from vCompare_leavesQueue
  | .vcle o, s => show LeavesQueue s (execVcle o s) from vCompare_leavesQueue
  | .vcltu o, s => show LeavesQueue s (execVcltu o s) from vCompare_leavesQueue
  | .vcleu o, s => show LeavesQueue s (execVcleu o s) from vCompare_leavesQueue
  | .vfceq o, s => show LeavesQueue s (execVfceq o s) from vCompare_leavesQueue
  | .vfclt o, s => show LeavesQueue s (execVfclt o s) from vCompare_leavesQueue
  | .vfcle o, s => show LeavesQueue s (execVfcle o s) from vCompare_leavesQueue
  | .vfcun o, s => show LeavesQueue s (execVfcun o s) from vCompare_leavesQueue
  | .vslideup o, s => show LeavesQueue s (execVslideup o s) from vMove_leavesQueue
  | .vslidedn o, s => show LeavesQueue s (execVslidedn o s) from vMove_leavesQueue
  | .vslideupi o, s => show LeavesQueue s (execVslideupi o s) from vSlideImm_leavesQueue
  | .vslidedni o, s => show LeavesQueue s (execVslidedni o s) from vSlideImm_leavesQueue
  | .vcompress o, s => show LeavesQueue s (execVcompress o s) from vMove_leavesQueue
  | .vbcast o, s => show LeavesQueue s (execVbcast o s) from vMove_leavesQueue
  | .vbcastf o, s => show LeavesQueue s (execVbcastf o s) from vMove_leavesQueue
  | .vinsert o, s => show LeavesQueue s (execVinsert o s) from vMove_leavesQueue
  | .vinsertf o, s => show LeavesQueue s (execVinsertf o s) from vMove_leavesQueue
  | .vscani o, s => show LeavesQueue s (execVscani o s) from vScan_leavesQueue
  | .vscanx o, s => show LeavesQueue s (execVscanx o s) from vScan_leavesQueue
  | .vsscani o, s => show LeavesQueue s (execVsscani o s) from vScan_leavesQueue
  | .vsscanx o, s => show LeavesQueue s (execVsscanx o s) from vScan_leavesQueue
  | .vscan2 o, s => show LeavesQueue s (execVscan2 o s) from vScan_leavesQueue
  | .vrsum o, s => show LeavesQueue s (execVrsum o s) from enqueueV_leavesQueue
  | .pand o, s => show LeavesQueue s (execPand o s) from vLogic_leavesQueue
  | .por o, s => show LeavesQueue s (execPor o s) from vLogic_leavesQueue
  | .pxor o, s => show LeavesQueue s (execPxor o s) from vLogic_leavesQueue
  | .pandn o, s => show LeavesQueue s (execPandn o s) from vLogic_leavesQueue
  | .pnot o, s => show LeavesQueue s (execPnot o s) from vLogic_leavesQueue
  | .vpcount o, s => show LeavesQueue s (execVpcount o s) from vSummary_leavesQueue
  | .vpany o, s => show LeavesQueue s (execVpany o s) from vSummary_leavesQueue
  | .vpall o, s => show LeavesQueue s (execVpall o s) from vSummary_leavesQueue
  | .vpfirst o, s => show LeavesQueue s (execVpfirst o s) from vSummary_leavesQueue
  | .vextract o, s => show LeavesQueue s (execVextract o s) from vMove_leavesQueue
  | .vextractf o, s => show LeavesQueue s (execVextractf o s) from vMove_leavesQueue
  | .vld o, s => show LeavesQueue s (execVld o s) from enqueueV_leavesQueue
  | .vst o, s => show LeavesQueue s (execVst o s) from enqueueV_leavesQueue
  | .tld o, s => show LeavesQueue s (execTld o s) from tileMove_leavesQueue
  | .tst o, s => show LeavesQueue s (execTst o s) from tileMove_leavesQueue
  | .tldg o, s => show LeavesQueue s (execTldg o s) from execTldg_leavesQueue
  | .tlds o, s => show LeavesQueue s (execTlds o s) from tileMove_leavesQueue
  | .tsts o, s => show LeavesQueue s (execTsts o s) from tileMove_leavesQueue
  | .tzero o, s => show LeavesQueue s (execTzero o s) from execTzero_leavesQueue
  | .ttag o, s => show LeavesQueue s (execTtag o s) from execTtag_leavesQueue
  | .mma o, s => show LeavesQueue s (execMma o s) from execMma_leavesQueue
  | .wload o, s => show LeavesQueue s (execWload o s) from execWload_leavesQueue
  | .mvm o, s => show LeavesQueue s (execMvm o s) from xMove_leavesQueue
  | .mvmt o, s => show LeavesQueue s (execMvmt o s) from xMove_leavesQueue
  | .accrd o, s => show LeavesQueue s (execAccrd o s) from accMove_leavesQueue
  | .accrdVector o, s => show LeavesQueue s (execAccrdVector o s) from accMove_leavesQueue
  | .accwr o, s => show LeavesQueue s (execAccwr o s) from accMove_leavesQueue
  | .accfree o, s => show LeavesQueue s (execAccfree o s) from accMove_leavesQueue
  | .acctag o, s => show LeavesQueue s (execAcctag o s) from accMove_leavesQueue
  | .rowSubstitution o, s => show LeavesQueue s (execRowSubstitution o s) from execRowSubstitution_leavesQueue
  | .walk o, s => show LeavesQueue s (execWalk o s) from execWalk_leavesQueue
  | .l2Fill o, s => show LeavesQueue s (execL2Fill o s) from execL2Fill_leavesQueue
  | .mergeDrain o, s => show LeavesQueue s (execMergeDrain o s) from leavesQueue_next.2 (by simp)
  | .mergeIdleTimeout o, s => show LeavesQueue s (execMergeIdleTimeout o s) from leavesQueue_next.2 (by simp)
  | .l2wb o, s => show LeavesQueue s (execL2wb o s) from leavesQueue_next.2 startRangeOp_pending
  | .l2inv o, s => show LeavesQueue s (execL2inv o s) from leavesQueue_next.2 startRangeOp_pending
  | .l2wbL2inv o, s => show LeavesQueue s (execL2wbL2inv o s) from leavesQueue_next.2 startRangeOp_pending
  | .l2OpComplete o, s => show LeavesQueue s (execL2OpComplete o s) from leavesQueue_nextIf kickCore_pending
  | .patrolScrub o, s => show LeavesQueue s (execPatrolScrub o s) from leavesQueue_nextIf readFinds_pending
  | .admissionSlot o, s => show LeavesQueue s (execAdmissionSlot o s) from execAdmissionSlot_leavesQueue
  | .faultCollect o, s => show LeavesQueue s (execFaultCollect o s) from leavesQueue_next.2 collectOne_pending
  | .faultBatch o, s => show LeavesQueue s (execFaultBatch o s) from leavesQueue_nextIf writeBatch_pending
  | .faultBatchWrErr o, s => show LeavesQueue s (execFaultBatchWrErr o s) from leavesQueue_nextIf markErrBind_pending
  | .fqWrErrClear o, s => show LeavesQueue s (execFqWrErrClear o s) from leavesQueue_nextIf clearWrErr_pending
  | .fqHead o, s => show LeavesQueue s (execFqHead o s) from leavesQueue_nextIf writeFqHead_pending
  | .xlatWrite o, s => show LeavesQueue s (execXlatWrite o s) from leavesQueue_nextIf writeXlat_pending
  | .beatPpsEdge o, s => show LeavesQueue s (execBeatPpsEdge o s) from leavesQueue_nextIf rfl
  | .ppsLoss, s => show LeavesQueue s (execPpsLoss s) from leavesQueue_nextUnless sourceLost_pending
  | .beat10mQualify, s => show LeavesQueue s (execBeat10mQualify s) from leavesQueue_nextIf rfl
  | .beat10mLoss, s => show LeavesQueue s (execBeat10mLoss s) from leavesQueue_nextUnless sourceLost_pending
  | .ptpMessage o, s => show LeavesQueue s (execPtpMessage o s) from leavesQueue_nextIf rfl
  | .ptpLoss, s => show LeavesQueue s (execPtpLoss s) from leavesQueue_nextUnless sourceLost_pending
  | .timeCrossing o, s => show LeavesQueue s (execTimeCrossing o s) from execTimeCrossing_leavesQueue
  | .jumpAccept, s => show LeavesQueue s (execJumpAccept s) from leavesQueue_nextIf acceptJump_pending
  | .slewLock, s => show LeavesQueue s (execSlewLock s) from execSlewLock_leavesQueue
  | .holdoverToPtp, s => show LeavesQueue s (execHoldoverToPtp s) from execHoldoverToPtp_leavesQueue
  | .counterExpired, s => show LeavesQueue s (execCounterExpired s) from leavesQueue_nextIf rfl
  | .breathPeriod o, s => show LeavesQueue s (execBreathPeriod o s) from leavesQueue_nextIf writePeriod_pending
  | .breathLen o, s => show LeavesQueue s (execBreathLen o s) from leavesQueue_nextIf writeLen_pending
  | .breathScheduleChange, s => show LeavesQueue s (execBreathScheduleChange s) from leavesQueue_nextIf rfl
  | .breathOpen o, s => show LeavesQueue s (execBreathOpen o s) from execBreathOpen_leavesQueue
  | .calRevert o, s => show LeavesQueue s (execCalRevert o s) from leavesQueue_nextIf revertStep_pending
  | .calStepDone o, s => show LeavesQueue s (execCalStepDone o s) from execCalStepDone_leavesQueue
  | .calCtl o, s => show LeavesQueue s (execCalCtl o s) from leavesQueue_nextIf writeCalCtl_pending
  | .doorbell o, s => show LeavesQueue s (execDoorbell o s) from leavesQueue_nextIf ringDoorbell_pending
  | .descriptorFetch, s => show LeavesQueue s (execDescriptorFetch s) from execDescriptorFetch_leavesQueue
  | .descriptorAccept o, s => show LeavesQueue s (execDescriptorAccept o s) from execDescriptorAccept_leavesQueue
  | .fetchErr o, s => show LeavesQueue s (execFetchErr o s) from leavesQueue_nextUnless markErrBind_pending
  | .notBefore o, s => show LeavesQueue s (execNotBefore o s) from execNotBefore_leavesQueue
  | .deadlineMissed o, s => show LeavesQueue s (execDeadlineMissed o s) from execDeadlineMissed_leavesQueue
  | .barrierAbort o, s => show LeavesQueue s (execBarrierAbort o s) from execBarrierAbort_leavesQueue
  | .completionWrite o, s => show LeavesQueue s (execCompletionWrite o s) from execCompletionWrite_leavesQueue
  | .completionWrErr o, s => show LeavesQueue s (execCompletionWrErr o s) from execCompletionWrErr_leavesQueue
  | .sqCfg o, s => show LeavesQueue s (execSqCfg o s) from leavesQueue_nextIf writeSqCfg_pending
  | .sqResume o, s => show LeavesQueue s (execSqResume o s) from leavesQueue_nextIf rfl
  | .cqCfg o, s => show LeavesQueue s (execCqCfg o s) from leavesQueue_nextIf writeCqCfg_pending
  | .cqHead o, s => show LeavesQueue s (execCqHead o s) from leavesQueue_nextIf writeCqHead_pending
  | .nop o, s => show LeavesQueue s (execNop o s) from execNop_leavesQueue
  | .descriptorFence o, s => show LeavesQueue s (execDescriptorFence o s) from execDescriptorFence_leavesQueue
  | .probe o, s => show LeavesQueue s (execProbe o s) from execProbe_leavesQueue
  | .launch o, s => show LeavesQueue s (execLaunch o s) from execLaunch_leavesQueue
  | .launchFinish o, s => show LeavesQueue s (execLaunchFinish o s) from execLaunchFinish_leavesQueue
  | .move o, s => show LeavesQueue s (execMove o s) from execMove_leavesQueue
  | .fill o, s => show LeavesQueue s (execFill o s) from execFill_leavesQueue
  | .collect o, s => show LeavesQueue s (execCollect o s) from execCollect_leavesQueue
  | .collectDeadline o, s => show LeavesQueue s (execCollectDeadline o s) from execCollectDeadline_leavesQueue
  | .collectSum o, s => show LeavesQueue s (execCollectSum o s) from execCollectSum_leavesQueue
  | .colOpenResend o, s => show LeavesQueue s (execColOpenResend o s) from execColOpenResend_leavesQueue
  | .update o, s => show LeavesQueue s (execUpdate o s) from execUpdate_leavesQueue
  | .updateFinish o, s => show LeavesQueue s (execUpdateFinish o s) from execUpdateFinish_leavesQueue
  | .drain o, s => show LeavesQueue s (execDrain o s) from execDrain_leavesQueue
  | .logmark o, s => show LeavesQueue s (execLogmark o s) from execLogmark_leavesQueue
  | .logmarkAuto o, s => show LeavesQueue s (execLogmarkAuto o s) from execLogmarkAuto_leavesQueue
  | .inv o, s => show LeavesQueue s (execInv o s) from execInv_leavesQueue
  | .l2f o, s => show LeavesQueue s (execL2f o s) from execL2f_leavesQueue
  | .xsyncRetirement o, s => show LeavesQueue s (execXsyncRetirement o s) from execXsyncRetirement_leavesQueue
  | .resume o, s => show LeavesQueue s (execResume o s) from execResume_leavesQueue
  | .decline o, s => show LeavesQueue s (execDecline o s) from execDecline_leavesQueue
  | .bind o, s => show LeavesQueue s (execBind o s) from execBind_leavesQueue
  | .bindFinish o, s => show LeavesQueue s (execBindFinish o s) from execBindFinish_leavesQueue
  | .unbind o, s => show LeavesQueue s (execUnbind o s) from execUnbind_leavesQueue
  | .unbindTimeout o, s => show LeavesQueue s (execUnbindTimeout o s) from execUnbindTimeout_leavesQueue
  | .hostRetireTimeout o, s => show LeavesQueue s (execHostRetireTimeout o s) from execHostRetireTimeout_leavesQueue
  | .scrub o, s => show LeavesQueue s (execScrub o s) from execScrub_leavesQueue
  | .rekey o, s => show LeavesQueue s (execRekey o s) from leavesQueue_next.2 startRekey_pending
  | .retireOnly o, s => show LeavesQueue s (execRetireOnly o s) from execRetireOnly_leavesQueue
  | .restore o, s => show LeavesQueue s (execRestore o s) from execRestore_leavesQueue
  | .rd o, s => show LeavesQueue s (execRd o s) from execRd_leavesQueue
  | .wr o, s => show LeavesQueue s (execWr o s) from execWr_leavesQueue
  | .rdCpl o, s => show LeavesQueue s (execRdCpl o s) from execRdCpl_leavesQueue
  | .wrAck o, s => show LeavesQueue s (execWrAck o s) from execWrAck_leavesQueue
  | .errCpl o, s => show LeavesQueue s (execErrCpl o s) from execErrCpl_leavesQueue
  | .colOpen o, s => show LeavesQueue s (execColOpen o s) from execColOpen_leavesQueue
  | .colData o, s => show LeavesQueue s (execColData o s) from execColData_leavesQueue
  | .colNak o, s => show LeavesQueue s (execColNak o s) from execColNak_leavesQueue
  | .link o, s => show LeavesQueue s (execLink o s) from execLink_leavesQueue
  | .crcFailure o, s => show LeavesQueue s (execCrcFailure o s) from execCrcFailure_leavesQueue
  | .requestTimeout o, s => show LeavesQueue s (execRequestTimeout o s) from execRequestTimeout_leavesQueue
  | .laneFailure o, s => show LeavesQueue s (execLaneFailure o s) from execLaneFailure_leavesQueue
  | .portTrainingDone o, s => show LeavesQueue s (execPortTrainingDone o s) from execPortTrainingDone_leavesQueue
  | .trainingFailure o, s => show LeavesQueue s (execTrainingFailure o s) from execTrainingFailure_leavesQueue
  | .portCtl o, s => show LeavesQueue s (execPortCtl o s) from execPortCtl_leavesQueue
  | .portErr o, s => show LeavesQueue s (execPortErr o s) from execPortErr_leavesQueue
  | .routeData o, s => show LeavesQueue s (execRouteData o s) from leavesQueue_nextIf writeRouteData_pending
  | .routeHoldRelease, s => show LeavesQueue s (execRouteHoldRelease s) from leavesQueue_next.2 (by simp)
  | .underVoltage o, s => show LeavesQueue s (execUnderVoltage o s) from leavesQueue_nextUnless inputAlarm_pending
  | .overVoltage o, s => show LeavesQueue s (execOverVoltage o s) from leavesQueue_nextUnless inputAlarm_pending
  | .voltageRecovery o, s => show LeavesQueue s (execVoltageRecovery o s) from leavesQueue_nextIf setInput_pending
  | .inputLimit o, s => show LeavesQueue s (execInputLimit o s) from execInputLimit_leavesQueue
  | .requestSample, s => show LeavesQueue s (execRequestSample s) from execRequestSample_leavesQueue
  | .throttleMessage o, s => show LeavesQueue s (execThrottleMessage o s) from leavesQueue_nextIf setInput_pending
  | .bellowsInterval o, s => show LeavesQueue s (execBellowsInterval o s) from execBellowsInterval_leavesQueue
  | .throttleSilence, s => show LeavesQueue s (execThrottleSilence s) from execThrottleSilence_leavesQueue
  | .powerOver, s => show LeavesQueue s (execPowerOver s) from leavesQueue_nextIf rfl
  | .powerRelief, s => show LeavesQueue s (execPowerRelief s) from leavesQueue_nextIf rfl
  | .thermalRise o, s => show LeavesQueue s (execThermalRise o s) from leavesQueue_nextIf rfl
  | .thermalFall o, s => show LeavesQueue s (execThermalFall o s) from leavesQueue_nextIf rfl
  | .tileOvertemp o, s => show LeavesQueue s (execTileOvertemp o s) from execTileOvertemp_leavesQueue
  | .neighbourRise o, s => show LeavesQueue s (execNeighbourRise o s) from leavesQueue_nextIf rfl
  | .neighbourFall o, s => show LeavesQueue s (execNeighbourFall o s) from leavesQueue_nextIf rfl
  | .pwrLimit o, s => show LeavesQueue s (execPwrLimit o s) from leavesQueue_nextIf writePwrLimit_pending
  | .watchdog, s => show LeavesQueue s (execWatchdog s) from leavesQueue_nextIf forceDraining_pending
  | .watchdogSwitchOff, s => show LeavesQueue s (execWatchdogSwitchOff s) from leavesQueue_nextIf enterFaulted_pending
  | .stop, s => show LeavesQueue s (execStop s) from leavesQueue_nextIf orderlyStop_pending
  | .leak, s => show LeavesQueue s (execLeak s) from leavesQueue_nextUnless orderlyStop_pending
  | .coolantFlowLow, s => show LeavesQueue s (execCoolantFlowLow s) from leavesQueue_nextIf orderlyStop_pending
  | .coolantWarning, s => show LeavesQueue s (execCoolantWarning s) from leavesQueue_nextIf mgmtEvent_pending
  | .converterOvertemp, s => show LeavesQueue s (execConverterOvertemp s) from leavesQueue_nextIf facilityLimit_pending
  | .lockstepMismatch, s => show LeavesQueue s (execLockstepMismatch s) from execLockstepMismatch_leavesQueue
  | .controllerRestart, s => show LeavesQueue s (execControllerRestart s) from leavesQueue_next.2 restartController_pending
  | .mctpAuthFail, s => show LeavesQueue s (execMctpAuthFail s) from leavesQueue_nextIf mgmtEvent_pending
  | .mctpSilence, s => show LeavesQueue s (execMctpSilence s) from leavesQueue_nextIf rfl
  | .go o, s => show LeavesQueue s (execGo o s) from leavesQueue_nextIf writeMbCtl_pending
  | .ack, s => show LeavesQueue s (execAck s) from leavesQueue_nextIf ackOut_pending
  | .mbTake, s => show LeavesQueue s (execMbTake s) from leavesQueue_nextIf rfl
  | .mbResponse o, s => show LeavesQueue s (execMbResponse o s) from execMbResponse_leavesQueue
  | .firmwareImage o, s => show LeavesQueue s (execFirmwareImage o s) from execFirmwareImage_leavesQueue
  | .pair o, s => show LeavesQueue s (execPair o s) from execPair_leavesQueue
  | .unpair, s => show LeavesQueue s (execUnpair s) from execUnpair_leavesQueue
  | .lldpdu o, s => show LeavesQueue s (execLldpdu o s) from execLldpdu_leavesQueue
  | .pairingTimeout, s => show LeavesQueue s (execPairingTimeout s) from leavesQueue_nextIf unpairNow_pending
  | .setKek o, s => show LeavesQueue s (execSetKek o s) from execSetKek_leavesQueue
  | .getVersion, s => show LeavesQueue s (execGetVersion s) from answerSpdm_leavesQueue
  | .getCapabilities, s => show LeavesQueue s (execGetCapabilities s) from answerSpdm_leavesQueue
  | .negotiateAlgorithms, s => show LeavesQueue s (execNegotiateAlgorithms s) from answerSpdm_leavesQueue
  | .getDigests, s => show LeavesQueue s (execGetDigests s) from answerSpdm_leavesQueue
  | .getCertificate, s => show LeavesQueue s (execGetCertificate s) from execGetCertificate_leavesQueue
  | .challenge, s => show LeavesQueue s (execChallenge s) from answerSpdm_leavesQueue
  | .getMeasurements, s => show LeavesQueue s (execGetMeasurements s) from execGetMeasurements_leavesQueue
  | .keyExchange o, s => show LeavesQueue s (execKeyExchange o s) from leavesQueue_nextIf rfl
  | .finish, s => show LeavesQueue s (execFinish s) from execFinish_leavesQueue
  | .endSession, s => show LeavesQueue s (execEndSession s) from execEndSession_leavesQueue
  | .facEnAssert o, s => show LeavesQueue s (execFacEnAssert o s) from execFacEnAssert_leavesQueue
  | .facEnDeassert, s => show LeavesQueue s (execFacEnDeassert s) from leavesQueue_nextUnless enterOff_pending
  | .poweron, s => show LeavesQueue s (execPoweron s) from leavesQueue_nextIf enterRising_pending
  | .risingComplete o, s => show LeavesQueue s (execRisingComplete o s) from execRisingComplete_leavesQueue
  | .selftestComplete o, s => show LeavesQueue s (execSelftestComplete o s) from execSelftestComplete_leavesQueue
  | .enterService, s => show LeavesQueue s (execEnterService s) from leavesQueue_nextIf command_pending
  | .enterServing, s => show LeavesQueue s (execEnterServing s) from leavesQueue_nextIf command_pending
  | .cmdDrain, s => show LeavesQueue s (execCmdDrain s) from leavesQueue_nextIf command_pending
  | .warmReset, s => show LeavesQueue s (execWarmReset s) from leavesQueue_nextIf command_pending
  | .redfishWarmReset, s => show LeavesQueue s (execRedfishWarmReset s) from leavesQueue_nextIf warmReset_pending
  | .perst, s => show LeavesQueue s (execPerst s) from leavesQueue_nextUnless warmReset_pending
  | .hotReset, s => show LeavesQueue s (execHotReset s) from leavesQueue_nextUnless warmReset_pending
  | .flr, s => show LeavesQueue s (execFlr s) from leavesQueue_nextUnless warmReset_pending
  | .powercycle, s => show LeavesQueue s (execPowercycle s) from leavesQueue_nextIf coldReset_pending
  | .orderlyStopEnd, s => show LeavesQueue s (execOrderlyStopEnd s) from leavesQueue_nextIf enterStandby_pending
  | .fatalError o, s => show LeavesQueue s (execFatalError o s) from execFatalError_leavesQueue
  | .hostRequestError o, s => show LeavesQueue s (execHostRequestError o s) from execHostRequestError_leavesQueue
  | .hwError o, s => show LeavesQueue s (execHwError o s) from execHwError_leavesQueue
  | .coreSubstitution o, s => show LeavesQueue s (execCoreSubstitution o s) from leavesQueue_next.2 substituteCore_pending
  | .tileSubstitution o, s => show LeavesQueue s (execTileSubstitution o s) from leavesQueue_next.2 substituteTile_pending
  | .stackChannelCopy o, s => show LeavesQueue s (execStackChannelCopy o s) from execStackChannelCopy_leavesQueue
  | .errorRecordWrite, s => show LeavesQueue s (execErrorRecordWrite s) from execErrorRecordWrite_leavesQueue
  | .ceMergeWindow o, s => show LeavesQueue s (execCeMergeWindow o s) from execCeMergeWindow_leavesQueue
  | .errorRingWrErr, s => show LeavesQueue s (execErrorRingWrErr s) from leavesQueue_nextIf report_pending
  | .errCfg o, s => show LeavesQueue s (execErrCfg o s) from leavesQueue_nextIf writeErrCfg_pending
  | .errHead o, s => show LeavesQueue s (execErrHead o s) from leavesQueue_nextIf writeErrHead_pending
  | .bar4Read o, s => show LeavesQueue s (execBar4Read o s) from execBar4Read_leavesQueue
  | .bar4Write o, s => show LeavesQueue s (execBar4Write o s) from leavesQueue_nextUnless palvanWrite_pending
  | .freeze, s => show LeavesQueue s (execFreeze s) from leavesQueue_nextIf freezeCounters_pending
  | .clear, s => show LeavesQueue s (execClear s) from leavesQueue_nextIf clearCounters_pending
  | .perfSel o, s => show LeavesQueue s (execPerfSel o s) from leavesQueue_nextIf writePerfSel_pending
  | .perfCnt o, s => show LeavesQueue s (execPerfCnt o s) from leavesQueue_nextIf writePerfCnt_pending
  | .regWrite o, s => show LeavesQueue s (execRegWrite o s) from execRegWrite_leavesQueue
  | .perstDeassert, s => show LeavesQueue s (execPerstDeassert s) from leavesQueue_next.2 (by simp)
  | .peerSignalLoss o, s => show LeavesQueue s (execPeerSignalLoss o s) from execPeerSignalLoss_leavesQueue
  | .peerSignalDetect o, s => show LeavesQueue s (execPeerSignalDetect o s) from execPeerSignalDetect_leavesQueue
  | .mctpChannelUp, s => show LeavesQueue s (execMctpChannelUp s) from leavesQueue_nextIf deliverOut_pending
  | .coolantWarningCleared, s => show LeavesQueue s (execCoolantWarningCleared s) from leavesQueue_nextIf rfl
  | .controllerRestartDone, s => show LeavesQueue s (execControllerRestartDone s) from execControllerRestartDone_leavesQueue
  | .pwrOplim o, s => show LeavesQueue s (execPwrOplim o s) from leavesQueue_nextIf rfl
  | .hostReadCompletion o, s => show LeavesQueue s (execHostReadCompletion o s) from execHostReadCompletion_leavesQueue

theorem fetchIssue_leavesQueue (c : CoreId) (t : ThreadId) (s : State) : LeavesQueue s (fetchIssue c t s) := by
  unfold fetchIssue
  dsimp only
  split
  · exact exec_leavesQueue _ s
  · exact issue_leavesQueue fun _ => rfl

theorem issueCore_leavesQueue (c : CoreId) (s : State) : LeavesQueue s (issueCore c s) := by
  unfold issueCore
  split
  · exact (fetchIssue_leavesQueue c _ _).of_eq (modCore_pending ..)
  · exact leavesQueue_next.2 rfl

/-- An idle step leaves the queue as it is. -/
theorem idle_leavesQueue (s : State) : LeavesQueue s (idle s) := by
  obtain ⟨n, d, -, stays | ⟨c, -, issues⟩⟩ := idle_eq s
  · exact stays ▸ leavesQueue_next.2 rfl
  · exact issues ▸ (issueCore_leavesQueue c _).of_eq rfl

theorem step_pending {s t : State} (h : step s = .next t) : t.pending = s.pending.tail := by
  unfold step at h
  split at h
  · next empty => rw [idle_leavesQueue s t h, empty, List.tail_nil]
  · next c r queued => rw [exec_leavesQueue c _ t h, queued, List.tail_cons]

/-- Settles O57: commands by `exec_leavesQueue`, the idle step by `idle_eq`, the tick of the facility side by `tick_facility`, what a core
issues by `issueCore_eq`. -/
theorem stepsTakeOneCommandInOrder : Obligations.StepsTakeOneCommandInOrder := by
  unfold Obligations.StepsTakeOneCommandInOrder
  refine ⟨fun c s t => exec_leavesQueue c s t, fun s t => step_pending, ?idle,
    fun s c h i first spells => issueCore_eq first spells⟩
  intro s empty rests up
  obtain ⟨n, d, small, outcome⟩ := idle_eq s
  have runs : step s = idle s := by rw [step, empty]
  have powered (on : s.mod.state ≠ .off) : (facilityTick s).mgmt = s.mgmt.tick := by rw [facilityTick, if_neg on]
  refine ⟨n, d, (facilityTick s).mgmt, small, fun off => ?_, fun on quiet => ?_, fun on => ?_, ?_⟩
  · rw [facilityTick, if_pos off]
  · rw [powered on]
    exact tick_unsampled s.mgmt quiet
  · rw [powered on]
    exact tick_facility s.mgmt
  · rw [runs]
    exact outcome
end Sys2Proof.Machine
end

section
/-!
PROOFS. Integer instructions: what a register or immediate form writes (R68, R69; Table 03-6).
-/

namespace Sys2Proof.Machine

section
variable {s : State} {i : Instr} {v : Word}

/-- A register form that issues writes f of its two sources. -/
theorem completes_aluReg {o : RForm} {alu : Bool} {f : Word → Word → Word} (runs : exec i s = aluReg o alu f s)
    (h : Issues s o.core o.th [o.ra, o.rb] [] []) (value : f ((s.thread o.core o.th).rg o.ra) ((s.thread o.core o.th).rg o.rb) = v) :
    Completes i s fun t => WritesG s t o.core o.th o.rd v := by
  refine ⟨_, runs.trans (issue_runs h _), ?_⟩
  rw [State.issuing_thread]
  exact value ▸ writeG_writes h.run

/-- An immediate form that issues writes f of its source. -/
theorem completes_aluImm {o : IForm} {bad : Bool} {f : Word → Word} (runs : exec i s = aluImm o bad f s) (legal : bad = false)
    (h : Issues s o.core o.th [o.ra] [] []) (value : f ((s.thread o.core o.th).rg o.ra) = v) :
    Completes i s fun t => WritesG s t o.core o.th o.rd v := by
  subst legal
  refine ⟨_, runs.trans (issue_runs h _), ?_⟩
  rw [State.issuing_thread]
  exact value ▸ writeG_writes h.run

end

/-! ## The results as Table 03-6 writes them -/

section
variable (a b : Word)

theorem shiftLeft_low : a <<< (b.toNat % 32) = a <<< b.setWidth 5 := by rw [BitVec.shiftLeft_eq', BitVec.toNat_setWidth]

theorem shiftRight_low : a >>> (b.toNat % 32) = a >>> b.setWidth 5 := by rw [BitVec.ushiftRight_eq', BitVec.toNat_setWidth]

theorem sshiftRight_low : a.sshiftRight (b.toNat % 32) = a.sshiftRight' (b.setWidth 5) := by
  rw [BitVec.sshiftRight', BitVec.toNat_setWidth]

theorem toInt_lt_iff_slt : (if a.toInt < b.toInt then (1 : Word) else 0) = if a.slt b then 1 else 0 :=
  if_congr BitVec.slt_iff_toInt_lt.symm rfl rfl

/-- Bits [63:32] of the signed product. -/
theorem mulh_eq : BitVec.ofInt 32 (a.toInt * b.toInt / 2 ^ 32) = ((a.signExtend 64 * b.signExtend 64) >>> 32).setWidth 32 := by
  have wide : a.signExtend 64 * b.signExtend 64 = BitVec.ofInt 64 (a.toInt * b.toInt) := (BitVec.ofInt_mul ..).symm
  apply BitVec.eq_of_toNat_eq
  rw [wide, BitVec.toNat_ofInt, BitVec.toNat_setWidth, BitVec.toNat_ushiftRight, BitVec.toNat_ofInt, Nat.shiftRight_eq_div_pow]
  generalize a.toInt * b.toInt = p
  omega

/-- Bits [63:32] of the unsigned product. -/
theorem mulhu_eq : BitVec.ofNat 32 (a.toNat * b.toNat / 2 ^ 32) = ((a.setWidth 64 * b.setWidth 64) >>> 32).setWidth 32 := by
  have wide : a.setWidth 64 * b.setWidth 64 = BitVec.ofNat 64 (a.toNat * b.toNat) := by
    rw [BitVec.ofNat_mul, BitVec.ofNat_toNat, BitVec.ofNat_toNat]
  have small : a.toNat * b.toNat < 2 ^ 64 := Nat.mul_lt_mul'' (c := 2 ^ 32) (d := 2 ^ 32) a.isLt b.isLt
  apply BitVec.eq_of_toNat_eq
  rw [wide, BitVec.toNat_ofNat, BitVec.toNat_setWidth, BitVec.toNat_ushiftRight, BitVec.toNat_ofNat, Nat.shiftRight_eq_div_pow,
    Nat.mod_eq_of_lt small]

/-- The quotient of −2^31 by −1 wraps. -/
theorem div_eq : BitVec.ofInt 32 (a.toInt.tdiv b.toInt) = a.sdiv b := by
  apply BitVec.eq_of_toInt_eq
  rw [BitVec.toInt_sdiv, BitVec.toInt_ofInt]

theorem rem_eq : BitVec.ofInt 32 (a.toInt.tmod b.toInt) = a.srem b := by
  rw [← BitVec.toInt_srem, BitVec.ofInt_toInt]

theorem divu_eq : BitVec.ofNat 32 (a.toNat / b.toNat) = a.udiv b := by
  apply BitVec.eq_of_toNat_eq
  rw [BitVec.toNat_ofNat, BitVec.udiv_eq, BitVec.toNat_udiv, Nat.mod_eq_of_lt (Nat.lt_of_le_of_lt (Nat.div_le_self ..) a.isLt)]

theorem remu_eq : BitVec.ofNat 32 (a.toNat % b.toNat) = a.umod b := by
  apply BitVec.eq_of_toNat_eq
  rw [BitVec.toNat_ofNat, BitVec.umod_eq, BitVec.toNat_umod, Nat.mod_eq_of_lt (Nat.lt_of_le_of_lt (Nat.mod_le ..) a.isLt)]

end

/-- A shift immediate whose bits [15:5] are zero is legal, and its amount is bits [4:0]. -/
theorem shiftImm_legal {o : IForm} (h : o.imm >>> 5 = 0) : badShift o = false ∧ o.imm.toNat % 32 = (o.imm.setWidth 5).toNat := by
  have small : (o.imm >>> 5).toNat = 0 := by rw [h]; rfl
  rw [BitVec.toNat_ushiftRight, Nat.shiftRight_eq_div_pow] at small
  exact ⟨decide_eq_false (by omega), by rw [BitVec.toNat_setWidth]⟩

/-- Settles O1: each instruction is a register form, by its row of Table 03-6. -/
theorem integerRegisterResults : Obligations.IntegerRegisterResults := by
  unfold Obligations.IntegerRegisterResults
  intro o s h a b gives
  have row {i : Instr} {alu : Bool} {f : Word → Word → Word} {v : Word} (runs : exec i s = aluReg o alu f s) (value : f a b = v) : gives i v :=
    completes_aluReg runs h value
  exact ⟨row (show _ = execAdd o s from rfl) rfl, row (show _ = execSub o s from rfl) rfl, row (show _ = execAnd o s from rfl) rfl,
    row (show _ = execOr o s from rfl) rfl, row (show _ = execXor o s from rfl) rfl,
    row (show _ = execSll o s from rfl) (shiftLeft_low a b), row (show _ = execSrl o s from rfl) (shiftRight_low a b),
    row (show _ = execSra o s from rfl) (sshiftRight_low a b), row (show _ = execSlt o s from rfl) (toInt_lt_iff_slt a b),
    row (show _ = execSltu o s from rfl) rfl, row (show _ = execMul o s from rfl) rfl,
    row (show _ = execMulh o s from rfl) (mulh_eq a b), row (show _ = execMulhu o s from rfl) (mulhu_eq a b)⟩

/-- Settles O2: divisions by the corner of Table 03-6 and the quotients of `BitVec`, the others by their row. -/
theorem divisionAndImmediateResults : Obligations.DivisionAndImmediateResults := by
  unfold Obligations.DivisionAndImmediateResults
  constructor
  · intro o s h a b gives
    have row {i : Instr} {alu : Bool} {f : Word → Word → Word} {v : Word} (runs : exec i s = aluReg o alu f s) (value : f a b = v) :
        gives i v := completes_aluReg runs h value
    exact ⟨row (show _ = execDiv o s from rfl) (if_congr .rfl rfl (div_eq a b)),
      row (show _ = execDivu o s from rfl) (if_congr .rfl rfl (divu_eq a b)),
      row (show _ = execRem o s from rfl) (if_congr .rfl rfl (rem_eq a b)),
      row (show _ = execRemu o s from rfl) (if_congr .rfl rfl (remu_eq a b))⟩
  · intro o s h a sext zext gives
    have row {i : Instr} {bad : Bool} {f : Word → Word} {v : Word} (runs : exec i s = aluImm o bad f s) (legal : bad = false)
        (value : f a = v) : gives i v := completes_aluImm runs legal h value
    refine ⟨row (show _ = execAddi o s from rfl) rfl rfl, row (show _ = execAndi o s from rfl) rfl rfl,
      row (show _ = execOri o s from rfl) rfl rfl, row (show _ = execXori o s from rfl) rfl rfl,
      row (show _ = execSlti o s from rfl) rfl (toInt_lt_iff_slt a sext), row (show _ = execSltiu o s from rfl) rfl rfl,
      fun lui => ⟨_, (show _ = execLui o s from rfl).trans (issue_runs lui _), writeG_writes lui.run⟩, fun shift => ?_⟩
    obtain ⟨legal, amount⟩ := shiftImm_legal shift
    exact ⟨row (show _ = execSlli o s from rfl) legal (by rw [amount, BitVec.shiftLeft_eq']),
      row (show _ = execSrli o s from rfl) legal (by rw [amount, BitVec.ushiftRight_eq']),
      row (show _ = execSrai o s from rfl) legal (by rw [amount, BitVec.sshiftRight'])⟩

end Sys2Proof.Machine
end

section
/-!
PROOFS. What an instruction that issues makes of its thread; loops, branches and jumps (R73, R77 to R80).
-/

namespace Sys2Proof.Machine

/-! ## An instruction that issues -/

theorem Completes.of_runs {i : Instr} {s : State} {P : State → Prop} (r : Result) (runs : exec i s = r) (next : ∃ t, r = .next t ∧ P t) :
    Completes i s P := by
  obtain ⟨t, eq, holds⟩ := next
  exact ⟨t, runs.trans eq, holds⟩

/-- A thread whose instruction issues: no cause taken before stands against the next one (R115). -/
def Thread.issuing (x : Thread) : Thread := { x with took := false }

section
variable {s : State} {c : CoreId} {h : ThreadId}

theorem thread_issuing : (s.issuing c h).thread c h = (s.thread c h).issuing := State.issuing_thread ..

/-- What an instruction makes of its thread, in one write. -/
theorem issuing_modThread {f : Thread → Thread} (run : (s.thread c h).run = true) (run' : (f (s.thread c h).issuing).run = true) :
    (s.issuing c h).modThread c h f = s.setThread c h (f (s.thread c h).issuing) := by
  rw [State.modThread, thread_issuing]
  exact setThread_setThread run run'

theorem Thread.wg_issuing (x : Thread) (r : BitVec 5) (v : Word) : x.issuing.wg r v = (x.wg r v).issuing := by
  unfold Thread.wg Thread.issuing; split <;> rfl

end

/-! ## Branches and jumps -/

section
variable {s : State} {c : CoreId} {h : ThreadId} {g : BitVec 17}

/-- A thread that had become `y` and branches. -/
theorem setThread_branchThread (s : State) (c : CoreId) (h : ThreadId) (g : BitVec 17) (y : Thread) :
    (∃ lc resv, s.setThread c h (branchThread g y.issuing) =
      s.setThread c h { y with pc := g, lc := lc, resv := resv, stepOver := false, took := false }) ∧
    ∀ k < 3, ((s.setThread c h (branchThread g y.issuing)).thread c h).lc.get 0 k =
      if g.toNat < (y.lb.get 0 k).toNat ∨ (y.le.get 0 k).toNat < g.toNat then 0 else y.lc.get 0 k := by
  obtain ⟨lc, resv, frame⟩ := branchThread_frame g y.issuing
  refine ⟨⟨lc, resv, congrArg _ frame⟩, fun k hk => ?_⟩
  rw [thread_setThread_same]
  exact branchThread_lc g y.issuing k hk

/-- The work of a jump, which puts its link `v` into g[r]. -/
theorem issuing_branchThread {r : BitVec 5} {v : Word} (run : (s.thread c h).run = true) :
    (s.issuing c h).setThread c h (branchThread g ((s.thread c h).issuing.wg r v)) =
      s.setThread c h (branchThread g ((s.thread c h).wg r v).issuing) := by
  rw [← Thread.wg_issuing]
  exact setThread_setThread run (by rw [branchThread_run, Thread.wg_run]; exact run)

theorem jalrTarget_eq (o : JalrForm) (s : State) : jalrTarget o s = (s.thread o.core o.th).rg o.ra + 4 * o.fn.signExtend 32 := by
  unfold jalrTarget
  congr 1
  apply BitVec.eq_of_toNat_eq
  simp [BitVec.toNat_mul, Nat.shiftLeft_eq, Nat.mul_comm]

theorem jalrTarget_issuing (o : JalrForm) (s : State) : jalrTarget o (s.issuing o.core o.th) = jalrTarget o s := by
  rw [jalrTarget, thread_issuing]; rfl

theorem jalrBad_of_target {o : JalrForm} (z : o.z = 0) (store : (jalrTarget o s).toNat < 0x20000) (word : (jalrTarget o s).toNat % 4 = 0) :
    jalrBad o s = none := by
  have inside : ¬((jalrTarget o s).toNat / 2 ^ 17 ≠ 0 ∨ (jalrTarget o s).toNat % 4 ≠ 0) := by omega
  simp only [jalrBad, nonzero, z, if_neg inside]
  rfl

theorem branchIf_taken {o : BForm} {test : Word → Word → Bool} (issues : Issues s o.core o.th [o.ra, o.rb] [] [])
    (holds : test ((s.thread o.core o.th).rg o.ra) ((s.thread o.core o.th).rg o.rb) = true) :
    branchIf o test s = .next (s.setThread o.core o.th
      (branchThread (wordTarget (s.thread o.core o.th).pc o.disp) (s.thread o.core o.th).issuing)) := by
  rw [branchIf, issue_runs issues, thread_issuing, if_pos (by exact holds), issuing_modThread issues.run]
  · rfl
  · rw [branchThread_run]; exact issues.run

theorem branchIf_falls {o : BForm} {test : Word → Word → Bool} (issues : Issues s o.core o.th [o.ra, o.rb] [] [])
    (fails : test ((s.thread o.core o.th).rg o.ra) ((s.thread o.core o.th).rg o.rb) = false) :
    ∃ t, branchIf o test s = .next t ∧ Retires s t o.core o.th (s.thread o.core o.th) := by
  refine ⟨_, issue_runs issues _, ?_⟩
  rw [thread_issuing, if_neg (by exact ne_true_of_eq_false fails)]
  exact retire_retires _ issues.run

end

/-! ## LOOP -/

section
variable {x : Thread} {l len : Nat}

/-- A thread with the registers of loop `l` as a LOOP of `len` words and `count` rounds sets them (R77). -/
def Thread.opened (x : Thread) (l len : Nat) (count : Word) : Thread :=
  { x with
    lb := x.lb.set 0 l ((x.pc + 4).setWidth 32)
    le := x.le.set 0 l (BitVec.ofNat 32 (x.pc.toNat + 4 * len))
    lc := x.lc.set 0 l count }

theorem add_ofNat_eq_ofNat (pc : BitVec 17) (n : Nat) : pc + BitVec.ofNat 17 n = BitVec.ofNat 17 (pc.toNat + n) := by
  apply BitVec.eq_of_toNat_eq; simp

theorem setWidth_add_of_fits {pc : BitVec 17} {n : Nat} (fits : pc.toNat + n < 2 ^ 17) :
    (pc + BitVec.ofNat 17 n).setWidth 32 = BitVec.ofNat 32 (pc.toNat + n) := by
  apply BitVec.eq_of_toNat_eq; simp; omega

/-- A thread that goes on behind the word at `a`. -/
def Thread.onward (x : Thread) (a : BitVec 17) : Thread := { (loopNext x a).2.tick false with pc := (loopNext x a).1, stepOver := false }

theorem onward_frame (x : Thread) (a : BitVec 17) :
    ∃ pc lc resv, x.onward a = { x with pc := pc, lc := lc, resv := resv, stepOver := false } := by
  obtain ⟨lc, frame⟩ := loopNext_frame x a
  refine ⟨(loopNext x a).1, lc, (x.tick false).resv, ?_⟩
  simp only [Thread.onward, frame, Thread.tick]

theorem onward_run (x : Thread) (a : BitVec 17) : (x.onward a).run = x.run := by
  obtain ⟨_, _, _, frame⟩ := onward_frame x a
  rw [frame]

theorem onward_follows (x : Thread) (a : BitVec 17) : FollowsLoopRule x (x.onward a) a := loopNext_rule x a

/-- A LOOP opens its level and goes on, from the last word of its body where the count is zero. -/
theorem openLoop_eq (count : Word) (fits : x.pc.toNat + 4 * len ≤ 0x1FFFC) :
    openLoop l len count x = (x.opened l len count).onward (if count = 0 then BitVec.ofNat 17 (x.pc.toNat + 4 * len) else x.pc) := by
  have last := add_ofNat_eq_ofNat x.pc (4 * len)
  have last32 := setWidth_add_of_fits (pc := x.pc) (n := 4 * len) (by omega)
  simp only [openLoop, last32]
  split
  · rw [last]; rfl
  · rfl

/-- The conditions of R80, none of which a legal LOOP meets. -/
theorem loopFault_eq_none (long : 2 ≤ len) (level : l < 3) (inside : x.pc.toNat + 4 * len ≤ 0x1FFFC) (free : x.lc.get 0 l = 0)
    (deeper : ∀ k < 3, l < k → x.lc.get 0 k = 0) (nested : ∀ j < l, x.lc.get 0 j ≠ 0 → x.pc.toNat + 4 * len ≤ (x.le.get 0 j).toNat) :
    loopFault x l len = none := by
  have inactive {k : Nat} (zero : x.lc.get 0 k = 0) : x.loopActive k = false := bne_eq_false_iff_eq.2 zero
  have no_deeper : ((indices 3).any fun k => decide (l < k) && x.loopActive k) = false := by
    refine List.any_eq_false.2 fun k hk both => ?_
    obtain ⟨below, active⟩ := Bool.and_eq_true_iff.1 both
    exact absurd active (by rw [inactive (deeper k (List.mem_range.1 hk) (of_decide_eq_true below))]; decide)
  have no_shorter : ((indices 3).any fun k => decide (k < l) && x.loopActive k && decide ((x.le.get 0 k).toNat < x.pc.toNat + 4 * len)) = false := by
    refine List.any_eq_false.2 fun k _ all => ?_
    obtain ⟨both, short⟩ := Bool.and_eq_true_iff.1 all
    obtain ⟨above, active⟩ := Bool.and_eq_true_iff.1 both
    exact absurd (of_decide_eq_true short) (Nat.not_lt.2 (nested k (of_decide_eq_true above) (bne_iff_ne.1 active)))
  have not_three : (l == 3) = false := beq_false_of_ne (by omega)
  simp only [loopFault, lowestSub, no_deeper, no_shorter, not_three, inactive free, decide_eq_false (Nat.not_lt.2 long),
    decide_eq_false (Nat.not_lt.2 inside)]
  rfl

end

theorem execLoop_opens {s : State} {o : LoopForm} (issues : Issues s o.core o.th [o.ra] [] []) (z : o.z = 0)
    (inside : (s.thread o.core o.th).pc.toNat + 4 * o.len.toNat ≤ 0x1FFFC)
    (legal : loopFault (s.thread o.core o.th).issuing o.lvl.toNat o.len.toNat = none) :
    execLoop o s = .next (s.setThread o.core o.th
      (openLoop o.lvl.toNat o.len.toNat ((s.thread o.core o.th).rg o.ra) (s.thread o.core o.th).issuing)) := by
  have run : (openLoop o.lvl.toNat o.len.toNat ((s.thread o.core o.th).rg o.ra) (s.thread o.core o.th).issuing).run = true := by
    rw [openLoop_eq _ (by exact inside), onward_run]
    exact issues.run
  rw [execLoop, z, if_neg (by decide), issue_runs issues, thread_issuing]
  simp only [legal]
  exact congrArg _ (issuing_modThread issues.run run)

theorem aluReg_follows {s : State} {o : RForm} {alu : Bool} {f : Word → Word → Word} (issues : Issues s o.core o.th [o.ra, o.rb] [] []) :
    ∃ t, aluReg o alu f s = .next t ∧ FollowsLoopRule (s.thread o.core o.th) (t.thread o.core o.th) (s.thread o.core o.th).pc := by
  have rule := writeG_follows (s := s.issuing o.core o.th) (h := o.th) (c := o.core) (rd := o.rd) (alu := alu)
    (v := f ((s.thread o.core o.th).rg o.ra) ((s.thread o.core o.th).rg o.rb))
  rw [thread_issuing] at rule
  refine ⟨_, issue_runs issues _, ?_⟩
  rw [thread_issuing]
  exact rule

theorem aluImm_follows {s : State} {o : IForm} {f : Word → Word} (issues : Issues s o.core o.th [o.ra] [] []) :
    ∃ t, aluImm o false f s = .next t ∧ FollowsLoopRule (s.thread o.core o.th) (t.thread o.core o.th) (s.thread o.core o.th).pc := by
  have rule := writeG_follows (s := s.issuing o.core o.th) (h := o.th) (c := o.core) (rd := o.rd) (alu := true)
    (v := f ((s.thread o.core o.th).rg o.ra))
  rw [thread_issuing] at rule
  refine ⟨_, issue_runs issues _, ?_⟩
  rw [thread_issuing]
  exact rule

/-- Settles O4: ADD and ADDI by `writeG_follows`, LOOP by `openLoop_eq`. -/
theorem hardwareLoops : Obligations.HardwareLoops := by
  unfold Obligations.HardwareLoops
  refine ⟨fun o p s => ⟨fun h => ?add, fun h => ?addi⟩, ?loop⟩
  case add => exact .of_runs (execAdd o s) rfl (aluReg_follows h)
  case addi => exact .of_runs (execAddi p s) rfl (aluImm_follows h)
  case loop =>
    intro o s h z x l last long level inside free deeper nested opened
    have legal : loopFault x.issuing l o.len.toNat = none := loopFault_eq_none long level inside free deeper nested
    have opens : openLoop l o.len.toNat (x.rg o.ra) x.issuing =
        (opened.issuing).onward (if x.rg o.ra = 0 then BitVec.ofNat 17 last else x.pc) := openLoop_eq _ inside
    obtain ⟨pc, lc, resv, frame⟩ := onward_frame opened.issuing (if x.rg o.ra = 0 then BitVec.ofNat 17 last else x.pc)
    refine .of_runs (execLoop o s) rfl ⟨_, execLoop_opens h z inside legal, ⟨pc, lc, resv, congrArg _ (opens.trans frame)⟩, ?_⟩
    have rule := onward_follows opened.issuing (if x.rg o.ra = 0 then BitVec.ofNat 17 last else x.pc)
    rw [thread_setThread_same]
    exact opens ▸ rule

/-- Settles O5: a taken branch by `setThread_branchThread`, one that is not by `branchIf_falls`. -/
theorem branchesAndJumps : Obligations.BranchesAndJumps := by
  unfold Obligations.BranchesAndJumps
  intro s c th x goes falls
  have taken {i : Instr} {y : Thread} {target : BitVec 17} (r : Result) (runs : exec i s = r)
      (next : r = .next (s.setThread c th (branchThread target y.issuing))) (lb : y.lb = x.lb) (le : y.le = x.le) (lc : y.lc = x.lc) :
      goes i y target := by
    obtain ⟨frame, counts⟩ := setThread_branchThread s c th target y
    rw [lb, le, lc] at counts
    exact ⟨_, runs.trans next, frame, counts⟩
  refine ⟨fun ra rb disp h => ?cond, fun disp h => ?jal, fun rd ra fn h => ?jalr⟩
  case cond =>
    let o : BForm := ⟨c, th, ra, rb, disp⟩
    have beq : exec (.beq o) s = branchIf o (fun a b => a == b) s := (show exec (.beq o) s = execBeq o s from rfl)
    have bne : exec (.bne o) s = branchIf o (fun a b => a != b) s := (show exec (.bne o) s = execBne o s from rfl)
    rw [← wordTarget_eq]
    exact ⟨fun same => ⟨taken _ beq (branchIf_taken h (beq_iff_eq.2 same)) rfl rfl rfl,
        .of_runs _ bne (branchIf_falls h (bne_eq_false_iff_eq.2 same))⟩,
      fun differ => ⟨taken _ bne (branchIf_taken h (bne_iff_ne.2 differ)) rfl rfl rfl,
        .of_runs _ beq (branchIf_falls h (beq_eq_false_iff_ne.2 differ))⟩⟩
  case jal =>
    refine ⟨x.wg 31 ((x.pc + 4).setWidth 32), wg_wrote .., ?_⟩
    rw [← wordTarget_eq]
    refine taken (execJal ⟨c, th, disp⟩ s) rfl ?_ (by simp) (by simp) (by simp)
    rw [execJal, issue_runs h, State.modThread, thread_issuing]
    exact congrArg _ (issuing_branchThread h.run)
  case jalr =>
    intro target store word
    refine ⟨x.wg rd ((x.pc + 4).setWidth 32), wg_wrote .., ?_⟩
    let o : JalrForm := ⟨c, th, rd, ra, fn, 0⟩
    have same : jalrTarget o s = target := jalrTarget_eq o s
    refine taken (execJalr o s) rfl ?_ (by simp) (by simp) (by simp)
    rw [execJalr, jalrBad_of_target rfl (by rwa [same]) (by rwa [same]), issueWith_runs h, State.modThread, jalrTarget_issuing, same, thread_issuing]
    exact congrArg _ (issuing_branchThread h.run)

end Sys2Proof.Machine
end

section
/-!
PROOFS. The data local store, and what an exception entry leaves in a thread and in its frame (R83, R101, R106 to R112, R242).
-/

namespace Sys2Proof.Machine

/-! ## Bytes of a memory -/

section
variable {m : Memory} {a n i : Nat} {l : List Byte}

theorem Memory.readBytes_eq_map (m : Memory) (a n : Nat) : m.readBytes a n = (indices n).map fun i => m.read (a + i) := by
  induction n generalizing a with
  | zero => rfl
  | succ n ih =>
    rw [readBytes, ih, indices, indices, List.range_succ_eq_map, List.map_cons, List.map_map]
    exact congrArg _ (List.map_congr_left fun i _ => congrArg m.read (Nat.add_right_comm a 1 i))

theorem Memory.readBytes_writeBytes (inside : i + n ≤ l.length) : (m.writeBytes a l).readBytes (a + i) n = (l.drop i).take n := by
  rw [readBytes_eq_map]
  refine List.ext_getElem (by simp [indices]; omega) fun j hj _ => ?_
  have small : i + j < l.length := by simp [indices] at hj; omega
  rw [List.getElem_map, List.getElem_take, List.getElem_drop]
  simp only [indices, List.getElem_range, Nat.add_assoc, read_writeBytes_inside l m a small]
  exact List.getD_eq_getElem _ _ small

theorem Memory.readNat_writeBytes (inside : i + n ≤ l.length) :
    (m.writeBytes a l).readNat (a + i) n = natOfBytes ((l.drop i).take n) := by
  rw [readNat, readBytes_writeBytes inside]

theorem plain_clean (l : List Byte) : plain (clean l) = l := plain_marked false l

end

/-! ## Bits -/

theorem getLsbD_setBit {n i : Nat} {b : Bool} {w : Word} (hi : i < 32) :
    (setBit n b w).getLsbD i = if i = n then b else w.getLsbD i := by
  have one : (BitVec.ofNat 32 (2 ^ n)).getLsbD i = decide (n = i) := by
    rw [BitVec.getLsbD_ofNat, Nat.testBit_two_pow, decide_eq_true hi, Bool.true_and]
  cases b with
  | false =>
    show (w &&& ~~~BitVec.ofNat 32 (2 ^ n)).getLsbD i = _
    rw [BitVec.getLsbD_and, BitVec.getLsbD_not, one, decide_eq_true hi, Bool.true_and]
    by_cases h : n = i
    · rw [if_pos h.symm, decide_eq_true h, Bool.not_true, Bool.and_false]
    · rw [if_neg (Ne.symm h), decide_eq_false h, Bool.not_false, Bool.and_true]
  | true =>
    show (w ||| BitVec.ofNat 32 (2 ^ n)).getLsbD i = _
    rw [BitVec.getLsbD_or, one]
    by_cases h : n = i
    · rw [if_pos h.symm, decide_eq_true h, Bool.or_true]
    · rw [if_neg (Ne.symm h), decide_eq_false h, Bool.or_false]

/-! ## Writes of the data local store (R83, R242) -/

section
variable {k : Core} {a lo hi : Nat} {l : List PByte} {own : Option ThreadId}

/-- What a write to granules [lo, hi] leaves of thread t's reservation. -/
def keptResv (lo hi : Nat) (own : Option ThreadId) (t : Nat) (x : Thread) : Thread :=
  match x.resv with
  | some r => if !r.l2 && decide (lo ≤ r.granule ∧ r.granule ≤ hi) && decide (own.map BitVec.toNat ≠ some t) then
      { x with resv := none } else x
  | none => x

theorem keptResv_frame (lo hi : Nat) (own : Option ThreadId) (t : Nat) (x : Thread) :
    keptResv lo hi own t x = { x with resv := (keptResv lo hi own t x).resv } := by
  unfold keptResv
  split
  · split <;> rfl
  · rfl

theorem keptResv_own (lo hi : Nat) (h : ThreadId) (x : Thread) : keptResv lo hi (some h) h.toNat x = x := by
  unfold keptResv
  split <;> simp

theorem Core.clearResv_thread (h : ThreadId) : (k.clearResv lo hi own).thread h = keptResv lo hi own h.toNat (k.thread h) :=
  Table.get_mapListed _ _ (keptResv lo hi own) _ rfl

/-- A write of the data local store changes its bytes and its markings, and ends reservations of other threads. -/
theorem Core.dlsWrite_frame (k : Core) (a : Nat) (l : List PByte) (own : Option ThreadId) :
    (∃ threads poison, k.dlsWrite a l own =
      { k with threads := threads, mem := { k.mem with dls := k.mem.dls.writeBytes a (plain l), dlsPoison := poison } }) ∧
    (∀ h, (k.dlsWrite a l own).thread h = { k.thread h with resv := ((k.dlsWrite a l own).thread h).resv }) ∧
    ∀ h, own = some h → (k.dlsWrite a l own).thread h = k.thread h := by
  unfold dlsWrite
  split
  next empty =>
    rw [List.isEmpty_iff.1 empty]
    exact ⟨⟨_, _, rfl⟩, fun _ => rfl, fun _ _ => rfl⟩
  next =>
    refine ⟨⟨_, _, rfl⟩, fun h => ?_, fun h own => ?_⟩
    · rw [clearResv_thread]
      exact keptResv_frame ..
    · rw [clearResv_thread, own, keptResv_own]
      rfl

theorem Core.dlsWrite_dls (k : Core) (a : Nat) (l : List PByte) (own : Option ThreadId) :
    (k.dlsWrite a l own).mem.dls = k.mem.dls.writeBytes a (plain l) := by
  obtain ⟨_, _, eq⟩ := (k.dlsWrite_frame a l own).1
  rw [eq]

end

/-! ## The frame (Table 04-7) -/

section
variable {pc : BitVec 17} {estat ecause eprog eien : Word} {eaddr qsw now : DWord} {m : Memory} {a : Nat}

/-- The memory in which a frame stands at `a`. -/
def Memory.framed (m : Memory) (a : Nat) (pc : BitVec 17) (estat ecause eprog : Word) (eaddr qsw now : DWord) (eien : Word) : Memory :=
  m.writeBytes a (frameBytes pc estat ecause eprog eaddr qsw now eien)

theorem frameBytes_length : (frameBytes pc estat ecause eprog eaddr qsw now eien).length = 64 := by
  simp [frameBytes, bytesOf, bytesOfNat_length]

/-- A field of the frame reads as the value that it holds. -/
theorem readNat_framed {w n i : Nat} {v : BitVec w}
    (field : ((frameBytes pc estat ecause eprog eaddr qsw now eien).drop i).take n = bytesOf n v) (inside : i + n ≤ 64) (wide : 2 ^ w ≤ 256 ^ n) :
    (m.framed a pc estat ecause eprog eaddr qsw now eien).readNat (a + i) n = v.toNat := by
  rw [Memory.framed, Memory.readNat_writeBytes (by rwa [frameBytes_length]), field, natOfBytes_bytesOf v wide]

/-- Behind its fields a frame holds zeros, and it leaves every byte outside its 64. -/
theorem read_framed_zero {b : Nat} (lo : a + 44 ≤ b) (hi : b < a + 64) : (m.framed a pc estat ecause eprog eaddr qsw now eien).read b = 0 := by
  obtain ⟨j, rfl⟩ := Nat.exists_eq_add_of_le lo
  have small : 44 + j < (frameBytes pc estat ecause eprog eaddr qsw now eien).length := by rw [frameBytes_length]; omega
  have fields : (bytesOf 4 pc ++ bytesOf 4 estat ++ bytesOf 4 ecause ++ bytesOf 4 eprog ++ bytesOf 8 eaddr ++ bytesOf 8 qsw ++ bytesOf 8 now
      ++ bytesOf 4 eien).length = 44 := by simp [bytesOf, bytesOfNat_length]
  rw [Memory.framed, Nat.add_assoc, read_writeBytes_inside _ _ _ small, frameBytes, List.getD_append_right _ _ _ _ (by omega), fields,
    Nat.add_sub_cancel_left]
  exact List.getD_replicate _ (by omega)

theorem read_framed_outside {b : Nat} (out : b < a ∨ a + 64 ≤ b) :
    (m.framed a pc estat ecause eprog eaddr qsw now eien).read b = m.read b :=
  Memory.read_writeBytes_other _ _ _ _ (by rwa [frameBytes_length])

end

end Sys2Proof.Machine
end

section
/-!
PROOFS. An exception entry of a thread whose queues are quiet and whose frame fits (R101, R106, R108, R109, R112, R119).
-/

namespace Sys2Proof.Machine

section
variable {s : State} {c : CoreId} {th : ThreadId} {x : Cause} {pc : BitVec 17} {parked : Bool}

/-- The estat that the frame of an entry holds (R108). -/
def State.frameEstat (s : State) (c : CoreId) (th : ThreadId) (x : Cause) (parked : Bool) : Word :=
  let old := setBit 14 parked (estatOf s c (s.thread c th))
  if x.vec = 12 ∨ x.vec = 13 then setBit 13 true old else old

/-- The queue status word that the frame of an entry holds (Table 04-8). -/
def State.frameQsw (s : State) (c : CoreId) (th : ThreadId) (x : Cause) : DWord :=
  if th = 0 then queueStatus (s.core c) x.src else 0

/-- The state that an entry whose frame fits below esp leaves, on a thread whose queues are quiet. -/
def State.entry (s : State) (c : CoreId) (th : ThreadId) (x : Cause) (pc : BitVec 17) (parked : Bool) : State :=
  let y := s.thread c th
  let frame := frameBytes pc (s.frameEstat c th x parked) x.word 0 x.eaddr (s.frameQsw c th x) s.time.count y.eien
  (dlsWrite c (y.esp.toNat - 64) (clean frame) none s).modThread c th (enter th x pc 0 false)

/-- With nothing queued or started the queues freeze as they are. -/
theorem freeze_quiet (quiet : Quiet s c 0) : freeze c s = some s := by
  obtain ⟨-, vector, -, matrix⟩ := quiet rfl
  have stays (n : Nat) : completeVector c n s = s ∧ ∀ free, completeMatrix c n free s = s := by
    constructor
    · simp [completeVector, vector]
    · simp [completeMatrix, matrix]
  have still (f : State → State) (fixed : f s = s) : (indices 4).foldl (fun s _ => f s) s = s := by
    simp [indices, List.range_succ, fixed]
  have vectors := still (fun s => if (s.core c).faultPending false then s else completeVector c 0 s) (by simp [(stays 0).1])
  have matrices := still (fun s => if (s.core c).faultPending true then s else completeMatrix c 0 true s) (by simp [(stays 0).2])
  unfold freeze
  split
  · rfl
  split
  · simp only [drainStarted, vectors, matrices, vector, matrix, List.isEmpty_nil, Bool.true_or, Bool.and_true, if_pos]
  · simp only [freezeVector, vector, freezeMatrix, matrix, List.find?_nil, List.head?_nil, Option.or_none]

theorem framePlaced_of_framed (framed : Framed (s.thread c th)) : framePlaced (s.thread c th) = true := by
  obtain ⟨aligned, low, above, high, inside⟩ := framed
  simp only [framePlaced, frameFits, aligned, decide_true, Bool.true_and, decide_eq_true_eq]
  omega

theorem takeException_quiet (stays : (s.core c).ctl.stopping = false) (quiet : Quiet s c th) (framed : Framed (s.thread c th)) :
    takeException c th x pc parked s = some (s.entry c th x pc parked) := by
  have queues : (if th = 0 then freeze c s else some s) = some s := by
    split
    next zero => exact freeze_quiet (zero ▸ quiet)
    next => rfl
  have progress : (if th = 0 then progressOf (s.core c) else 0) = 0 := by
    split
    next zero =>
      obtain ⟨-, vector, -, matrix⟩ := quiet zero
      rw [progressOf, vector, matrix]
      rfl
    next => rfl
  have placed : framePlaced ((s.core c).thread th) = true := framePlaced_of_framed framed
  simp only [takeException, stays, queues, progress, placed]
  rfl

theorem raise_quiet (stays : (s.core c).ctl.stopping = false) (quiet : Quiet s c th) (framed : Framed (s.thread c th)) :
    raise c th x pc s = s.entry c th x pc false := by
  rw [raise, takeException_quiet stays quiet framed]
  rfl

/-- The queue status word of h0 with nothing queued or started (Table 04-8). -/
theorem queueStatus_quiet {src : Nat} (quiet : Quiet s c 0) (small : src < 8) : (queueStatus (s.core c) src).toNat = src * 2 ^ 27 := by
  obtain ⟨vq, vs, mq, ms⟩ := quiet rfl
  simp only [queueStatus, vq, vs, mq, ms, bit, List.isEmpty_nil, List.length_nil, BitVec.toNat_ofNat]
  simp
  omega

/-- The registers of the thread that enters. -/
theorem enter_frame (y : Thread) (r : Option Reservation) : enter th x pc 0 false { y with resv := r } = { y with
    pc := BitVec.ofNat 17 (0x100 + 32 * x.vec.toNat), epc := pc, ecause := x.word, eaddr := x.eaddr, eprog := 0, esp := y.esp - 64
    estat := (enter th x pc 0 false y).estat, resv := none, waiting := false, stepOver := false, blocked := none, owed := none
    took := false } := rfl

theorem enter_estat (y : Thread) {i : Nat} (hi : i < 32) : (enter th x pc 0 false y).estat.getLsbD i =
    if i = 0 ∨ i = 13 ∨ i = 14 ∨ i = 15 then false
    else if i = 1 ∧ x.vec.toNat = 1 then true else if i = 8 ∧ th = 0 then true else y.estat.getLsbD i := by
  have nmi : x.vec = 1 ↔ x.vec.toNat = 1 := BitVec.toNat_inj.symm
  simp only [enter, nmi, Bool.false_eq_true, if_false]
  split <;> split <;> simp only [getLsbD_setBit hi, *] <;> (repeat' split) <;> simp_all

theorem frameEstat_testBit {i : Nat} (hi : i < 32) : (s.frameEstat c th x parked).toNat.testBit i =
    if i = 12 then pmOf s c else if i = 14 then parked
    else if i = 13 ∧ (x.vec.toNat = 12 ∨ x.vec.toNat = 13) then true else (s.thread c th).estat.getLsbD i := by
  have watch : (x.vec = 12 ∨ x.vec = 13) ↔ (x.vec.toNat = 12 ∨ x.vec.toNat = 13) :=
    or_congr BitVec.toNat_inj.symm BitVec.toNat_inj.symm
  rw [BitVec.testBit_toNat]
  simp only [State.frameEstat, estatOf, watch]
  split <;> simp only [getLsbD_setBit hi, *] <;> (repeat' split) <;> simp_all

theorem frameQsw_toNat (quiet : Quiet s c th) (src : x.src < 8) :
    (s.frameQsw c th x).toNat = if th = 0 then x.src * 2 ^ 27 else 0 := by
  unfold State.frameQsw
  split
  next zero => exact queueStatus_quiet (zero ▸ quiet) src
  next => rfl

theorem core_dlsWrite (a : Nat) (l : List PByte) (own : Option ThreadId) :
    (dlsWrite c a l own s).core c = (s.core c).dlsWrite a l own := by rw [dlsWrite, core_modCore_same]

theorem thread_dlsWrite (a : Nat) (l : List PByte) (own : Option ThreadId) (h : ThreadId) :
    (dlsWrite c a l own s).thread c h = { s.thread c h with resv := ((dlsWrite c a l own s).thread c h).resv } := by
  simp only [State.thread, core_dlsWrite]
  exact ((s.core c).dlsWrite_frame a l own).2.1 h

/-- The thread that has entered. -/
theorem entry_thread : (s.entry c th x pc parked).thread c th = enter th x pc 0 false (s.thread c th) := by
  rw [State.entry, State.modThread, thread_setThread_same, thread_dlsWrite, enter_frame]
  rfl

theorem entry_other {h : ThreadId} (other : h ≠ th) :
    (s.entry c th x pc parked).thread c h = { s.thread c h with resv := ((s.entry c th x pc parked).thread c h).resv } := by
  rw [State.entry, State.modThread, State.thread, core_setThread_same, Core.thread_setThread_other _ _ other]
  exact thread_dlsWrite ..

theorem entry_dls : ((s.entry c th x pc parked).core c).mem.dls = (s.core c).mem.dls.framed ((s.thread c th).esp.toNat - 64) pc
    (s.frameEstat c th x parked) x.word 0 x.eaddr (s.frameQsw c th x) s.time.count (s.thread c th).eien := by
  rw [State.entry, core_modThread_same, Core.setThread_mem, core_dlsWrite, Core.dlsWrite_dls, plain_clean]
  rfl

/-- An entry changes nothing of the core but its threads and its data local store. -/
theorem entry_core : (s.entry c th x pc parked).core c = { s.core c with
    threads := ((s.entry c th x pc parked).core c).threads
    mem := { (s.core c).mem with
      dls := ((s.entry c th x pc parked).core c).mem.dls, dlsPoison := ((s.entry c th x pc parked).core c).mem.dlsPoison } } := by
  have write := ((s.core c).dlsWrite_frame ((s.thread c th).esp.toNat - 64) (clean (frameBytes pc (s.frameEstat c th x parked) x.word 0 x.eaddr
    (s.frameQsw c th x) s.time.count (s.thread c th).eien)) none).1
  obtain ⟨threads, poison, eq⟩ := write
  rw [State.entry, core_modThread_same, core_dlsWrite, eq]
  rfl

theorem entry_entered (quiet : Quiet s c th) (src : x.src < 8) :
    Entered s (s.entry c th x pc parked) c th (s.thread c th) x.vec.toNat x.word x.eaddr pc x.src parked := by
  have num {w n i : Nat} {v : BitVec w} (wide : 2 ^ w ≤ 256 ^ n) (inside : i + n ≤ 64)
      (field : ((frameBytes pc (s.frameEstat c th x parked) x.word 0 x.eaddr (s.frameQsw c th x) s.time.count (s.thread c th).eien).drop i).take n =
        bytesOf n v) :
      dlsNum ((s.entry c th x pc parked).core c) ((s.thread c th).esp.toNat - 64 + i) n = v.toNat := by
    rw [dlsNum, entry_dls]
    exact readNat_framed field inside wide
  have hpc := num (i := 0) (n := 4) (v := pc) (by decide) (by decide) rfl
  have estat := num (i := 4) (n := 4) (v := s.frameEstat c th x parked) (by decide) (by decide) rfl
  have cause := num (i := 8) (n := 4) (v := x.word) (by decide) (by decide) rfl
  have prog := num (i := 12) (n := 4) (v := (0 : Word)) (by decide) (by decide) rfl
  have eaddr := num (i := 16) (n := 8) (v := x.eaddr) (by decide) (by decide) rfl
  have qsw := num (i := 24) (n := 8) (v := s.frameQsw c th x) (by decide) (by decide) rfl
  have now := num (i := 32) (n := 8) (v := s.time.count) (by decide) (by decide) rfl
  have eien := num (i := 40) (n := 4) (v := (s.thread c th).eien) (by decide) (by decide) rfl
  refine ⟨?thread, fun i hi => ?live, hpc, fun i hi => ?old, cause, prog, eaddr, qsw.trans (frameQsw_toNat quiet src),
    now, eien, fun a lo hi => ?zeros, fun a out => ?others, fun h other => entry_other other, ?core,
    fun d other => ?cores, ?module⟩
  case thread => rw [entry_thread]; exact enter_frame _ _
  case live => rw [entry_thread]; exact enter_estat _ hi
  case old => rw [estat]; exact frameEstat_testBit hi
  case zeros => rw [entry_dls]; exact read_framed_zero lo hi
  case others => rw [entry_dls]; exact read_framed_outside out
  case core => rw [entry_core]
  case cores => simp [State.entry, dlsWrite, other]
  case module => rfl
theorem entry_ctl : ((s.entry c th x pc parked).core c).ctl = (s.core c).ctl := by rw [entry_core]

theorem entry_binds : (s.entry c th x pc parked).binds = s.binds := by
  rw [State.entry, modThread_binds, dlsWrite, modCore_binds]

theorem entry_causes : ((s.entry c th x pc parked).core c).causes = (s.core c).causes := by rw [entry_core]

/-! ## Entries from a state in which the instruction has issued or completed -/

section
variable {t : State} {w y : Thread} {vec src : Nat} {cause : Word} {ea : DWord}

/-- How thread th stood is told by `y` alone. -/
theorem Entered.of_setThread (h : Entered (s.setThread c th w) t c th y vec cause ea pc src parked) :
    Entered s t c th y vec cause ea pc src parked := by
  have others (d : CoreId) (n : d ≠ c) : (s.setThread c th w).core d = s.core d := core_setThread_other _ _ _ n
  have siblings (g : ThreadId) (n : g ≠ th) : (s.setThread c th w).thread c g = s.thread c g := by
    rw [State.thread, core_setThread_same]
    exact Core.thread_setThread_other _ _ n
  unfold Entered at h ⊢
  simp only [core_setThread_same, Core.setThread_mem, Core.setThread_vec, Core.setThread_mat, Core.setThread_ctl, setThread_time, pmOf,
    setThread_mod] at h ⊢
  obtain ⟨thread, live, hpc, old, hcause, prog, eaddr, qsw, now, eien, zeros, rest, threads, core, cores, module⟩ := h
  exact ⟨thread, live, hpc, old, hcause, prog, eaddr, qsw, now, eien, zeros, rest, fun g n => siblings g n ▸ threads g n, core,
    fun d n => others d n ▸ cores d n, module⟩

theorem Entered.of_issuing (h : Entered s t c th y.issuing vec cause ea pc src parked) : Entered s t c th y vec cause ea pc src parked := h

end

/-- The exception of an instruction, taken from the state as it was. -/
theorem raise_enters (stays : (s.core c).ctl.stopping = false) (quiet : Quiet s c th) (framed : Framed (s.thread c th)) (src : x.src < 8) :
    Entered s (raise c th x pc s) c th (s.thread c th) x.vec.toNat x.word x.eaddr pc x.src false := by
  rw [raise_quiet stays quiet framed]
  exact entry_entered quiet src

theorem ready_stays (ready : Machine.ready s c th = true) : (s.core c).ctl.stopping = false := by
  simp only [Machine.ready, Bool.and_eq_true, Bool.not_eq_true'] at ready
  exact ready.1.1.2

theorem Issues.stays {gs fs fw : List (BitVec 5)} (h : Issues s c th gs fs fw) : (s.core c).ctl.stopping = false := ready_stays h.ready

end
end Sys2Proof.Machine
end

section
/-!
PROOFS. What the instructions of the queues run, and that h1 to h3 have none of them (R64, R65).
-/

namespace Sys2Proof.Machine

/-! ## The instructions of the vector queue -/

section
variable (o : VForm) (s : State)

theorem exec_scalarForms : ∀ p ∈ scalarForms o, exec p.1 s = vS o p.2 s := by
  simp only [scalarForms, List.forall_mem_cons]
  repeat' apply And.intro
  case right => exact fun _ none => absurd none List.not_mem_nil
  all_goals rfl

theorem exec_compareForms : ∀ p ∈ compareForms o, exec p.1 s = vCompare o p.2 s := by
  simp only [compareForms, List.forall_mem_cons]
  repeat' apply And.intro
  case right => exact fun _ none => absurd none List.not_mem_nil
  all_goals rfl

theorem exec_unaryForms : ∀ p ∈ unaryForms o, exec p.1 s = vUnary o p.2 s := by
  simp only [unaryForms, List.forall_mem_cons]
  repeat' apply And.intro
  case right => exact fun _ none => absurd none List.not_mem_nil
  all_goals rfl

theorem exec_fusedForms (o : VFmaForm) : ∀ p ∈ fusedForms o, exec p.1 s = vFused o p.2 s := by
  simp only [fusedForms, List.forall_mem_cons]
  repeat' apply And.intro
  case right => exact fun _ none => absurd none List.not_mem_nil
  all_goals rfl

theorem exec_scanForms (o : VScanForm) : ∀ p ∈ scanForms o, exec p.1 s = vScan o p.2 s := by
  simp only [scanForms, List.forall_mem_cons]
  repeat' apply And.intro
  case right => exact fun _ none => absurd none List.not_mem_nil
  all_goals rfl

theorem nonzero_zero {w : Nat} {z : BitVec w} (zero : z = 0) : nonzero z = false := by simp [nonzero, zero]

/-- Where its fields are those that predicate logic asks for, none that must be zero is not. -/
theorem logic_fields {zero : Bool} (last : zero = false) (ok : logicOk o) :
    (zero || decide (8 ≤ o.vd.toNat) || decide (8 ≤ o.va.toNat) || decide (8 ≤ o.vb.toNat) || nonzero o.pm) = false := by
  obtain ⟨d, a, b, pm⟩ := ok
  rw [last, nonzero_zero pm, decide_eq_false (Nat.not_le.2 d), decide_eq_false (Nat.not_le.2 a), decide_eq_false (Nat.not_le.2 b)]
  rfl

theorem exec_moveForms : ∀ p ∈ moveForms o, ∃ zero, (p.2.2.1 → zero = false) ∧ exec p.1 s = vMove o p.2.1 zero p.2.2.2 s := by
  have summary (below : o.va.toNat < 8) : decide (8 ≤ o.va.toNat) = false := decide_eq_false (Nat.not_le.2 below)
  simp only [moveForms, List.forall_mem_cons]
  refine ⟨⟨_, fun _ => rfl, rfl⟩, ⟨_, fun _ => rfl, rfl⟩, ⟨_, fun _ => rfl, rfl⟩, ⟨_, fun _ => rfl, rfl⟩, ⟨_, fun _ => rfl, rfl⟩,
    ⟨_, nonzero_zero, rfl⟩, ⟨_, nonzero_zero, rfl⟩, ⟨_, nonzero_zero, rfl⟩, ⟨_, nonzero_zero, rfl⟩,
    ⟨_, summary, rfl⟩, ⟨_, summary, rfl⟩, ⟨_, summary, rfl⟩, ⟨_, summary, rfl⟩,
    ⟨_, logic_fields o rfl, rfl⟩, ⟨_, logic_fields o rfl, rfl⟩, ⟨_, logic_fields o rfl, rfl⟩, ⟨_, logic_fields o rfl, rfl⟩,
    ⟨_, fun ok => logic_fields o (nonzero_zero ok.2) ok.1, rfl⟩, fun _ none => absurd none List.not_mem_nil⟩

end
/-! ## h1 to h3 (R64) -/

/-- ecause of a synchronous cause (Table 04-4). -/
theorem sync_word (vec : BitVec 5) (sub : BitVec 8) (ea : DWord) :
    (Cause.sync vec sub ea).word = BitVec.ofNat 32 (sub.toNat * 256 + vec.toNat) := by simp [Cause.word, Cause.sync, bit]

/-- A subcode that h1 to h3 report: 4, or a lower one that holds too (R67). -/
theorem lowestSub_four {l : List (Bool × BitVec 8)} (r : List (Bool × BitVec 8)) (codes : ∀ p ∈ l, 1 ≤ p.2.toNat ∧ p.2.toNat ≤ 4) :
    ∃ sub : BitVec 8, 1 ≤ sub.toNat ∧ sub.toNat ≤ 4 ∧ lowestSub (l ++ (true, 4) :: r) = some sub := by
  rw [lowestSub, List.find?_append]
  cases found : l.find? Prod.fst with
  | none => exact ⟨4, by decide, by decide, rfl⟩
  | some p =>
    obtain ⟨low, high⟩ := codes p (List.mem_of_find?_eq_some found)
    exact ⟨p.2, low, high, rfl⟩

/-- Instruction `i` on thread th raises vector 3 with a subcode of 1 to 4 and does nothing else. -/
def IllegalOffH0 (s : State) (c : CoreId) (th : ThreadId) (i : Instr) : Prop := ∃ sub : BitVec 8, 1 ≤ sub.toNat ∧ sub.toNat ≤ 4 ∧
  exec i s = .next (raise c th (.sync 3 sub 0) (s.thread c th).pc s) ∧
  (Framed (s.thread c th) → Entered s (raise c th (.sync 3 sub 0) (s.thread c th).pc s) c th (s.thread c th) 3
    (BitVec.ofNat 32 (sub.toNat * 256 + 3)) 0 (s.thread c th).pc 0 false)

/-- Thread th of h1 to h3 issues the instruction at its pc, legal or not. -/
structure OffH0 (s : State) (c : CoreId) (th : ThreadId) : Prop where
  off : th ≠ 0
  ready : ready s c th = true
  parity : parityBad (s.core c) (s.thread c th).pc = false

section
variable {s : State} {c : CoreId} {th : ThreadId} {i : Instr} {gs fs fw : List (BitVec 5)} (h : OffH0 s c th)
include h

theorem OffH0.issueWith_illegal (x : Cause) (f : Option (State → State)) (body : State → State) :
    issueWith c th (some x) f gs fs fw body s = .next (raise c th x (s.thread c th).pc s) := by
  obtain ⟨off, ready, parity⟩ := h
  have owed : ((s.core c).thread th).owed = none := by
    simp only [Machine.ready, Bool.and_eq_true, Option.isNone_iff_eq_none] at ready
    exact ready.1.1.1.2
  have free : stalls (s.core c) th gs fs fw = false := by
    rw [stalls, decide_eq_false off]
    rfl
  simp only [State.thread] at parity
  simp [issueWith, owed, ready, free, parity, State.thread]

/-- An instruction whose checks h1 to h3 fail. -/
theorem OffH0.illegal {l r : List (Bool × BitVec 8)} (codes : ∀ p ∈ l, 1 ≤ p.2.toNat ∧ p.2.toNat ≤ 4)
    (runs : ∀ sub, lowestSub (l ++ (decide (th ≠ 0), 4) :: r) = some sub → exec i s = .next (raise c th (.sync 3 sub 0) (s.thread c th).pc s)) :
    IllegalOffH0 s c th i := by
  obtain ⟨sub, low, high, lowest⟩ := lowestSub_four r codes
  refine ⟨sub, low, high, runs sub (by rw [decide_eq_true h.off]; exact lowest), fun framed => ?_⟩
  have entered := (raise_enters (x := .sync 3 sub 0) (pc := (s.thread c th).pc) (ready_stays h.ready) (fun zero => absurd zero h.off) framed
    (show 0 < 8 by decide))
  rw [sync_word] at entered
  exact entered

theorem OffH0.illegal_enqueueV {bad zero : Bool} {mk : Core → VInstr} (runs : exec i s = enqueueV c th bad zero gs mk s) :
    IllegalOffH0 s c th i := by
  refine h.illegal (l := [(bad, 1), (zero, 2)]) (r := [((s.core c).frozen, 7)]) (by simp) fun sub lowest => ?_
  simp only [List.cons_append, List.nil_append] at lowest
  rw [runs, enqueueV, lowest, if_neg (by simp)]
  exact h.issueWith_illegal ..

theorem OffH0.illegal_enqueueM {zero : Bool} {shape mask : Word} {mk : Core → MInstr}
    (runs : exec i s = enqueueM c th zero false shape mask gs mk s) : IllegalOffH0 s c th i := by
  refine h.illegal (l := [(zero, 2)]) (r := [((s.core c).frozen, 7)]) (by simp) fun sub lowest => ?_
  have arrays : lowestSub [(zero, 2), (false, Config.emptyMaskSub), (decide (th ≠ 0), 4), ((s.core c).frozen, 7)] = some sub := by
    rw [← lowest]
    cases zero <;> rfl
  rw [runs, enqueueM, arrays, if_neg (by simp)]
  exact h.issueWith_illegal ..

theorem OffH0.illegal_span {bad z : Bool} {body : State → State} (runs : exec i s = issue c th (spanBad th bad z) gs fs fw body s) :
    IllegalOffH0 s c th i := by
  refine h.illegal (l := [(bad, 1), (z, 2)]) (r := []) (by simp) fun sub lowest => ?_
  simp only [List.cons_append, List.nil_append] at lowest
  rw [runs, spanBad, lowest]
  exact h.issueWith_illegal ..

theorem OffH0.illegal_lr {o : LrForm} (same : o.th = th) {body : State → State} (runs : exec i s = issue c th (lrBad o true) gs fs fw body s) :
    IllegalOffH0 s c th i := by
  refine h.illegal (l := [(nonzero o.z || (!true && nonzero o.sp), 2)]) (r := []) (by simp) fun sub lowest => ?_
  have span : lrBad o true = some sub := by rw [← lowest, ← same]; rfl
  rw [runs, span]
  exact h.issueWith_illegal ..

end

/-- Settles O3: each instruction's checks by what it runs, and the entry by `raise_enters`. -/
theorem queueInstructionsTrapOffH0 : Obligations.QueueInstructionsTrapOffH0 := by
  unfold Obligations.QueueInstructionsTrapOffH0
  intro s c th off ready parity
  have h : OffH0 s c th := ⟨off, ready, parity⟩
  refine ⟨fun n ra rb scale z => ?span, fun rd n sel z => ?spanr, fun rd ra sp sz z => ⟨?ldx, ?stx⟩, fun rd ra rb sp z => ⟨?lrx, ?scx⟩,
    fun vd va vb pm sc => ⟨?vector, ?moves, ?others⟩, ?fused, ?scans, ?memory, ?tiles⟩
  case span =>
    let o : SpanForm := ⟨c, th, n, ra, rb, scale, z⟩
    exact h.illegal_span (show exec (.span o) s = execSpan o s from rfl)
  case spanr =>
    let o : SpanrForm := ⟨c, th, rd, n, sel, z⟩
    exact h.illegal_span (show exec (.spanr o) s = execSpanr o s from rfl)
  case ldx =>
    let o : XForm := ⟨c, th, rd, ra, sp, sz, z⟩
    exact h.illegal_span (show exec (.ldx o) s = execLdx o s from rfl)
  case stx =>
    let o : XForm := ⟨c, th, rd, ra, sp, sz, z⟩
    exact h.illegal_span (show exec (.stx o) s = execStx o s from rfl)
  case lrx =>
    let o : LrForm := ⟨c, th, rd, ra, rb, sp, z⟩
    exact h.illegal_lr (o := o) rfl (show exec (.lrxW o) s = execLrxW o s from rfl)
  case scx =>
    let o : LrForm := ⟨c, th, rd, ra, rb, sp, z⟩
    exact h.illegal_lr (o := o) rfl (show exec (.scxW o) s = execScxW o s from rfl)
  case vector =>
    let o : VForm := ⟨c, th, vd, va, vb, pm, sc⟩
    intro p listed
    simp only [List.mem_append] at listed
    obtain (scalar | compare) | unary := listed
    · exact h.illegal_enqueueV (exec_scalarForms o s p scalar)
    · exact h.illegal_enqueueV (exec_compareForms o s p compare)
    · exact h.illegal_enqueueV (exec_unaryForms o s p unary)
  case moves =>
    let o : VForm := ⟨c, th, vd, va, vb, pm, sc⟩
    intro p listed
    obtain ⟨zero, -, runs⟩ := exec_moveForms o s p listed
    exact h.illegal_enqueueV runs
  case others =>
    let o : VForm := ⟨c, th, vd, va, vb, pm, sc⟩
    simp only [List.forall_mem_cons]
    exact ⟨h.illegal_enqueueV (show exec (.vnclip o) s = vClip o .nclip s from rfl),
      h.illegal_enqueueV (show exec (.vnclipu o) s = vClip o .nclipu s from rfl),
      h.illegal_enqueueV (show exec (.vslideupi o) s = vSlideImm o .slideup s from rfl),
      h.illegal_enqueueV (show exec (.vslidedni o) s = vSlideImm o .slidedn s from rfl), fun _ none => absurd none List.not_mem_nil⟩
  case fused => exact fun vd va vb vc pm sc p listed => h.illegal_enqueueV (exec_fusedForms s ⟨c, th, vd, va, vb, vc, pm, sc⟩ p listed)
  case scans =>
    intro vd va vb pm ci co z
    let o : VScanForm := ⟨c, th, vd, va, vb, pm, ci, co, z⟩
    exact ⟨h.illegal_enqueueV (show exec (.vrsum o) s = execVrsum o s from rfl), fun p listed => h.illegal_enqueueV (exec_scanForms s o p listed)⟩
  case memory =>
    intro vd ra sp zs pm z hint
    let o : VMemForm := ⟨c, th, vd, ra, sp, zs, pm, z, hint⟩
    exact ⟨h.illegal_enqueueV (show exec (.vld o) s = execVld o s from rfl),
      h.illegal_enqueueV (show exec (.vst o) s = execVst o s from rfl)⟩
  case tiles =>
    intro r ra rb sp z shape
    let o : TileForm := ⟨c, th, r, ra, rb, sp, z, shape⟩
    simp only [List.forall_mem_cons]
    exact ⟨h.illegal_enqueueM (show exec (.tld o) s = tileMove o .tld s from rfl),
      h.illegal_enqueueM (show exec (.tst o) s = tileMove o .tst s from rfl),
      h.illegal_enqueueM (show exec (.tlds o) s = tileMove o .tlds s from rfl),
      h.illegal_enqueueM (show exec (.tsts o) s = tileMove o .tsts s from rfl),
      h.illegal_enqueueM (show exec (.tldg o) s = execTldg o s from rfl), fun _ none => absurd none List.not_mem_nil⟩

end Sys2Proof.Machine
end

section
/-!
PROOFS. Jumps to illegal targets, and loads and stores of the core address space that may not take place (R58, R59, R74).
-/

namespace Sys2Proof.Machine

/-! ## JALR (R74) -/

theorem jalrBad_of_bad_target {o : JalrForm} {s : State} (z : o.z = 0) (bad : jalrTarget o s >>> 17 ≠ 0 ∨ jalrTarget o s &&& 3 ≠ 0) :
    jalrBad o s = some (.sync 3 6 ((jalrTarget o s).setWidth 64)) := by
  have off : (jalrTarget o s).toNat / 2 ^ 17 ≠ 0 ∨ (jalrTarget o s).toNat % 4 ≠ 0 := by
    refine bad.imp (fun high => ?_) (fun low => ?_)
    · rw [← BitVec.toNat_ne_iff_ne, BitVec.toNat_ushiftRight, Nat.shiftRight_eq_div_pow] at high
      exact high
    · rw [← BitVec.toNat_ne_iff_ne, BitVec.toNat_and] at low
      rw [← Nat.and_two_pow_sub_one_eq_mod _ 2]
      exact low
  simp only [jalrBad, nonzero_zero z, if_pos off]
  rfl

/-- Settles O6: `issueWith_illegal` with the target's fault, and the entry by `raise_enters`. -/
theorem jumpsToIllegalTargetsTrap : Obligations.JumpsToIllegalTargetsTrap := by
  unfold Obligations.JumpsToIllegalTargetsTrap
  intro o s issues z x target bad
  have raises : execJalr o s = .next (raise o.core o.th (.sync 3 6 (target.setWidth 64)) x.pc s) := by
    rw [execJalr, jalrBad_of_bad_target z (by rw [jalrTarget_eq]; exact bad), issueWith_illegal issues, jalrTarget_eq]
  refine ⟨(show exec (.jalr o) s = execJalr o s from rfl).trans raises, fun quiet framed => ?_⟩
  have entered := raise_enters (x := .sync 3 6 (target.setWidth 64)) (pc := x.pc) issues.stays quiet framed (show 0 < 8 by decide)
  exact .of_runs (execJalr o s) rfl ⟨_, raises, by rw [sync_word] at entered; exact entered⟩

/-! ## The core address space (Table 03-2) -/

section
variable {s : State} {c : CoreId} {th : ThreadId} {a n : Nat} {write : Bool}

theorem szBytes_bounds (sz : BitVec 3) : 1 ≤ szBytes sz ∧ szBytes sz ≤ 8 := by decide +revert

theorem fpSz_iff (sz : BitVec 3) : fpSz sz = true ↔ sz = 5 ∨ sz = 6 := by decide +revert

theorem badLoadSz_false {sz : BitVec 3} (h : sz ≠ 7) : badLoadSz sz = false := beq_false_of_ne h

theorem badStoreSz_false {sz : BitVec 3} (one : sz ≠ 1) (three : sz ≠ 3) (seven : sz ≠ 7) : badStoreSz sz = false := by
  rw [badStoreSz, beq_false_of_ne one, beq_false_of_ne three, beq_false_of_ne seven]
  rfl

theorem localAddr_issuing (ra : BitVec 5) (disp : BitVec 13) :
    localAddr ((s.issuing c th).core c) th ra disp = localAddr (s.core c) th ra disp := by
  have same : ((s.issuing c th).core c).thread th = ((s.core c).thread th).issuing := thread_issuing
  rw [localAddr, same]
  rfl

theorem watchLocal_issuing : watchLocal ((s.issuing c th).core c) th a n write = watchLocal (s.core c) th a n write := by
  have same : ((s.issuing c th).core c).thread th = ((s.core c).thread th).issuing := thread_issuing
  have ctl : ((s.issuing c th).core c).ctl = (s.core c).ctl := by rw [State.issuing_eq, core_setThread_same]; rfl
  unfold watchLocal watchAt
  rw [same, ctl]
  rfl

/-- What keeps a load or a store of the core address space from its access (R58, R59, R103, R115). -/
def localStop (k : Core) (th : ThreadId) (write : Bool) (a n : Nat) : Option Cause :=
  (localFault write a n).or (watchLocal k th a n write)

section
variable {o : MForm} {x : Cause} {gs fs fw : List (BitVec 5)}

theorem execLd_faults (legal : o.sz ≠ 7) (issues : Issues s o.core o.th [o.ra] [] (if o.sz = 5 ∨ o.sz = 6 then [o.rd] else []))
    (stop : localStop (s.core o.core) o.th false (localAddr (s.core o.core) o.th o.ra o.disp) (szBytes o.sz) = some x) :
    execLd o s = .next (raise o.core o.th x (s.thread o.core o.th).pc (s.issuing o.core o.th)) := by
  have same : ((s.issuing o.core o.th).core o.core).thread o.th = (s.thread o.core o.th).issuing := thread_issuing
  rw [localStop] at stop
  rw [execLd, badLoadSz_false legal]
  simp only [fpSz_iff]
  rw [if_neg (by decide), issue_runs issues]
  simp only [localAddr_issuing, watchLocal_issuing, stop, same]
  rfl

theorem execLd_loads (legal : o.sz ≠ 7) (issues : Issues s o.core o.th [o.ra] [] (if o.sz = 5 ∨ o.sz = 6 then [o.rd] else []))
    (free : localStop (s.core o.core) o.th false (localAddr (s.core o.core) o.th o.ra o.disp) (szBytes o.sz) = none) :
    execLd o s = .next (
      let a := localAddr (s.core o.core) o.th o.ra o.disp
      let data := localRead (s.issuing o.core o.th) o.core a (szBytes o.sz)
      finishLoad o.core o.th a data
        ((s.issuing o.core o.th).modCore o.core fun k => k.loadReg o.th o.rd o.sz (natOfMarked data))) := by
  rw [localStop] at free
  rw [execLd, badLoadSz_false legal]
  simp only [fpSz_iff]
  rw [if_neg (by decide), issue_runs issues]
  simp only [localAddr_issuing, watchLocal_issuing, free]

theorem execSt_faults (one : o.sz ≠ 1) (three : o.sz ≠ 3) (seven : o.sz ≠ 7)
    (issues : Issues s o.core o.th (if o.sz = 5 ∨ o.sz = 6 then [o.ra] else [o.ra, o.rd]) (if o.sz = 5 ∨ o.sz = 6 then [o.rd] else []) [])
    (stop : localStop (s.core o.core) o.th true (localAddr (s.core o.core) o.th o.ra o.disp) (szBytes o.sz) = some x) :
    execSt o s = .next (raise o.core o.th x (s.thread o.core o.th).pc (s.issuing o.core o.th)) := by
  have same : ((s.issuing o.core o.th).core o.core).thread o.th = (s.thread o.core o.th).issuing := thread_issuing
  rw [localStop] at stop
  rw [execSt, badStoreSz_false one three seven]
  simp only [fpSz_iff]
  rw [if_neg (by decide), issue_runs issues]
  simp only [localAddr_issuing, watchLocal_issuing, stop, same]
  rfl

theorem execSt_stores (one : o.sz ≠ 1) (three : o.sz ≠ 3) (seven : o.sz ≠ 7)
    (issues : Issues s o.core o.th (if o.sz = 5 ∨ o.sz = 6 then [o.ra] else [o.ra, o.rd]) (if o.sz = 5 ∨ o.sz = 6 then [o.rd] else []) [])
    (free : localStop (s.core o.core) o.th true (localAddr (s.core o.core) o.th o.ra o.disp) (szBytes o.sz) = none) :
    execSt o s = .next (localWrite o.core o.th (localAddr (s.core o.core) o.th o.ra o.disp)
      (((s.issuing o.core o.th).core o.core).storeBytes o.th o.rd o.sz) (retire o.core o.th false (s.issuing o.core o.th))) := by
  rw [localStop] at free
  rw [execSt, badStoreSz_false one three seven]
  simp only [fpSz_iff]
  rw [if_neg (by decide), issue_runs issues]
  simp only [localAddr_issuing, watchLocal_issuing, free]

end

/-- The five rows of Table 03-2. -/
theorem row_cases (b : Nat) :
    (b < 0x100000 ∧ addressRow b = 0 ∧ localRow b = .dls) ∨ (0x100000 ≤ b ∧ b < 0x120000 ∧ addressRow b = 1 ∧ localRow b = .istore) ∨
    (0x120000 ≤ b ∧ b < 0x200000 ∧ addressRow b = 2 ∧ localRow b = .hole) ∨
    (0x200000 ≤ b ∧ b < 0x210000 ∧ addressRow b = 3 ∧ localRow b = .page) ∨
    (0x210000 ≤ b ∧ addressRow b = 4 ∧ localRow b = .hole) := by
  unfold addressRow localRow
  split_ifs <;> simp <;> omega

/-- An access that crosses into another row takes the fault of the row of its last byte (R59). -/
theorem localFault_straddles (some_byte : 1 ≤ n) (small : n ≤ 8) (rows : addressRow a ≠ addressRow (a + n - 1)) :
    localFault write a n = some (if write = true ∧ addressRow (a + n - 1) = 1 then .sync 14 1 (BitVec.ofNat 64 a)
      else .sync (if write then 6 else 5) (if addressRow (a + n - 1) = 3 then 2 else 1) (BitVec.ofNat 64 a)) := by
  have page_word (first : a < 0x200000) (last : 0x200000 ≤ a + n - 1) : ¬(n = 4 ∧ a % 4 = 0) := by omega
  rcases row_cases a with ⟨_, ra, la⟩ | ⟨_, _, ra, la⟩ | ⟨_, _, ra, la⟩ | ⟨_, _, ra, la⟩ | ⟨_, ra, la⟩ <;>
    rcases row_cases (a + n - 1) with ⟨_, rl, ll⟩ | ⟨_, _, rl, ll⟩ | ⟨_, _, rl, ll⟩ | ⟨_, _, rl, ll⟩ | ⟨_, rl, ll⟩ <;>
    try omega
  case inl.inr.inl => cases write <;> simp [localFault, la, ll, rl]
  case inr.inl.inr.inr.inl => simp [localFault, la, ll, rl]
  case inr.inr.inl.inr.inr.inr.inl => simp [localFault, la, ll, rl, page_word (by assumption) (by assumption)]
  case inr.inr.inr.inl.inr.inr.inr.inr => simp [localFault, la, ll, rl]

end

/-- Settles O9: a load or store that has issued by `execLd_faults` and `execSt_faults`, its fault by `localFault_straddles`. -/
theorem straddlingAccessesTrap : Obligations.StraddlingAccessesTrap := by
  unfold Obligations.StraddlingAccessesTrap
  intro o s issues x a last trap _ rows
  obtain ⟨some_byte, small⟩ := szBytes_bounds o.sz
  have stop (write : Bool) : localStop (s.core o.core) o.th write a (szBytes o.sz) =
      some (if write = true ∧ addressRow last = 1 then .sync 14 1 (BitVec.ofNat 64 a)
        else .sync (if write then 6 else 5) (if addressRow last = 3 then 2 else 1) (BitVec.ofNat 64 a)) := by
    rw [localStop, localFault_straddles some_byte small rows]
    rfl
  refine ⟨fun seven => ?load, fun one three seven issues => ⟨fun store => ?into, fun others => ?store⟩⟩
  case load => exact (show exec (.ld o) s = execLd o s from rfl).trans (execLd_faults seven issues ((stop false).trans (by simp)))
  case into => exact (show exec (.st o) s = execSt o s from rfl).trans (execSt_faults one three seven issues ((stop true).trans (by simp [store])))
  case store => exact (show exec (.st o) s = execSt o s from rfl).trans (execSt_faults one three seven issues ((stop true).trans (by simp [others])))

end Sys2Proof.Machine
end

section
/-!
PROOFS. The obligation on traps writes a shift immediate as a natural number. One whose low 16 bits are zero and whose higher bits are not is
the legal immediate 0, so that the shift does not trap (R67, R68).
-/

namespace Sys2Proof.Machine

/-- A module at reset, but that h0 of core 0 runs and has room for frames. -/
def runningState : State := State.reset.setThread 0 0 { Thread.reset with run := true, esp := 0x1000, esphi := 0xFFFFF }

theorem runningState_issues : Issues runningState 0 0 [0] [] [] where
  ready := by decide
  free := rfl
  parity := rfl
  step := rfl

theorem runningState_framed : Framed (runningState.thread 0 0) := by
  refine ⟨?_, ?_, ?_, ?_, ?_⟩ <;> decide

/-- SLLI by 0 completes and goes on at the next word. -/
theorem runningState_shifts : Completes (.slli ⟨0, 0, 0, 0, 0⟩) runningState fun t => (t.thread 0 0).pc = 0x104 := by
  obtain ⟨t, runs, x, wrote, pc, lc, resv, rfl, goes⟩ := completes_aluImm (i := .slli ⟨0, 0, 0, 0, 0⟩) (o := ⟨0, 0, 0, 0, 0⟩)
    (show exec _ runningState = execSlli ⟨0, 0, 0, 0, 0⟩ runningState from rfl) rfl runningState_issues rfl
  have kept : x.pc = 0x100 ∧ x.lc = .empty := by rw [wrote.2]; exact ⟨rfl, rfl⟩
  have next : pc = x.pc + 4 := (goes fun k _ => by rw [kept.2]; rfl).1
  exact ⟨_, runs, (congrArg Thread.pc (thread_setThread_same ..)).trans (by rw [next, kept.1]; rfl)⟩

/-- Refutes O19: its first clause asks a trap of SLLI with the immediate 0x10000, which is 0 in the 16 bits of the field. -/
theorem not_scalarTraps : ¬ Obligations.ScalarTraps := by
  unfold Obligations.ScalarTraps
  intro holds
  obtain ⟨shifts, -⟩ := holds runningState 0 0 (fun _ => ⟨rfl, rfl, rfl, rfl⟩) runningState_framed
  obtain ⟨⟨t, runs, ⟨thread, -⟩, -⟩, -⟩ := shifts 0 0 0x10000 runningState_issues (by decide)
  obtain ⟨t', runs', pc⟩ := runningState_shifts
  obtain rfl : t = t' := Host.Outcome.next.inj (runs.symm.trans runs')
  have vector : (t.thread 0 0).pc = 0x160 := congrArg Thread.pc thread
  exact absurd (vector.symm.trans pc) (by decide)

end Sys2Proof.Machine
end

section
/-!
PROOFS. TRAP (R78, R87, R106).
-/

namespace Sys2Proof.Machine

section
variable {s : State} {c : CoreId} {th : ThreadId} {x : Cause}

/-- The thread that an instruction without a register result leaves when it is over. -/
theorem issuing_retire (run : (s.thread c th).run = true) (alu : Bool) :
    retire c th alu (s.issuing c th) = s.setThread c th (retireThread alu (s.thread c th).issuing) :=
  issuing_modThread run (by rw [retireThread_run]; exact run)

/-- A cause that follows the completion of an instruction, taken at once (R78, R115). -/
theorem issuing_retireThen (run : (s.thread c th).run = true) (stays : (s.core c).ctl.stopping = false) (quiet : Quiet s c th)
    (framed : Framed (s.thread c th)) :
    let y := retireThread false (s.thread c th).issuing
    retireThen c th x (s.issuing c th) = (s.setThread c th y).entry c th x y.pc false := by
  intro y
  obtain ⟨went, -⟩ := retireThread_went false (s.thread c th)
  have framed' : Framed y := by
    show Framed (retireThread false (s.thread c th).issuing)
    rw [show retireThread false (s.thread c th).issuing = _ from went]
    exact framed
  rw [retireThen, issuing_retire run, takeLater, thread_setThread_same, takeException_quiet, Option.getD_some]
  · rw [core_setThread_same]; exact stays
  · intro zero; rw [core_setThread_same]; exact quiet zero
  · rw [thread_setThread_same]; exact framed'

end

section
variable {s t : State} {c : CoreId} {th : ThreadId} {x y : Thread} {vec src : Nat} {cause : Word} {ea : DWord} {pc : BitVec 17} {parked : Bool}

/-- An entry does not tell where a thread that went on stood before it, but for its loop counts. -/
theorem Entered.of_went (went : WentOn x y) (h : Entered s t c th y vec cause ea pc src parked) :
    Entered s t c th { x with lc := y.lc } vec cause ea pc src parked := by
  obtain ⟨frame, -⟩ := went
  generalize hlc : y.lc = lc at frame ⊢
  generalize y.pc = pc' at frame
  generalize y.resv = resv at frame
  subst frame
  exact h

/-- What an entry leaves to its caller: the NMI latch, what an NMI set aside, the pending notices. -/
theorem enter_kept {cause : Cause} (went : WentOn x y) : enter th cause pc 0 false y = { enter th cause pc 0 false y with
    nmiReq := x.nmiReq, nmiSrc := x.nmiSrc, aside := x.aside, beatPend := x.beatPend, movPend := x.movPend, rsmPend := x.rsmPend
    thrPend := x.thrPend, took := false } := by
  obtain ⟨frame, -⟩ := went
  generalize y.pc = pc at frame
  generalize y.lc = lc at frame
  generalize y.resv = resv at frame
  subst frame
  rfl

end

/-- Settles O16: the entry of `issuing_retireThen`, from the thread that `retireThread_follows` describes. -/
theorem trapEntersVector11 : Obligations.TrapEntersVector11 := by
  unfold Obligations.TrapEntersVector11
  intro s o x n issues quiet framed
  let cause : Cause := ⟨11, 0, 0, o.arg, false, false, 0⟩
  let y := retireThread false x.issuing
  obtain ⟨(pc : y.pc = n.1), counts⟩ : FollowsLoopRule x y x.pc := retireThread_follows false x.issuing
  have word : cause.word = BitVec.ofNat 32 (o.arg.toNat * 2 ^ 20 + 11) := by simp [cause, Cause.word, bit]
  have went : WentOn x y := retireThread_went false x
  have runs : execTrap o s = .next ((s.setThread o.core o.th y).entry o.core o.th cause n.1 false) := by
    rw [execTrap, issue_runs issues, issuing_retireThen issues.run issues.stays quiet framed, ← pc]
  have thread : (s.setThread o.core o.th y).thread o.core o.th = y := thread_setThread_same ..
  have core : (s.setThread o.core o.th y).core o.core = (s.core o.core).setThread o.th y := core_setThread_same ..
  have entered := (entry_entered (s := s.setThread o.core o.th y) (c := o.core) (th := o.th) (x := cause) (pc := n.1) (parked := false)
    (fun zero => by rw [core]; exact quiet zero) (show 0 < 8 by decide)).of_setThread
  rw [thread, word] at entered
  refine .of_runs (execTrap o s) rfl ⟨_, runs, { x with lc := y.lc }, y.lc, ?entered, rfl, counts, ?kept, ?ctl, ?causes, ?binds⟩
  case entered => exact entered.of_went went
  case kept => rw [entry_thread, thread]; exact enter_kept went
  case ctl => rw [entry_ctl, core, Core.setThread_ctl]
  case causes => rw [entry_causes, core, Core.setThread_causes]
  case binds => exact entry_binds

end Sys2Proof.Machine
end

section
/-!
PROOFS. Spans, fences, patches, waits and the control page (R54, R61, R62, R82, R87, R88, R98 to R100, R258).
-/

namespace Sys2Proof.Machine

section
variable {s : State} {c : CoreId} {th : ThreadId} {gs fs fw : List (BitVec 5)}

/-! ## What an issuing thread leaves of its core -/

theorem Issues.blocked (h : Issues s c th gs fs fw) : (s.thread c th).blocked = none := by
  have ready : Machine.ready s c th = true := h.ready
  simp only [Machine.ready, Bool.and_eq_true, Option.isNone_iff_eq_none] at ready
  exact ready.1.1.1.1.2

theorem core_issuing : (s.issuing c th).core c = (s.core c).setThread th (s.thread c th).issuing := core_setThread_same ..

theorem issuing_sibling {h : ThreadId} (other : h ≠ th) : (s.issuing c th).thread c h = s.thread c h := by
  rw [State.thread, core_issuing]
  exact Core.thread_setThread_other _ _ other

/-- A change that leaves core c of an issuing thread as it is leaves the state. -/
theorem issuing_modCore_fixed {f : Core → Core} (run : (s.thread c th).run = true) (fixed : f ((s.issuing c th).core c) = (s.issuing c th).core c) :
    (s.issuing c th).modCore c f = s.issuing c th := by
  have running : (((s.core c).setThread th (s.thread c th).issuing).thread th).run = true := by rw [Core.thread_setThread_same]; exact run
  rw [State.modCore, fixed, core_issuing]
  exact setCore_setCore running running

/-! ## What is over leaves the rest as it was -/

section
variable {w : State} {alu : Bool} {y : Thread}

theorem OnlyCore.trans {t u : State} (h : OnlyCore s t c) (h' : OnlyCore t u c) : OnlyCore s u c :=
  ⟨by rw [h'.1, h.1], fun d other => (h'.2 d other).trans (h.2 d other)⟩

theorem onlyCore_setCore (k : Core) : OnlyCore s (s.setCore c k) c := ⟨rfl, fun _ other => core_setCore_other _ _ other⟩

theorem onlyCore_issuing : OnlyCore s (s.issuing c th) c := onlyCore_setCore _

theorem OnlyCore.retire (h : OnlyCore s w c) : OnlyCore s (retire c th alu w) c := h.trans (onlyCore_setCore _)

/-- Core `k`, whose thread th had become `y`, once the instruction is over. -/
theorem retire_core {k : Core} (stood : w.core c = k.setThread th y.issuing) :
    WentOn y ((retire c th alu w).thread c th) ∧ (∀ h, h ≠ th → (retire c th alu w).thread c h = k.thread h) ∧
    ∃ threads, (retire c th alu w).core c = { k with threads := threads } := by
  have thread : w.thread c th = y.issuing := by rw [State.thread, stood, Core.thread_setThread_same]
  have core : (retire c th alu w).core c = (k.setThread th y.issuing).setThread th (retireThread alu y.issuing) := by
    rw [retire, State.modThread, core_setThread_same, thread, stood]
  refine ⟨?_, fun h other => ?_, ?_⟩
  · rw [State.thread, core, Core.thread_setThread_same]
    exact retireThread_went alu y
  · rw [State.thread, core, Core.thread_setThread_other _ _ other, Core.thread_setThread_other _ _ other]
  · exact ⟨_, core⟩

end

end

/-! ## Spans (R54, R70) -/

section
variable {s : State} {c : CoreId} {n : BitVec 4} {p : Span}

theorem Core.span_setSpan (k : Core) (m : BitVec 4) : (k.setSpan n p).span m = if m = n then p else k.span m := by
  simp only [span, setSpan, Table.get_set, BitVec.toNat_inj]

theorem spanBad_h0 {bad z : Bool} (assigned : bad = false) (zero : z = false) : spanBad 0 bad z = none := by
  rw [assigned, zero]; rfl

end

/-- Settles O10: SPAN by `Core.span_setSpan` and the frame of `retire`, SPANR as a write of g[rd]. -/
theorem spanRegisters : Obligations.SpanRegisters := by
  unfold Obligations.SpanRegisters
  intro s c n ra rb rd scale sel x
  refine ⟨fun issues seven => ?span, fun issues three => ?spanr⟩
  case span =>
    let o : SpanForm := ⟨c, 0, n, ra, rb, scale, 0⟩
    let p : Span := ⟨(x.rg rb).append (x.rg ra), scale⟩
    let w := (s.issuing c 0).modCore c fun k => k.setSpan n p
    have runs : execSpan o s = .next (retire c 0 false w) := by
      rw [execSpan, spanBad_h0 (beq_false_of_ne seven) (nonzero_zero rfl), issue_runs issues, thread_issuing]
      rfl
    have core : w.core c = (((s.core c).setSpan n p).setThread 0 x.issuing) := by
      rw [core_modCore_same, core_issuing]; rfl
    obtain ⟨went, siblings, threads, rest⟩ := retire_core (alu := false) core
    refine .of_runs (execSpan o s) rfl ⟨_, runs, fun m => ?_, (onlyCore_issuing.trans (onlyCore_setCore _)).retire, went, siblings, ?_⟩
    · rw [rest]
      exact Core.span_setSpan _ m
    · rw [rest]
      rfl
  case spanr =>
    let o : SpanrForm := ⟨c, 0, rd, n, sel, 0⟩
    have runs : execSpanr o s = .next (writeG c 0 rd false (if sel = 0 then ((s.core c).span n).base.setWidth 32
        else if sel = 1 then (((s.core c).span n).base >>> 32).setWidth 32 else ((s.core c).span n).scale.setWidth 32) (s.issuing c 0)) := by
      rw [execSpanr, spanBad_h0 (beq_false_of_ne three) (nonzero_zero rfl), issue_runs issues, core_issuing]
      rfl
    exact .of_runs (execSpanr o s) rfl ⟨_, runs, writeG_writes issues.run⟩

/-! ## Fences, patches and waits (R82, R88, R98, R99, R258) -/

section
variable {s : State} {c : CoreId} {th : ThreadId}

/-- A change of thread th that leaves it as it is. -/
theorem issuing_modThread_fixed {f : Thread → Thread} (run : (s.thread c th).run = true)
    (fixed : f (s.thread c th).issuing = (s.thread c th).issuing) : (s.issuing c th).modThread c th f = s.issuing c th := by
  rw [issuing_modThread run (by rw [fixed]; exact run), fixed]
  rfl

theorem issuing_hub : (s.issuing c th).hub = s.hub := modThread_hub ..

theorem outstanding_issuing (who : Who) : outstanding (s.issuing c th) who = outstanding s who := by rw [outstanding, outstanding, issuing_hub]

theorem writing_issuing (who : Who) : writing (s.issuing c th) who = writing s who := by rw [writing, writing, issuing_hub]

theorem drainAll_empty {k : Core} (empty : k.mem.mbuf = []) : k.drainAll = k := by
  rw [Core.drainAll, empty, List.map_nil, ← empty]

theorem fenceOver_drained {g : Bool} (empty : (s.core c).mem.mbuf = []) (idle : (s.core c).mem.win.busy = false)
    (performed : outstanding s (.mbuf c) = false) (queues : g = true → storesQueued (s.core c) = false ∧
      writing s (.vector c) = false ∧ writing s (.matrix c) = false) : fenceOver s c g = true := by
  rw [fenceOver, empty, idle, performed]
  cases g with
  | false => rfl
  | true =>
    obtain ⟨stores, vector, matrix⟩ := queues rfl
    simp only [stores, vector, matrix]
    rfl

/-- A fence that waits for nothing goes on. -/
theorem startFence_over {g : Bool} {a : At} (run : (s.thread a.core a.th).run = true) (free : (s.thread a.core a.th).blocked = none)
    (empty : (s.core a.core).mem.mbuf = []) (done : fenceOver (s.issuing a.core a.th) a.core g = true) :
    startFence a g (s.issuing a.core a.th) = retire a.core a.th false (s.issuing a.core a.th) := by
  rw [startFence, issuing_modCore_fixed run (drainAll_empty (by rw [core_issuing]; exact empty)), attemptFence, if_pos done,
    issuing_modThread_fixed run]
  rw [Thread.issuing, free]

theorem storesQueued_quiet {k : Core} (vq : k.vec.queue = []) (vs : k.vec.started = []) (mq : k.mat.queue = []) (ms : k.mat.started = []) :
    storesQueued k = false := by
  simp only [storesQueued, Core.vecAll, Core.matAll, vq, vs, mq, ms]
  rfl

theorem finishesCore_enabled {k : Core} (enabled : th = 0 → (k.thread 0).eien ≠ 0) : finishesCore k th = false := by
  unfold finishesCore
  by_cases zero : th = 0
  · rw [beq_false_of_ne (enabled zero)]
    simp only [Bool.and_false, Bool.false_and]
  · rw [decide_eq_false zero]
    rfl

/-- A thread whose patches have reached the instruction store. -/
def Thread.patched (x : Thread) : Thread := { x with patchQ := [] }

/-- A thread with one more patch in its queue. -/
def Thread.patching (x : Thread) (off : BitVec 17) (v : Word) : Thread := { x with patchQ := x.patchQ ++ [(off, v)] }

/-- A core whose instruction store holds the patches of a queue. -/
def Core.patched (k : Core) (l : List (BitVec 17 × Word)) (bad : Table Bool) : Core :=
  { k with mem := { k.mem with istore := l.foldl (fun m p => m.writeNat p.1.toNat 4 p.2.toNat) k.mem.istore, badParity := bad } }

/-- The queued patches reach the instruction store in order, and nothing else of the core changes but the parity of their words. -/
theorem foldl_storeWord (l : List (BitVec 17 × Word)) (k : Core) :
    ∃ bad, l.foldl (fun (k : Core) p => k.storeWord p.1 p.2) k = k.patched l bad := by
  induction l generalizing k with
  | nil => exact ⟨_, rfl⟩
  | cons p r ih => exact ih _

theorem execIfence_patches {o : At} (issues : Issues s o.core o.th [] [] []) : ∃ w bad, execIfence o s = .next (retire o.core o.th false w) ∧
    OnlyCore s w o.core ∧
    w.core o.core = ((s.core o.core).patched (s.thread o.core o.th).patchQ bad).setThread o.th (s.thread o.core o.th).patched.issuing := by
  obtain ⟨bad, written⟩ := foldl_storeWord (s.thread o.core o.th).patchQ ((s.core o.core).setThread o.th (s.thread o.core o.th).issuing)
  let u := (s.issuing o.core o.th).modCore o.core fun k => (s.thread o.core o.th).patchQ.foldl (fun (k : Core) p => k.storeWord p.1 p.2) k
  have core : u.core o.core = ((s.core o.core).patched (s.thread o.core o.th).patchQ bad).setThread o.th (s.thread o.core o.th).issuing := by
    rw [core_modCore_same, core_issuing, written]
    rfl
  have thread : u.thread o.core o.th = (s.thread o.core o.th).issuing := by rw [State.thread, core, Core.thread_setThread_same]
  refine ⟨u.modThread o.core o.th Thread.patched, bad, ?_, (onlyCore_issuing.trans (onlyCore_setCore _)).trans (onlyCore_setCore _), ?_⟩
  · rw [execIfence, issue_runs issues, thread_issuing]
    rfl
  · rw [core_modThread_same, thread, core]
    exact Core.setThread_setThread issues.run issues.run

theorem execPatch_queues {o : SysForm} (issues : Issues s o.core o.th [o.ra, o.rd] [] [])
    (word : ((s.thread o.core o.th).rg o.ra).toNat % 4 = 0) (inside : ((s.thread o.core o.th).rg o.ra).toNat ≤ 0x1FFFC)
    (room : (s.thread o.core o.th).patchQ.length < 8) :
    execPatch o s = .next (retire o.core o.th false (s.setThread o.core o.th
      ((s.thread o.core o.th).patching (((s.thread o.core o.th).rg o.ra).setWidth 17) ((s.thread o.core o.th).rg o.rd)).issuing)) := by
  have place : ¬(((s.thread o.core o.th).issuing.rg o.ra).toNat % 4 ≠ 0 ∨ 0x1FFFC < ((s.thread o.core o.th).issuing.rg o.ra).toNat) := by
    rintro (off | beyond)
    · exact off word
    · exact absurd beyond (Nat.not_lt.2 inside)
  rw [execPatch, issue_runs issues, thread_issuing]
  refine congrArg Host.Outcome.next ((if_neg place).trans ((if_neg (Nat.not_le.2 room)).trans (congrArg _ ?_)))
  exact issuing_modThread issues.run issues.run

/-- A thread that waits. -/
def Thread.waits (x : Thread) : Thread := { x with waiting := true }

theorem beginWait_waits (run : (s.thread c th).run = true) (enabled : (s.thread c th).eien ≠ 0) :
    beginWait c th (s.issuing c th) = s.setThread c th (retireThread false (s.thread c th).issuing).waits := by
  have stays : finishesCore ((s.issuing c th).core c) th = false := finishesCore_enabled fun zero => by
    rw [core_issuing, ← zero, Core.thread_setThread_same]
    exact enabled
  rw [beginWait, stays, issuing_retire run, if_neg Bool.false_ne_true, State.modThread, thread_setThread_same]
  have runs : (retireThread false (s.thread c th).issuing).run = true := (retireThread_run ..).trans run
  exact setThread_setThread runs runs

end

/-- Settles O13: fences by `startFence_over`, IFENCE by `foldl_storeWord`, the others by what they make of their thread. -/
theorem fencesPatchesAndWaits : Obligations.FencesPatchesAndWaits := by
  unfold Obligations.FencesPatchesAndWaits
  intro s c th rd ra arg k x onward drained
  have went (run : x.run = true) : onward (retire c th false (s.issuing c th)) := retire_retires false run
  refine ⟨fun issues => ⟨?fence, ?fenceG, ?ifence, ?wait⟩, ?patch, ?wake⟩
  case fence =>
    rintro ⟨empty, idle, performed⟩
    have done : fenceOver (s.issuing c th) c false = true := fenceOver_drained (by rw [core_issuing]; exact empty)
      (by rw [core_issuing]; exact idle) (by rw [outstanding_issuing]; exact performed) (fun general => absurd general (by decide))
    have runs : execFence ⟨c, th⟩ s = .next (retire c th false (s.issuing c th)) := by
      rw [execFence, issue_runs issues, startFence_over (a := ⟨c, th⟩) issues.run issues.blocked empty done]
    exact .of_runs (execFence ⟨c, th⟩ s) rfl ⟨_, runs, went issues.run⟩
  case fenceG =>
    rintro ⟨empty, idle, performed⟩ quiet vector matrix
    obtain ⟨vq, vs, mq, ms⟩ := quiet rfl
    have done : fenceOver (s.issuing c th) c true = true := fenceOver_drained (by rw [core_issuing]; exact empty)
      (by rw [core_issuing]; exact idle) (by rw [outstanding_issuing]; exact performed)
      (fun _ => ⟨by rw [core_issuing]; exact storesQueued_quiet vq vs mq ms,
        by rw [writing_issuing]; exact vector, by rw [writing_issuing]; exact matrix⟩)
    have runs : execFenceG ⟨c, th⟩ s = .next (retire c th false (s.issuing c th)) := by
      rw [execFenceG, issue_runs issues, startFence_over (a := ⟨c, th⟩) issues.run issues.blocked empty done]
    exact .of_runs (execFenceG ⟨c, th⟩ s) rfl ⟨_, runs, went issues.run⟩
  case ifence =>
    obtain ⟨w, bad, runs, only, core⟩ := execIfence_patches (o := ⟨c, th⟩) issues
    obtain ⟨went, siblings, threads, rest⟩ := retire_core (alu := false) core
    refine .of_runs (execIfence ⟨c, th⟩ s) rfl ⟨_, runs, ?_, went, only.retire, siblings, ?_⟩
    · rw [rest]
      rfl
    · rw [rest]
      rfl
  case wait =>
    intro enabled
    have runs : execWait ⟨c, th⟩ s = .next (s.setThread c th (retireThread false x.issuing).waits) := by
      rw [execWait, issue_runs issues, beginWait_waits issues.run enabled]
    obtain ⟨frame, goes⟩ := retireThread_went false x
    exact .of_runs (execWait ⟨c, th⟩ s) rfl ⟨_, runs, _, _, _, congrArg (fun y => s.setThread c th y.waits) frame, goes⟩
  case patch =>
    intro issues word inside room
    exact .of_runs (execPatch ⟨c, th, rd, ra, arg⟩ s) rfl ⟨_, execPatch_queues issues word inside room, retire_retires false issues.run⟩
  case wake =>
    intro waiting pending
    have due : (x.waiting && (x.nmiReq || x.estat.getLsbD 2 || (pendingInterrupt k th).isSome)) = true := by
      rw [waiting, Bool.true_and, Bool.or_assoc, Bool.or_eq_true, Bool.or_eq_true]
      exact pending
    exact .of_runs (execWaitWake ⟨c, th⟩ s) rfl ⟨_, if_pos due, rfl⟩

end Sys2Proof.Machine
end

section
/-!
PROOFS. The control page (R61, R62, R100, R101, R102).
-/

namespace Sys2Proof.Machine

section
variable {k : Core} {φ : Nat → Thread → Thread} {step : Core → Nat → Core}

/-- `step` makes `φ h` of thread h and leaves the rest of the core. -/
def StepsThreads (step : Core → Nat → Core) (φ : Nat → Thread → Thread) : Prop := ∀ (k : Core) (h : Nat),
  (∃ threads, step k h = { k with threads := threads }) ∧
    ∀ g, (step k h).thread g = if g = BitVec.ofNat 2 h then φ h (k.thread g) else k.thread g

theorem StepsThreads.fold (steps : StepsThreads step φ) (k : Core) :
    (∃ threads, [1, 2, 3].foldl step k = { k with threads := threads }) ∧
      ∀ g, ([1, 2, 3].foldl step k).thread g = if g ≠ 0 then φ g.toNat (k.thread g) else k.thread g := by
  obtain ⟨⟨t₁, one⟩, first⟩ := steps k 1
  obtain ⟨⟨t₂, two⟩, second⟩ := steps (step k 1) 2
  obtain ⟨⟨t₃, three⟩, third⟩ := steps (step (step k 1) 2) 3
  refine ⟨⟨t₃, ?_⟩, fun g => ?_⟩
  · show step (step (step k 1) 2) 3 = _
    rw [three, two, one]
  · show (step (step (step k 1) 2) 3).thread g = _
    rw [third, second, first]
    have four : g = 0 ∨ g = 1 ∨ g = 2 ∨ g = 3 := by decide +revert
    obtain rfl | rfl | rfl | rfl := four <;> rfl

/-- A thread that changes where a condition holds of it. -/
theorem stepsThreads_modThread (p : Nat → Thread → Bool) (f : Thread → Thread) :
    StepsThreads (fun k h => if p h (k.thread (BitVec.ofNat 2 h)) then k.modThread (BitVec.ofNat 2 h) f else k)
      (fun h x => if p h x then f x else x) := by
  intro k h
  by_cases holds : p h (k.thread (BitVec.ofNat 2 h)) = true
  · refine ⟨⟨_, if_pos holds⟩, fun g => ?_⟩
    simp only [if_pos holds, Core.modThread, Core.thread_setThread]
    split
    next same => rw [same, if_pos holds]
    next => rfl
  · refine ⟨⟨_, if_neg holds⟩, fun g => ?_⟩
    simp only [if_neg holds]
    split
    next same => rw [same, if_neg holds]
    next => rfl

end

/-- Settles O15: THREAD_RUN and THREAD_STOP by `StepsThreads.fold`, SWI and SWI_CLR bit by bit. -/
theorem controlPage : Obligations.ControlPage := by
  unfold Obligations.ControlPage
  intro s c v k
  refine ⟨?run, ?stop, ?swi, ?clear⟩
  case run =>
    obtain ⟨⟨threads, core⟩, thread⟩ := (stepsThreads_modThread (fun h x => v.getLsbD h && !x.run) Thread.started).fold k
    have written : (writeThreadRun c v s).core c = _ := core_modCore_same ..
    refine .of_runs (execThreadRun ⟨c, v⟩ s) rfl ⟨_, rfl, onlyCore_setCore _, by rw [written]; exact core ▸ rfl, fun h => ?_⟩
    have becomes : (writeThreadRun c v s).thread c h = if h ≠ 0 then if (v.getLsbD h.toNat && !(s.thread c h).run) = true then
        (s.thread c h).started else s.thread c h else s.thread c h := by
      rw [State.thread, written]
      exact thread h
    by_cases starts : h ≠ 0 ∧ v.getLsbD h.toNat = true ∧ (s.thread c h).run = false
    · obtain ⟨own, named, still⟩ := starts
      have started : (writeThreadRun c v s).thread c h = (s.thread c h).started := by rw [becomes, if_pos own, named, still]; rfl
      have file (r : BitVec 5) : ((writeThreadRun c v s).core c).rf h r = 0 := by
        rw [Core.rf, if_neg own]
        exact congrArg (fun q : Thread => q.f.get 0 r.toNat) started
      rw [if_pos ⟨own, named, still⟩, started]
      exact ⟨rfl, rfl, fun r => ite_self _, fun _ => file, fun _ _ => rfl, rfl, rfl, rfl, rfl, rfl, rfl⟩
    · rw [if_neg starts, becomes, ← ite_and, if_neg]
      simpa using starts
  case stop =>
    obtain ⟨⟨threads, core⟩, thread⟩ := (stepsThreads_modThread (fun h _ => v.getLsbD h) Thread.stopped).fold k
    have written : (writeThreadStop c v s).core c = _ := core_modCore_same ..
    refine .of_runs (execThreadStop ⟨c, v⟩ s) rfl ⟨_, rfl, onlyCore_setCore _, by rw [written]; exact core ▸ rfl, fun h => ?_⟩
    rw [State.thread, written, ite_and]
    exact thread h
  case swi =>
    have written : (writeSwi c v s).core c = _ := core_modCore_same ..
    refine .of_runs (execSwi ⟨c, v⟩ s) rfl ⟨_, rfl, onlyCore_setCore _, by rw [written], fun h => ?_⟩
    rw [written, BitVec.getLsbD_or, BitVec.getLsbD_setWidth, decide_eq_true h.isLt, Bool.true_and]
  case clear =>
    have written : (writeSwiClr c v s).core c = _ := core_modCore_same ..
    refine .of_runs (execSwiClr ⟨c, v⟩ s) rfl ⟨_, rfl, onlyCore_setCore _, by rw [written], fun h => ?_⟩
    rw [written, BitVec.getLsbD_and, BitVec.getLsbD_not, BitVec.getLsbD_setWidth, decide_eq_true h.isLt, Bool.true_and, Bool.true_and]

end Sys2Proof.Machine
end

section
/-!
PROOFS. The heads of the queues while PM is forced: the obligation on their start asks xcfg.PM = 0 and a state other than SERVICE, but the
precise-state mode that SERVICE forced stays in force until it is left (R127, R468), and then a memory instruction's span fault stops its start.
-/

namespace Sys2Proof.Machine

/-- A VLD of one element at a va whose bits [63:48] are nonzero. -/
def faultingLoad : VInstr :=
  { VInstr.capture .reset .vld with vl := 1, fmt := 1, cfmt := 1, zs := true, base := 0x1000000000000 }

/-- Core 0 with that VLD at the head of its vector queue. -/
def faultingCore : Core := { Core.reset with vec := { VecState.reset with queue := [faultingLoad] } }

/-- A module that left SERVICE for DRAINING, with PM still forced. -/
def forcedState : State := { State.reset.setCore 0 faultingCore with mod := { State.reset.mod with state := .draining, pmForced := true } }

theorem forcedState_pm : pmOf forcedState 0 = true := by decide
theorem faultingLoad_check : faultingLoad.check = none := by decide

/-- p0 admits the one element below vl (R129). -/
theorem faultingLoad_active : activeAll faultingCore faultingLoad = [0] := by
  have all : faultingCore.rp faultingLoad.pm = BitVec.allOnes 1024 := rfl
  have one : faultingLoad.vl.toNat = 1 := rfl
  simp [activeAll, selected, all, one, indices]

theorem faultingLoad_faults : faultingLoad.spanCheck [0] = some 0x1000000000000 := by decide

theorem forcedState_begin : beginV 0 faultingLoad forcedState = (.cause 5 3 0x1000000000000, forcedState) := by
  have core : forcedState.core 0 = faultingCore := rfl
  have memory : pmOf forcedState 0 = true ∧ (faultingLoad.op.kind = .load ∨ (faultingLoad.op.kind == .store) = true) :=
    ⟨forcedState_pm, .inl rfl⟩
  simp only [beginV, faultingLoad_check, if_pos memory, core, faultingLoad_active, faultingLoad_faults]
  rfl

/-- Its start leaves the VLD as the held head, with the fault as a cause, and no check of it passed. -/
theorem forcedState_starts : ((startVector 0 forcedState).core 0).vec.started = [VRun.fresh faultingLoad] := by
  have queue : (forcedState.core 0).vec.queue = [faultingLoad] := rfl
  have starts : canStartV (pmOf forcedState 0) (forcedState.core 0) faultingLoad = true := by decide
  have leads : leadAll 0 faultingLoad forcedState = some forcedState := rfl
  simp only [startVector, queue, starts, leads, forcedState_begin]
  rfl

/-- Refutes O22: the VLD of `forcedState` meets every hypothesis, and does not start. -/
theorem not_queueHeadsStart : ¬ Obligations.QueueHeadsStart := by
  unfold Obligations.QueueHeadsStart
  intro holds
  obtain ⟨vector, -⟩ := holds forcedState 0 rfl rfl rfl (by decide)
  obtain ⟨t, runs, -, -, r, -, -, probed, core⟩ := vector faultingLoad [] rfl rfl faultingLoad_check (fun m none => absurd none List.not_mem_nil)
  obtain rfl : startVector 0 forcedState = t := Host.Outcome.next.inj ((show exec (.vectorStart ⟨0⟩) forcedState = .next (startVector 0 forcedState)
    from rfl).symm.trans runs)
  have head : r = VRun.fresh faultingLoad := by
    have started := forcedState_starts
    rw [core] at started
    exact List.singleton_inj.1 started
  rw [head] at probed
  exact absurd probed (by decide)

end Sys2Proof.Machine
end

section
/-!
PROOFS. Results in f registers, and scalar floating point (R53, R76, R214, R216, R217).
-/

namespace Sys2Proof.Machine

/-! ## f[rd] of a thread (R53) -/

section
variable {k : Core} {th : ThreadId} {rd : BitVec 5} {v : DWord}

/-- The vector register whose low 64 bits are `v` and whose others are those of `a`. -/
def withLow {w : Nat} (a : BitVec w) (v : DWord) : BitVec w := BitVec.ofNat w (a.toNat / 2 ^ 64 * 2 ^ 64 + v.toNat)

theorem withLow_toNat {w : Nat} (wide : 64 ≤ w) (a : BitVec w) (v : DWord) : (withLow a v).toNat = a.toNat / 2 ^ 64 * 2 ^ 64 + v.toNat := by
  obtain ⟨m, rfl⟩ := Nat.exists_eq_add_of_le wide
  rw [withLow, BitVec.toNat_ofNat]
  refine Nat.mod_eq_of_lt ?_
  have small := a.isLt
  rw [pow_add] at small ⊢
  have high : a.toNat / 2 ^ 64 + 1 ≤ 2 ^ m := Nat.div_lt_of_lt_mul small
  have low := v.isLt
  calc a.toNat / 2 ^ 64 * 2 ^ 64 + v.toNat < (a.toNat / 2 ^ 64 + 1) * 2 ^ 64 := by rw [Nat.succ_mul]; omega
    _ ≤ 2 ^ m * 2 ^ 64 := Nat.mul_le_mul_right _ high
    _ = 2 ^ 64 * 2 ^ m := Nat.mul_comm ..

/-- A thread with `v` in f[rd] of its own file. -/
def Thread.wf (x : Thread) (rd : BitVec 5) (v : DWord) : Thread := { x with f := x.f.set 0 rd.toNat v }

theorem wf_h0 (k : Core) (rd : BitVec 5) (v : DWord) : k.wf 0 rd v = k.wv rd (withLow (k.rv rd) v) := if_pos rfl

theorem wf_own (k : Core) (own : th ≠ 0) (rd : BitVec 5) (v : DWord) : k.wf th rd v = k.setThread th ((k.thread th).wf rd v) := if_neg own

theorem wf_wrote (k : Core) (th : ThreadId) (rd : BitVec 5) (v : DWord) : WroteF k (k.wf th rd v) th rd v := by
  by_cases zero : th = 0
  · subst zero
    rw [wf_h0]
    refine ⟨fun r => ?_, fun r => ?_, fun _ => rfl, fun off => absurd rfl off⟩
    · simp only [Core.rf, if_true, Core.rv_wv]
      split
      · apply BitVec.eq_of_toNat_eq
        rw [BitVec.toNat_setWidth, withLow_toNat (by decide), Nat.mul_add_mod_self_right, Nat.mod_eq_of_lt v.isLt]
      · rfl
    · rw [Core.rv_wv]
      split
      next same =>
        apply BitVec.eq_of_toNat_eq
        rw [BitVec.toNat_ushiftRight, BitVec.toNat_ushiftRight, withLow_toNat (by decide), Nat.shiftRight_eq_div_pow, Nat.shiftRight_eq_div_pow,
          Nat.mul_comm, Nat.mul_add_div (by decide), Nat.div_eq_of_lt v.isLt, Nat.add_zero, same]
      · rfl
  · rw [wf_own k zero]
    refine ⟨fun r => ?_, fun r => rfl, fun off => absurd off zero, fun _ => ⟨_, rfl⟩⟩
    simp only [Core.rf, if_neg zero, Core.thread_setThread_same, Thread.wf, Table.get_set, BitVec.toNat_inj]

theorem wf_run : ((k.wf th rd v).thread th).run = (k.thread th).run := by
  by_cases zero : th = 0
  · rw [zero, wf_h0, Core.wv_thread]
  · rw [wf_own k zero, Core.thread_setThread_same]
    rfl

theorem wf_fcsr : ((k.wf th rd v).thread th).fcsr = (k.thread th).fcsr := by
  by_cases zero : th = 0
  · rw [zero, wf_h0, Core.wv_thread]
  · rw [wf_own k zero, Core.thread_setThread_same]
    rfl

theorem setThread_wv (k : Core) (h : ThreadId) (x : Thread) (r : BitVec 5) (a : VReg) : (k.setThread h x).wv r a = (k.wv r a).setThread h x := by
  obtain ⟨threads, vec, mat, mem, ctl, causes⟩ := k
  rfl

/-- A thread that issues and writes f[rd] is one that has written and issues. -/
theorem wf_issuing (run : (k.thread th).run = true) :
    (k.setThread th (k.thread th).issuing).wf th rd v = (k.wf th rd v).setThread th ((k.wf th rd v).thread th).issuing := by
  by_cases zero : th = 0
  · subst zero
    have file : (k.setThread 0 (k.thread 0).issuing).rv rd = k.rv rd := rfl
    rw [wf_h0, wf_h0, Core.wv_thread, file]
    exact setThread_wv ..
  · have ran : ((k.thread th).wf rd v).run = true := run
    rw [wf_own _ zero, wf_own _ zero, Core.thread_setThread_same, Core.thread_setThread_same]
    exact (Core.setThread_setThread (x := (k.thread th).issuing) (y := ((k.thread th).wf rd v).issuing) run ran).trans
      (Core.setThread_setThread (x := (k.thread th).wf rd v) (y := ((k.thread th).wf rd v).issuing) ran ran).symm

end

section
variable {s : State} {c : CoreId} {th : ThreadId} {rd : BitVec 5} {v : DWord} {f : Thread → Thread}

/-- What an issuing instruction that writes f[rd] makes of its thread besides. -/
theorem issuing_wf (run : (s.thread c th).run = true) :
    (s.issuing c th).modCore c (fun k => k.wf th rd v) =
      (s.setCore c ((s.core c).wf th rd v)).setThread c th (((s.core c).wf th rd v).thread th).issuing := by
  have ran : (((s.core c).wf th rd v).thread th).run = true := wf_run.trans run
  have whole : ((s.core c).setThread th (s.thread c th).issuing).wf th rd v = _ := wf_issuing run
  rw [State.modCore, core_issuing, whole, State.setThread, core_setCore_same]
  refine (setCore_setCore (h := th) ?_ ?_).trans (setCore_setCore (h := th) ran ?_).symm
  · rw [Core.thread_setThread_same]; exact run
  · rw [Core.thread_setThread_same]; exact ran
  · rw [Core.thread_setThread_same]; exact ran

theorem writeF_writes {v : DWord} (run : (s.thread c th).run = true) :
    WritesF s (retire c th false ((s.issuing c th).modCore c fun k => k.wf th rd v)) c th rd v := by
  refine ⟨_, wf_wrote .., ?_⟩
  rw [issuing_wf run]
  exact retire_retires false (wf_run.trans run)

end

/-! ## Results and flags (R53, R216, R217) -/

section
variable {s : State} {c : CoreId} {th : ThreadId} {rd : BitVec 5} {flags : BitVec 5} {fl : Bool}

/-- fcsr with what an instruction raised. -/
def accrued (x : Thread) (flags : BitVec 5) (fl : Bool) : Word := x.fcsr ||| flags.setWidth 32 ||| (if fl then 0x800 else 0)

theorem accrue_eq (x : Thread) (flags : BitVec 5) (fl : Bool) : accrue x.fcsr flags fl = accrued x flags fl := by cases fl <;> rfl

/-- No enabled flag is among those raised (R217). -/
def NoTrap (x : Thread) (flags : BitVec 5) (fl : Bool) : Prop := flags &&& (accrued x flags fl >>> 6).setWidth 5 = 0

theorem NoTrap.congr {x y : Thread} (same : y.fcsr = x.fcsr) (quiet : NoTrap x flags fl) : NoTrap y flags fl := by
  rw [NoTrap, accrued, same]
  exact quiet

/-- A floating-point instruction, its result written, is over where no enabled flag traps. -/
theorem fpComplete_retires {x : Thread} (run : x.run = true) (quiet : NoTrap x flags fl) :
    Retires s (fpComplete c th flags fl (s.setThread c th x.issuing)) c th { x with fcsr := accrued x flags fl } := by
  have raised : x.issuing.accrue flags fl = { x with fcsr := accrued x flags fl, took := false } := by
    rw [Thread.accrue, show accrue x.issuing.fcsr flags fl = accrued x flags fl from accrue_eq x flags fl]
    rfl
  have flagged : (s.setThread c th x.issuing).modThread c th (fun y => y.accrue flags fl) =
      s.setThread c th { x with fcsr := accrued x flags fl, took := false } := by
    rw [State.modThread, thread_setThread_same, raised]
    exact setThread_setThread run run
  have none : trapMask (accrued x flags fl) flags = 0 := by
    rw [trapMask, show flags &&& (accrued x flags fl >>> 6).setWidth 5 = 0 from quiet]
    rfl
  simp only [fpComplete, flagged, thread_setThread_same, none, if_true]
  exact retire_retires (x := { x with fcsr := accrued x flags fl }) false run

theorem fpResult_writes {r : FRes} (run : (s.thread c th).run = true) (quiet : NoTrap (s.thread c th) r.flags r.fl) :
    ∃ k, WroteF (s.core c) k th rd (BitVec.ofNat 64 r.bits) ∧ Retires (s.setCore c k) (fpResult c th rd r (s.issuing c th)) c th
      { k.thread th with fcsr := accrued (s.thread c th) r.flags r.fl } := by
  have fcsr : (((s.core c).wf th rd (BitVec.ofNat 64 r.bits)).thread th).fcsr = (s.thread c th).fcsr := wf_fcsr
  have retires := fpComplete_retires (s := s.setCore c ((s.core c).wf th rd (BitVec.ofNat 64 r.bits))) (c := c) (th := th)
    (wf_run.trans run) (quiet.congr fcsr)
  rw [← issuing_wf run, show accrued (((s.core c).wf th rd (BitVec.ofNat 64 r.bits)).thread th) r.flags r.fl =
    accrued (s.thread c th) r.flags r.fl by rw [accrued, fcsr]; rfl] at retires
  exact ⟨_, wf_wrote .., retires⟩

theorem fpToG_writes {v : Nat} (run : (s.thread c th).run = true) (quiet : NoTrap (s.thread c th) flags fl) :
    ∃ y, WroteG (s.thread c th) y rd (BitVec.ofNat 32 v) ∧ Retires s (fpToG c th rd v flags fl (s.issuing c th)) c th
      { y with fcsr := accrued (s.thread c th) flags fl } := by
  have ran : ((s.thread c th).wg rd (BitVec.ofNat 32 v)).run = true := by rw [Thread.wg_run]; exact run
  have fcsr : ((s.thread c th).wg rd (BitVec.ofNat 32 v)).fcsr = (s.thread c th).fcsr := Thread.wg_fcsr ..
  have retires := fpComplete_retires (s := s) (c := c) (th := th) ran (quiet.congr fcsr)
  rw [show accrued ((s.thread c th).wg rd (BitVec.ofNat 32 v)) flags fl = accrued (s.thread c th) flags fl by rw [accrued, fcsr]; rfl] at retires
  refine ⟨_, wg_wrote .., ?_⟩
  rw [fpToG, issuing_modThread run (by rw [Thread.wg_run]; exact run), Thread.wg_issuing]
  exact retires

end

/-! ## What each group of instructions runs -/

section
variable {s : State} {c : CoreId} {th : ThreadId}

theorem scalarEnv_issuing : scalarEnv (s.issuing c th) c th = scalarEnv s c th := by
  rw [scalarEnv, thread_issuing]
  rfl

theorem rf_issuing (r : BitVec 5) : ((s.issuing c th).core c).rf th r = (s.core c).rf th r := by
  rw [core_issuing, Core.rf, Core.rf, Core.thread_setThread_same]
  rfl

theorem fpRead_issuing (r : BitVec 5) (dbl : Bool) : ((s.issuing c th).core c).fpRead th r dbl = (s.core c).fpRead th r dbl := by
  rw [Core.fpRead, Core.fpRead, rf_issuing]

theorem fpTwo_runs {o : FForm} {f : Fmt → FEnv → Nat → Nat → FRes} (issues : Issues s o.core o.th [] [o.ra, o.rb] [o.rd]) :
    fpTwo o f s = .next (fpResult o.core o.th o.rd (f (scalarFmt o.dbl) (scalarEnv s o.core o.th)
      ((s.core o.core).fpRead o.th o.ra o.dbl) ((s.core o.core).fpRead o.th o.rb o.dbl)) (s.issuing o.core o.th)) := by
  rw [fpTwo, issue_runs issues, scalarEnv_issuing]
  simp only [fpRead_issuing]

theorem fpTest_runs {o : FForm} {q : FCmp} (issues : Issues s o.core o.th [] [o.ra, o.rb] []) :
    fpTest o q s = .next (
      let r := fCompare (scalarFmt o.dbl) (scalarEnv s o.core o.th) q ((s.core o.core).fpRead o.th o.ra o.dbl)
        ((s.core o.core).fpRead o.th o.rb o.dbl)
      fpToG o.core o.th o.rd (bit r.1) r.2.1 r.2.2 (s.issuing o.core o.th)) := by
  rw [fpTest, issue_runs issues, scalarEnv_issuing]
  simp only [fpRead_issuing]

theorem fpFused_runs {o : FmaForm} {np nc : Bool} (issues : Issues s o.core o.th [] [o.ra, o.rb, o.rc] [o.rd]) :
    fpFused o np nc s = .next (fpResult o.core o.th o.rd (fMadd (scalarFmt o.dbl) (scalarEnv s o.core o.th) np nc
      ((s.core o.core).fpRead o.th o.ra o.dbl) ((s.core o.core).fpRead o.th o.rb o.dbl) ((s.core o.core).fpRead o.th o.rc o.dbl))
      (s.issuing o.core o.th)) := by
  rw [fpFused, issue_runs issues, scalarEnv_issuing]
  simp only [fpRead_issuing]

theorem execFsqrt_runs {o : FForm} (issues : Issues s o.core o.th [] [o.ra] [o.rd]) :
    execFsqrt o s = .next (fpResult o.core o.th o.rd (fSqrt (scalarFmt o.dbl) (scalarEnv s o.core o.th)
      ((s.core o.core).fpRead o.th o.ra o.dbl)) (s.issuing o.core o.th)) := by
  rw [execFsqrt, issue_runs issues, scalarEnv_issuing, fpRead_issuing]

theorem fpConvert_runs {o : FForm} {src : Bool} (issues : Issues s o.core o.th [] [o.ra] [o.rd]) :
    fpConvert o src s = .next (fpResult o.core o.th o.rd (fConvert (scalarFmt src) (scalarFmt !src) (scalarEnv s o.core o.th)
      ((s.core o.core).fpRead o.th o.ra src)) (s.issuing o.core o.th)) := by
  rw [fpConvert, issue_runs issues, scalarEnv_issuing, fpRead_issuing]

theorem execFclass_runs {o : FForm} (issues : Issues s o.core o.th [] [o.ra] []) :
    execFclass o s = .next (fpToG o.core o.th o.rd (fClass (scalarFmt o.dbl) ((s.core o.core).fpRead o.th o.ra o.dbl)) 0 false
      (s.issuing o.core o.th)) := by
  rw [execFclass, issue_runs issues, fpRead_issuing]

theorem fpToInt_runs {o : FForm} {signed : Bool} (issues : Issues s o.core o.th [] [o.ra] []) :
    fpToInt o signed s = .next (
      let r := fToInt (scalarFmt o.dbl) 32 signed (scalarEnv s o.core o.th) ((s.core o.core).fpRead o.th o.ra o.dbl)
      fpToG o.core o.th o.rd r.bits r.flags r.fl (s.issuing o.core o.th)) := by
  rw [fpToInt, issue_runs issues, scalarEnv_issuing]
  simp only [fpRead_issuing]

theorem fpFromInt_runs {o : FForm} {signed : Bool} (issues : Issues s o.core o.th [o.ra] [] [o.rd]) :
    fpFromInt o signed s = .next (fpResult o.core o.th o.rd (intToF (scalarFmt o.dbl) (scalarEnv s o.core o.th)
      (intOfBits 32 signed ((s.thread o.core o.th).rg o.ra).toNat)) (s.issuing o.core o.th)) := by
  rw [fpFromInt, issue_runs issues, scalarEnv_issuing, thread_issuing]
  rfl

theorem execFmvGf_runs {o : FForm} (issues : Issues s o.core o.th [] [o.ra] []) :
    execFmvGf o s = .next (writeG o.core o.th o.rd false (((s.core o.core).rf o.th o.ra).setWidth 32) (s.issuing o.core o.th)) := by
  rw [execFmvGf, issue_runs issues, rf_issuing]

theorem execFmvFg_runs {o : FForm} (issues : Issues s o.core o.th [o.ra] [] [o.rd]) :
    execFmvFg o s = .next (retire o.core o.th false ((s.issuing o.core o.th).modCore o.core fun k =>
      k.wf o.th o.rd (((s.thread o.core o.th).rg o.ra).setWidth 64))) := by
  have same : ((s.issuing o.core o.th).core o.core).thread o.th = (s.thread o.core o.th).issuing := thread_issuing
  rw [execFmvFg, issue_runs issues, State.modCore, State.modCore, same]
  rfl

theorem intOfBits_signed (v : Word) : intOfBits 32 true v.toNat = v.toInt := by
  unfold intOfBits bitsOf
  rw [BitVec.toInt_eq_toNat_cond]
  have small := v.isLt
  generalize v.toNat = n at small ⊢
  by_cases half : 2 * n < 2 ^ 32
  · rw [if_pos half, if_neg]
    simp
    omega
  · rw [if_neg half, if_pos]
    simp
    omega

theorem intOfBits_unsigned (v : Word) : intOfBits 32 false v.toNat = v.toNat := rfl

end

/-- Settles O7: each instruction's value by what it runs, its write and its flags by `fpResult_writes` and `fpToG_writes`. -/
theorem scalarFpResults : Obligations.ScalarFpResults := by
  unfold Obligations.ScalarFpResults
  intro s c th rd ra rb rc dbl x fm env f o m accrued quiet givesF givesG
  have intoF {i : Instr} {r : FRes} (run : x.run = true) (e : Result) (dispatch : exec i s = e)
      (runs : e = .next (fpResult c th rd r (s.issuing c th))) : givesF i r :=
    fun q => .of_runs e dispatch ⟨_, runs, fpResult_writes run q⟩
  have intoG {i : Instr} {v : Nat} {flags : BitVec 5} {fl : Bool} (run : x.run = true) (e : Result) (dispatch : exec i s = e)
      (runs : e = .next (fpToG c th rd v flags fl (s.issuing c th))) : givesG i v flags fl :=
    fun q => .of_runs e dispatch ⟨_, runs, fpToG_writes run q⟩
  refine ⟨fun h => ?two, fun h => ?one, fun h => ?fused, fun h => ?test, fun h => ?toG, fun h => ?fromG⟩
  case two =>
    exact ⟨intoF h.run (execFadd o s) rfl (fpTwo_runs h), intoF h.run (execFsub o s) rfl (fpTwo_runs h),
      intoF h.run (execFmul o s) rfl (fpTwo_runs h), intoF h.run (execFdiv o s) rfl (fpTwo_runs h),
      intoF h.run (execFmin o s) rfl (fpTwo_runs h), intoF h.run (execFmax o s) rfl (fpTwo_runs h),
      intoF h.run (execFsgnj o s) rfl (fpTwo_runs h)⟩
  case one =>
    exact ⟨intoF h.run (execFsqrt o s) rfl (execFsqrt_runs h), intoF h.run (execFcvtDS o s) rfl (fpConvert_runs h),
      intoF h.run (execFcvtSD o s) rfl (fpConvert_runs h)⟩
  case fused =>
    exact ⟨intoF h.run (execFmadd m s) rfl (fpFused_runs h), intoF h.run (execFmsub m s) rfl (fpFused_runs h),
      intoF h.run (execFnmadd m s) rfl (fpFused_runs h), intoF h.run (execFnmsub m s) rfl (fpFused_runs h)⟩
  case test =>
    exact ⟨intoG h.run (execFeq o s) rfl (fpTest_runs h), intoG h.run (execFlt o s) rfl (fpTest_runs h),
      intoG h.run (execFle o s) rfl (fpTest_runs h)⟩
  case toG =>
    refine ⟨intoG h.run (execFclass o s) rfl (execFclass_runs h), intoG h.run (execFcvtW o s) rfl (fpToInt_runs h),
      intoG h.run (execFcvtWu o s) rfl (fpToInt_runs h), ?_⟩
    exact .of_runs (execFmvGf o s) rfl ⟨_, execFmvGf_runs h, writeG_writes h.run⟩
  case fromG =>
    refine ⟨intoF h.run (execFcvtFw o s) rfl ?_, intoF h.run (execFcvtFwu o s) rfl (fpFromInt_runs h), ?_⟩
    · rw [← intOfBits_signed]
      exact fpFromInt_runs h
    · exact .of_runs (execFmvFg o s) rfl ⟨_, execFmvFg_runs h, writeF_writes h.run⟩

end Sys2Proof.Machine
end

section
/-!
PROOFS. Loads and stores of the data local store (R53, R58, R70, R71, R242).
-/

namespace Sys2Proof.Machine

/-! ## Bytes without poison -/

section
variable {k : Core} {a n : Nat} {l : List Byte}

theorem firstPoison_clean (a : Nat) (l : List Byte) : firstPoison [(a, clean l)] = none := by
  have none : (clean l).findIdx? Prod.snd = none := List.findIdx?_eq_none_iff.2 fun p hp => by
    obtain ⟨b, -, rfl⟩ := List.mem_map.1 hp
    rfl
  rw [firstPoison, List.findSome?_cons, none]
  rfl

theorem natOfMarked_clean (l : List Byte) : natOfMarked (clean l) = natOfBytes l := by rw [natOfMarked, plain_clean]

/-- Bytes of the data local store none of whose words is poisoned. -/
theorem dlsRead_clean (k : Core) (healthy : ∀ i < n, k.mem.dlsPoison.get false ((a + i) / 8) = false) :
    k.dlsRead a n = clean (k.mem.dls.readBytes a n) := by
  rw [Core.dlsRead, Memory.readBytes_eq_map, clean, List.map_map]
  exact List.map_congr_left fun i hi => Prod.ext rfl (healthy i (List.mem_range.1 hi))

theorem natOfBytes_lt (l : List Byte) : natOfBytes l < 256 ^ l.length := by
  induction l with
  | nil => exact Nat.one_pos
  | cons b r ih =>
    have byte := b.isLt
    rw [natOfBytes, List.length_cons, Nat.pow_succ']
    omega

theorem dlsNum_lt (k : Core) (a n : Nat) : dlsNum k a n < 256 ^ n := by
  have short : (k.mem.dls.readBytes a n).length = n := by rw [Memory.readBytes_eq_map, List.length_map, indices, List.length_range]
  exact (natOfBytes_lt (k.mem.dls.readBytes a n)).trans_eq (by rw [short])

/-- Byte b of a memory after n bytes of a number have been written at `a`. -/
theorem read_writeBytes_bytesOfNat (m : Memory) (a n v b : Nat) :
    (m.writeBytes a (bytesOfNat n v)).read b = if a ≤ b ∧ b < a + n then BitVec.ofNat 8 (v / 256 ^ (b - a)) else m.read b := by
  split
  next inside =>
    obtain ⟨j, rfl⟩ := Nat.exists_eq_add_of_le inside.1
    have small : j < n := by omega
    rw [read_writeBytes_inside _ _ _ (by rwa [bytesOfNat_length]), bytesOfNat_getD small, Nat.add_sub_cancel_left, pow_mul]
    rfl
  next outside => exact Memory.read_writeBytes_other _ _ _ _ (by rw [bytesOfNat_length]; omega)

end

/-! ## Accesses within the data local store -/

section
variable {s : State} {c : CoreId} {th : ThreadId} {a n : Nat} {write : Bool}

theorem localStop_dls (some_byte : 1 ≤ n) (inside : a + n ≤ 0x100000) (unwatched : watchLocal (s.core c) th a n write = none) :
    localStop (s.core c) th write a n = none := by
  have first : localRow a = .dls := if_pos (by omega)
  have last : localRow (a + n - 1) = .dls := if_pos (by omega)
  rw [localStop, localFault, first, last, unwatched]
  rfl

/-- An LD that meets no watchpoint and no poison (R53, R58, R70). -/
theorem execLd_dls {o : MForm} (legal : o.sz ≠ 7) (issues : Issues s o.core o.th [o.ra] [] (if o.sz = 5 ∨ o.sz = 6 then [o.rd] else []))
    (inside : localAddr (s.core o.core) o.th o.ra o.disp + szBytes o.sz ≤ 0x100000)
    (unwatched : watchLocal (s.core o.core) o.th (localAddr (s.core o.core) o.th o.ra o.disp) (szBytes o.sz) false = none)
    (healthy : ∀ i < szBytes o.sz, (s.core o.core).mem.dlsPoison.get false ((localAddr (s.core o.core) o.th o.ra o.disp + i) / 8) = false) :
    execLd o s = .next (retire o.core o.th false ((s.issuing o.core o.th).modCore o.core fun k => k.loadReg o.th o.rd o.sz
      (dlsNum (s.core o.core) (localAddr (s.core o.core) o.th o.ra o.disp) (szBytes o.sz)))) := by
  obtain ⟨some_byte, -⟩ := szBytes_bounds o.sz
  have row : localRow (localAddr (s.core o.core) o.th o.ra o.disp) = .dls := if_pos (by omega)
  have data : localRead (s.issuing o.core o.th) o.core (localAddr (s.core o.core) o.th o.ra o.disp) (szBytes o.sz) =
      clean ((s.core o.core).mem.dls.readBytes (localAddr (s.core o.core) o.th o.ra o.disp) (szBytes o.sz)) := by
    rw [localRead, row, core_issuing]
    exact dlsRead_clean _ healthy
  rw [execLd_loads legal issues (localStop_dls some_byte inside unwatched)]
  simp only [data, finishLoad, firstPoison_clean, natOfMarked_clean]
  rfl

/-- The bytes that a store of an issuing thread takes from its register. -/
theorem storeBytes_issuing (th : ThreadId) (rd : BitVec 5) (sz : BitVec 3) : ((s.issuing c th).core c).storeBytes th rd sz =
    bytesOfNat (szBytes sz) (if sz = 5 ∨ sz = 6 then ((s.core c).rf th rd).toNat else ((s.thread c th).rg rd).toNat) := by
  have thread : ((s.issuing c th).core c).thread th = (s.thread c th).issuing := thread_issuing
  rw [Core.storeBytes, rf_issuing, thread]
  simp only [fpSz_iff]
  split <;> rfl

/-- The state that an ST leaves (R58, R70, R83, R242). -/
theorem execSt_dls {o : MForm} (one : o.sz ≠ 1) (three : o.sz ≠ 3) (seven : o.sz ≠ 7)
    (issues : Issues s o.core o.th (if o.sz = 5 ∨ o.sz = 6 then [o.ra] else [o.ra, o.rd]) (if o.sz = 5 ∨ o.sz = 6 then [o.rd] else []) [])
    (inside : localAddr (s.core o.core) o.th o.ra o.disp + szBytes o.sz ≤ 0x100000)
    (unwatched : watchLocal (s.core o.core) o.th (localAddr (s.core o.core) o.th o.ra o.disp) (szBytes o.sz) true = none) :
    execSt o s = .next (dlsWrite o.core (localAddr (s.core o.core) o.th o.ra o.disp) (clean (bytesOfNat (szBytes o.sz)
      (if o.sz = 5 ∨ o.sz = 6 then ((s.core o.core).rf o.th o.rd).toNat else ((s.thread o.core o.th).rg o.rd).toNat)))
      (some o.th) (retire o.core o.th false (s.issuing o.core o.th))) := by
  obtain ⟨some_byte, -⟩ := szBytes_bounds o.sz
  have row : localRow (localAddr (s.core o.core) o.th o.ra o.disp) = .dls := if_pos (by omega)
  rw [execSt_stores one three seven issues (localStop_dls some_byte inside unwatched), localWrite, row, storeBytes_issuing]

/-- What a thread's write of the data local store leaves of its core and of the others (R83). -/
theorem dlsWrite_leaves (s : State) (c : CoreId) (th : ThreadId) (a : Nat) (l : List Byte) :
    (∃ threads poison, (dlsWrite c a (clean l) (some th) s).core c = { s.core c with
      threads := threads, mem := { (s.core c).mem with dls := (s.core c).mem.dls.writeBytes a l, dlsPoison := poison } }) ∧
    (dlsWrite c a (clean l) (some th) s).thread c th = s.thread c th ∧
    ∀ h, (dlsWrite c a (clean l) (some th) s).thread c h =
      { s.thread c h with resv := ((dlsWrite c a (clean l) (some th) s).thread c h).resv } := by
  obtain ⟨frame, threads, own⟩ := (s.core c).dlsWrite_frame a (clean l) (some th)
  have core : (dlsWrite c a (clean l) (some th) s).core c = (s.core c).dlsWrite a (clean l) (some th) := core_modCore_same ..
  have thread (h : ThreadId) : (dlsWrite c a (clean l) (some th) s).thread c h = ((s.core c).dlsWrite a (clean l) (some th)).thread h := by
    rw [State.thread, core]
  rw [plain_clean] at frame
  refine ⟨by rw [core]; exact frame, (thread th).trans (own th rfl), fun h => ?_⟩
  rw [thread]
  exact threads h

theorem ofNat_setWidth {m n v : Nat} (small : v < 2 ^ n) : (BitVec.ofNat n v).setWidth m = BitVec.ofNat m v := by
  apply BitVec.eq_of_toNat_eq
  rw [BitVec.toNat_setWidth, BitVec.toNat_ofNat, BitVec.toNat_ofNat, Nat.mod_eq_of_lt small]

end

/-- Settles O8: LD by `execLd_dls` as a write of its register, ST by `execSt_dls` and what a write of the data local store leaves. -/
theorem localLoadsAndStores : Obligations.LocalLoadsAndStores := by
  unfold Obligations.LocalLoadsAndStores
  refine ⟨?load, ?store⟩
  case load =>
    intro o s legal issues k a n v inside unwatched healthy whole
    have runs : execLd o s = .next (retire o.core o.th false ((s.issuing o.core o.th).modCore o.core fun k => k.loadReg o.th o.rd o.sz v)) :=
      execLd_dls legal issues inside unwatched healthy
    have small : v < 256 ^ n := dlsNum_lt k a n
    have integer (w : Word) (reg : ∀ k : Core, k.loadReg o.th o.rd o.sz v = k.modThread o.th fun x => x.wg o.rd w) : whole w := by
      simp only [reg] at runs
      exact .of_runs (execLd o s) rfl ⟨_, runs, writeG_writes issues.run⟩
    refine ⟨fun sz => integer _ fun k => ?_, fun sz => integer _ fun k => ?_, fun sz => integer _ fun k => ?_, fun sz => integer _ fun k => ?_,
      fun sz => integer _ fun k => ?_, fun sz => ?float⟩
    case float =>
      have reg (k : Core) : k.loadReg o.th o.rd o.sz v = k.wf o.th o.rd (BitVec.ofNat 64 v) := by
        rcases sz with sz | sz
        · have word : v % 2 ^ 32 = v := Nat.mod_eq_of_lt (by simpa [n, sz, szBytes] using small)
          rw [sz]
          exact congrArg (fun v => k.wf o.th o.rd (BitVec.ofNat 64 v)) word
        · rw [sz]
          rfl
      simp only [reg] at runs
      exact .of_runs (execLd o s) rfl ⟨_, runs, writeF_writes issues.run⟩
    · rw [sz]; rfl
    · rw [sz, ← ofNat_setWidth (n := 8) (by simpa [n, sz, szBytes] using small)]; rfl
    · rw [sz]; rfl
    · rw [sz, ← ofNat_setWidth (n := 16) (by simpa [n, sz, szBytes] using small)]; rfl
    · rw [sz]; rfl
  case store =>
    intro o s one three seven fp issues k x a n v inside unwatched
    let w := retire o.core o.th false (s.issuing o.core o.th)
    obtain ⟨went, siblings, threads, core⟩ := retire_core (alu := false) (core_issuing (s := s) (c := o.core) (th := o.th))
    obtain ⟨⟨threads', poison, written⟩, own, others⟩ := dlsWrite_leaves w o.core o.th a (bytesOfNat n v)
    have runs : execSt o s = .next (dlsWrite o.core a (clean (bytesOfNat n v)) (some o.th) w) := execSt_dls one three seven issues inside unwatched
    refine .of_runs (execSt o s) rfl ⟨_, runs, fun b => ?_,
      onlyCore_issuing.retire.trans (onlyCore_setCore _), ?_, ?_, fun h other => ?_⟩
    · rw [written, core]
      exact read_writeBytes_bytesOfNat ..
    · rw [written, core]
    · rw [own]
      exact went
    · rw [others, siblings h other]
      rfl

end Sys2Proof.Machine
end

section
/-!
PROOFS. Control registers (R55, R56, R89, R215; Table 03-1).
-/

namespace Sys2Proof.Machine

/-! ## What a control register is a register of -/

/-- Threads `x` and `y`, with vector state `u` and `v`, hold the same in control register m. -/
structure SameCsr (m : Nat) (x y : Thread) (u v : VecState) : Prop where
  estat : m = 0x000 → y.estat = x.estat
  eien : m = 0x001 → y.eien = x.eien
  epc : m = 0x002 → y.epc = x.epc
  ecause : m = 0x003 → y.ecause = x.ecause
  eaddr : m = 0x004 → y.eaddr = x.eaddr
  eprog : m = 0x006 → y.eprog = x.eprog
  esp : m = 0x007 → y.esp = x.esp
  esplo : m = 0x008 → y.esplo = x.esplo
  esphi : m = 0x009 → y.esphi = x.esphi
  fcsr : m = 0x010 → y.fcsr = x.fcsr
  vcfg : m = 0x011 → v.vcfg = u.vcfg
  vl : m = 0x012 → v.vl = u.vl
  vxrm : m = 0x013 → v.vxrm = u.vxrm
  rpos : m = 0x015 → v.rpos = u.rpos
  lb : ∀ k < 3, m = 0x020 + k → y.lb.get 0 k = x.lb.get 0 k
  le : ∀ k < 3, m = 0x024 + k → y.le.get 0 k = x.le.get 0 k
  lc : ∀ k < 3, m = 0x028 + k → y.lc.get 0 k = x.lc.get 0 k
  shadow : y.shadow = x.shadow

section
variable {s t : State} {c : CoreId} {th : ThreadId} {m : Nat}

theorem csrPair_congr (time : t.time = s.time) (h : SameCsr m (s.thread c th) (t.thread c th) (s.core c).vec (t.core c).vec) :
    csrPair t c th m = csrPair s c th m := by
  unfold csrPair
  split
  · exact congrArg some (h.eaddr rfl)
  · exact congrArg some (h.rpos rfl)
  · rw [time]
  · rfl

theorem csrValue_congr (ctl : (t.core c).ctl = (s.core c).ctl) (mod : t.mod = s.mod) (time : t.time = s.time)
    (h : SameCsr m (s.thread c th) (t.thread c th) (s.core c).vec (t.core c).vec) : csrValue t c th m = csrValue s c th m := by
  unfold csrValue
  split
  case h_1 => rw [estatOf, estatOf, pmOf, pmOf, ctl, mod, h.estat rfl]
  case h_2 => exact h.eien rfl
  case h_3 => exact congrArg (BitVec.setWidth 32) (h.epc rfl)
  case h_4 => exact h.ecause rfl
  case h_5 => exact h.eprog rfl
  case h_6 => exact h.esp rfl
  case h_7 => exact h.esplo rfl
  case h_8 => exact h.esphi rfl
  case h_9 => exact h.fcsr rfl
  case h_10 => exact h.vcfg rfl
  case h_11 => exact h.vl rfl
  case h_12 => exact h.vxrm rfl
  case h_13 => rw [xcfgWord, xcfgWord, ctl, mod]
  case h_14 => rfl
  case h_15 => exact h.lb 0 (by decide) rfl
  case h_16 => exact h.lb 1 (by decide) rfl
  case h_17 => exact h.lb 2 (by decide) rfl
  case h_18 => exact h.le 0 (by decide) rfl
  case h_19 => exact h.le 1 (by decide) rfl
  case h_20 => exact h.le 2 (by decide) rfl
  case h_21 => exact h.lc 0 (by decide) rfl
  case h_22 => exact h.lc 1 (by decide) rfl
  case h_23 => exact h.lc 2 (by decide) rfl
  case h_24 =>
    simp only [csrPair_congr time h, h.shadow]

/-! ## Writes (Tables 04-2 to 04-5, 05-2, 08-2) -/

/-- State `t` is `s` after a write of control register n of thread th that leaves `new` in it. -/
structure CsrWrites (s t : State) (c : CoreId) (th : ThreadId) (n : Nat) (new : Word) : Prop where
  only : OnlyCore s t c
  siblings : ∀ h, h ≠ th → t.thread c h = s.thread c h
  rest : t.core c = { s.core c with threads := (t.core c).threads, vec := (t.core c).vec }
  v : (t.core c).vec.v = (s.core c).vec.v
  g : (t.thread c th).g = (s.thread c th).g
  pc : (t.thread c th).pc = (s.thread c th).pc
  own : csrValue t c th n = new
  others : ∀ m, m ≠ n → csrValue t c th m = csrValue s c th m

theorem csrWrites_thread {n : Nat} {new : Word} (f : Thread → Thread) (g : (f (s.thread c th)).g = (s.thread c th).g)
    (pc : (f (s.thread c th)).pc = (s.thread c th).pc) (own : csrValue (s.modThread c th f) c th n = new)
    (others : ∀ m, m ≠ n → SameCsr m (s.thread c th) (f (s.thread c th)) (s.core c).vec (s.core c).vec) :
    CsrWrites s (s.modThread c th f) c th n new := by
  have core : (s.modThread c th f).core c = (s.core c).setThread th (f (s.thread c th)) := core_modThread_same ..
  have thread : (s.modThread c th f).thread c th = f (s.thread c th) := by rw [State.thread, core, Core.thread_setThread_same]
  refine ⟨onlyCore_setCore _, fun h other => ?_, ?_, ?_, ?_, ?_, own, fun m other => csrValue_congr ?_ rfl rfl ?_⟩
  · rw [State.thread, core, Core.thread_setThread_other _ _ other]
    rfl
  · rw [core]; rfl
  · rw [core]; rfl
  · rw [thread, g]
  · rw [thread, pc]
  · rw [core]; rfl
  · rw [core, thread]
    exact others m other

theorem csrWrites_vec {n : Nat} {new : Word} (f : VecState → VecState) (v : (f (s.core c).vec).v = (s.core c).vec.v)
    (own : csrValue (s.modCore c fun k => { k with vec := f k.vec }) c th n = new)
    (others : ∀ m, m ≠ n → SameCsr m (s.thread c th) (s.thread c th) (s.core c).vec (f (s.core c).vec)) :
    CsrWrites s (s.modCore c fun k => { k with vec := f k.vec }) c th n new := by
  have core : (s.modCore c fun k => { k with vec := f k.vec }).core c = { s.core c with vec := f (s.core c).vec } := core_modCore_same ..
  have thread (h : ThreadId) : (s.modCore c fun k => { k with vec := f k.vec }).thread c h = s.thread c h := by rw [State.thread, core]; rfl
  refine ⟨onlyCore_setCore _, fun h _ => thread h, ?_, ?_, ?_, ?_, own, fun m other => csrValue_congr ?_ rfl rfl ?_⟩
  · rw [core]
  · rw [core]; exact v
  · rw [thread]
  · rw [thread]
  · rw [core]
  · rw [core, thread]
    exact others m other

theorem csrWrites_reg {n : Nat} {new : Word} (f : Thread → Thread) (read : Thread → Word) (reads : ∀ s, csrValue s c th n = read (s.thread c th))
    (g : (f (s.thread c th)).g = (s.thread c th).g) (pc : (f (s.thread c th)).pc = (s.thread c th).pc) (own : read (f (s.thread c th)) = new)
    (others : ∀ m, m ≠ n → SameCsr m (s.thread c th) (f (s.thread c th)) (s.core c).vec (s.core c).vec) :
    CsrWrites s (s.modThread c th f) c th n new :=
  csrWrites_thread f g pc (by rw [reads, State.thread, core_modThread_same, Core.thread_setThread_same, own]) others

theorem SameCsr.refl (m : Nat) (x : Thread) (u : VecState) : SameCsr m x x u u := by
  constructor <;> intros <;> rfl

/-- What a control register holds after a write (Tables 04-2 to 04-5, 05-2, 08-2). -/
def csrNew (old v mask : Word) (n : Nat) : Word := if n = 0 ∨ n = 0x010 then (old &&& ~~~mask) ||| (v &&& mask) else v &&& mask

theorem csrNew_plain {old v mask : Word} {n : Nat} (plain : n ≠ 0 ∧ n ≠ 0x010) : csrNew old v mask n = v &&& mask := if_neg (by omega)

theorem and_full (v : Word) : v &&& 0xFFFFFFFF = v := BitVec.and_allOnes

theorem setBit_masked (pm : Bool) (e v : Word) : setBit 12 pm (masked 0x2001 e v) = masked 0x2001 (setBit 12 pm e) v := by
  refine BitVec.eq_of_getLsbD_eq fun i hi => ?_
  simp only [masked, getLsbD_setBit hi, BitVec.getLsbD_or, BitVec.getLsbD_and, BitVec.getLsbD_not]
  split
  next twelve => subst twelve; simp
  next => rfl

theorem epc_width (v : Word) : (((v &&& 0x1FFFC).setWidth 17).setWidth 32 : Word) = v &&& 0x1FFFC := by
  have small : (v &&& 0x1FFFC).toNat < 2 ^ 17 := Nat.lt_of_le_of_lt (by rw [BitVec.toNat_and]; exact Nat.and_le_right) (by decide : 0x1FFFC < 2 ^ 17)
  apply BitVec.eq_of_toNat_eq
  rw [BitVec.toNat_setWidth, BitVec.toNat_setWidth, Nat.mod_eq_of_lt small, Nat.mod_eq_of_lt (by omega)]

theorem fcsrWrite_eq (old v : Word) : fcsrWrite old v = masked (if v.extractLsb' 12 3 = 7 then 0x00038FDF else 0x0003FFDF) old v := by
  have round : bitsOf v.toNat 12 3 = 7 ↔ v.extractLsb' 12 3 = 7 := by
    rw [← BitVec.toNat_inj, BitVec.extractLsb'_toNat, bitsOf, Nat.shiftRight_eq_div_pow]
    rfl
  rw [fcsrWrite]
  split
  next seven => rw [if_pos (round.1 seven)]
  next other => rw [if_neg fun seven => other (round.2 seven)]

theorem csrValue_estat (s : State) (c : CoreId) (th : ThreadId) : csrValue s c th 0 = setBit 12 (pmOf s c) (s.thread c th).estat := rfl

theorem pmOf_modThread {f : Thread → Thread} : pmOf (s.modThread c th f) c = pmOf s c := by
  rw [pmOf, core_modThread_same]
  rfl

/-! The loop registers (R77). -/

theorem csrValue_lb {k : Nat} (hk : k < 3) (s : State) (c : CoreId) (th : ThreadId) : csrValue s c th (0x020 + k) = (s.thread c th).lb.get 0 k := by
  interval_cases k <;> rfl

theorem csrWrites_lb {k : Nat} {v : Word} (hk : k < 3) : CsrWrites s (s.modThread c th fun x => { x with lb := x.lb.set 0 k v }) c th (0x020 + k)
    (csrNew (csrValue s c th (0x020 + k)) v 0xFFFFFFFF (0x020 + k)) := by
  refine csrWrites_reg _ (fun x => x.lb.get 0 k) (csrValue_lb hk · c th) rfl rfl ?_ fun m other =>
    { SameCsr.refl m .. with lb := fun j _ same => Table.get_set_other _ _ _ (by omega) }
  rw [csrNew_plain (by omega), and_full]
  exact Table.get_set_same ..

theorem csrValue_le {k : Nat} (hk : k < 3) (s : State) (c : CoreId) (th : ThreadId) : csrValue s c th (0x024 + k) = (s.thread c th).le.get 0 k := by
  interval_cases k <;> rfl

theorem csrWrites_le {k : Nat} {v : Word} (hk : k < 3) : CsrWrites s (s.modThread c th fun x => { x with le := x.le.set 0 k v }) c th (0x024 + k)
    (csrNew (csrValue s c th (0x024 + k)) v 0xFFFFFFFF (0x024 + k)) := by
  refine csrWrites_reg _ (fun x => x.le.get 0 k) (csrValue_le hk · c th) rfl rfl ?_ fun m other =>
    { SameCsr.refl m .. with le := fun j _ same => Table.get_set_other _ _ _ (by omega) }
  rw [csrNew_plain (by omega), and_full]
  exact Table.get_set_same ..

theorem csrValue_lc {k : Nat} (hk : k < 3) (s : State) (c : CoreId) (th : ThreadId) : csrValue s c th (0x028 + k) = (s.thread c th).lc.get 0 k := by
  interval_cases k <;> rfl

theorem csrWrites_lc {k : Nat} {v : Word} (hk : k < 3) : CsrWrites s (s.modThread c th fun x => { x with lc := x.lc.set 0 k v }) c th (0x028 + k)
    (csrNew (csrValue s c th (0x028 + k)) v 0xFFFFFFFF (0x028 + k)) := by
  refine csrWrites_reg _ (fun x => x.lc.get 0 k) (csrValue_lc hk · c th) rfl rfl ?_ fun m other =>
    { SameCsr.refl m .. with lc := fun j _ same => Table.get_set_other _ _ _ (by omega) }
  rw [csrNew_plain (by omega), and_full]
  exact Table.get_set_same ..

theorem csrWrite_writes {n : Nat} {v mask : Word} (legal : csrMask th v n = some mask) :
    CsrWrites s (csrWrite c th n v s) c th n (csrNew (csrValue s c th n) v mask n) := by
  have refl (m : Nat) : SameCsr m (s.thread c th) (s.thread c th) (s.core c).vec (s.core c).vec := .refl ..
  unfold csrMask at legal
  split at legal
  case h_1 =>
    cases legal
    refine csrWrites_thread (fun x => { x with estat := masked 0x2001 x.estat v }) rfl rfl ?_ fun m other =>
      { refl m with estat := fun same => absurd same other }
    rw [csrValue_estat, csrValue_estat, pmOf_modThread, State.thread, core_modThread_same, Core.thread_setThread_same, setBit_masked]
    rfl
  case h_2 =>
    cases legal
    exact csrWrites_reg (fun x => { x with eien := v &&& eienMask th }) Thread.eien (fun _ => rfl) rfl rfl rfl fun m other =>
      { refl m with eien := fun same => absurd same other }
  case h_3 =>
    cases legal
    exact csrWrites_reg (fun x => { x with epc := (v &&& 0x1FFFC).setWidth 17 }) (fun x => x.epc.setWidth 32) (fun _ => rfl) rfl rfl
      (epc_width v) fun m other => { refl m with epc := fun same => absurd same other }
  case h_4 =>
    cases legal
    exact csrWrites_reg (fun x => { x with ecause := v &&& 0xFFF3FF1F }) Thread.ecause (fun _ => rfl) rfl rfl rfl fun m other =>
      { refl m with ecause := fun same => absurd same other }
  case h_5 =>
    cases legal
    exact csrWrites_reg (fun x => { x with eprog := v }) Thread.eprog (fun _ => rfl) rfl rfl (and_full v).symm fun m other =>
      { refl m with eprog := fun same => absurd same other }
  case h_6 =>
    cases legal
    exact csrWrites_reg (fun x => { x with esp := v }) Thread.esp (fun _ => rfl) rfl rfl (and_full v).symm fun m other =>
      { refl m with esp := fun same => absurd same other }
  case h_7 =>
    cases legal
    exact csrWrites_reg (fun x => { x with esplo := v }) Thread.esplo (fun _ => rfl) rfl rfl (and_full v).symm fun m other =>
      { refl m with esplo := fun same => absurd same other }
  case h_8 =>
    cases legal
    exact csrWrites_reg (fun x => { x with esphi := v }) Thread.esphi (fun _ => rfl) rfl rfl (and_full v).symm fun m other =>
      { refl m with esphi := fun same => absurd same other }
  case h_9 => cases legal; exact csrWrites_lb (k := 0) (by decide)
  case h_10 => cases legal; exact csrWrites_lb (k := 1) (by decide)
  case h_11 => cases legal; exact csrWrites_lb (k := 2) (by decide)
  case h_12 => cases legal; exact csrWrites_le (k := 0) (by decide)
  case h_13 => cases legal; exact csrWrites_le (k := 1) (by decide)
  case h_14 => cases legal; exact csrWrites_le (k := 2) (by decide)
  case h_15 => cases legal; exact csrWrites_lc (k := 0) (by decide)
  case h_16 => cases legal; exact csrWrites_lc (k := 1) (by decide)
  case h_17 => cases legal; exact csrWrites_lc (k := 2) (by decide)
  case h_18 =>
    cases legal
    exact csrWrites_reg (fun x => { x with fcsr := fcsrWrite x.fcsr v }) Thread.fcsr (fun _ => rfl) rfl rfl (fcsrWrite_eq _ v) fun m other =>
      { refl m with fcsr := fun same => absurd same other }
  case h_19 =>
    split at legal
    case isFalse => cases legal
    cases legal
    exact csrWrites_vec (fun u => { u with vcfg := v &&& 0xFF }) rfl (by simp [csrValue, csrNew]) fun m other =>
      { refl m with vcfg := fun same => absurd same other }
  case h_20 =>
    split at legal
    case isFalse => cases legal
    cases legal
    exact csrWrites_vec (fun u => { u with vl := v &&& 0x7FF }) rfl (by simp [csrValue, csrNew]) fun m other =>
      { refl m with vl := fun same => absurd same other }
  case h_21 =>
    split at legal
    case isFalse => cases legal
    cases legal
    exact csrWrites_vec (fun u => { u with vxrm := v &&& 7 }) rfl (by simp [csrValue, csrNew]) fun m other =>
      { refl m with vxrm := fun same => absurd same other }
  case h_22 => cases legal

/-- The write of a control register keeps no loop going (R77, R78). -/
theorem CsrWrites.idle {n : Nat} {new : Word} (w : CsrWrites s t c th n new) (loopless : Loopless (s.thread c th))
    (other_end : 0x028 ≤ n → (s.thread c th).le.get 0 (n - 0x028) ≠ (s.thread c th).pc.setWidth 32) :
    ∀ k < 3, (t.thread c th).lc.get 0 k ≠ 0 → (t.thread c th).le.get 0 k ≠ (t.thread c th).pc.setWidth 32 := by
  intro k hk active
  by_cases same : n = 0x028 + k
  · have kept := w.others (0x024 + k) (by omega)
    rw [csrValue_le hk, csrValue_le hk] at kept
    have away := other_end (by omega)
    rwa [same, Nat.add_sub_cancel_left, ← kept, ← w.pc] at away
  · have kept := w.others (0x028 + k) (Ne.symm same)
    rw [csrValue_lc hk, csrValue_lc hk, loopless k hk] at kept
    exact absurd kept active

end

/-! ## Going on behind a control register -/

section
variable {x : Thread} {alu : Bool}

/-- Where no active loop ends at its pc a thread goes on behind it, and keeps its loop counts (R78). -/
theorem loopRule_idle {lb le lc : Nat → Word} {a : BitVec 17} {l : List Nat} (idle : ∀ k ∈ l, lc k ≠ 0 → le k ≠ a.setWidth 32) :
    loopRule lb le a l lc = (a + 4, lc) := by
  induction l with
  | nil => rfl
  | cons k r ih =>
    have past : ¬(lc k ≠ 0 ∧ le k = a.setWidth 32) := fun ⟨active, ends⟩ => idle k List.mem_cons_self active ends
    rw [loopRule, if_neg past]
    exact ih fun j hj => idle j (List.mem_cons_of_mem _ hj)

theorem retireThread_idle (idle : ∀ k < 3, x.lc.get 0 k ≠ 0 → x.le.get 0 k ≠ x.pc.setWidth 32) :
    (retireThread alu x).pc = x.pc + 4 ∧ ∀ k < 3, (retireThread alu x).lc.get 0 k = x.lc.get 0 k := by
  have follows := retireThread_follows alu x
  rw [FollowsLoopRule, loopRule_idle (by simpa using ⟨idle 2 (by decide), idle 1 (by decide), idle 0 (by decide)⟩)] at follows
  exact follows

theorem retireThread_frame (alu : Bool) (x : Thread) :
    ∃ pc lc resv, retireThread alu x = { x with pc := pc, lc := lc, resv := resv, stepOver := false } := by
  obtain ⟨lc, frame⟩ := loopNext_frame x x.pc
  refine ⟨(loopNext x x.pc).1, lc, (x.tick alu).resv, ?_⟩
  simp only [retireThread, frame, Thread.tick]

theorem sameCsr_retireThread {m : Nat} {u : VecState} (idle : ∀ k < 3, x.lc.get 0 k ≠ 0 → x.le.get 0 k ≠ x.pc.setWidth 32) :
    SameCsr m x (retireThread alu x) u u := by
  obtain ⟨-, counts⟩ := retireThread_idle (alu := alu) idle
  obtain ⟨pc, lc, resv, frame⟩ := retireThread_frame alu x
  rw [frame] at counts ⊢
  exact { SameCsr.refl m x u with lc := fun k hk _ => counts k hk }

end

/-! ## CSRW, CSRS and CSRC -/

section
variable {s t u : State} {c : CoreId} {th : ThreadId} {n m : Nat} {v new mask old : Word} {rd : BitVec 5} {alu : Bool}

/-- The numbers of Table 03-1 that a thread writes as a whole. -/
theorem csrMask_number (legal : csrMask th v n = some mask) :
    csrListed n = true ∧ csrReadOnly n = false ∧ (th = 0 ∨ csrOfH0 n = false) ∧ ∀ s c, csrPair s c th n = none := by
  unfold csrMask at legal
  split at legal
  case h_19 | h_20 | h_21 =>
    split at legal
    next zero => exact ⟨rfl, rfl, .inl zero, fun _ _ => rfl⟩
    next => cases legal
  case h_22 => cases legal
  all_goals exact ⟨rfl, rfl, .inr rfl, fun _ _ => rfl⟩

theorem csrBad_of_number {write : Bool} (listed : csrListed n = true) (open_ : write = true → csrReadOnly n = false)
    (mine : th = 0 ∨ csrOfH0 n = false) :
    csrBad th n write = none := by
  have writable : (write && csrReadOnly n) = false := by
    cases write with
    | false => rfl
    | true => exact open_ rfl
  have reachable : (decide (th ≠ 0) && csrOfH0 n) = false := by
    rcases mine with zero | h0
    · rw [zero]; rfl
    · rw [h0, Bool.and_false]
  rw [csrBad, listed, writable, reachable]
  rfl

theorem csrWaits_quiet {write : Bool} (quiet : Quiet s c th) : csrWaits (s.issuing c th) c th n write = false := by
  unfold csrWaits
  by_cases zero : th = 0
  · obtain ⟨vq, vs, mq, ms⟩ := quiet zero
    have idle : ((((s.issuing c th).core c).vecAll.isEmpty && ((s.issuing c th).core c).matAll.isEmpty)) = true := by
      rw [core_issuing, Core.vecAll, Core.matAll, Core.setThread_vec, Core.setThread_mat, vq, vs, mq, ms]
      rfl
    rw [idle, Bool.not_true, Bool.and_false]
  · rw [decide_eq_false zero]
    rfl

theorem csrValue_issuing : csrValue (s.issuing c th) c th m = csrValue s c th m := by
  refine csrValue_congr ?_ rfl rfl ?_
  · rw [core_issuing]; rfl
  · rw [thread_issuing, core_issuing]
    exact { SameCsr.refl m _ _ with }

theorem CsrWrites.of_issuing (w : CsrWrites (s.issuing c th) t c th n new) : CsrWrites s t c th n new where
  only := onlyCore_issuing.trans w.only
  siblings h other := (w.siblings h other).trans (issuing_sibling other)
  rest := by
    rw [w.rest, core_issuing]
    rfl
  v := by rw [w.v, core_issuing]; rfl
  g := by rw [w.g, thread_issuing]; rfl
  pc := by rw [w.pc, thread_issuing]; rfl
  own := w.own
  others m other := (w.others m other).trans csrValue_issuing

theorem sameCsr_wg {x : Thread} {y : VecState} : SameCsr m x (x.wg rd old) y y := by
  constructor <;> intros <;> simp

theorem SameCsr.trans {x y z : Thread} {a b d : VecState} (h : SameCsr m x y a b) (h' : SameCsr m y z b d) : SameCsr m x z a d where
  estat e := (h'.estat e).trans (h.estat e)
  eien e := (h'.eien e).trans (h.eien e)
  epc e := (h'.epc e).trans (h.epc e)
  ecause e := (h'.ecause e).trans (h.ecause e)
  eaddr e := (h'.eaddr e).trans (h.eaddr e)
  eprog e := (h'.eprog e).trans (h.eprog e)
  esp e := (h'.esp e).trans (h.esp e)
  esplo e := (h'.esplo e).trans (h.esplo e)
  esphi e := (h'.esphi e).trans (h.esphi e)
  fcsr e := (h'.fcsr e).trans (h.fcsr e)
  vcfg e := (h'.vcfg e).trans (h.vcfg e)
  vl e := (h'.vl e).trans (h.vl e)
  vxrm e := (h'.vxrm e).trans (h.vxrm e)
  rpos e := (h'.rpos e).trans (h.rpos e)
  lb k hk e := (h'.lb k hk e).trans (h.lb k hk e)
  le k hk e := (h'.le k hk e).trans (h.le k hk e)
  lc k hk e := (h'.lc k hk e).trans (h.lc k hk e)
  shadow := h'.shadow.trans h.shadow

theorem writeG_only : OnlyCore s (writeG c th rd alu old s) c :=
  (onlyCore_setCore _).retire

theorem OnlyCore.mod (h : OnlyCore s t c) : t.mod = s.mod := by rw [h.1]

theorem OnlyCore.time (h : OnlyCore s t c) : t.time = s.time := by rw [h.1]

theorem writeG_thread : (writeG c th rd alu old u).thread c th = retireThread alu ((u.thread c th).wg rd old) := by
  rw [writeG, retire, State.thread, core_modThread_same, Core.thread_setThread_same, State.thread, core_modThread_same, Core.thread_setThread_same]

theorem writeG_core : ∃ threads, (writeG c th rd alu old u).core c = { u.core c with threads := threads } := by
  rw [writeG, retire, core_modThread_same, core_modThread_same]
  exact ⟨_, rfl⟩

theorem writeG_sibling {h : ThreadId} (other : h ≠ th) : (writeG c th rd alu old u).thread c h = u.thread c h := by
  rw [writeG, retire, State.thread, core_modThread_same, Core.thread_setThread_other _ _ other, core_modThread_same,
    Core.thread_setThread_other _ _ other]
  rfl

/-- A write of g[rd] that ends a thread's instruction leaves its control registers. -/
theorem csrValue_writeG (idle : ∀ k < 3, (u.thread c th).lc.get 0 k ≠ 0 → (u.thread c th).le.get 0 k ≠ (u.thread c th).pc.setWidth 32) :
    csrValue (writeG c th rd alu old u) c th m = csrValue u c th m := by
  obtain ⟨threads, core⟩ := writeG_core (u := u) (c := c) (th := th) (rd := rd) (alu := alu) (old := old)
  refine csrValue_congr ?_ writeG_only.mod writeG_only.time ?_
  · rw [core]
  · rw [core, writeG_thread]
    exact sameCsr_wg.trans (sameCsr_retireThread (by simpa using idle))

/-- A control register that a thread has modified, its old value returned. -/
theorem csrModify_writes {o : SysForm} {f : Word → Word → Word} (issues : Issues s o.core o.th [o.ra] [] []) (quiet : Quiet s o.core o.th)
    (legal : csrMask o.th (f (csrValue s o.core o.th o.arg.toNat) ((s.thread o.core o.th).rg o.ra)) o.arg.toNat = some mask) :
    ∃ u, csrModify o f s = .next (writeG o.core o.th o.rd false (csrValue s o.core o.th o.arg.toNat) u) ∧
      CsrWrites s u o.core o.th o.arg.toNat (csrNew (csrValue s o.core o.th o.arg.toNat)
        (f (csrValue s o.core o.th o.arg.toNat) ((s.thread o.core o.th).rg o.ra)) mask o.arg.toNat) := by
  obtain ⟨listed, writable, mine, single⟩ := csrMask_number legal
  have written := csrWrite_writes (s := s.issuing o.core o.th) (c := o.core) legal
  rw [csrValue_issuing] at written
  refine ⟨_, ?_, written.of_issuing⟩
  rw [csrModify, csrBad_of_number listed (fun _ => writable) mine, issue_runs issues, csrWaits_quiet quiet, if_neg Bool.false_ne_true, csrValue_issuing,
    thread_issuing, csrLatch, single]
  rfl

/-- The modification of a control register that issues, its half of a pair read first (R56). -/
theorem csrModify_runs {o : SysForm} {f : Word → Word → Word} (issues : Issues s o.core o.th [o.ra] [] []) (quiet : Quiet s o.core o.th)
    (legal : csrBad o.th o.arg.toNat true = none) :
    csrModify o f s = .next (writeG o.core o.th o.rd false (csrValue s o.core o.th o.arg.toNat)
      (csrWrite o.core o.th o.arg.toNat (f (csrValue s o.core o.th o.arg.toNat) ((s.thread o.core o.th).rg o.ra))
        (csrLatch (s.issuing o.core o.th) o.core o.th o.arg.toNat))) := by
  rw [csrModify, legal, issue_runs issues, csrWaits_quiet quiet, if_neg Bool.false_ne_true, csrValue_issuing, thread_issuing]
  rfl

theorem retireThread_wg_pairs (x : Thread) : (retireThread alu (x.wg rd old)).eaddr = x.eaddr ∧
    (retireThread alu (x.wg rd old)).stagedEaddr = x.stagedEaddr ∧ (retireThread alu (x.wg rd old)).stagedRpos = x.stagedRpos := by
  obtain ⟨pc, lc, resv, frame⟩ := retireThread_frame alu (x.wg rd old)
  rw [frame]
  exact ⟨Thread.wg_eaddr .., Thread.wg_stagedEaddr .., Thread.wg_stagedRpos ..⟩

/-! ## CSRR -/

theorem csrPair_issuing : csrPair (s.issuing c th) c th m = csrPair s c th m := by
  refine csrPair_congr rfl ?_
  rw [thread_issuing, core_issuing]
  exact { SameCsr.refl m _ _ with }

theorem execCsrr_runs {o : SysForm} (issues : Issues s o.core o.th [] [] []) (quiet : Quiet s o.core o.th)
    (legal : csrBad o.th o.arg.toNat false = none) :
    execCsrr o s = .next (writeG o.core o.th o.rd false (csrValue s o.core o.th o.arg.toNat)
      (csrLatch (s.issuing o.core o.th) o.core o.th o.arg.toNat)) := by
  rw [execCsrr, legal, issue_runs issues, csrWaits_quiet quiet, if_neg Bool.false_ne_true, csrValue_issuing]

theorem csrr_writes {o : SysForm} {v : Word} (issues : Issues s o.core o.th [] [] []) (quiet : Quiet s o.core o.th)
    (legal : csrBad o.th o.arg.toNat false = none) (single : csrPair s o.core o.th o.arg.toNat = none)
    (value : csrValue s o.core o.th o.arg.toNat = v) : Completes (.csrr o) s fun t => WritesG s t o.core o.th o.rd v := by
  refine .of_runs (execCsrr o s) rfl ⟨_, execCsrr_runs issues quiet legal, ?_⟩
  rw [value, csrLatch, csrPair_issuing, single]
  exact writeG_writes issues.run

/-- A thread that has the high half of `v` in its shadow. -/
def Thread.latched (x : Thread) (v : DWord) : Thread := { x with shadow := (v >>> 32).setWidth 32 }

theorem Thread.wg_latched (x : Thread) (w : DWord) : (x.latched w).wg rd v = (x.wg rd v).latched w := by
  unfold wg latched
  split <;> rfl

theorem csrr_latches {o : SysForm} {w : DWord} (issues : Issues s o.core o.th [] [] []) (quiet : Quiet s o.core o.th)
    (legal : csrBad o.th o.arg.toNat false = none) (pair : csrPair s o.core o.th o.arg.toNat = some w)
    (value : csrValue s o.core o.th o.arg.toNat = w.setWidth 32) :
    Completes (.csrr o) s fun t => ∃ y, WroteG (s.thread o.core o.th) y o.rd (w.setWidth 32) ∧ Retires s t o.core o.th (y.latched w) := by
  refine .of_runs (execCsrr o s) rfl ⟨_, execCsrr_runs issues quiet legal, _, wg_wrote .., ?_⟩
  have ran : (((s.thread o.core o.th).wg o.rd (w.setWidth 32)).latched w).run = true := (Thread.wg_run ..).trans issues.run
  have latch : csrLatch (s.issuing o.core o.th) o.core o.th o.arg.toNat = s.setThread o.core o.th ((s.thread o.core o.th).issuing.latched w) := by
    rw [csrLatch, csrPair_issuing, pair]
    exact issuing_modThread issues.run issues.run
  have written : (s.setThread o.core o.th ((s.thread o.core o.th).issuing.latched w)).modThread o.core o.th (fun x => x.wg o.rd (w.setWidth 32)) =
      s.setThread o.core o.th (((s.thread o.core o.th).wg o.rd (w.setWidth 32)).latched w).issuing := by
    rw [State.modThread, thread_setThread_same, Thread.wg_latched, Thread.wg_issuing]
    exact setThread_setThread issues.run ran
  rw [value, latch, writeG, written]
  exact retire_retires false ran

end

/-- Settles O14: a modification by `csrModify_writes` and what a write of g[rd] keeps, a read by `csrr_writes` and `csrr_latches`. -/
theorem controlRegisters : Obligations.ControlRegisters := by
  unfold Obligations.ControlRegisters
  refine ⟨?writes, ?reads⟩
  case writes =>
    intro o s issues quiet x n old loopless other_end writes
    have row {i : Instr} {f : Word → Word → Word} {v : Word} (runs : exec i s = csrModify o f s) (value : f old (x.rg o.ra) = v) : writes i v := by
      intro mask legal
      rw [← value] at legal ⊢
      obtain ⟨u, next, written⟩ := csrModify_writes (f := f) issues quiet legal
      have idle := written.idle loopless other_end
      obtain ⟨threads, core⟩ := writeG_core (u := u) (c := o.core) (th := o.th) (rd := o.rd) (alu := false) (old := old)
      obtain ⟨pc, -⟩ := retireThread_idle (alu := false) (x := (u.thread o.core o.th).wg o.rd old) (by simpa using idle)
      obtain ⟨rpc, lc, resv, frame⟩ := retireThread_frame false ((u.thread o.core o.th).wg o.rd old)
      have regs (r : BitVec 5) : (u.thread o.core o.th).rg r = x.rg r := by rw [Thread.rg, written.g]; rfl
      refine .of_runs (csrModify o f s) runs ⟨_, next, fun r => ?_, ?_, fun m other => ?_, ?_,
        written.only.trans writeG_only, fun h other => ?_, ?_, ?_, ?_⟩
      · rw [writeG_thread, frame, ← regs]
        exact Thread.rg_wg ..
      · rw [csrValue_writeG idle, written.own]
        rfl
      · rw [csrValue_writeG idle, written.others m other]
      · rw [writeG_thread, pc, Thread.wg_pc, written.pc]
      · rw [writeG_sibling other, written.siblings h other]
      · rw [core, written.rest]
      · rw [core, written.rest]
      · rw [core, ← written.v]
    exact ⟨row (show exec (.csrw o) s = execCsrw o s from rfl) rfl, row (show exec (.csrs o) s = execCsrs o s from rfl) rfl,
      row (show exec (.csrc o) s = execCsrc o s from rfl) rfl⟩
  case reads =>
    intro s c th rd ra issues quiet x read readLow
    have plain {n : BitVec 12} {v : Word} (legal : csrBad th n.toNat false = none) (single : csrPair s c th n.toNat = none)
        (value : csrValue s c th n.toNat = v) : read n v := csrr_writes (o := ⟨c, th, rd, ra, n⟩) issues quiet legal single value
    have open_ {n : Nat} (listed : csrListed n = true) (mine : csrOfH0 n = false) : csrBad th n false = none :=
      csrBad_of_number listed (fun write => absurd write (by decide)) (.inr mine)
    have low {n : BitVec 12} {v : DWord} (legal : csrBad th n.toNat false = none) (pair : csrPair s c th n.toNat = some v)
        (value : csrValue s c th n.toNat = v.setWidth 32) : readLow n v := csrr_latches (o := ⟨c, th, rd, ra, n⟩) issues quiet legal pair value
    refine ⟨plain (open_ rfl rfl) rfl rfl, plain (open_ rfl rfl) rfl rfl, plain (open_ rfl rfl) rfl rfl, plain (open_ rfl rfl) rfl rfl,
      plain (open_ rfl rfl) rfl rfl, plain (open_ rfl rfl) rfl rfl, plain (open_ rfl rfl) rfl rfl, plain (open_ rfl rfl) rfl rfl,
      plain (open_ rfl rfl) rfl rfl, fun k hk => ?loops, low (open_ rfl rfl) rfl rfl, plain (open_ rfl rfl) rfl rfl, low (open_ rfl rfl) rfl rfl,
      plain (open_ rfl rfl) rfl rfl, fun zero => ?vector, fun writes => ⟨?staged, fun lo staged => ?eaddr, fun zero lo staged => ?rpos⟩⟩
    case loops =>
      interval_cases k <;>
        exact ⟨plain (open_ rfl rfl) rfl rfl, plain (open_ rfl rfl) rfl rfl, plain (open_ rfl rfl) rfl rfl⟩
    case vector =>
      have open_ {n : Nat} (listed : csrListed n = true) : csrBad th n false = none :=
        csrBad_of_number listed (fun write => absurd write (by decide)) (.inl zero)
      exact ⟨plain (open_ rfl) rfl rfl, plain (open_ rfl) rfl rfl, plain (open_ rfl) rfl rfl, low (open_ rfl) rfl rfl, plain (open_ rfl) rfl rfl⟩
    case staged =>
      let o : SysForm := ⟨c, th, rd, ra, 0x004⟩
      let u := ((s.issuing c th).modThread c th fun y => y.latched ((s.issuing c th).thread c th).eaddr).modThread c th fun y =>
        { y with stagedEaddr := some (x.rg ra) }
      have runs : execCsrw o s = .next (writeG c th rd false (csrValue s c th 4) u) :=
        csrModify_runs (o := o) writes quiet (csrBad_of_number rfl (fun _ => rfl) (.inr rfl))
      obtain ⟨eaddr, staged, -⟩ := retireThread_wg_pairs (alu := false) (rd := rd) (old := csrValue s c th 4) (u.thread c th)
      refine .of_runs (execCsrw o s) rfl ⟨_, runs, ?_, ?_⟩
      · rw [writeG_thread, eaddr, thread_modThread_same, thread_modThread_same, thread_issuing]
        rfl
      · rw [writeG_thread, staged, thread_modThread_same]
    case eaddr =>
      let o : SysForm := ⟨c, th, rd, ra, 0x005⟩
      let u := (s.issuing c th).modThread c th fun y => { y with eaddr := joinHalves y.eaddr y.stagedEaddr (x.rg ra), stagedEaddr := none }
      have runs : execCsrw o s = .next (writeG c th rd false (csrValue s c th 5) u) :=
        csrModify_runs (o := o) writes quiet (csrBad_of_number rfl (fun _ => rfl) (.inr rfl))
      obtain ⟨eaddr, cleared, -⟩ := retireThread_wg_pairs (alu := false) (rd := rd) (old := csrValue s c th 5) (u.thread c th)
      have low : (s.thread c th).issuing.stagedEaddr = some lo := staged
      refine .of_runs (execCsrw o s) rfl ⟨_, runs, ?_, ?_⟩
      · rw [writeG_thread, eaddr, thread_modThread_same, thread_issuing, low]
        rfl
      · rw [writeG_thread, cleared, thread_modThread_same]
    case rpos =>
      subst zero
      let o : SysForm := ⟨c, 0, rd, ra, 0x016⟩
      let w := (s.issuing c 0).modCore c fun k =>
        { k with vec := { k.vec with rpos := joinHalves k.vec.rpos ((s.issuing c 0).thread c 0).stagedRpos (x.rg ra) } }
      let u := w.modThread c 0 fun y => { y with stagedRpos := none }
      have runs : execCsrw o s = .next (writeG c 0 rd false (csrValue s c 0 0x016) u) :=
        csrModify_runs (o := o) writes quiet (csrBad_of_number rfl (fun _ => rfl) (.inl rfl))
      obtain ⟨-, -, cleared⟩ := retireThread_wg_pairs (alu := false) (rd := rd) (old := csrValue s c 0 0x016) (u.thread c 0)
      obtain ⟨threads, core⟩ := writeG_core (u := u) (c := c) (th := 0) (rd := rd) (alu := false) (old := csrValue s c 0 0x016)
      have low : (s.thread c 0).issuing.stagedRpos = some lo := staged
      refine .of_runs (execCsrw o s) rfl ⟨_, runs, ?_, ?_⟩
      · rw [core, core_modThread_same, core_modCore_same, thread_issuing, low]
        rfl
      · rw [writeG_thread, cleared, thread_modThread_same]

end Sys2Proof.Machine
end

section
/-!
PROOFS. Vector, tile and array instructions enter their queues (R65, R81, R89, R92, R93, R229).
-/

namespace Sys2Proof.Machine

/-! ## Program order (R93) -/

theorem le_foldl_max {l : List Nat} {b n : Nat} (bound : n ≤ b ∨ n ∈ l) : n ≤ l.foldl max b := by
  induction l generalizing b with
  | nil => exact bound.resolve_right List.not_mem_nil
  | cons a r ih =>
    refine ih ?_
    rcases bound with below | listed
    · exact .inl (below.trans (le_max_left ..))
    · rcases List.mem_cons.1 listed with rfl | later
      · exact .inl (le_max_right ..)
      · exact .inr later

theorem Core.seq_lt_nextSeq (k : Core) : (∀ i ∈ k.vecAll, i.seq < k.nextSeq) ∧ ∀ i ∈ k.matAll, i.seq < k.nextSeq :=
  ⟨fun _ queued => Nat.lt_succ_of_le (le_foldl_max (.inr (List.mem_append_left _ (List.mem_map_of_mem queued)))),
    fun _ queued => Nat.lt_succ_of_le (le_foldl_max (.inr (List.mem_append_right _ (List.mem_map_of_mem queued))))⟩

theorem fcsrRm_eq (v : Word) : fcsrRm v = (v.extractLsb' 12 3).toNat := by
  rw [BitVec.extractLsb'_toNat, fcsrRm, bitsOf, Nat.shiftRight_eq_div_pow]

/-! ## The vector queue -/

section
variable {s : State} {c : CoreId} {gs : List (BitVec 5)} {mk : Core → VInstr} {P : VInstr → Prop}

/-- Entry `e` holds what the vector queue captures of core `k` for every instruction (R89). -/
structure VInstr.Captures (e : VInstr) (k : Core) : Prop where
  seq : e.seq = k.nextSeq
  pc : e.pc = (k.thread 0).pc
  fcsr : e.fcsr = (k.thread 0).fcsr
  fmt : e.fmt = k.vec.vcfg.setWidth 4
  cfmt : e.cfmt = (k.vec.vcfg >>> 4).setWidth 4
  vl : e.vl = k.vec.vl.setWidth 11
  rm : e.rm = k.vec.vxrm.setWidth 2
  rpos : e.rpos = k.vec.rpos

/-- Core c once an entry has joined its vector queue and h0 issues. -/
def Core.pushedV (k : Core) (e : VInstr) : Core :=
  { k with vec := { k.vec with queue := k.vec.queue ++ [e], rpos := k.vec.rpos + BitVec.ofNat 64 e.rposSteps } }

theorem extractLsb'_four (v : Word) : v.extractLsb' 4 4 = (v >>> 4).setWidth 4 := by
  apply BitVec.eq_of_toNat_eq
  rw [BitVec.extractLsb'_toNat, BitVec.toNat_setWidth, BitVec.toNat_ushiftRight]

/-- An instruction that may enter the vector queue does. -/
theorem enqueueV_enters (room : VectorRoom s c) (issues : Issues s c 0 gs [] [])
    (captures : (mk ((s.core c).setThread 0 (s.thread c 0).issuing)).Captures ((s.core c).setThread 0 (s.thread c 0).issuing))
    (holds : P (mk ((s.core c).setThread 0 (s.thread c 0).issuing))) :
    ∃ t, enqueueV c 0 false false gs mk s = .next t ∧ EntersVector s t c P := by
  obtain ⟨thawed, short⟩ := room
  let e := mk ((s.core c).setThread 0 (s.thread c 0).issuing)
  let w := (s.issuing c 0).modCore c fun k => k.pushedV e
  have runs : enqueueV c 0 false false gs mk s = .next (retire c 0 false w) := by
    have legal : lowestSub [(false, 1), (false, 2), (decide ((0 : ThreadId) ≠ 0), 4), ((s.core c).frozen, 7)] = none := by rw [thawed]; rfl
    rw [enqueueV, legal, decide_eq_false (Nat.not_le.2 short), Bool.and_false, if_neg Bool.false_ne_true, issue_runs issues, core_issuing]
    rfl
  have core : w.core c = ((s.core c).pushedV e).setThread 0 (s.thread c 0).issuing := by
    rw [core_modCore_same, core_issuing]
    rfl
  obtain ⟨went, siblings, threads, rest⟩ := retire_core (alu := false) core
  have thread : ((s.core c).setThread 0 (s.thread c 0).issuing).thread 0 = (s.thread c 0).issuing := Core.thread_setThread_same ..
  have fcsr : e.fcsr = (s.thread c 0).fcsr := by rw [captures.fcsr, thread]; rfl
  refine ⟨_, runs, e, e.rposSteps, holds, by rw [captures.pc, thread]; rfl, fcsr, captures.fmt, by rw [captures.cfmt, extractLsb'_four]; rfl,
    captures.vl, captures.rm, captures.rpos, ?_, ?_, ?_, ?_, went, (onlyCore_issuing.trans (onlyCore_setCore _)).retire, siblings⟩
  · rw [captures.seq]
    exact ((s.core c).setThread 0 (s.thread c 0).issuing).seq_lt_nextSeq.1
  · rw [captures.seq]
    exact ((s.core c).setThread 0 (s.thread c 0).issuing).seq_lt_nextSeq.2
  · rw [rest]
    rfl
  · rw [VInstr.rposSteps]
    split
    next draws =>
      refine .inr ⟨?_, rfl⟩
      have six := draws.2
      rw [fcsrRm_eq, fcsr] at six
      exact BitVec.eq_of_toNat_eq six
    next => exact .inl rfl

theorem capture_captures (k : Core) (op : VOp) : (VInstr.capture k op).Captures k := ⟨rfl, rfl, rfl, rfl, rfl, rfl, rfl, rfl⟩

/-- g registers that an issuing h0 captures. -/
theorem rg_issuing (r : BitVec 5) : (((s.core c).setThread 0 (s.thread c 0).issuing).thread 0).rg r = (s.thread c 0).rg r := by
  rw [Core.thread_setThread_same]
  rfl

/-- What the vector format captures. -/
def FormCaptured (o : VForm) (x : Thread) (op : VOp) (e : VInstr) : Prop :=
  e.op = op ∧ e.vd = o.vd ∧ e.va = o.va ∧ e.vb = o.vb ∧ e.pm = o.pm ∧ e.s = o.s ∧ e.ga = x.rg o.va

theorem vform_enters {o : VForm} {op : VOp} {i : Instr} {bad zero : Bool} (h0 : o.th = 0) (room : VectorRoom s o.core)
    (issues : Issues s o.core 0 gs [] []) (legal : bad = false) (fields : zero = false)
    (runs : exec i s = enqueueV o.core o.th bad zero gs (vformInstr o op) s) :
    Completes i s fun t => EntersVector s t o.core fun e => FormCaptured o (s.thread o.core 0) op e ∧ e.gb = (s.thread o.core 0).rg o.vb := by
  rw [h0, legal, fields] at runs
  exact .of_runs _ runs (enqueueV_enters room issues { capture_captures _ op with }
    ⟨⟨rfl, rfl, rfl, rfl, rfl, rfl, rg_issuing _⟩, rg_issuing _⟩)

theorem slideImm_enters {o : VForm} {op : VOp} {i : Instr} (h0 : o.th = 0) (room : VectorRoom s o.core) (issues : Issues s o.core 0 [] [] [])
    (legal : o.s = false) (runs : exec i s = vSlideImm o op s) :
    Completes i s fun t => EntersVector s t o.core fun e => FormCaptured o (s.thread o.core 0) op e ∧ e.gb = o.vb.setWidth 32 := by
  rw [vSlideImm, h0, legal] at runs
  exact .of_runs _ runs (enqueueV_enters room issues { capture_captures _ op with } ⟨⟨rfl, rfl, rfl, rfl, rfl, rfl, rg_issuing _⟩, rfl⟩)

theorem intFmt_eq (k : Core) : k.intFmt = (intOf (k.vec.vcfg.toNat % 16)).isSome := by
  rw [Core.intFmt, bitsOf, pow_zero, Nat.div_one]
  rfl

theorem vformScalarG_eq (o : VForm) (s : State) :
    vformScalarG o s = if o.s = true ∧ (intOf ((s.core o.core).vec.vcfg.toNat % 16)).isSome = true then [o.vb] else [] := by
  rw [vformScalarG, intFmt_eq]

theorem vscanCarryG_eq (o : VScanForm) (s : State) :
    vscanCarryG o s = if o.ci = true ∧ (intOf ((s.core o.core).vec.vcfg.toNat % 16)).isSome = true then [o.vb] else [] := by
  rw [vscanCarryG, intFmt_eq]

end

/-- Settles O20: each instruction enters by `enqueueV_enters` with the fields of its format. -/
theorem vectorInstructionsEnterTheirQueue : Obligations.VectorInstructionsEnterTheirQueue := by
  unfold Obligations.VectorInstructionsEnterTheirQueue
  refine ⟨?form, ?others⟩
  case form =>
    intro s o h0 room x same enters scalar
    have captured : vformScalarG o s = scalar := vformScalarG_eq o s
    refine ⟨fun p listed issues => ?scalars, fun below p listed issues => ?compares, fun s_form => ?clips, fun plain vb p listed issues => ?unaries,
      fun plain p listed ok issues => ?moves, fun plain issues => ?slides⟩
    case scalars =>
      have runs := exec_scalarForms o s p listed
      rw [vS, captured] at runs
      exact vform_enters h0 room issues rfl rfl runs
    case compares =>
      have runs := exec_compareForms o s p listed
      rw [vCompare, captured] at runs
      exact vform_enters h0 room issues rfl (decide_eq_false (Nat.not_le.2 below)) runs
    case clips =>
      have clip {i : Instr} {op : VOp} (runs : exec i s = vClip o op s) : enters i op scalar := fun issues => by
        rw [vClip, captured] at runs
        exact vform_enters h0 room issues (by rw [s_form]; rfl) rfl runs
      exact ⟨clip (show _ = execVnclip o s from rfl), clip (show _ = execVnclipu o s from rfl)⟩
    case unaries => exact vform_enters h0 room issues plain (nonzero_zero vb) (exec_unaryForms o s p listed)
    case moves =>
      obtain ⟨zero, legal, runs⟩ := exec_moveForms o s p listed
      exact vform_enters h0 room issues plain (legal ok) runs
    case slides =>
      exact ⟨slideImm_enters h0 room issues plain (show _ = execVslideupi o s from rfl),
        slideImm_enters h0 room issues plain (show _ = execVslidedni o s from rfl)⟩
  case others =>
    intro s c room x int
    refine ⟨fun vd va vb vc pm sc issues p listed => ?fused, ?scans, ?memory⟩
    case fused =>
      exact .of_runs _ (exec_fusedForms s ⟨c, 0, vd, va, vb, vc, pm, sc⟩ p listed)
        (enqueueV_enters room issues { capture_captures _ p.2 with } ⟨rfl, rfl, rfl, rfl, rfl, rfl, rfl⟩)
    case scans =>
      intro vd va vb pm ci co issues enters
      let o : VScanForm := ⟨c, 0, vd, va, vb, pm, ci, co, 0⟩
      have captured : vscanCarryG o s = if ci = true ∧ int then [vb] else [] := vscanCarryG_eq o s
      have scan {i : Instr} {op : VOp} (runs : exec i s = enqueueV c 0 false false (vscanCarryG o s) (vscanInstr o op) s) : enters i op := by
        rw [captured] at runs
        exact .of_runs _ runs (enqueueV_enters room issues { capture_captures _ op with } ⟨rfl, rfl, rfl, rfl, rfl, rfl, rfl, rg_issuing _⟩)
      refine ⟨fun p listed => scan (exec_scanForms s o p listed), fun no_carry vd_zero => scan ?_⟩
      subst no_carry vd_zero
      exact (show _ = execVrsum o s from rfl)
    case memory =>
      intro vd ra sp zs pm h issues base
      have va : spanVa ((s.core c).setThread 0 (s.thread c 0).issuing) sp ((((s.core c).setThread 0 (s.thread c 0).issuing).thread 0).rg ra) =
          spanVa (s.core c) sp (x.rg ra) := by rw [rg_issuing]; rfl
      constructor
      · let o : VMemForm := ⟨c, 0, vd, ra, sp, zs, pm, 0, false⟩
        exact .of_runs (execVld o s) rfl (enqueueV_enters room issues { capture_captures _ .vld with }
          ⟨rfl, rfl, rfl, rfl, congrArg (BitVec.ofNat 64) va⟩)
      · let o : VMemForm := ⟨c, 0, vd, ra, sp, false, pm, 0, h⟩
        exact .of_runs (execVst o s) rfl (enqueueV_enters room issues { capture_captures _ .vst with }
          ⟨rfl, rfl, rfl, rfl, congrArg (BitVec.ofNat 64) va⟩)

/-! ## The matrix queue -/

section
variable {s : State} {c : CoreId} {gs : List (BitVec 5)} {shape mask : Word} {mk : Core → MInstr} {P : MInstr → Prop}

/-- Entry `e` holds what the matrix queue captures of core `k` for every instruction, and its shape word (R89). -/
structure MInstr.Captures (e : MInstr) (k : Core) : Prop where
  seq : e.seq = k.nextSeq
  pc : e.pc = (k.thread 0).pc
  fcsr : e.fcsr = (k.thread 0).fcsr
  rpos : e.rpos = k.vec.rpos

/-- Core c once an entry has joined its matrix queue and h0 issues. -/
def Core.pushedM (k : Core) (e : MInstr) : Core :=
  { k with
    mat := { k.mat with queue := k.mat.queue ++ [e] }
    vec := { k.vec with rpos := k.vec.rpos + BitVec.ofNat 64 e.rposSteps } }

/-- A thread that goes on behind the second word of its instruction. -/
def Thread.longOver (x : Thread) : Thread := x.onward (x.pc + 4)

theorem loopSplits_eq_false {x : Thread} (whole : ∀ k < 3, x.lc.get 0 k ≠ 0 → x.le.get 0 k ≠ x.pc.setWidth 32) : x.loopSplits = false := by
  refine List.any_eq_false.2 fun k hk both => ?_
  obtain ⟨active, ends⟩ := Bool.and_eq_true_iff.1 both
  exact whole k (List.mem_range.1 hk) (bne_iff_ne.1 active) (beq_iff_eq.1 ends)

theorem retireLong_goes (whole : ∀ k < 3, (s.thread c 0).lc.get 0 k ≠ 0 → (s.thread c 0).le.get 0 k ≠ (s.thread c 0).pc.setWidth 32) :
    retireLong c s = s.setThread c 0 (s.thread c 0).longOver := by
  rw [retireLong, loopSplits_eq_false whole]
  rfl

theorem rposSteps_eq (e : MInstr) :
    e.rposSteps = if (e.op = .accrd ∨ e.op = .accrdV) ∧
        (if bitsOf e.shape.toNat 6 3 = 0 then (e.fcsr.extractLsb' 12 3).toNat else bitsOf e.shape.toNat 6 3 - 1) = 6 then
      ((bitsOf e.shape.toNat 26 6 + 1) * (bitsOf e.shape.toNat 0 6 + 1) + 63) / 64 else 0 := by
  rw [← fcsrRm_eq]
  rfl

/-- An instruction that may enter the matrix queue does. -/
theorem enqueueM_enters (room : MatrixRoom s c) (issues : Issues s c 0 gs [] []) (shape_ok : shape &&& mask = 0)
    (captures : (mk ((s.core c).setThread 0 (s.thread c 0).issuing)).Captures ((s.core c).setThread 0 (s.thread c 0).issuing))
    (holds : P (mk ((s.core c).setThread 0 (s.thread c 0).issuing))) :
    ∃ t, enqueueM c 0 false false shape mask gs mk s = .next t ∧ EntersMatrix s t c P := by
  obtain ⟨thawed, short, parity, whole⟩ := room
  let x := s.thread c 0
  let e := mk ((s.core c).setThread 0 x.issuing)
  let w := (s.issuing c 0).modCore c fun k => k.pushedM e
  have core : w.core c = ((s.core c).pushedM e).setThread 0 x.issuing := by
    rw [core_modCore_same, core_issuing]
    rfl
  have thread : w.thread c 0 = x.issuing := by rw [State.thread, core, Core.thread_setThread_same]
  let t := w.setThread c 0 x.issuing.longOver
  have runs : enqueueM c 0 false false shape mask gs mk s = .next t := by
    have legal : lowestSub [(false, 2), (false, Config.emptyMaskSub), (decide ((0 : ThreadId) ≠ 0), 4), ((s.core c).frozen, 7)] = none := by
      rw [thawed]; rfl
    have word : shapeFault c shape mask s = none := by
      rw [shapeFault, parity, if_neg Bool.false_ne_true, if_neg (not_not_intro shape_ok)]
    have body : pushM c (mk ((s.issuing c 0).core c)) (s.issuing c 0) = t := by
      rw [core_issuing]
      exact (retireLong_goes (s := w) (by rw [thread]; exact whole)).trans (by rw [thread])
    rw [enqueueM, legal]
    simp only [Option.map_none, Option.isSome_none, Bool.false_eq_true, if_false, word, Option.isNone_none, Bool.true_and,
      decide_eq_false (Nat.not_le.2 short)]
    rw [issueWith_runs issues, body]
  obtain ⟨pc, lc, resv, frame⟩ := onward_frame x.issuing (x.pc + 4)
  have after : t.thread c 0 = x.issuing.longOver := thread_setThread_same ..
  have rest : t.core c = ((((s.core c).pushedM e).setThread 0 x.issuing).setThread 0 x.issuing.longOver) := by
    rw [core_setThread_same, core]
  have captured : ((s.core c).setThread 0 x.issuing).thread 0 = x.issuing := Core.thread_setThread_same ..
  have fcsr : e.fcsr = x.fcsr := by rw [captures.fcsr, captured]; rfl
  refine ⟨t, runs, e, e.rposSteps, holds, by rw [captures.pc, captured]; rfl, fcsr, captures.rpos, ?_, ?_, ?_, ?_, ?_, ?_,
    (onlyCore_issuing.trans (onlyCore_setCore _)).trans (onlyCore_setCore _), fun h other => ?_⟩
  · rw [captures.seq]
    exact ((s.core c).setThread 0 x.issuing).seq_lt_nextSeq.1
  · rw [captures.seq]
    exact ((s.core c).setThread 0 x.issuing).seq_lt_nextSeq.2
  · rw [rest]
    rfl
  · rw [rposSteps_eq, fcsr]
  · rw [after, Thread.longOver]
    exact frame ▸ rfl
  · rw [after]
    exact onward_follows x.issuing (x.pc + 4)
  · rw [State.thread, rest, Core.thread_setThread_other _ _ other, Core.thread_setThread_other _ _ other]
    rfl

theorem capture_capturesM (k : Core) (op : MOp) (shape : Word) : (MInstr.capture k op shape).Captures k := ⟨rfl, rfl, rfl, rfl⟩

theorem unusedField_false {am arrays : BitVec 4} {t : BitVec 3} (unused : am &&& arrays = 0 → t = 0) : unusedField am arrays t = false := by
  by_cases none : am &&& arrays = 0
  · rw [unusedField, unused none]
    exact Bool.and_false _
  · rw [unusedField, beq_false_of_ne none]
    rfl

/-- An instruction whose fields and shape word are legal enters the matrix queue. -/
theorem long_enters {zero noArray : Bool} {i : Instr} (room : MatrixRoom s c) (issues : Issues s c 0 gs [] [])
    (fields : zero = false) (arrays : noArray = false) (shape_ok : shape &&& mask = 0)
    (captures : (mk ((s.core c).setThread 0 (s.thread c 0).issuing)).Captures ((s.core c).setThread 0 (s.thread c 0).issuing))
    (holds : P (mk ((s.core c).setThread 0 (s.thread c 0).issuing))) (runs : exec i s = enqueueM c 0 zero noArray shape mask gs mk s) :
    Completes i s fun t => EntersMatrix s t c P := by
  rw [fields, arrays] at runs
  exact .of_runs _ runs (enqueueM_enters room issues shape_ok captures holds)

end

/-- Settles O21: each instruction enters by `enqueueM_enters` with the fields of its format. -/
theorem tileAndArrayInstructionsEnterTheirQueue : Obligations.TileAndArrayInstructionsEnterTheirQueue := by
  unfold Obligations.TileAndArrayInstructionsEnterTheirQueue
  intro s c shape room x
  refine ⟨fun t ra rb sp issues shape_ok => ?tiles, fun issues => ⟨fun t ra sp shape_ok => ?tldg, fun t shape_ok => ?tzero, fun t rd => ?ttag,
    fun am ta0 ta1 tb0 tb1 acc zacc some_array a0 a1 b0 b1 shape_ok => ?mma, fun am t0 some_array shape_ok => ?wload,
    fun am t0 t1 acc zacc some_array a0 a1 shape_ok => ?moves, fun a acc t v rel h => ?accumulators⟩⟩
  case tiles =>
    let o : TileForm := ⟨c, 0, t, ra, rb, sp, 0, shape⟩
    have va : spanVa ((s.core c).setThread 0 x.issuing) sp ((((s.core c).setThread 0 x.issuing).thread 0).rg ra) =
        spanVa (s.core c) sp (x.rg ra) := by rw [rg_issuing]; rfl
    have move {i : Instr} {op : MOp} (runs : exec i s = tileMove o op s) : Completes i s fun u => EntersMatrix s u c fun e =>
        e.op = op ∧ e.t = t ∧ e.shape = shape ∧ e.base = BitVec.ofNat 64 (spanVa (s.core c) sp (x.rg ra)) ∧ e.stride = x.rg rb :=
      long_enters room issues rfl rfl shape_ok { capture_capturesM _ op shape with }
        ⟨rfl, rfl, rfl, congrArg (BitVec.ofNat 64) va, rg_issuing rb⟩ runs
    simp only [List.forall_mem_cons]
    exact ⟨move (show _ = execTld o s from rfl), move (show _ = execTst o s from rfl), move (show _ = execTlds o s from rfl),
      move (show _ = execTsts o s from rfl), fun _ none => absurd none List.not_mem_nil⟩
  case tldg =>
    let o : TileForm := ⟨c, 0, t, ra, 0, sp, 0, shape⟩
    exact long_enters room issues rfl rfl shape_ok { capture_capturesM _ .tldg shape with } ⟨rfl, rfl, rfl, rfl, rfl, rfl⟩
      (show _ = execTldg o s from rfl)
  case tzero =>
    let o : TileForm := ⟨c, 0, t, 0, 0, 0, 0, shape⟩
    exact long_enters room issues rfl rfl shape_ok { capture_capturesM _ .tzero shape with } ⟨rfl, rfl, rfl⟩ (show _ = execTzero o s from rfl)
  case ttag =>
    let o : TileForm := ⟨c, 0, t, rd, 0, 0, 0, 0⟩
    exact long_enters room issues rfl rfl BitVec.zero_and { capture_capturesM _ .ttag 0 with } ⟨rfl, rfl, rfl⟩ (show _ = execTtag o s from rfl)
  case mma =>
    let o : MmaForm := ⟨c, 0, am, ta0, ta1, tb0, tb1, acc, zacc, 0, shape⟩
    exact long_enters room issues (by
        simp only [o, unusedField_false a0, unusedField_false a1, unusedField_false b0, unusedField_false b1]
        rfl)
      (beq_false_of_ne some_array) shape_ok { capture_capturesM _ .mma shape with }
      ⟨rfl, rfl, rfl, rfl, rfl, rfl, rfl, rfl, rfl⟩ (show _ = execMma o s from rfl)
  case wload =>
    let o : WeightForm := ⟨c, 0, am, t0, 0, 0, false, 0, shape⟩
    exact long_enters room issues rfl (beq_false_of_ne some_array) shape_ok { capture_capturesM _ .wload shape with } ⟨rfl, rfl, rfl, rfl⟩
      (show _ = execWload o s from rfl)
  case moves =>
    let o : WeightForm := ⟨c, 0, am, t0, t1, acc, zacc, 0, shape⟩
    have move {i : Instr} {op : MOp} (runs : exec i s = xMove o op s) : Completes i s fun u => EntersMatrix s u c fun e =>
        e.op = op ∧ e.t = t0 ∧ e.t1 = t1 ∧ e.am = am ∧ e.acc = acc ∧ e.zacc = zacc ∧ e.shape = shape :=
      long_enters room issues (by simp only [o, unusedField_false a0, unusedField_false a1]; rfl) (beq_false_of_ne some_array) shape_ok
        { capture_capturesM _ op shape with } ⟨rfl, rfl, rfl, rfl, rfl, rfl, rfl⟩ runs
    simp only [List.forall_mem_cons]
    exact ⟨move (show _ = execMvm o s from rfl), move (show _ = execMvmt o s from rfl), fun _ none => absurd none List.not_mem_nil⟩
  case accumulators =>
    let o : AccForm := ⟨c, 0, a, acc, t, v, rel, h, 0, shape⟩
    have move {i : Instr} {op : MOp} {zero : Bool} {mask : Word} (shape_ok : shape &&& mask = 0) (fields : zero = false)
        (runs : exec i s = accMove o op zero mask s) : Completes i s fun u => EntersMatrix s u c fun e =>
          e.op = op ∧ e.a = a ∧ e.acc = acc ∧ e.t = t ∧ e.v = v ∧ e.rel = rel ∧ e.h = h ∧ e.shape = shape :=
      long_enters room issues (by rw [fields]; rfl) rfl shape_ok { capture_capturesM _ op shape with }
        ⟨rfl, rfl, rfl, rfl, rfl, rfl, rfl, rfl⟩ runs
    simp only [List.forall_mem_cons]
    refine ⟨fun v0 ok => move ok (nonzero_zero v0) (show _ = execAccrd o s from rfl),
      fun t0 ok => move ok (nonzero_zero t0) (show _ = execAccrdVector o s from rfl),
      fun ⟨t0, r0, h0⟩ ok => move ok ?_ (show _ = execAccwr o s from rfl),
      fun ⟨t0, v0, r0, h0⟩ ok => move ok ?_ (show _ = execAccfree o s from rfl),
      fun ⟨t0, r0, h0⟩ ok => move ok ?_ (show _ = execAcctag o s from rfl), fun _ none => absurd none List.not_mem_nil⟩
    · simp only [o, nonzero_zero t0, r0, h0, Bool.or_false]
    · simp only [o, nonzero_zero t0, nonzero_zero v0, r0, h0, Bool.or_false]
    · simp only [o, nonzero_zero t0, r0, h0, Bool.or_false]

end Sys2Proof.Machine
end

section
/-!
PROOFS. LR and SC in the data local store (R82, R83, R84, R86).
-/

namespace Sys2Proof.Machine

/-! ## What an LR and an SC make of their thread -/

section
variable {x : Thread} {rd : BitVec 5} {v : Word} {r : Reservation} {alu : Bool}

theorem retireThread_resv : (retireThread alu x).resv = x.resv.map fun r => { r with since := r.since + 1, clean := r.clean && alu } := by
  obtain ⟨lc, frame⟩ := loopNext_frame x x.pc
  simp only [retireThread, frame, Thread.tick]

/-- A thread that has written g[rd] and holds no reservation. -/
def Thread.wgFreed (x : Thread) (rd : BitVec 5) (v : Word) : Thread := { x.wg rd v with resv := none }

/-- A thread that an SC leaves. -/
def Thread.sc (x : Thread) (rd : BitVec 5) (v : Word) : Thread := retireThread false (x.wgFreed rd v)

/-- A thread that an LR leaves. -/
def Thread.lr (x : Thread) (rd : BitVec 5) (v : Word) (r : Reservation) : Thread := { x.sc rd v with resv := some r }

theorem sc_run : (x.sc rd v).run = x.run := (retireThread_run ..).trans (Thread.wg_run ..)

theorem sc_resv : (x.sc rd v).resv = none := retireThread_resv

theorem sc_went : WentOn (x.wg rd v) (x.issuing.sc rd v) := by
  have written : x.issuing.wgFreed rd v = (x.wgFreed rd v).issuing := by
    rw [Thread.wgFreed, Thread.wg_issuing]
    rfl
  obtain ⟨frame, goes⟩ := retireThread_went false (x.wgFreed rd v)
  rw [Thread.sc, written]
  exact ⟨frame, goes⟩

theorem lr_went : WentOn (x.wg rd v) (x.issuing.lr rd v r) := by
  obtain ⟨frame, goes⟩ := sc_went (x := x) (rd := rd) (v := v)
  exact ⟨congrArg (fun y : Thread => { y with resv := some r }) frame, goes⟩

end

section
variable {w s : State} {c : CoreId} {th : ThreadId} {rd : BitVec 5} {v : Word} {a : Nat} {r : Reservation} {l : List Byte}

theorem finishSc_eq {ok : Bool} (run : (w.thread c th).run = true) :
    finishSc c th rd ok w = w.setThread c th ((w.thread c th).sc rd (if ok then 0 else 1)) := by
  have ran : ((w.thread c th).wgFreed rd (if ok then 0 else 1)).run = true := (Thread.wg_run ..).trans run
  rw [finishSc, retire, State.modThread, State.modThread, thread_setThread_same]
  exact setThread_setThread ran (sc_run.trans run)

theorem finishLr_eq (run : (w.thread c th).run = true) :
    finishLr c th rd a r (clean l) w = w.setThread c th ((w.thread c th).lr rd (BitVec.ofNat 32 (natOfBytes l)) r) := by
  have ran : ((w.thread c th).wgFreed rd (BitVec.ofNat 32 (natOfBytes l))).run = true := (Thread.wg_run ..).trans run
  have retired : ((w.thread c th).sc rd (BitVec.ofNat 32 (natOfBytes l))).run = true := sc_run.trans run
  simp only [finishLr, firstPoison_clean, natOfMarked_clean]
  rw [retire, State.modThread, State.modThread, State.modThread, thread_setThread_same, thread_setThread_same]
  exact (congrArg (fun u : State => u.setThread c th _) (setThread_setThread ran retired)).trans (setThread_setThread retired retired)

/-- A thread that goes on, in one write of the state. -/
theorem WentOn.writesG {y : Thread} (went : WentOn ((s.thread c th).wg rd v) y) : WritesG s (s.setThread c th y) c th rd v := by
  obtain ⟨frame, goes⟩ := went
  exact ⟨_, wg_wrote .., y.pc, y.lc, y.resv, congrArg _ frame, goes⟩

end

/-! ## LR.W and SC.W -/

section
variable {s : State} {o : LrForm}

theorem lrBad_local (z : o.z = 0) (sp : o.sp = 0) : lrBad o false = none := by
  rw [lrBad, nonzero_zero z, nonzero_zero sp]
  rfl

theorem lrFault_none {k : Core} {th : ThreadId} {write : Bool} {a : Nat} (word : a % 4 = 0) (inside : a < 0x100000)
    (unwatched : watchAt k th a 4 false write = none) : lrFault k th write a = none := by
  simp only [lrFault, if_neg (not_not_intro word), if_neg (Nat.not_le.2 inside), unwatched]

theorem watchAt_issuing {c : CoreId} {th : ThreadId} {a n : Nat} {va write : Bool} :
    watchAt ((s.issuing c th).core c) th a n va write = watchAt (s.core c) th a n va write := by
  have thread : ((s.issuing c th).core c).thread th = (s.thread c th).issuing := thread_issuing
  have ctl : ((s.issuing c th).core c).ctl = (s.core c).ctl := by rw [core_issuing]; rfl
  unfold watchAt
  rw [thread, ctl]
  rfl

theorem holds_iff {x : Thread} {granule : Nat} {l2 : Bool} :
    x.holds granule l2 = true ↔ ∃ r, x.resv = some r ∧ r.granule = granule ∧ r.l2 = l2 ∧ r.clean = true ∧ r.since ≤ 8 := by
  unfold Thread.holds
  split
  next r some =>
    simp only [Bool.and_eq_true, beq_iff_eq, decide_eq_true_eq]
    constructor
    · rintro ⟨⟨⟨clean, age⟩, same⟩, store⟩
      exact ⟨r, some, same, store, clean, age⟩
    · rintro ⟨_, same, granule, store, clean, age⟩
      cases some.symm.trans same
      exact ⟨⟨⟨clean, age⟩, granule⟩, store⟩
  next none =>
    constructor
    · intro no
      cases no
    · rintro ⟨_, some, -⟩
      cases none.symm.trans some

theorem execLrW_loads (z : o.z = 0) (sp : o.sp = 0) (issues : Issues s o.core o.th [o.ra] [] [])
    (word : ((s.thread o.core o.th).rg o.ra).toNat % 4 = 0) (inside : ((s.thread o.core o.th).rg o.ra).toNat < 0x100000)
    (unwatched : watchAt (s.core o.core) o.th ((s.thread o.core o.th).rg o.ra).toNat 4 false false = none)
    (healthy : ∀ i < 4, (s.core o.core).mem.dlsPoison.get false ((((s.thread o.core o.th).rg o.ra).toNat + i) / 8) = false) :
    execLrW o s = .next (s.setThread o.core o.th ((s.thread o.core o.th).issuing.lr o.rd
      (BitVec.ofNat 32 (dlsNum (s.core o.core) ((s.thread o.core o.th).rg o.ra).toNat 4))
      (newResv (((s.thread o.core o.th).rg o.ra).toNat / 64) false))) := by
  have thread : ((s.issuing o.core o.th).core o.core).thread o.th = (s.thread o.core o.th).issuing := thread_issuing
  have address : (s.thread o.core o.th).issuing.rg o.ra = (s.thread o.core o.th).rg o.ra := rfl
  have data : ((s.issuing o.core o.th).core o.core).dlsRead ((s.thread o.core o.th).rg o.ra).toNat 4 =
      clean ((s.core o.core).mem.dls.readBytes ((s.thread o.core o.th).rg o.ra).toNat 4) := by
    rw [core_issuing]
    exact dlsRead_clean _ healthy
  have free := lrFault_none (th := o.th) (write := false) (k := (s.issuing o.core o.th).core o.core) word inside (watchAt_issuing.trans unwatched)
  have run : ((s.issuing o.core o.th).thread o.core o.th).run = true := by rw [thread_issuing]; exact issues.run
  rw [execLrW, lrBad_local z sp, issue_runs issues]
  simp only [thread, address, free, data]
  rw [finishLr_eq run, thread_issuing]
  exact congrArg _ (setThread_setThread issues.run (sc_run.trans issues.run))

/-- What an SC does with its word once it has passed its checks. -/
theorem execScW_runs (z : o.z = 0) (sp : o.sp = 0) (issues : Issues s o.core o.th [o.ra, o.rb] [] [])
    (word : ((s.thread o.core o.th).rg o.ra).toNat % 4 = 0) (inside : ((s.thread o.core o.th).rg o.ra).toNat < 0x100000)
    (unwatched : watchAt (s.core o.core) o.th ((s.thread o.core o.th).rg o.ra).toNat 4 false true = none) :
    execScW o s = .next (if (s.thread o.core o.th).holds (((s.thread o.core o.th).rg o.ra).toNat / 64) false then
        finishSc o.core o.th o.rd true (dlsWrite o.core ((s.thread o.core o.th).rg o.ra).toNat
          (clean (bytesOf 4 ((s.thread o.core o.th).rg o.rb))) (some o.th) (s.issuing o.core o.th))
      else finishSc o.core o.th o.rd false (s.issuing o.core o.th)) := by
  have thread : ((s.issuing o.core o.th).core o.core).thread o.th = (s.thread o.core o.th).issuing := thread_issuing
  have regs (r : BitVec 5) : (s.thread o.core o.th).issuing.rg r = (s.thread o.core o.th).rg r := rfl
  have held (g : Nat) : (s.thread o.core o.th).issuing.holds g false = (s.thread o.core o.th).holds g false := rfl
  have free := lrFault_none (th := o.th) (write := true) (k := (s.issuing o.core o.th).core o.core) word inside (watchAt_issuing.trans unwatched)
  rw [execScW, lrBad_local z sp, issue_runs issues]
  simp only [thread, regs, held, free]

theorem execScW_fails (z : o.z = 0) (sp : o.sp = 0) (issues : Issues s o.core o.th [o.ra, o.rb] [] [])
    (word : ((s.thread o.core o.th).rg o.ra).toNat % 4 = 0) (inside : ((s.thread o.core o.th).rg o.ra).toNat < 0x100000)
    (unwatched : watchAt (s.core o.core) o.th ((s.thread o.core o.th).rg o.ra).toNat 4 false true = none)
    (lost : ¬(s.thread o.core o.th).holds (((s.thread o.core o.th).rg o.ra).toNat / 64) false = true) :
    execScW o s = .next (s.setThread o.core o.th ((s.thread o.core o.th).issuing.sc o.rd 1)) := by
  have run : ((s.issuing o.core o.th).thread o.core o.th).run = true := by rw [thread_issuing]; exact issues.run
  rw [execScW_runs z sp issues word inside unwatched, if_neg lost, finishSc_eq run, thread_issuing]
  exact congrArg _ (setThread_setThread issues.run (sc_run.trans issues.run))

/-- State in which thread th of core c, issuing, has stored a word in the data local store. -/
def State.wordStored (s : State) (c : CoreId) (th : ThreadId) (a : Nat) (v : Word) : State :=
  dlsWrite c a (clean (bytesOf 4 v)) (some th) (s.issuing c th)

theorem execScW_stores (z : o.z = 0) (sp : o.sp = 0) (issues : Issues s o.core o.th [o.ra, o.rb] [] [])
    (word : ((s.thread o.core o.th).rg o.ra).toNat % 4 = 0) (inside : ((s.thread o.core o.th).rg o.ra).toNat < 0x100000)
    (unwatched : watchAt (s.core o.core) o.th ((s.thread o.core o.th).rg o.ra).toNat 4 false true = none)
    (stands : (s.thread o.core o.th).holds (((s.thread o.core o.th).rg o.ra).toNat / 64) false = true) :
    execScW o s = .next ((s.wordStored o.core o.th ((s.thread o.core o.th).rg o.ra).toNat ((s.thread o.core o.th).rg o.rb)).setThread o.core o.th
      ((s.thread o.core o.th).issuing.sc o.rd 0)) := by
  obtain ⟨-, own, -⟩ := dlsWrite_leaves (s.issuing o.core o.th) o.core o.th ((s.thread o.core o.th).rg o.ra).toNat
    (bytesOf 4 ((s.thread o.core o.th).rg o.rb))
  have thread := own.trans thread_issuing
  rw [execScW_runs z sp issues word inside unwatched, if_pos stands, finishSc_eq (by rw [thread]; exact issues.run), thread]
  rfl

end

/-- What an SC that succeeds leaves of core c (R83, R242). -/
theorem wordStored_leaves (s : State) (c : CoreId) (th : ThreadId) (a : Nat) (v : Word) (y : Thread) :
    let t := (s.wordStored c th a v).setThread c th y
    dlsNum (t.core c) a 4 = v.toNat ∧ (∀ b, b < a ∨ a + 4 ≤ b → (t.core c).mem.dls.read b = (s.core c).mem.dls.read b) ∧ OnlyCore s t c ∧
    (∀ h, h ≠ th → t.thread c h = { s.thread c h with resv := (t.thread c h).resv }) ∧
    t.core c = { s.core c with
      threads := (t.core c).threads, mem := { (s.core c).mem with dls := (t.core c).mem.dls, dlsPoison := (t.core c).mem.dlsPoison } } := by
  intro t
  obtain ⟨⟨threads, poison, written⟩, -, others⟩ := dlsWrite_leaves (s.issuing c th) c th a (bytesOf 4 v)
  have core : t.core c = ((s.wordStored c th a v).core c).setThread th y := core_setThread_same ..
  have stored : (s.wordStored c th a v).core c = _ := written
  have bytes : ((s.wordStored c th a v).core c).mem.dls = (s.core c).mem.dls.writeBytes a (bytesOf 4 v) := by
    rw [stored, core_issuing]
    rfl
  have length : (bytesOf 4 v).length = 4 := bytesOfNat_length ..
  have word_back : ((s.core c).mem.dls.writeBytes a (bytesOf 4 v)).readNat (a + 0) 4 = v.toNat := by
    rw [Memory.readNat_writeBytes (i := 0) (by omega), List.drop_zero, List.take_of_length_le (by omega), natOfBytes_bytesOf _ (by decide)]
  refine ⟨?_, fun b outside => ?_, (onlyCore_issuing.trans (onlyCore_setCore _)).trans (onlyCore_setCore _), fun h other => ?_, ?_⟩
  · rw [dlsNum, core, Core.setThread_mem, bytes]
    exact word_back
  · rw [core, Core.setThread_mem, bytes]
    exact Memory.read_writeBytes_other _ _ _ _ (by rwa [length])
  · rw [State.thread, core, Core.thread_setThread_other _ _ other]
    exact (others h).trans (by rw [issuing_sibling other]; rfl)
  · rw [core, stored, core_issuing]
    rfl

end Sys2Proof.Machine
end

section
/-!
PROOFS. Bulk accesses of h0: translation, the merging buffer, the L1D (R63, R125, R244 to R250, R278).
-/

namespace Sys2Proof.Machine

/-! ## Bytes of a line -/

section
variable {o n m v : Nat} {l : List Byte}

theorem natOfBytes_append (a b : List Byte) : natOfBytes (a ++ b) = natOfBytes a + 256 ^ a.length * natOfBytes b := by
  induction a with
  | nil => rw [List.nil_append, List.length_nil, pow_zero, Nat.one_mul, natOfBytes, Nat.zero_add]
  | cons x r ih =>
    rw [List.cons_append, natOfBytes, natOfBytes, ih, List.length_cons, Nat.pow_succ', Nat.mul_add, Nat.mul_assoc, Nat.add_assoc]

theorem natOfBytes_drop (l : List Byte) (o : Nat) (inside : o ≤ l.length) : natOfBytes (l.drop o) = natOfBytes l / 256 ^ o := by
  have length : (l.take o).length = o := List.length_take_of_le inside
  have whole := natOfBytes_append (l.take o) (l.drop o)
  rw [List.take_append_drop, length] at whole
  have low := natOfBytes_lt (l.take o)
  rw [length] at low
  rw [whole, Nat.add_mul_div_left _ _ (Nat.pow_pos (by decide)), Nat.div_eq_of_lt low, Nat.zero_add]

theorem natOfBytes_take (l : List Byte) (n : Nat) (inside : n ≤ l.length) : natOfBytes (l.take n) = natOfBytes l % 256 ^ n := by
  have length : (l.take n).length = n := List.length_take_of_le inside
  have whole := natOfBytes_append (l.take n) (l.drop n)
  rw [List.take_append_drop, length] at whole
  have low := natOfBytes_lt (l.take n)
  rw [length] at low
  rw [whole, Nat.add_mul_mod_self_left, Nat.mod_eq_of_lt low]

/-- The number that n bytes of a list hold. -/
theorem natOfBytes_window (inside : o + n ≤ l.length) : natOfBytes ((l.drop o).take n) = natOfBytes l / 256 ^ o % 256 ^ n := by
  rw [natOfBytes_take _ _ (by rw [List.length_drop]; omega), natOfBytes_drop _ _ (by omega)]

theorem pow_256 (n : Nat) : 256 ^ n = 2 ^ (8 * n) := by
  rw [pow_mul]
  rfl

theorem lineBytes_length (d : BitVec 512) : (lineBytes d).length = 64 := bytesOfNat_length ..

theorem natOfBytes_lineBytes (d : BitVec 512) : natOfBytes (lineBytes d) = d.toNat := natOfBytes_bytesOf d (le_of_eq (by rw [pow_256]))

/-- The number that n bytes of a line hold. -/
theorem natOfBytes_line (d : BitVec 512) (inside : o + n ≤ 64) :
    natOfBytes (((lineBytes d).drop o).take n) = d.toNat / 2 ^ (8 * o) % 2 ^ (8 * n) := by
  rw [natOfBytes_window (by rwa [lineBytes_length]), natOfBytes_lineBytes, pow_256, pow_256]

theorem lineOf_toNat (length : l.length = 64) : (lineOf l).toNat = natOfBytes l := by
  have small := natOfBytes_lt l
  rw [length] at small
  exact (BitVec.toNat_ofNat ..).trans (Nat.mod_eq_of_lt (small.trans_eq (by rw [pow_256])))

/-- Bytes that are placed in a line. -/
theorem placeAt_getD (inside : o + l.length ≤ 64) {i : Nat} (hi : i < 64) :
    (placeAt o l).getD i 0 = if o ≤ i ∧ i < o + l.length then l.getD (i - o) 0 else 0 := by
  simp only [placeAt, List.getD_eq_getElem?_getD, List.getElem?_append, List.length_append, List.length_replicate, List.getElem?_replicate]
  split_ifs <;> first | omega | simp_all

theorem maskOf_getLsbD {i : Nat} (hi : i < 64) : (maskOf o n).getLsbD i = decide (o ≤ i ∧ i < o + n) := by
  rw [maskOf, BitVec.getLsbD_ofNat, Nat.testBit_mul_two_pow, Nat.testBit_two_pow_sub_one, decide_eq_true hi, Bool.true_and,
    ← Bool.decide_and, decide_eq_decide]
  omega

theorem mergeBytes_length (mask : BitVec 64) (old new : List Byte) : (mergeBytes mask old new).length = 64 := by
  rw [mergeBytes, List.length_map, indices, List.length_range]

theorem mergeBytes_getD {mask : BitVec 64} {old new : List Byte} {i : Nat} (hi : i < 64) :
    (mergeBytes mask old new).getD i 0 = if mask.getLsbD i then new.getD i 0 else old.getD i 0 := by
  rw [mergeBytes, List.getD_eq_getElem?_getD, List.getElem?_map, indices, List.getElem?_range hi]
  rfl

theorem bytesOfNat_natOfBytes (l : List Byte) : bytesOfNat l.length (natOfBytes l) = l := by
  induction l with
  | nil => rfl
  | cons b r ih =>
    have byte := b.isLt
    have low : BitVec.ofNat 8 (b.toNat + 256 * natOfBytes r) = b := by
      apply BitVec.eq_of_toNat_eq
      rw [BitVec.toNat_ofNat]
      omega
    have high : (b.toNat + 256 * natOfBytes r) / 256 = natOfBytes r := by omega
    rw [natOfBytes, List.length_cons, bytesOfNat, low, high, ih]

theorem lineBytes_lineOf (length : l.length = 64) : lineBytes (lineOf l) = l := by
  rw [lineBytes, bytesOf, lineOf_toNat length]
  exact length ▸ bytesOfNat_natOfBytes l

theorem bytesOf_getD {w : Nat} {i : Nat} (d : BitVec w) (hi : i < n) : (bytesOf n d).getD i 0 = d.extractLsb' (8 * i) 8 := by
  rw [bytesOf, bytesOfNat_getD hi]
  apply BitVec.eq_of_toNat_eq
  rw [BitVec.extractLsb'_toNat, BitVec.toNat_ofNat, Nat.shiftRight_eq_div_pow]

/-- A byte of a line of which a list has replaced some bytes. -/
theorem line_merged {d : BitVec 512} {i : Nat} (inside : o + l.length ≤ 64) (hi : i < 64) :
    (lineOf (mergeBytes (maskOf o l.length) (lineBytes d) (placeAt o l))).extractLsb' (8 * i) 8 =
      if o ≤ i ∧ i < o + l.length then l.getD (i - o) 0 else d.extractLsb' (8 * i) 8 := by
  rw [← bytesOf_getD (n := 64) _ hi]
  show (lineBytes (lineOf _)).getD i 0 = _
  rw [lineBytes_lineOf (mergeBytes_length ..), mergeBytes_getD hi, maskOf_getLsbD hi, lineBytes, bytesOf_getD _ hi, placeAt_getD inside hi]
  by_cases within : o ≤ i ∧ i < o + l.length
  · rw [decide_eq_true within, if_pos rfl, if_pos within, if_pos within]
  · rw [decide_eq_false within, if_neg Bool.false_ne_true, if_neg within]

/-- The bytes that replace those of a line, whatever it held. -/
theorem merged_window {old : List Byte} (inside : o + l.length ≤ 64) :
    ((lineBytes (lineOf (mergeBytes (maskOf o l.length) old (placeAt o l)))).drop o).take l.length = l := by
  rw [lineBytes_lineOf (mergeBytes_length ..)]
  refine List.ext_getElem (by simp [mergeBytes_length]; omega) fun i hi hi' => ?_
  have merged := mergeBytes_getD (mask := maskOf o l.length) (old := old) (new := placeAt o l) (i := o + i) (by omega)
  rw [maskOf_getLsbD (by omega), placeAt_getD inside (by omega), decide_eq_true (by omega), if_pos rfl, if_pos (by omega), Nat.add_sub_cancel_left,
    List.getD_eq_getElem _ _ (by rw [mergeBytes_length]; omega), List.getD_eq_getElem _ _ hi'] at merged
  rw [List.getElem_take, List.getElem_drop, merged]

end

/-! ## An access that the core's TLB translates (R125, R278) -/

/-- State in which core c has used an entry of its TLB. -/
def State.tlbUsed (s : State) (c : CoreId) (e : TlbEntry) : State :=
  s.modCore c fun k => { k with mem := { k.mem with tlb := coreTlbInsert e k.mem.tlb } }

/-- Its core, once it has used the entry. -/
def Core.tlbUsed (k : Core) (e : TlbEntry) : Core := { k with mem := { k.mem with tlb := coreTlbInsert e k.mem.tlb } }

section
variable {s w : State} {c : CoreId} {va n : Nat} {write : Bool} {l : Leaf}

theorem coreBinding_issuing {th : ThreadId} : coreBinding (s.issuing c th) c = coreBinding s c := by
  rw [coreBinding, core_issuing]
  rfl

theorem HitsTlb.issuing (h : HitsTlb s c va n write l) : HitsTlb (s.issuing c 0) c va n write l := by
  obtain ⟨line, range, free, held, flight, found, maps, permits, attr, page, region, home, unwatched⟩ := h
  unfold HitsTlb
  rw [coreBinding_issuing, watchAt_issuing, core_issuing]
  exact ⟨line, range, free, held, flight, found, maps, permits, attr, page, region, home, unwatched⟩

theorem HitsTlb.addr_mod (h : HitsTlb s c va n write l) : (l.addr va).toNat % 64 = va % 64 := by
  obtain ⟨-, -, -, -, -, -, maps, -, -, page, -⟩ := h
  have inside := (of_decide_eq_true maps).1
  rw [Leaf.addr, BitVec.toNat_ofNat]
  omega

theorem xlate_hits (some_byte : 1 ≤ n) (h : HitsTlb w c va n write l) :
    xlate (.scalar c) (coreBinding w c) (BitVec.ofNat 64 va) write false w = (.leaf l, w.tlbUsed c ⟨coreBinding w c, l⟩) := by
  obtain ⟨-, range, free, held, flight, found, maps, permits, -⟩ := h
  have number : (BitVec.ofNat 64 va).toNat = va := by rw [BitVec.toNat_ofNat, Nat.mod_eq_of_lt (by omega)]
  have top : bitsOf va 48 16 = 0 := by rw [bitsOf, Nat.div_eq_of_lt (by omega), Nat.zero_mod]
  have bare : heldLeaves w (.scalar c) = [] := held
  have core : Who.core (.scalar c) = some c := rfl
  have allowed : ((l.w || !write) && (!l.old || !write || Who.queued (.scalar c))) = true := by
    have queued : Who.queued (.scalar c) = true := rfl
    rw [queued, Bool.or_true, Bool.and_true]
    cases write with
    | false => exact Bool.or_true _
    | true => rw [permits rfl]; rfl
  simp only [xlate, free, number, top, flight, bare, core, found, Bool.false_eq_true, if_false, ne_eq, not_true_eq_false, Option.none_or,
    List.find?_nil]
  refine if_pos ?_
  rw [Bool.and_assoc, maps, allowed]
  rfl

theorem core_tlbUsed {e : TlbEntry} : (w.tlbUsed c e).core c = (w.core c).tlbUsed e := core_modCore_same ..

theorem watchAt_tlbUsed {e : TlbEntry} {th : ThreadId} {a : Nat} {span : Bool} :
    watchAt ((w.tlbUsed c e).core c) th a n span write = watchAt (w.core c) th a n span write := by
  rw [core_tlbUsed]
  rfl

theorem checkPieces_hits (some_byte : 1 ≤ n) (h : HitsTlb w c va n write l) :
    checkPieces c write (unitPieces va n) w = (.ok [⟨va, n, l⟩], w.tlbUsed c ⟨coreBinding w c, l⟩) := by
  have xlates := xlate_hits some_byte h
  obtain ⟨line, -, -, -, -, -, -, -, -, -, -, -, unwatched⟩ := h
  have one : unitPieces va n = [(va, n)] := pieces_one some_byte line
  simp only [checkPieces, one, List.foldl_cons, List.foldl_nil, xlates, watchAt_tlbUsed, unwatched]
  rfl

theorem spanFault_none (some_byte : 1 ≤ n) (range : va + n ≤ 2 ^ 48) : spanFault va n = none := by
  have first : ¬va % 2 ^ 64 / 2 ^ 48 ≠ 0 := by omega
  have last : ¬(va + n - 1) % 2 ^ 64 / 2 ^ 48 ≠ 0 := by omega
  rw [spanFault, if_neg first, if_neg last]

/-- Nothing of an access stands in the merging buffer. -/
theorem forward_free {k : Core} (absent : ∀ m ∈ k.mem.mbuf, m.line ≠ (l.addr va).toNat / 64) : forward k [⟨va, n, l⟩] = .free := by
  have none : (k.mem.mbuf.filter fun e => [(⟨va, n, l⟩ : Piece)].any fun p => p.inEntry e) = [] := by
    refine List.filter_eq_nil_iff.2 fun m hm held => ?_
    simp only [List.any_cons, List.any_nil, Bool.or_false, Piece.inEntry, Bool.and_eq_true, beq_iff_eq] at held
    exact absent m hm held.1
  rw [forward, none]

end

/-! ## What h0's access leaves of its core -/

section
variable {s t u w : State} {c : CoreId} {k : Core} {x : Thread}

/-- Nothing but core c and the hub differs. -/
def OnlyCoreAndHub (s t : State) (c : CoreId) : Prop := OnlyCore s { t with hub := s.hub } c

theorem OnlyCore.hub (h : OnlyCore s t c) : OnlyCoreAndHub s t c := by
  obtain ⟨frame, others⟩ := h
  refine ⟨?_, others⟩
  rw [frame]

theorem OnlyCoreAndHub.trans (h : OnlyCoreAndHub s t c) (h' : OnlyCoreAndHub t u c) : OnlyCoreAndHub s u c := by
  obtain ⟨frame, others⟩ := h
  obtain ⟨frame', others'⟩ := h'
  refine ⟨?_, fun d other => (others' d other).trans (others d other)⟩
  have step : ({ u with hub := s.hub } : State) = { ({ t with hub := s.hub } : State) with cores := u.cores } :=
    congrArg (fun v : State => { v with hub := s.hub }) frame'
  rw [step, frame]

theorem dropReturned_only {who : Who} : OnlyCoreAndHub w (dropReturned who w) c := ⟨rfl, fun _ _ => rfl⟩

theorem leaveScalar_only : OnlyCoreAndHub w (leaveScalar c w) c :=
  dropReturned_only.trans ((onlyCore_setCore _).trans (onlyCore_setCore _)).hub

theorem leaveScalar_core (stood : w.core c = k.setThread 0 x) (run : x.run = true) (free : x.blocked = none) (held : k.mem.held = []) :
    (leaveScalar c w).core c = k.setThread 0 x := by
  have dropped : (dropReturned (.scalar c) w).core c = k.setThread 0 x := stood
  have thread : (dropReturned (.scalar c) w).thread c 0 = x := by rw [State.thread, dropped, Core.thread_setThread_same]
  have unblocked : ({ x with blocked := none } : Thread) = x := by rw [← free]
  have mem : ({ k.mem with held := [] } : CoreMem) = k.mem := by rw [← held]
  rw [leaveScalar, core_modCore_same, core_modThread_same, thread, dropped, unblocked, Core.setThread_setThread run run]
  show ({ k.setThread 0 x with mem := { k.mem with held := [] } } : Core) = _
  rw [mem]
  rfl

end

end Sys2Proof.Machine
end

section
/-!
PROOFS. LDX and STX (R63, R70, R94, R96, R244, R245, R247, R248, R250).
-/

namespace Sys2Proof.Machine

/-! ## A load's result in its register -/

/-- What a load of an integer register writes (Table 03-8). -/
def loadValue (sz : BitVec 3) (v : Nat) : Word :=
  if sz = 0 then (BitVec.ofNat 8 v).signExtend 32 else if sz = 2 then (BitVec.ofNat 16 v).signExtend 32 else BitVec.ofNat 32 v

section
variable {k : Core} {th : ThreadId} {rd : BitVec 5} {sz : BitVec 3} {v : Nat}

theorem loadReg_integer (small : v < 256 ^ szBytes sz) (integer : sz.toNat < 5) :
    k.loadReg th rd sz v = k.modThread th fun x => x.wg rd (loadValue sz v) := by
  have five : ∀ sz : BitVec 3, sz.toNat < 5 → sz = 0 ∨ sz = 1 ∨ sz = 2 ∨ sz = 3 ∨ sz = 4 := by decide
  rcases five sz integer with rfl | rfl | rfl | rfl | rfl
  · rfl
  · exact congrArg (fun value => k.modThread th fun x => x.wg rd value) (ofNat_setWidth (n := 8) small)
  · rfl
  · exact congrArg (fun value => k.modThread th fun x => x.wg rd value) (ofNat_setWidth (n := 16) small)
  · rfl

theorem loadReg_float (small : v < 256 ^ szBytes sz) (legal : sz ≠ 7) (float : 5 ≤ sz.toNat) :
    k.loadReg th rd sz v = k.wf th rd (BitVec.ofNat 64 v) := by
  have two : ∀ sz : BitVec 3, sz ≠ 7 → 5 ≤ sz.toNat → sz = 5 ∨ sz = 6 := by decide
  rcases two sz legal float with rfl | rfl
  · exact congrArg (fun value => k.wf th rd (BitVec.ofNat 64 value)) (Nat.mod_eq_of_lt small)
  · rfl

theorem wf_thread_h0 : (k.wf 0 rd (BitVec.ofNat 64 v)).thread 0 = k.thread 0 := by rw [wf_h0, Core.wv_thread]

theorem modThread_thread (f : Thread → Thread) : (k.modThread th f).thread th = f (k.thread th) := Core.thread_setThread_same ..

/-- What a load leaves of h0's registers and of its core. -/
theorem loadReg_h0 (small : v < 256 ^ szBytes sz) (legal : sz ≠ 7) :
    (∀ r, ((k.loadReg 0 rd sz v).thread 0).rg r = if r = rd ∧ r ≠ 0 ∧ sz.toNat < 5 then loadValue sz v else (k.thread 0).rg r) ∧
    (∀ r, (k.loadReg 0 rd sz v).rf 0 r = if r = rd ∧ 5 ≤ sz.toNat then BitVec.ofNat 64 v else k.rf 0 r) ∧
    ((k.loadReg 0 rd sz v).thread 0).blocked = (k.thread 0).blocked ∧ (k.loadReg 0 rd sz v).mem = k.mem := by
  by_cases integer : sz.toNat < 5
  · rw [loadReg_integer small integer, modThread_thread]
    refine ⟨fun r => ?_, fun r => ?_, Thread.wg_blocked .., rfl⟩
    · obtain ⟨regs, -⟩ := wg_wrote (k.thread 0) rd (loadValue sz v)
      rw [regs]
      exact if_congr (by rw [and_iff_left integer]) rfl rfl
    · rw [if_neg fun both => absurd integer (Nat.not_lt.2 both.2)]
      rfl
  · have float : 5 ≤ sz.toNat := Nat.not_lt.1 integer
    rw [loadReg_float small legal float, wf_thread_h0]
    obtain ⟨regs, -, frame, -⟩ := wf_wrote k 0 rd (BitVec.ofNat 64 v)
    refine ⟨fun r => ?_, fun r => ?_, rfl, ?_⟩
    · rw [if_neg fun all => integer all.2.2]
    · rw [regs]
      exact if_congr (by rw [and_iff_left float]) rfl rfl
    · rw [frame rfl]

end

/-! ## LDX -/

section
variable {s w : State} {c : CoreId} {va n : Nat} {l : Leaf} {e : L1Line}

/-- State in which core c has used a line of its L1D. -/
def State.l1Used (s : State) (c : CoreId) (e : L1Line) : State :=
  s.modCore c fun k => { k with mem := { k.mem with l1d := l1Insert e k.mem.l1d } }

theorem clean_window (l : List Byte) (o n : Nat) : ((marked false l).drop o).take n = clean ((l.drop o).take n) := by
  rw [marked, clean, List.map_take, List.map_drop]

theorem readPieces_line (region : paRegion (l.addr va) = 0) (attr : l.attr = 0)
    (found : (w.core c).l1Find ((l.addr va).toNat / 64) = some e) (sound : e.psn = false) :
    readPieces c [⟨va, n, l⟩] false w = (some (clean (((lineBytes e.data).drop ((l.addr va).toNat % 64)).take n)), w.l1Used c e) := by
  have local_ : ¬paRegion (l.addr va) = 3 := by rw [region]; decide
  have line : cached l = true := beq_iff_eq.2 attr
  have piece : readPiece c ⟨va, n, l⟩ true false w =
      (some (clean (((lineBytes e.data).drop ((l.addr va).toNat % 64)).take n)), w.l1Used c e) := by
    simp only [readPiece, if_neg local_, line, if_true, Bool.false_eq_true, if_false, found, sound, clean_window]
    rfl
  have whole : decide ([(⟨va, n, l⟩ : Piece)].length = 1) = true := rfl
  simp only [readPieces, List.foldl_cons, List.foldl_nil, whole, piece, List.nil_append]

theorem spanVa_issuing {sp : BitVec 4} {ra : BitVec 5} :
    spanVa ((s.issuing c 0).core c) sp ((((s.issuing c 0).core c).thread 0).rg ra) = spanVa (s.core c) sp ((s.thread c 0).rg ra) := by
  rw [core_issuing, rg_issuing]
  rfl

/-- An LDX whose line the L1D holds. -/
theorem attemptLdx_hits {o : XForm} (address : spanVa (w.core c) o.sp (((w.core c).thread 0).rg o.ra) = va)
    (hits : HitsTlb w c va (szBytes o.sz) false l) (absent : ∀ m ∈ (w.core c).mem.mbuf, m.line ≠ (l.addr va).toNat / 64)
    (found : (w.core c).l1Find ((l.addr va).toNat / 64) = some e) (sound : e.psn = false) :
    attemptLdx c o w = retire c 0 false ((leaveScalar c ((w.tlbUsed c ⟨coreBinding w c, l⟩).l1Used c e)).modCore c fun k =>
      k.loadReg 0 o.rd o.sz (e.data.toNat / 2 ^ (8 * ((l.addr va).toNat % 64)) % 2 ^ (8 * szBytes o.sz))) := by
  obtain ⟨some_byte, -⟩ := szBytes_bounds o.sz
  have checked := checkPieces_hits some_byte hits
  have place := hits.addr_mod
  obtain ⟨line, range, -, -, -, -, -, -, attr, -, region, -⟩ := hits
  have free : forward ((w.tlbUsed c ⟨coreBinding w c, l⟩).core c) [⟨va, szBytes o.sz, l⟩] = .free := by
    rw [core_tlbUsed]
    exact forward_free absent
  have data := readPieces_line (n := szBytes o.sz) (w := w.tlbUsed c ⟨coreBinding w c, l⟩) region attr (by rw [core_tlbUsed]; exact found) sound
  have number := natOfBytes_line (o := (l.addr va).toNat % 64) (n := szBytes o.sz) e.data (by rw [place]; exact line)
  rw [attemptLdx]
  simp only [address, spanFault_none some_byte range, checked, free, data, finishLoad, firstPoison_clean, natOfMarked_clean, number]

/-- Core c of h0 once it has read a line of its L1D under an entry of its TLB. -/
def Core.readLine (k : Core) (t : TlbEntry) (e : L1Line) : Core :=
  { k with mem := { k.mem with tlb := coreTlbInsert t k.mem.tlb, l1d := l1Insert e k.mem.l1d } }

theorem xform_legal {o : XForm} {bad : Bool} (h0 : o.th = 0) (z : o.z = 0) (legal : bad = false) : spanBad o.th bad (nonzero o.z) = none := by
  rw [h0]
  exact spanBad_h0 legal (nonzero_zero z)

/-- The bytes that an LDX reads reach its register, and its core goes on (R63, R250). -/
theorem execLdx_loads {o : XForm} (h0 : o.th = 0) (z : o.z = 0) (legal : o.sz ≠ 7)
    (issues : Issues s o.core 0 [o.ra] [] (if o.sz = 5 ∨ o.sz = 6 then [o.rd] else []))
    (address : spanVa (s.core o.core) o.sp ((s.thread o.core 0).rg o.ra) = va)
    (hits : HitsTlb s o.core va (szBytes o.sz) false l) (absent : ∀ m ∈ (s.core o.core).mem.mbuf, m.line ≠ (l.addr va).toNat / 64)
    (found : (s.core o.core).l1Find ((l.addr va).toNat / 64) = some e) (sound : e.psn = false) :
    ∃ u, execLdx o s = .next (retire o.core 0 false u) ∧ OnlyCoreAndHub s u o.core ∧
      u.core o.core = (((s.core o.core).readLine ⟨coreBinding s o.core, l⟩ e).setThread 0 (s.thread o.core 0).issuing).loadReg 0 o.rd o.sz
        (e.data.toNat / 2 ^ (8 * ((l.addr va).toNat % 64)) % 2 ^ (8 * szBytes o.sz)) := by
  let r := ((s.issuing o.core 0).tlbUsed o.core ⟨coreBinding s o.core, l⟩).l1Used o.core e
  have read : r.core o.core = ((s.core o.core).readLine ⟨coreBinding s o.core, l⟩ e).setThread 0 (s.thread o.core 0).issuing := by
    refine (core_modCore_same ..).trans ?_
    rw [core_tlbUsed, core_issuing]
    rfl
  have held : ((s.core o.core).readLine ⟨coreBinding s o.core, l⟩ e).mem.held = [] := by
    obtain ⟨-, -, -, held, -⟩ := hits
    exact held
  let u := (leaveScalar o.core r).modCore o.core fun k =>
    k.loadReg 0 o.rd o.sz (e.data.toNat / 2 ^ (8 * ((l.addr va).toNat % 64)) % 2 ^ (8 * szBytes o.sz))
  have only : OnlyCore s r o.core := (onlyCore_issuing.trans (onlyCore_setCore _)).trans (onlyCore_setCore _)
  refine ⟨u, ?_, only.hub.trans (leaveScalar_only.trans (onlyCore_setCore _).hub), ?_⟩
  case refine_2 => rw [core_modCore_same, leaveScalar_core read issues.run issues.blocked held]
  have attempt := attemptLdx_hits (w := s.issuing o.core 0) (spanVa_issuing.trans address) hits.issuing (by rw [core_issuing]; exact absent)
    (by rw [core_issuing]; exact found) sound
  rw [coreBinding_issuing] at attempt
  rw [execLdx, xform_legal h0 z (badLoadSz_false legal), h0]
  simp only [fpSz_iff]
  rw [issue_runs issues, attempt]

/-! ## STX -/

/-- The entry of the merging buffer that a store of `data` at `va` makes (R247). -/
def storeEntry (l : Leaf) (va n : Nat) (data : List Byte) : MergeEntry :=
  ⟨(l.addr va).toNat / 64, 0, l.key, maskOf ((l.addr va).toNat % 64) n,
    lineOf (mergeBytes (maskOf ((l.addr va).toNat % 64) n) (List.replicate 64 0) (placeAt ((l.addr va).toNat % 64) data)), false, false, false, [l]⟩

theorem mergePieces_empty {data : List Byte} (attr : l.attr = 0) (length : data.length = n) :
    mergePieces [⟨va, n, l⟩] va data [] = some [storeEntry l va n data] := by
  have whole : (data.drop (va - va)).take n = data := by rw [Nat.sub_self, List.drop_zero, List.take_of_length_le length.le]
  rw [mergePieces, List.foldl_cons, List.foldl_nil]
  simp only [whole]
  rw [mergeStore, attr]
  rfl

/-- Core c once h0's store has entered its empty merging buffer under an entry of its TLB. -/
def Core.storedLine (k : Core) (t : TlbEntry) (m : MergeEntry) (l1d : List L1Line) : Core :=
  { k with mem := { k.mem with tlb := coreTlbInsert t k.mem.tlb, mbuf := [m], l1d := l1d } }

theorem l1Pieces_one {k : Core} {data : List Byte} : ∃ l1d, l1Pieces [⟨va, n, l⟩] va data k = { k with mem := { k.mem with l1d := l1d } } := by
  rw [l1Pieces, List.foldl_cons, List.foldl_nil]
  split
  · exact ⟨_, rfl⟩
  · exact ⟨k.mem.l1d, rfl⟩

/-- An STX whose page its core's TLB maps, and whose core's merging buffer is empty. -/
theorem attemptStx_hits {o : XForm} {data : List Byte} (address : spanVa (w.core c) o.sp (((w.core c).thread 0).rg o.ra) = va)
    (hits : HitsTlb w c va (szBytes o.sz) true l) (empty : (w.core c).mem.mbuf = [])
    (bytes : (w.core c).storeBytes 0 o.rd o.sz = data) (length : data.length = szBytes o.sz) :
    attemptStx c o w = retire c 0 false ((leaveScalar c (w.tlbUsed c ⟨coreBinding w c, l⟩)).modCore c fun k =>
      l1Pieces [⟨va, szBytes o.sz, l⟩] va data { k with mem := { k.mem with mbuf := [storeEntry l va (szBytes o.sz) data] } }) := by
  obtain ⟨some_byte, -⟩ := szBytes_bounds o.sz
  have checked := checkPieces_hits some_byte hits
  obtain ⟨line, range, -, -, -, -, -, -, attr, -, region, -⟩ := hits
  have stored : ((w.tlbUsed c ⟨coreBinding w c, l⟩).core c).storeBytes 0 o.rd o.sz = data := by
    rw [core_tlbUsed]
    exact bytes
  have buffer : ((w.tlbUsed c ⟨coreBinding w c, l⟩).core c).mem.mbuf = [] := by
    rw [core_tlbUsed]
    exact empty
  have one : [(⟨va, szBytes o.sz, l⟩ : Piece)].length = 1 := rfl
  rw [attemptStx]
  simp only [address, spanFault_none some_byte range, checked, stored, buffer, if_pos one, mergePieces_empty attr length]

/-- An STX enters the empty merging buffer as one entry, and its core goes on (R63, R247). -/
theorem execStx_stores {o : XForm} (h0 : o.th = 0) (z : o.z = 0) (one : o.sz ≠ 1) (three : o.sz ≠ 3) (seven : o.sz ≠ 7)
    (issues : Issues s o.core 0 (if o.sz = 5 ∨ o.sz = 6 then [o.ra] else [o.ra, o.rd]) (if o.sz = 5 ∨ o.sz = 6 then [o.rd] else []) [])
    (address : spanVa (s.core o.core) o.sp ((s.thread o.core 0).rg o.ra) = va)
    (hits : HitsTlb s o.core va (szBytes o.sz) true l) (empty : (s.core o.core).mem.mbuf = []) :
    ∃ u l1d, execStx o s = .next (retire o.core 0 false u) ∧ OnlyCoreAndHub s u o.core ∧
      u.core o.core = ((s.core o.core).storedLine ⟨coreBinding s o.core, l⟩ (storeEntry l va (szBytes o.sz) (bytesOfNat (szBytes o.sz)
        (if o.sz = 5 ∨ o.sz = 6 then ((s.core o.core).rf 0 o.rd).toNat else ((s.thread o.core 0).rg o.rd).toNat))) l1d).setThread 0
          (s.thread o.core 0).issuing := by
  let data := bytesOfNat (szBytes o.sz) (if o.sz = 5 ∨ o.sz = 6 then ((s.core o.core).rf 0 o.rd).toNat else ((s.thread o.core 0).rg o.rd).toNat)
  let r := (s.issuing o.core 0).tlbUsed o.core ⟨coreBinding s o.core, l⟩
  have used : r.core o.core = ((s.core o.core).tlbUsed ⟨coreBinding s o.core, l⟩).setThread 0 (s.thread o.core 0).issuing := by
    refine (core_modCore_same ..).trans ?_
    rw [core_issuing]
    rfl
  have held : ((s.core o.core).tlbUsed ⟨coreBinding s o.core, l⟩).mem.held = [] := by
    obtain ⟨-, -, -, held, -⟩ := hits
    exact held
  let put (k : Core) : Core :=
    l1Pieces [⟨va, szBytes o.sz, l⟩] va data { k with mem := { k.mem with mbuf := [storeEntry l va (szBytes o.sz) data] } }
  obtain ⟨l1d, entered⟩ := l1Pieces_one (va := va) (n := szBytes o.sz) (l := l) (data := data)
    (k := { ((s.core o.core).tlbUsed ⟨coreBinding s o.core, l⟩).setThread 0 (s.thread o.core 0).issuing with
      mem := { (s.core o.core).mem with
        tlb := coreTlbInsert ⟨coreBinding s o.core, l⟩ (s.core o.core).mem.tlb, mbuf := [storeEntry l va (szBytes o.sz) data] } })
  let u := (leaveScalar o.core r).modCore o.core put
  have only : OnlyCore s r o.core := onlyCore_issuing.trans (onlyCore_setCore _)
  refine ⟨u, l1d, ?_, only.hub.trans (leaveScalar_only.trans (onlyCore_setCore _).hub), ?_⟩
  case refine_2 =>
    rw [core_modCore_same, leaveScalar_core used issues.run issues.blocked held]
    exact entered
  have attempt := attemptStx_hits (w := s.issuing o.core 0) (data := data) (spanVa_issuing.trans address) hits.issuing
    (by rw [core_issuing]; exact empty) (storeBytes_issuing ..) (bytesOfNat_length ..)
  rw [coreBinding_issuing] at attempt
  rw [execStx, xform_legal h0 z (badStoreSz_false one three seven), h0]
  simp only [fpSz_iff]
  rw [issue_runs issues, attempt]

end

/-- The core of a thread whose instruction is over. -/
theorem core_retire {s : State} {c : CoreId} {th : ThreadId} {alu : Bool} :
    (retire c th alu s).core c = (s.core c).setThread th (retireThread alu ((s.core c).thread th)) := by
  rw [retire, core_modThread_same]
  rfl

/-- Settles O11: LDX by `execLdx_loads` and what a load leaves of h0's registers, STX by `execStx_stores`. -/
theorem bulkAccesses : Obligations.BulkAccesses := by
  unfold Obligations.BulkAccesses
  refine ⟨?ldx, ?stx⟩
  case ldx =>
    intro o s l e h0 z legal issues k va n pa hits absent found sound v
    obtain ⟨u, runs, only, core⟩ := execLdx_loads h0 z legal issues rfl hits absent found sound
    have small : v < 256 ^ n := (Nat.mod_lt _ (Nat.two_pow_pos _)).trans_eq (pow_256 n).symm
    let loaded := (k.readLine ⟨coreBinding s o.core, l⟩ e).setThread 0 (s.thread o.core 0).issuing
    obtain ⟨regs, fregs, blocked, mem⟩ := loadReg_h0 (k := loaded) (rd := o.rd) small legal
    obtain ⟨pc, lc, resv, frame⟩ := retireThread_frame false ((u.core o.core).thread 0)
    have thread : (retire o.core 0 false u).thread o.core 0 = retireThread false ((u.core o.core).thread 0) := by
      rw [State.thread, core_retire, Core.thread_setThread_same]
    have before : loaded.thread 0 = (s.thread o.core 0).issuing := Core.thread_setThread_same ..
    rw [before] at regs blocked
    refine .of_runs (execLdx o s) rfl ⟨_, runs, fun r => ?_, fun r => ?_, ?_, only.trans (onlyCore_setCore _).hub, ?_⟩
    · rw [thread, frame, core]
      exact regs r
    · rw [core_retire, core]
      exact fregs r
    · rw [thread, frame, core]
      exact blocked.trans issues.blocked
    · rw [core_retire, core, Core.setThread_mem, mem]
      rfl
  case stx =>
    intro o s l h0 z one three seven fp issues k x va n pa v hits empty
    obtain ⟨u, l1d, runs, only, core⟩ := execStx_stores h0 z one three seven issues rfl hits empty
    obtain ⟨went, -, threads, rest⟩ := retire_core (alu := false) core
    have place : pa % 64 + n ≤ 64 := by
      have same : pa % 64 = va % 64 := hits.addr_mod
      obtain ⟨line, -⟩ := hits
      omega
    have length : (bytesOfNat n v).length = n := bytesOfNat_length ..
    let data := lineOf (mergeBytes (maskOf (pa % 64) n) (List.replicate 64 0) (placeAt (pa % 64) (bytesOfNat n v)))
    have window := merged_window (o := pa % 64) (l := bytesOfNat n v) (old := List.replicate 64 0) (by omega)
    refine .of_runs (execStx o s) rfl ⟨_, runs, ⟨data, ?_, ?_⟩, went, only.trans (onlyCore_setCore _).hub, ?_⟩
    · rw [rest]
      rfl
    · rw [length] at window
      rw [← natOfBytes_line _ place, window, natOfBytes_bytesOfNat, pow_256]
    · rw [rest]
      rfl

end Sys2Proof.Machine
end

section
/-!
PROOFS. LRX and SCX at the tile L2 (R82 to R86, R246, R252).
-/

namespace Sys2Proof.Machine

/-! ## A sector that the L2 holds -/

section
variable {s w : State} {c : CoreId} {i : TileId} {who : Who} {slice : BitVec 2} {b : Option BindingId} {pa : Nat} {v : Via} {x : Sector}

theorem touch_sector (q : Tile) (slice : BitVec 2) (line n : Nat) : (q.touch slice line).sector n = q.sector n := by
  rw [Tile.touch]
  split <;> rfl

theorem perfCount_keeps (ev unit : Nat) (b : Option BindingId) (n : Nat) :
    (perfCount ev unit b n w).cores = w.cores ∧ (perfCount ev unit b n w).tiles = w.tiles ∧ (perfCount ev unit b n w).stk = w.stk := by
  rw [perfCount_frame]
  exact ⟨rfl, rfl, rfl⟩

/-- A count of a hit leaves cores, sectors and stacks. -/
theorem countHit_keeps (line : Nat) : (countHit who i line b w).cores = w.cores ∧ (countHit who i line b w).stk = w.stk ∧
    ∀ n, ((countHit who i line b w).tile i).sector n = (w.tile i).sector n := by
  rw [countHit]
  split
  · exact ⟨rfl, rfl, fun n => by rw [tile_modTile_same]; rfl⟩
  · obtain ⟨cores, tiles, stk⟩ := perfCount_keeps (w := w) 0x05 i.toNat b 1
    exact ⟨cores, stk, fun n => by rw [State.tile, tiles]; rfl⟩

/-- A read of a sector that a tile's L2 holds (R252). -/
theorem l2Read_hits (found : (w.tile i).sector (pa / 64) = some x) :
    ∃ u, l2Read who i slice b pa v w = (some (marked x.psn (lineBytes x.data)), u) ∧
    u.cores = w.cores ∧ u.stk = w.stk ∧ ∀ n, (u.tile i).sector n = (w.tile i).sector n := by
  obtain ⟨cores, stk, sectors⟩ := countHit_keeps (w := w) (who := who) (i := i) (b := b) (pa / 64)
  refine ⟨(countHit who i (pa / 64) b w).modTile i fun q => q.touch x.slice (pa / 64), by simp only [l2Read, found], cores, stk, fun n => ?_⟩
  rw [tile_modTile_same, touch_sector]
  exact sectors n

/-- What a write of masked bytes makes of a sector; `keep` names the L1Ds that keep their copies (R246, R253). -/
def Sector.written (x : Sector) (mask : BitVec 64) (data : List Byte) (keep : BitVec 32) : Sector :=
  { x with data := lineOf (mergeBytes mask (lineBytes x.data) data), dirty := true, sharers := x.sharers &&& keep }

theorem core_l1InvalidateTile_own {line : Nat} {sharers : BitVec 32} : (l1InvalidateTile i line sharers (some c) w).core c = w.core c := by
  refine (Table.get_mapListed _ _ _ _ ?_).trans ?_ <;> exact if_neg fun all => all.2.2 rfl

theorem core_clearL2Resv_own {line : Nat} : (clearL2Resv i line (some c) w).core c = w.core c := by
  refine (Table.get_mapListed _ _ _ _ ?_).trans ?_ <;> exact if_neg fun both => both.2 rfl

theorem core_of_cores (same : s.cores = w.cores) : s.core c = w.core c := by rw [State.core, same]; rfl

/-- State in which a tile's L2 has taken `x` for a sector, the L1Ds of the tile but core c's and the reservations but its own gone (R83, R246). -/
def State.sectorPut (s : State) (i : TileId) (c : CoreId) (line : Nat) (old x : Sector) : State :=
  (clearL2Resv i line (some c) (l1InvalidateTile i line old.sharers (some c) s)).modTile i fun q =>
    ({ q with sectors := q.sectors.set none line (some x) }).touch old.slice line

theorem sectorPut_keeps {line : Nat} {old : Sector} : (w.sectorPut i c line old x).core c = w.core c ∧ (w.sectorPut i c line old x).stk = w.stk ∧
    ((w.sectorPut i c line old x).tile i).sector line = some x ∧
    ∀ n, n ≠ line → ((w.sectorPut i c line old x).tile i).sector n = (w.tile i).sector n := by
  refine ⟨core_clearL2Resv_own.trans core_l1InvalidateTile_own, rfl, ?_, fun n other => ?_⟩
  · rw [State.sectorPut, tile_modTile_same, touch_sector]
    exact Table.get_set_same ..
  · rw [State.sectorPut, tile_modTile_same, touch_sector]
    exact Table.get_set_other _ _ _ other

/-- A write of some bytes of a sector that the L2 holds, by h0 of core c (R83, R246, R253). -/
theorem l2Write_hits {mask : BitVec 64} {data : List Byte} (part : mask ≠ BitVec.allOnes 64) (found : (w.tile i).sector (pa / 64) = some x) :
    ∃ u keep, l2Write i slice b pa v mask data false (.scalar c) w = (true, u) ∧ u.core c = w.core c ∧ u.stk = w.stk ∧
      (u.tile i).sector (pa / 64) = some (x.written mask data keep) ∧ ∀ n, n ≠ pa / 64 → (u.tile i).sector n = (w.tile i).sector n := by
  obtain ⟨cores, stk, sectors⟩ := countHit_keeps (w := w) (who := .scalar c) (i := i) (b := b) (pa / 64)
  let keep : BitVec 32 := if tileOf c = i then BitVec.ofNat 32 (2 ^ (c.toNat % 32)) else 0
  obtain ⟨core', stk', written, others⟩ := sectorPut_keeps (w := countHit (.scalar c) i (pa / 64) b w) (i := i) (c := c)
    (line := pa / 64) (old := x)
    (x := x.written mask data keep)
  let u := (countHit (.scalar c) i (pa / 64) b w).sectorPut i c (pa / 64) x (x.written mask data keep)
  refine ⟨u, keep, ?_, core'.trans (core_of_cores cores), stk'.trans stk, written, fun n other => ?_⟩
  case refine_2 => exact (others n other).trans (sectors n)
  have poison : (x.psn || false) = x.psn := Bool.or_false _
  unfold l2Write
  dsimp only
  rw [found]
  dsimp only
  rw [decide_eq_false part, if_neg Bool.false_ne_true, poison]
  rfl

theorem maskOf_part {o n : Nat} (some_byte : 1 ≤ n) (inside : o + n ≤ 64) (small : n < 64) : maskOf o n ≠ BitVec.allOnes 64 := by
  intro full
  have first := maskOf_getLsbD (o := o) (n := n) (i := 0) (by decide)
  have last := maskOf_getLsbD (o := o) (n := n) (i := 63) (by decide)
  rw [full, BitVec.getLsbD_allOnes] at first last
  have low := of_decide_eq_true first.symm
  have high := of_decide_eq_true last.symm
  omega

end

/-! ## The checks of a span form (R84) -/

section
variable {s w : State} {c : CoreId} {va : Nat} {l : Leaf} {write : Bool} {o : LrForm}

theorem lrBad_span (z : o.z = 0) (h0 : o.th = 0) : lrBad o true = none := by
  rw [lrBad, nonzero_zero z, h0]
  rfl

theorem lrxPieces_hits (address : spanVa (w.core c) o.sp (((w.core c).thread 0).rg o.ra) = va) (word : va % 4 = 0)
    (hits : HitsTlb w c va 4 write l) : lrxPieces c o write w = (va, .ok [⟨va, 4, l⟩], w.tlbUsed c ⟨coreBinding w c, l⟩) := by
  have xlates := xlate_hits (by decide) hits
  obtain ⟨-, range, -, -, -, -, -, -, attr, -, region, home, unwatched⟩ := hits
  have target : ¬(paRegion (l.addr va) ≠ 0 ∨ !isLocal (w.tlbUsed c ⟨coreBinding w c, l⟩) (l.addr va)) := by
    have here : isLocal (w.tlbUsed c ⟨coreBinding w c, l⟩) (l.addr va) = true := home
    rw [here, region]
    simp
  have checked : checkLrx c write va w = (.ok [⟨va, 4, l⟩], w.tlbUsed c ⟨coreBinding w c, l⟩) := by
    simp only [checkLrx, xlates, if_neg target, if_neg (not_not_intro attr), watchAt_tlbUsed, unwatched]
  simp only [lrxPieces, address, if_neg (not_not_intro word), spanFault_none (n := 4) (by decide) range, checked]

/-- Core c of h0 in a span form, under an entry of its TLB. -/
theorem core_used_issuing {e : TlbEntry} : ((s.issuing c 0).tlbUsed c e).core c = ((s.core c).tlbUsed e).setThread 0 (s.thread c 0).issuing := by
  rw [core_tlbUsed, core_issuing]
  rfl

/-- h0 leaves a span form that its core has done with (R94). -/
theorem leaveScalar_thread {k : Core} {x : Thread} (stood : w.core c = k.setThread 0 x) (run : x.run = true) (free : x.blocked = none)
    (held : k.mem.held = []) : (leaveScalar c w).thread c 0 = x := by
  rw [State.thread, leaveScalar_core stood run free held, Core.thread_setThread_same]

end

/-! ## LRX -/

section
variable {s w : State} {c : CoreId} {va : Nat} {l : Leaf} {e : Sector} {o : LrForm}

theorem readPieces_sector (region : paRegion (l.addr va) = 0) (attr : l.attr = 0)
    (found : (w.tile (tileOf c)).sector ((l.addr va).toNat / 64) = some e) (sound : e.psn = false) :
    ∃ u, readPieces c [⟨va, 4, l⟩] true w = (some (clean (((lineBytes e.data).drop ((l.addr va).toNat % 64)).take 4)), u) ∧
      u.cores = w.cores ∧ u.stk = w.stk ∧ ∀ n, (u.tile (tileOf c)).sector n = (w.tile (tileOf c)).sector n := by
  obtain ⟨u, read, kept⟩ := l2Read_hits (who := .scalar c) (slice := sliceOf c) (b := some (coreBinding w c)) (v := l.via) found
  have local_ : ¬paRegion (l.addr va) = 3 := by rw [region]; decide
  have line : cached l = true := beq_iff_eq.2 attr
  have sector : readSector c (l.addr va).toNat l.via false w = (some (marked e.psn (lineBytes e.data)), u) := by
    simp only [readSector, read, Bool.not_false, if_true]
  have piece : readPiece c ⟨va, 4, l⟩ true true w = (some (clean (((lineBytes e.data).drop ((l.addr va).toNat % 64)).take 4)), u) := by
    simp only [readPiece, if_neg local_, line, if_true, Bool.not_true, sector, sound, clean_window]
  have whole : decide ([(⟨va, 4, l⟩ : Piece)].length = 1) = true := rfl
  refine ⟨u, ?_, kept⟩
  simp only [readPieces, List.foldl_cons, List.foldl_nil, whole, piece, List.nil_append]

/-- The checks of a span form that issues: its core uses an entry of its TLB. -/
theorem lrxPieces_issuing {write : Bool} (address : spanVa (s.core o.core) o.sp ((s.thread o.core 0).rg o.ra) = va) (word : va % 4 = 0)
    (hits : HitsTlb s o.core va 4 write l) :
    ∃ w, lrxPieces o.core o write (s.issuing o.core 0) = (va, .ok [⟨va, 4, l⟩], w) ∧
      w.core o.core = ((s.core o.core).tlbUsed ⟨coreBinding s o.core, l⟩).setThread 0 (s.thread o.core 0).issuing ∧
      w.tiles = s.tiles ∧ w.stk = s.stk := by
  have checked := lrxPieces_hits (w := s.issuing o.core 0) (spanVa_issuing.trans address) word hits.issuing
  rw [coreBinding_issuing] at checked
  exact ⟨_, checked, core_used_issuing, rfl, rfl⟩

/-- An LRX whose line the L2 holds. -/
theorem execLrxW_loads (z : o.z = 0) (h0 : o.th = 0) (issues : Issues s o.core 0 [o.ra] [] [])
    (address : spanVa (s.core o.core) o.sp ((s.thread o.core 0).rg o.ra) = va) (word : va % 4 = 0) (hits : HitsTlb s o.core va 4 false l)
    (absent : ∀ m ∈ (s.core o.core).mem.mbuf, m.line ≠ (l.addr va).toNat / 64)
    (found : (s.tile (tileOf o.core)).sector ((l.addr va).toNat / 64) = some e) (sound : e.psn = false) :
    ∃ u : State, execLrxW o s = .next (u.setThread o.core 0 ((s.thread o.core 0).issuing.lr o.rd
        (BitVec.ofNat 32 (e.data.toNat / 2 ^ (8 * ((l.addr va).toNat % 64)))) (newResv ((l.addr va).toNat / 64) true))) ∧
      u.stk = s.stk ∧ ∀ n, (u.tile (tileOf o.core)).sector n = (s.tile (tileOf o.core)).sector n := by
  obtain ⟨w, checked, used, tiles, stk⟩ := lrxPieces_issuing address word hits
  have tile : w.tile (tileOf o.core) = s.tile (tileOf o.core) := by rw [State.tile, tiles]; rfl
  have place := hits.addr_mod
  obtain ⟨line, -, -, held, -, -, -, -, attr, -, region, -⟩ := hits
  obtain ⟨u, read, cores, stk', sectors⟩ := readPieces_sector (w := w) (c := o.core) region attr (by rw [tile]; exact found) sound
  have free : forward (w.core o.core) [⟨va, 4, l⟩] = .free := by
    rw [used]
    exact forward_free absent
  have number : BitVec.ofNat 32 (natOfBytes (((lineBytes e.data).drop ((l.addr va).toNat % 64)).take 4)) =
      BitVec.ofNat 32 (e.data.toNat / 2 ^ (8 * ((l.addr va).toNat % 64))) := by
    rw [natOfBytes_line _ (by rw [place]; exact line)]
    apply BitVec.eq_of_toNat_eq
    rw [BitVec.toNat_ofNat, BitVec.toNat_ofNat]
    exact Nat.mod_mod _ _
  have thread : (leaveScalar o.core u).thread o.core 0 = (s.thread o.core 0).issuing :=
    leaveScalar_thread ((core_of_cores cores).trans used) issues.run issues.blocked held
  have ended := finishLr_eq (w := leaveScalar o.core u) (c := o.core) (th := 0) (rd := o.rd) (a := va) (r := newResv ((l.addr va).toNat / 64) true)
    (l := ((lineBytes e.data).drop ((l.addr va).toNat % 64)).take 4) (by rw [thread]; exact issues.run)
  rw [thread, number] at ended
  refine ⟨leaveScalar o.core u, ?_, stk'.trans stk, fun n => (sectors n).trans (by rw [tile])⟩
  rw [execLrxW, lrBad_span z h0, h0, issue_runs issues, attemptLrx, checked]
  simp only [free, read]
  exact congrArg _ ended

/-! ## SCX -/

/-- An SCX that finds no reservation. -/
theorem execScxW_fails (z : o.z = 0) (h0 : o.th = 0) (issues : Issues s o.core 0 [o.ra, o.rb] [] [])
    (address : spanVa (s.core o.core) o.sp ((s.thread o.core 0).rg o.ra) = va) (word : va % 4 = 0) (hits : HitsTlb s o.core va 4 true l)
    (lost : (s.thread o.core 0).holds ((l.addr va).toNat / 64) true = false) :
    ∃ u : State, execScxW o s = .next (u.setThread o.core 0 ((s.thread o.core 0).issuing.sc o.rd 1)) ∧ u.tiles = s.tiles ∧ u.stk = s.stk := by
  obtain ⟨w, checked, used, tiles, stk⟩ := lrxPieces_issuing address word hits
  obtain ⟨-, -, -, held, -⟩ := hits
  have reserved : ((w.core o.core).thread 0).holds ((l.addr va).toNat / 64) true = false := by
    rw [used, Core.thread_setThread_same]
    exact lost
  have thread : (leaveScalar o.core w).thread o.core 0 = (s.thread o.core 0).issuing := leaveScalar_thread used issues.run issues.blocked held
  have ended := finishSc_eq (w := leaveScalar o.core w) (c := o.core) (th := 0) (rd := o.rd) (ok := false) (by rw [thread]; exact issues.run)
  rw [thread] at ended
  refine ⟨leaveScalar o.core w, ?_, tiles, stk⟩
  rw [execScxW, lrBad_span z h0, h0, issue_runs issues, attemptScx, checked]
  simp only [Piece.pa, reserved, Bool.not_false, if_true]
  exact congrArg _ ended

theorem OnlyCoreAndHub.tiles {s t : State} {c : CoreId} (h : OnlyCoreAndHub s t c) : t.tiles = s.tiles := by
  have same := congrArg State.tiles h.1
  exact same

theorem OnlyCoreAndHub.stk {s t : State} {c : CoreId} (h : OnlyCoreAndHub s t c) : t.stk = s.stk := by
  have same := congrArg State.stk h.1
  exact same

/-- State in which h0 has left its SCX, whose bytes its core's L1D has taken (R245). -/
def State.scxLeft (s : State) (c : CoreId) (line : Nat) (mask : BitVec 64) (data : List Byte) : State :=
  (leaveScalar c s).modCore c fun k => k.l1Store line mask data false

theorem scxLeft_keeps {c : CoreId} {u : State} {k : Core} {x : Thread} {line : Nat} {mask : BitVec 64} {data : List Byte}
    (stood : u.core c = k.setThread 0 x) (run : x.run = true) (free : x.blocked = none) (held : k.mem.held = []) :
    (u.scxLeft c line mask data).thread c 0 = x ∧ (u.scxLeft c line mask data).tiles = u.tiles ∧ (u.scxLeft c line mask data).stk = u.stk := by
  have only : OnlyCoreAndHub u (u.scxLeft c line mask data) c := leaveScalar_only.trans (onlyCore_setCore _).hub
  refine ⟨?_, only.tiles, only.stk⟩
  rw [State.thread, State.scxLeft, core_modCore_same, leaveScalar_core stood run free held]
  exact Core.thread_setThread_same ..

/-- An SCX that has its translation, its reservation and its sector. -/
theorem attemptScx_stores {c : CoreId} {w' w u : State} {p : Piece} (checked : lrxPieces c o true w' = (va, .ok [p], w))
    (reserved : ((w.core c).thread 0).holds (p.pa / 64) true = true) (empty : (w.core c).mem.mbuf.any (fun m => p.inEntry m) = false)
    (write : l2Write (tileOf c) (sliceOf c) (some (coreBinding w c)) p.pa p.leaf.via (maskOf (p.pa % 64) 4)
      (placeAt (p.pa % 64) (bytesOf 4 (((w.core c).thread 0).rg o.rb))) false (.scalar c) w = (true, u)) :
    attemptScx c o w' = finishSc c 0 o.rd true (u.scxLeft c (p.pa / 64) (maskOf (p.pa % 64) 4)
      (placeAt (p.pa % 64) (bytesOf 4 (((w.core c).thread 0).rg o.rb)))) := by
  rw [attemptScx, checked]
  dsimp only
  rw [reserved, Bool.not_true, if_neg Bool.false_ne_true, empty, if_neg Bool.false_ne_true, write]
  rfl

/-- An SCX whose reservation stands, and whose line the L2 holds. -/
theorem execScxW_stores (z : o.z = 0) (h0 : o.th = 0) (issues : Issues s o.core 0 [o.ra, o.rb] [] [])
    (address : spanVa (s.core o.core) o.sp ((s.thread o.core 0).rg o.ra) = va) (word : va % 4 = 0) (hits : HitsTlb s o.core va 4 true l)
    (absent : ∀ m ∈ (s.core o.core).mem.mbuf, m.line ≠ (l.addr va).toNat / 64)
    (found : (s.tile (tileOf o.core)).sector ((l.addr va).toNat / 64) = some e)
    (stands : (s.thread o.core 0).holds ((l.addr va).toNat / 64) true = true) :
    ∃ (u : State) (keep : BitVec 32), execScxW o s = .next (u.setThread o.core 0 ((s.thread o.core 0).issuing.sc o.rd 0)) ∧ u.stk = s.stk ∧
      (u.tile (tileOf o.core)).sector ((l.addr va).toNat / 64) = some (e.written (maskOf ((l.addr va).toNat % 64) 4)
        (placeAt ((l.addr va).toNat % 64) (bytesOf 4 ((s.thread o.core 0).rg o.rb))) keep) ∧
      ∀ n, n ≠ (l.addr va).toNat / 64 → (u.tile (tileOf o.core)).sector n = (s.tile (tileOf o.core)).sector n := by
  obtain ⟨w, checked, used, tiles, stk⟩ := lrxPieces_issuing address word hits
  have tile : w.tile (tileOf o.core) = s.tile (tileOf o.core) := by rw [State.tile, tiles]; rfl
  have place := hits.addr_mod
  obtain ⟨line, -, -, held, -⟩ := hits
  have before : (w.core o.core).thread 0 = (s.thread o.core 0).issuing := by rw [used, Core.thread_setThread_same]
  have reserved : (s.thread o.core 0).issuing.holds ((l.addr va).toNat / 64) true = true := stands
  have empty : ((w.core o.core).mem.mbuf.any fun m => (⟨va, 4, l⟩ : Piece).inEntry m) = false := by
    rw [used]
    refine List.any_eq_false.2 fun m hm holds => ?_
    exact absent m hm (beq_iff_eq.1 (Bool.and_eq_true_iff.1 holds).1)
  obtain ⟨u, keep, write, core, stk', put, others⟩ := l2Write_hits (w := w) (c := o.core) (slice := sliceOf o.core)
    (b := some (coreBinding w o.core)) (v := l.via) (data := placeAt ((l.addr va).toNat % 64) (bytesOf 4 ((s.thread o.core 0).rg o.rb)))
    (maskOf_part (o := (l.addr va).toNat % 64) (n := 4) (by decide) (by rw [place]; exact line) (by decide)) (by rw [tile]; exact found)
  obtain ⟨thread, tiles', left⟩ := scxLeft_keeps (line := (l.addr va).toNat / 64) (mask := maskOf ((l.addr va).toNat % 64) 4)
    (data := placeAt ((l.addr va).toNat % 64) (bytesOf 4 ((s.thread o.core 0).rg o.rb))) (core.trans used) issues.run issues.blocked held
  have tile' : (u.scxLeft o.core ((l.addr va).toNat / 64) (maskOf ((l.addr va).toNat % 64) 4)
      (placeAt ((l.addr va).toNat % 64) (bytesOf 4 ((s.thread o.core 0).rg o.rb)))).tile (tileOf o.core) = u.tile (tileOf o.core) := by
    rw [State.tile, tiles']
    rfl
  have ended := finishSc_eq (w := u.scxLeft o.core ((l.addr va).toNat / 64) (maskOf ((l.addr va).toNat % 64) 4)
    (placeAt ((l.addr va).toNat % 64) (bytesOf 4 ((s.thread o.core 0).rg o.rb)))) (c := o.core) (th := 0) (rd := o.rd) (ok := true)
    (by rw [thread]; exact issues.run)
  rw [thread] at ended
  refine ⟨_, keep, ?_, left.trans (stk'.trans stk), by rw [tile', put], fun n other => by rw [tile', others n other, tile]⟩
  have attempt := attemptScx_stores checked (by rw [before]; exact reserved) empty (by rw [before]; exact write)
  rw [before] at attempt
  rw [execScxW, lrBad_span z h0, h0, issue_runs issues, attempt]
  exact congrArg _ ended

end

theorem written_flags {e : Sector} {mask : BitVec 64} {data : List Byte} {keep : BitVec 32} :
    (e.written mask data keep).dirty = true ∧ (e.written mask data keep).psn = e.psn := by
  obtain ⟨slice, line, dirty, psn, key, sharers, binding⟩ := e
  exact ⟨rfl, rfl⟩

/-- A word that a write has put into a sector. -/
theorem written_word {e : Sector} {o : Nat} {v : Word} {keep : BitVec 32} (inside : o + 4 ≤ 64) {i : Nat} (hi : i < 64) :
    (e.written (maskOf o 4) (placeAt o (bytesOf 4 v)) keep).data.extractLsb' (8 * i) 8 =
      if o ≤ i ∧ i < o + 4 then v.extractLsb' (8 * (i - o)) 8 else e.data.extractLsb' (8 * i) 8 := by
  have length : (bytesOf 4 v).length = 4 := bytesOfNat_length ..
  have merged := line_merged (d := e.data) (o := o) (l := bytesOf 4 v) (by omega) hi
  rw [length] at merged
  refine merged.trans ?_
  split
  next within => exact bytesOf_getD v (by omega)
  next => rfl

/-- Settles O12: LR.W and SC.W by what they leave of thread and data local store, LRX and SCX by what they leave of thread and sectors. -/
theorem reservations : Obligations.Reservations := by
  unfold Obligations.Reservations
  refine ⟨?store, ?l2⟩
  case store =>
    intro s c th rd ra rb k x a word inside
    let o : LrForm := ⟨c, th, rd, ra, rb, 0, 0⟩
    refine ⟨fun issues unwatched healthy => ?lr, fun issues unwatched => ⟨fun lost => ?fails, fun stands => ?stores⟩⟩
    case lr =>
      refine .of_runs (execLrW o s) rfl ⟨_, execLrW_loads (o := o) rfl rfl issues word inside unwatched healthy, lr_went.writesG, ?_⟩
      rw [thread_setThread_same]
      rfl
    case fails =>
      have runs := execScW_fails (o := o) rfl rfl issues word inside unwatched fun held => lost (holds_iff.1 held)
      refine .of_runs (execScW o s) rfl ⟨_, runs, sc_went.writesG, ?_⟩
      rw [thread_setThread_same]
      exact sc_resv
    case stores =>
      have runs := execScW_stores (o := o) rfl rfl issues word inside unwatched (holds_iff.2 stands)
      obtain ⟨back, outside, only, siblings, rest⟩ := wordStored_leaves s c th a (x.rg rb) (x.issuing.sc rd 0)
      refine .of_runs (execScW o s) rfl ⟨_, runs, back, outside, ⟨x.wg rd 0, wg_wrote .., ?_⟩, ?_, only, siblings, rest⟩
      · rw [thread_setThread_same]
        exact sc_went
      · rw [thread_setThread_same]
        exact sc_resv
  case l2 =>
    intro s c rd ra rb sp l e k x va pa o word absent found
    refine ⟨fun issues hits sound => ?lrx, fun issues hits => ?scx⟩
    case lrx =>
      obtain ⟨u, runs, stk, sectors⟩ := execLrxW_loads (o := o) rfl rfl issues rfl word hits absent found sound
      refine .of_runs (execLrxW o s) rfl ⟨_, runs, ⟨_, wg_wrote .., ?_⟩, ?_, sectors, stk⟩
      · rw [thread_setThread_same]
        exact lr_went
      · rw [thread_setThread_same]
        rfl
    case scx =>
      intro holds
      have place : pa % 64 + 4 ≤ 64 := by
        have same : pa % 64 = va % 64 := hits.addr_mod
        obtain ⟨line, -⟩ := hits
        omega
      constructor
      · intro lost
        have none : x.holds (pa / 64) true = false := Bool.eq_false_iff.2 fun held => lost (holds_iff.1 held)
        obtain ⟨u, runs, tiles, stk⟩ := execScxW_fails (o := o) rfl rfl issues rfl word hits none
        refine .of_runs (execScxW o s) rfl ⟨_, runs, ⟨_, wg_wrote .., ?_⟩, ?_, tiles, stk⟩
        · rw [thread_setThread_same]
          exact sc_went
        · rw [thread_setThread_same]
          exact sc_resv
      · intro stands
        obtain ⟨u, keep, runs, stk, put, others⟩ := execScxW_stores (o := o) rfl rfl issues rfl word hits absent found (holds_iff.2 stands)
        refine .of_runs (execScxW o s) rfl ⟨_, runs, ⟨_, wg_wrote .., ?_⟩, ?_, stk, others, _, put, written_flags.1, written_flags.2,
          fun i hi => written_word place hi⟩
        · rw [thread_setThread_same]
          exact sc_went
        · rw [thread_setThread_same]
          exact sc_resv

end Sys2Proof.Machine
end

section
/-!
PROOFS. Entries at an instruction boundary: interrupts, NMIs and the causes of queued instructions (R102, R114 to R116, R124).
-/

namespace Sys2Proof.Machine

/-! ## What an entry leaves to its caller -/

section
variable {s t u v : State} {c : CoreId} {th : ThreadId}

/-- `b` is `a` but for the sources of exceptions that an entry leaves open: what was noted or ended of them. -/
def Thread.SourcesOnly (a b : Thread) : Prop :=
  b = { a with
    took := b.took, nmiReq := b.nmiReq, nmiSrc := b.nmiSrc, aside := b.aside, beatPend := b.beatPend, movPend := b.movPend
    rsmPend := b.rsmPend, thrPend := b.thrPend }

/-- `b` is core `a` but for its threads, its software interrupts and the causes of its queues. -/
def Core.SourcesOnly (a b : Core) : Prop :=
  b = { a with threads := b.threads, ctl := { a.ctl with swi := b.ctl.swi }, causes := b.causes }

/-- `u` is `t` but for the sources that an entry of thread th leaves open. -/
structure SourcesSettled (t u : State) (c : CoreId) (th : ThreadId) : Prop where
  thread : (t.thread c th).SourcesOnly (u.thread c th)
  siblings : ∀ h, h ≠ th → u.thread c h = t.thread c h
  core : (t.core c).SourcesOnly (u.core c)
  cores : ∀ d, d ≠ c → u.core d = t.core d
  module : u = { t with cores := u.cores }

theorem Thread.SourcesOnly.trans {a b d : Thread} (h : a.SourcesOnly b) (h' : b.SourcesOnly d) : a.SourcesOnly d := by
  unfold SourcesOnly at *
  exact h'.trans (by rw [h])

theorem Core.SourcesOnly.trans {a b d : Core} (h : a.SourcesOnly b) (h' : b.SourcesOnly d) : a.SourcesOnly d := by
  unfold SourcesOnly at *
  exact h'.trans (by rw [h])

theorem SourcesSettled.trans (h : SourcesSettled t u c th) (h' : SourcesSettled u v c th) : SourcesSettled t v c th where
  thread := h.thread.trans h'.thread
  siblings g other := (h'.siblings g other).trans (h.siblings g other)
  core := h.core.trans h'.core
  cores d other := (h'.cores d other).trans (h.cores d other)
  module := h'.module.trans (by rw [h.module])

/-- A change of core c that touches sources alone. -/
theorem SourcesSettled.of_modCore {f : Core → Core}
    (thread : (t.thread c th).SourcesOnly ((f (t.core c)).thread th))
    (siblings : ∀ h, h ≠ th → (f (t.core c)).thread h = t.thread c h) (core : (t.core c).SourcesOnly (f (t.core c))) :
    SourcesSettled t (t.modCore c f) c th where
  thread := by rw [thread_modCore_same]; exact thread
  siblings h other := by rw [thread_modCore_same]; exact siblings h other
  core := by rw [core_modCore_same]; exact core
  cores d other := core_modCore_other _ _ other
  module := rfl

/-- A change of thread th that touches its sources alone. -/
theorem SourcesSettled.of_modThread {f : Thread → Thread} (thread : (t.thread c th).SourcesOnly (f (t.thread c th))) :
    SourcesSettled t (t.modThread c th f) c th :=
  .of_modCore (f := fun k => k.modThread th f) (by rw [Core.thread_modThread_same]; exact thread)
    (fun _ other => Core.thread_modThread_other _ _ other) rfl

/-- An entry stays one when sources are settled after it. -/
theorem Entered.settled {y : Thread} {vec src : Nat} {cause : Word} {ea : DWord} {pc : BitVec 17} {parked : Bool}
    (h : Entered s t c th y vec cause ea pc src parked) (settled : SourcesSettled t u c th) :
    Entered s u c th y vec cause ea pc src parked := by
  obtain ⟨thread, live, hpc, old, hcause, prog, eaddr, qsw, now, eien, zeros, rest, threads, core, cores, module⟩ := h
  obtain ⟨thread', siblings, core', cores', module'⟩ := settled
  unfold Thread.SourcesOnly at thread'
  unfold Core.SourcesOnly at core'
  have estat : (u.thread c th).estat = (t.thread c th).estat := by rw [thread']
  have mem : (u.core c).mem = (t.core c).mem := by rw [core']
  have binds : u.binds = t.binds := by rw [module']
  have num (a n : Nat) : dlsNum (u.core c) a n = dlsNum (t.core c) a n := by rw [dlsNum, mem, dlsNum]
  unfold Entered
  simp only [num, mem, estat]
  refine ⟨by rw [thread', thread], live, hpc, old, hcause, prog, eaddr, qsw, now, eien, zeros, rest, fun g other => ?_,
    core'.trans (by rw [core]), fun d other => (cores' d other).trans (cores d other), module'.trans (by rw [binds, module])⟩
  have same : (u.core c).thread g = (t.core c).thread g := siblings g other
  rw [same]
  exact threads g other

end

/-! ## Boundaries -/

/-- Thread th stands at a boundary at which nothing keeps it from an entry of rank 1 to 3 (R115), nothing is queued, and a frame fits. -/
structure AtBoundary (s : State) (c : CoreId) (th : ThreadId) : Prop where
  run : (s.thread c th).run = true
  blocked : (s.thread c th).blocked = none
  owed : (s.thread c th).owed = none
  took : (s.thread c th).took = false
  stays : (s.core c).ctl.stopping = false
  long : longInProgress s c = false
  quiet : Quiet s c th
  framed : Framed (s.thread c th)

section
variable {s : State} {c : CoreId} {th : ThreadId}

/-! ## Interrupts (R102) -/

/-- The source of an interrupt vector stands on thread t (Table 04-3). -/
def Core.Pends (k : Core) (t : ThreadId) (vec : BitVec 5) : Prop :=
  vec = 16 ∧ (k.thread t).beatPend.isSome ∨ vec = 17 ∧ k.ctl.swi.getLsbD t.toNat ∨ vec = 18 ∧ (k.thread t).movPend.isSome ∨
    vec = 19 ∧ (k.thread t).rsmPend.isSome ∨ vec = 21 ∧ (k.thread t).thrPend.isSome

theorem pends_of_pendingInterrupt {k : Core} {vec : BitVec 5} (taken : (pendingInterrupt k th).map (fun p => p.1) = some vec) :
    k.Pends th vec := by
  unfold pendingInterrupt at taken
  unfold Core.Pends
  simp only [Bool.and_eq_true] at taken
  split_ifs at taken with beat word moved resumed level
  all_goals
    obtain ⟨_, source, rfl⟩ := Option.map_eq_some_iff.1 taken
    cases source
  · exact .inl ⟨rfl, beat.2⟩
  · exact .inr (.inl ⟨rfl, word.2⟩)
  · exact .inr (.inr (.inl ⟨rfl, moved.1.2⟩))
  · exact .inr (.inr (.inr (.inl ⟨rfl, resumed.2⟩)))
  · exact .inr (.inr (.inr (.inr ⟨rfl, level.2⟩)))

theorem clearSource_thread {vec : BitVec 5} : (clearSource c th vec s).thread c th =
    { s.thread c th with
      beatPend := if vec = 16 then none else (s.thread c th).beatPend, movPend := if vec = 18 then none else (s.thread c th).movPend
      rsmPend := if vec = 19 then none else (s.thread c th).rsmPend, thrPend := if vec = 21 then none else (s.thread c th).thrPend } := by
  rw [clearSource, thread_modCore_same, Core.thread_modThread_same]
  split <;> rfl

theorem clearSource_swi {vec : BitVec 5} : ((clearSource c th vec s).core c).ctl.swi =
    if vec = 17 then (s.core c).ctl.swi &&& ~~~BitVec.ofNat 4 (2 ^ th.toNat) else (s.core c).ctl.swi := by
  rw [clearSource, core_modCore_same, Core.modThread_ctl]
  split <;> rfl

theorem swi_cleared (w : BitVec 4) : (w &&& ~~~BitVec.ofNat 4 (2 ^ th.toNat)).getLsbD th.toNat = false := by
  rw [BitVec.getLsbD_and, BitVec.getLsbD_not, BitVec.getLsbD_ofNat, Nat.testBit_two_pow_self]
  simp

theorem clearSource_settles (vec : BitVec 5) : SourcesSettled s (clearSource c th vec s) c th := by
  refine .of_modCore ?thread (fun h other => ?siblings) ?core
  case thread => rw [Core.thread_modThread_same]; split <;> rfl
  case siblings => rw [Core.thread_modThread_other _ _ other]; split <;> rfl
  case core => split <;> rfl

theorem tookCause_settles : SourcesSettled s (tookCause c th s) c th := .of_modThread rfl

/-- Entry to a vector clears its source (R102). -/
theorem clearSource_clears {vec : BitVec 5} : ¬ ((tookCause c th (clearSource c th vec s)).core c).Pends th vec := by
  have thread : ((tookCause c th (clearSource c th vec s)).core c).thread th = { (clearSource c th vec s).thread c th with took := true } :=
    thread_modThread_same ..
  have swi : ((tookCause c th (clearSource c th vec s)).core c).ctl.swi = ((clearSource c th vec s).core c).ctl.swi := by
    rw [tookCause, core_modThread_same, Core.setThread_ctl]
  rw [Core.Pends, thread, swi, clearSource_thread, clearSource_swi]
  rintro (⟨rfl, pends⟩ | ⟨rfl, pends⟩ | ⟨rfl, pends⟩ | ⟨rfl, pends⟩ | ⟨rfl, pends⟩)
  case inr.inl =>
    rw [if_pos rfl, swi_cleared] at pends
    exact absurd pends Bool.false_ne_true
  all_goals exact absurd pends Bool.false_ne_true

/-- The cause of an interrupt. -/
def Cause.interrupt (vec : BitVec 5) (sub : BitVec 8) (ea : DWord) : Cause := ⟨vec, sub, ea, 0, false, true, 0⟩

theorem interrupt_word (vec : BitVec 5) (sub : BitVec 8) (ea : DWord) :
    (Cause.interrupt vec sub ea).word = BitVec.ofNat 32 (2 ^ 16 + sub.toNat * 2 ^ 8 + vec.toNat) := by
  simp [Cause.word, Cause.interrupt, bit]

theorem execInterruptEntry_enters {vec : BitVec 5} {sub : BitVec 8} {ea : DWord} (at_boundary : AtBoundary s c th)
    (nmi : (s.thread c th).nmiDue = false) (enabled : (s.thread c th).estat.getLsbD 0 = true) (causes : th = 0 → (s.core c).causes = [])
    (pending : pendingInterrupt (s.core c) th = some (vec, sub, ea)) :
    execInterruptEntry ⟨c, th⟩ s =
      .next (tookCause c th (clearSource c th vec (s.entry c th (.interrupt vec sub ea) (s.thread c th).pc false))) := by
  obtain ⟨run, blocked, owed, took, stays, long, quiet, framed⟩ := at_boundary
  have no_cause : (decide (th = 0) && !(s.core c).causes.isEmpty) = false := by
    rw [Bool.and_eq_false_imp, decide_eq_true_eq]
    intro zero
    rw [causes zero]
    rfl
  have enters := takeException_quiet (x := .interrupt vec sub ea) (pc := (s.thread c th).pc) (parked := false) stays quiet framed
  have placed := framePlaced_of_framed framed
  simp only [State.thread] at run blocked owed took nmi enabled enters placed
  simp only [Cause.interrupt] at enters
  simp only [execInterruptEntry, run, blocked, owed, took, stays, long, nmi, enabled, no_cause, pending, placed, enters,
    Option.isSome_none, Option.isNone_none, Bool.not_false, Bool.and_true, Bool.false_eq_true, if_true, if_false]
  rfl

/-! ## NMIs (R114, R116) -/

/-- The cause of a thread's NMI. -/
def Thread.nmiCause (x : Thread) : Cause := .interrupt 1 (x.nmiSrc.setWidth 8) 0

/-- A thread whose NMI has been taken. -/
def Thread.nmiTaken (x : Thread) : Thread := { x with nmiReq := false, nmiSrc := 0, took := true }

theorem nmiTaken_settles : SourcesSettled s (s.modThread c th Thread.nmiTaken) c th := .of_modThread rfl

/-- A thread whose NMI waits for the end of the handler of the one before (R116). -/
def Thread.nmiWaits (x : Thread) : Thread := { x with nmiReq := false, estat := x.estat ||| 4 }

theorem nmiCause_word (x : Thread) : x.nmiCause.word = BitVec.ofNat 32 (2 ^ 16 + x.nmiSrc.toNat * 2 ^ 8 + 1) := by
  rw [Thread.nmiCause, interrupt_word, BitVec.toNat_setWidth, Nat.mod_eq_of_lt (by omega)]
  rfl

theorem nmiThread_idle (idle : (s.thread c th).nmiReq = false) : nmiThread c th s = s := by simp [nmiThread, idle]

theorem nmiThread_enters (at_boundary : AtBoundary s c th) (latched : (s.thread c th).nmiReq = true)
    (outside : (s.thread c th).estat.getLsbD 1 = false) :
    nmiThread c th s = (s.entry c th (s.thread c th).nmiCause (s.thread c th).pc false).modThread c th Thread.nmiTaken := by
  obtain ⟨run, blocked, owed, took, stays, long, quiet, framed⟩ := at_boundary
  have enters := takeException_quiet (x := (s.thread c th).nmiCause) (pc := (s.thread c th).pc) (parked := false) stays quiet framed
  have placed := framePlaced_of_framed framed
  simp only [Thread.nmiCause, Cause.interrupt] at enters
  simp only [nmiThread, takeNmi, run, latched, stays, owed, took, outside, long, blocked, enters, placed,
    Option.isSome_none, Bool.not_true, Bool.or_self, Bool.false_and, Bool.false_eq_true, if_true, if_false]
  rfl

theorem nmiThread_waits (at_boundary : AtBoundary s c th) (latched : (s.thread c th).nmiReq = true)
    (inside : (s.thread c th).estat.getLsbD 1 = true) : nmiThread c th s = s.setThread c th (s.thread c th).nmiWaits := by
  obtain ⟨run, -, owed, took, stays, -, -, -⟩ := at_boundary
  simp [nmiThread, run, latched, stays, owed, took, inside]
  rfl

/-- Where one thread alone has an NMI latched before and none other after, NMI_ENTRY is that thread's. -/
theorem execNmiEntry_one (before : ∀ h, h ≠ th → (s.thread c h).nmiReq = false)
    (after : ∀ h, h ≠ th → ((nmiThread c th s).thread c h).nmiReq = false) : execNmiEntry ⟨c⟩ s = .next (nmiThread c th s) := by
  have earlier (h : ThreadId) (other : h ≠ th) : nmiThread c h s = s := nmiThread_idle (before h other)
  have later (h : ThreadId) (other : h ≠ th) : nmiThread c h (nmiThread c th s) = nmiThread c th s := nmiThread_idle (after h other)
  have threads : indices 4 = [0, 1, 2, 3] := rfl
  simp only [execNmiEntry, threads, List.foldl_cons, List.foldl_nil]
  obtain rfl | rfl | rfl | rfl : th = 0#2 ∨ th = 1#2 ∨ th = 2#2 ∨ th = 3#2 := by clear * -; revert th; decide
  · rw [later 1#2 (by decide), later 2#2 (by decide), later 3#2 (by decide)]
  · rw [earlier 0#2 (by decide), later 2#2 (by decide), later 3#2 (by decide)]
  · rw [earlier 0#2 (by decide), earlier 1#2 (by decide), later 3#2 (by decide)]
  · rw [earlier 0#2 (by decide), earlier 1#2 (by decide), earlier 2#2 (by decide)]

theorem execNmiEntry_enters (at_boundary : AtBoundary s c th) (latched : (s.thread c th).nmiReq = true)
    (others : ∀ h, h ≠ th → (s.thread c h).nmiReq = false) (outside : (s.thread c th).estat.getLsbD 1 = false) :
    execNmiEntry ⟨c⟩ s = .next ((s.entry c th (s.thread c th).nmiCause (s.thread c th).pc false).modThread c th Thread.nmiTaken) := by
  rw [execNmiEntry_one (th := th) others, nmiThread_enters at_boundary latched outside]
  intro h other
  rw [nmiThread_enters at_boundary latched outside, thread_modThread, if_neg (fun same => other same.2), entry_other other]
  exact others h other

theorem execNmiEntry_waits (at_boundary : AtBoundary s c th) (latched : (s.thread c th).nmiReq = true)
    (others : ∀ h, h ≠ th → (s.thread c h).nmiReq = false) (inside : (s.thread c th).estat.getLsbD 1 = true) :
    execNmiEntry ⟨c⟩ s = .next (s.setThread c th (s.thread c th).nmiWaits) := by
  rw [execNmiEntry_one (th := th) others, nmiThread_waits at_boundary latched inside]
  intro h other
  rw [nmiThread_waits at_boundary latched inside, thread_setThread, if_neg (fun same => other same.2)]
  exact others h other

/-! ## Causes of queued instructions (R124) -/

/-- The cause that a queued instruction's cause enters with, and the queue that it came from. -/
def QCause.cause (q : QCause) : Cause := ⟨q.vec, q.sub, q.eaddr, 0, true, false, if q.matrix then 2 else 1⟩

theorem queued_word (q : QCause) : q.cause.word = BitVec.ofNat 32 (2 ^ 17 + q.sub.toNat * 2 ^ 8 + q.vec.toNat) := by
  simp [Cause.word, QCause.cause, bit]

/-- One cause less waits on the core. -/
def Core.dropped (q : QCause) (k : Core) : Core := { k with causes := dropCause q k.causes }

theorem execQueuedCauseEntry_enters {q : QCause} (at_boundary : AtBoundary s c 0) (awake : (s.thread c 0).waiting = false)
    (nmi : (s.thread c 0).nmiDue = false) (causes : (s.core c).causes = [q]) :
    execQueuedCauseEntry ⟨c⟩ s = .next (tookCause c 0 ((s.entry c 0 q.cause (s.thread c 0).pc false).modCore c (Core.dropped q))) := by
  obtain ⟨run, blocked, owed, took, stays, long, quiet, framed⟩ := at_boundary
  have next : nextCause [q] = some q := by cases h : q.matrix <;> simp [nextCause, h]
  have enters := takeException_quiet (x := q.cause) (pc := (s.thread c 0).pc) (parked := false) stays quiet framed
  simp only [State.thread] at run blocked owed took nmi awake enters
  simp only [QCause.cause] at enters
  simp only [execQueuedCauseEntry, run, blocked, owed, took, stays, long, nmi, awake, causes, next, enters,
    Option.isSome_none, Bool.not_true, Bool.or_self, Bool.false_eq_true, if_false]
  rfl

theorem dropped_settles (q : QCause) : SourcesSettled s (s.modCore c (Core.dropped q)) c th := .of_modCore rfl (fun _ _ => rfl) rfl

end

/-- Settles O17: each row leaves `State.entry` (`entry_entered`) and then settles its own source (`Entered.settled`). -/
theorem interruptAndNmiEntry : Obligations.InterruptAndNmiEntry := by
  unfold Obligations.InterruptAndNmiEntry
  intro s c th k x run blocked owed took stays long quiet framed
  have at_boundary : AtBoundary s c th := ⟨run, blocked, owed, took, stays, long, quiet, framed⟩
  have entered (cause : Cause) (src : cause.src < 8) :
      Entered s (s.entry c th cause x.pc false) c th x cause.vec.toNat cause.word cause.eaddr x.pc cause.src false :=
    entry_entered quiet src
  refine ⟨fun vec sub ea nmi enabled causes pending => ?interrupt, fun latched others => ⟨fun outside => ?nmi, fun inside => ?waits⟩,
    fun q zero awake nmi causes => ?queued⟩
  case interrupt =>
    refine .of_runs (execInterruptEntry ⟨c, th⟩ s) rfl ⟨_, execInterruptEntry_enters at_boundary nmi enabled causes pending, ?_, ?_,
      fun again => clearSource_clears (pends_of_pendingInterrupt again)⟩
    · rw [← interrupt_word vec sub ea]
      exact (entered (.interrupt vec sub ea) (show 0 < 8 by decide)).settled ((clearSource_settles vec).trans tookCause_settles)
    · rw [tookCause, thread_modThread_same, clearSource_thread, entry_thread]
      rfl
  case nmi =>
    refine .of_runs (execNmiEntry ⟨c⟩ s) rfl ⟨_, execNmiEntry_enters at_boundary latched others outside, ?_, ?_⟩
    · rw [← nmiCause_word]
      exact (entered x.nmiCause (show 0 < 8 by decide)).settled nmiTaken_settles
    · rw [thread_modThread_same]
      exact ⟨rfl, rfl⟩
  case waits => exact .of_runs (execNmiEntry ⟨c⟩ s) rfl ⟨_, execNmiEntry_waits at_boundary latched others inside, rfl⟩
  case queued =>
    subst zero
    have small : q.cause.src < 8 := by
      show (if q.matrix then 2 else 1) < 8
      split <;> decide
    refine .of_runs (execQueuedCauseEntry ⟨c⟩ s) rfl ⟨_, execQueuedCauseEntry_enters at_boundary awake nmi causes, ?_, ?_⟩
    · rw [← queued_word]
      exact (entered q.cause small).settled ((dropped_settles q).trans tookCause_settles)
    · rw [tookCause, core_modThread_same, Core.setThread_causes, core_modCore_same, Core.dropped, entry_causes]
      exact (congrArg (dropCause q) causes).trans (List.erase_cons_head ..)

end Sys2Proof.Machine
end

section
/-!
PROOFS. ERET from a frame at esp (R104, R113, R116, R123).
-/

namespace Sys2Proof.Machine

/-! ## A frame that is valid (R113) -/

/-- Bits that a mask names are zero in a number that the mask clears. -/
theorem bitsOf_masked {v lo n : Nat} {m : Word} (clear : BitVec.ofNat 32 v &&& m = 0) (named : ∀ i < n, m.getLsbD (lo + i) = true) :
    bitsOf v lo n = 0 := by
  refine Nat.zero_of_testBit_eq_false fun i => ?_
  rw [bitsOf, Nat.testBit_mod_two_pow, Nat.testBit_div_two_pow, Bool.and_eq_false_imp, decide_eq_true_eq]
  intro hi
  have bit : (BitVec.ofNat 32 v &&& m).getLsbD (lo + i) = false := by rw [clear]; exact BitVec.getLsbD_zero
  have small : lo + i < 32 := BitVec.lt_of_getLsbD (named i hi)
  rw [BitVec.getLsbD_and, named i hi, Bool.and_true, BitVec.getLsbD_ofNat, decide_eq_true small, Bool.true_and] at bit
  rwa [Nat.add_comm]

theorem frameBad_eq_false {epc estat qsw : Nat} (store : epc < 0x20000) (word : epc % 4 = 0)
    (reserved : BitVec.ofNat 32 estat &&& 0xFFFF06F8 = 0) (q26 : qsw % 2 ^ 27 / 2 ^ 26 = 0) (q10 : qsw / 2 ^ 10 % 2 ^ 12 = 0)
    (q27 : qsw / 2 ^ 27 % 4 = 0) : frameBad epc estat qsw = false := by
  have high : bitsOf estat 16 16 = 0 := bitsOf_masked reserved (by decide)
  have middle : bitsOf estat 9 2 = 0 := bitsOf_masked reserved (by decide)
  have low : bitsOf estat 3 5 = 0 := bitsOf_masked reserved (by decide)
  have offset : epc / 2 ^ 17 = 0 := Nat.div_eq_of_lt store
  have q26' : bitsOf qsw 26 1 = 0 := by rw [bitsOf]; omega
  have q10' : bitsOf qsw 10 12 = 0 := q10
  have q27' : bitsOf qsw 27 2 = 0 := q27
  rw [frameBad, offset, word, high, middle, low, q26', q10', q27']
  rfl

theorem frameFits_of_bounds {x : Thread} {e : Nat} (low : x.esplo.toNat ≤ e) (above : 0x100 ≤ e) (high : e + 63 ≤ x.esphi.toNat)
    (inside : e + 63 ≤ 0xFFFFF) : frameFits x e = true := by
  rw [frameFits, decide_eq_true_eq]
  omega

/-! ## What ERET makes of its thread and of its core -/

section
variable {s : State} {c : CoreId} {th : ThreadId} {x : Thread}

/-- Thread th behind an ERET whose frame holds `epc` and `old`. -/
def Thread.returned (x : Thread) (th : ThreadId) (epc : Nat) (old : Word) : Thread :=
  let live := setBit 2 (x.estat.getLsbD 2) (setBit 12 false (setBit 14 false old))
  { x with
    pc := BitVec.ofNat 17 epc
    estat := if th = 0 then live else setBit 8 false live
    esp := x.esp + 64
    resv := none
    stepOver := old.getLsbD 13 }

theorem returned_estat {epc : Nat} {old : Word} (unparked : old.getLsbD 14 = false) (latch : x.estat.getLsbD 2 = false) {i : Nat} (hi : i < 32) :
    (x.returned th epc old).estat.getLsbD i = if i = 2 ∨ i = 12 ∨ i = 8 ∧ th ≠ 0 then false else old.getLsbD i := by
  simp only [Thread.returned]
  split <;> simp only [getLsbD_setBit hi, *] <;> (repeat' split) <;> simp_all

/-- A change of a core that leaves it as a write of a running thread made it leaves the state. -/
theorem setThread_modCore_fixed {f : Core → Core} (run : x.run = true) (fixed : f ((s.core c).setThread th x) = (s.core c).setThread th x) :
    (s.setThread c th x).modCore c f = s.setThread c th x := by
  have running : (((s.core c).setThread th x).thread th).run = true := by rw [Core.thread_setThread_same]; exact run
  rw [State.modCore, core_setThread_same, fixed]
  exact setCore_setCore running running

/-- With nothing queued or started, a QSW without DISCARD has nothing to apply to (R123). -/
theorem applyQsw_quiet {qsw eprog : Nat} {qfrz : Bool} (run : x.run = true) (quiet : Quiet s c 0) (keep : bitsOf qsw 29 1 = 0) :
    applyQsw c qsw eprog qfrz (s.setThread c 0 x) = s.setThread c 0 x := by
  obtain ⟨-, vector, -, matrix⟩ := quiet rfl
  rw [applyQsw, if_neg (by rw [keep]; decide)]
  split
  · rfl
  refine setThread_modCore_fixed run ?_
  simp only [Core.setThread_vec, Core.setThread_mat, vector, matrix]
  rw [← vector, ← matrix]
  rfl

/-- ERET pops a valid frame that leaves the queues, what is parked and the latched NMI alone. -/
theorem returnFromException_pops {epc estat qsw : Nat} (run : x.run = true) (quiet : Quiet s c th)
    (normal : x.estat.getLsbD 15 = false) (aligned : x.esp.toNat % 64 = 0) (fits : frameFits x x.esp.toNat = true)
    (hepc : dlsNum (s.core c) x.esp.toNat 4 = epc) (hestat : dlsNum (s.core c) (x.esp.toNat + 4) 4 = estat)
    (hqsw : dlsNum (s.core c) (x.esp.toNat + 24) 8 = qsw) (valid : frameBad epc estat qsw = false)
    (keep : bitsOf qsw 29 1 = 0) (unparked : (BitVec.ofNat 32 estat).getLsbD 14 = false) (latch : x.estat.getLsbD 2 = false) :
    returnFromException c th (s.setThread c th x) = s.setThread c th (x.returned th epc (BitVec.ofNat 32 estat)) := by
  let y := x.returned th epc (BitVec.ofNat 32 estat)
  have no_nmi : ¬(!y.estat.getLsbD 1 && y.estat.getLsbD 2) = true := by
    rw [show y.estat.getLsbD 2 = false from returned_estat unparked latch (by decide), Bool.and_false]
    exact Bool.false_ne_true
  have queues (eprog : Nat) (qfrz : Bool) :
      (if th = 0 then applyQsw c qsw eprog qfrz (s.setThread c th y) else s.setThread c th y) = s.setThread c th y := by
    split
    next zero =>
      subst zero
      exact applyQsw_quiet run quiet keep
    next => rfl
  rw [dlsNum] at hepc hestat hqsw
  simp only [returnFromException, core_setThread_same, Core.thread_setThread_same, Core.setThread_mem, normal, Bool.false_eq_true, if_false,
    Nat.add_zero, hepc, hestat, hqsw, aligned, fits, valid, unparked, decide_true, Bool.and_self, Bool.or_true, Bool.not_true, Bool.or_self,
    Bool.false_and]
  refine (if_neg no_nmi).trans ?_
  rw [State.modThread, thread_setThread_same, setThread_setThread run (by exact run)]
  exact queues ..

end

/-- Settles O18: `returnFromException_pops` on the thread that issues; h0 has no access to go back to. -/
theorem eretRestores : Obligations.EretRestores := by
  unfold Obligations.EretRestores
  intro s c th k x e epc old qsw issues quiet normal aligned low above high inside store word reserved unparked q26 q10 q27 keep latch
  let y := x.issuing.returned th epc old
  have pops : returnFromException c th (s.issuing c th) = s.setThread c th y :=
    returnFromException_pops (x := x.issuing) issues.run quiet normal aligned (frameFits_of_bounds low above high inside) rfl rfl rfl
      (frameBad_eq_false store word reserved q26 q10 q27) keep unparked latch
  have thread : (s.setThread c th y).thread c th = y := thread_setThread_same ..
  have free : ¬(th = 0 ∧ ((s.setThread c th y).thread c 0).blocked.isSome = true) := by
    rintro ⟨rfl, blocked⟩
    rw [thread, show y.blocked = none from issues.blocked] at blocked
    exact Bool.false_ne_true blocked
  refine .of_runs (execEret ⟨c, th⟩ s) rfl ⟨s.setThread c th y, ?runs, ?_⟩
  case runs => rw [execEret, issue_runs issues, pops, if_neg free]
  rw [thread]
  exact ⟨rfl, fun i hi => returned_estat (epc := epc) unparked latch hi, rfl⟩

end Sys2Proof.Machine
end

section
/-!
PROOFS. Elements of a vector register, and the element groups of an operation of kind `lane` (R130, R134, R136, R137).
-/

namespace Sys2Proof.Machine

/-! ## Elements of a register -/

section
variable {w e j : Nat} {x : Nat} {v : VReg}

theorem putE_testBit (inside : w * (e + 1) ≤ 8192) : (putE w e x v).toNat.testBit j =
    if w * e ≤ j ∧ j < w * (e + 1) then x.testBit (j - w * e) else v.toNat.testBit j := by
  have parts : v.toNat / 2 ^ (w * (e + 1)) * 2 ^ (w * (e + 1)) + x % 2 ^ w * 2 ^ (w * e) + v.toNat % 2 ^ (w * e) =
      2 ^ (w * e) * (2 ^ w * (v.toNat / 2 ^ (w * (e + 1))) + x % 2 ^ w) + v.toNat % 2 ^ (w * e) := by
    rw [Nat.mul_succ, pow_add]
    ring
  have middle : x % 2 ^ w < 2 ^ w := Nat.mod_lt _ (Nat.two_pow_pos w)
  have low : v.toNat % 2 ^ (w * e) < 2 ^ (w * e) := Nat.mod_lt _ (Nat.two_pow_pos _)
  have top (high : 8192 ≤ j) : v.toNat.testBit j = false := v.testBit_toNat.trans (v.getLsbD_of_ge j high)
  rw [putE, BitVec.testBit_toNat, BitVec.getLsbD_ofNat, parts, Nat.testBit_two_pow_mul_add _ low, Nat.testBit_two_pow_mul_add _ middle,
    Nat.testBit_mod_two_pow, Nat.testBit_mod_two_pow, Nat.testBit_div_two_pow]
  rw [Nat.mul_succ] at inside ⊢
  by_cases below : j < w * e
  · rw [if_pos below, if_neg (by omega), decide_eq_true below, decide_eq_true (by omega : j < 8192)]
    rfl
  by_cases within : j < w * e + w
  · rw [if_neg below, if_pos (by omega), if_pos (by omega), decide_eq_true (by omega : j - w * e < w), decide_eq_true (by omega : j < 8192)]
    rfl
  · rw [if_neg below, if_neg (by omega), if_neg (by omega), show j - w * e - w + (w * e + w) = j by omega, Bool.and_eq_right_iff_imp,
      decide_eq_true_eq]
    exact fun set => Nat.lt_of_not_le fun high => Bool.false_ne_true ((top high).symm.trans set)

/-- Element `j` behind a write of element `e`. -/
theorem getE_putE (inside : w * (e + 1) ≤ 8192) : getE w j (putE w e x v) = if j = e then x % 2 ^ w else getE w j v := by
  refine Nat.eq_of_testBit_eq fun b => ?_
  rw [getE, bitsOf, Nat.testBit_mod_two_pow, Nat.testBit_div_two_pow, putE_testBit inside]
  by_cases small : b < w
  case neg => split <;> split <;> simp [getE, bitsOf, small]
  by_cases same : j = e
  · rw [if_pos same, same, if_pos (by rw [Nat.mul_succ]; omega), Nat.add_sub_cancel, Nat.testBit_mod_two_pow]
  · rw [if_neg same, if_neg, getE, bitsOf, Nat.testBit_mod_two_pow, Nat.testBit_div_two_pow]
    rintro ⟨above, below⟩
    rcases Nat.lt_or_gt_of_ne same with less | more
    · have left : w * (j + 1) ≤ w * e := Nat.mul_le_mul_left w less
      rw [Nat.mul_succ] at left
      omega
    · have right : w * (e + 1) ≤ w * j := Nat.mul_le_mul_left w more
      omega

theorem getE_lt : getE w e v < 2 ^ w := Nat.mod_lt _ (Nat.two_pow_pos w)

end

/-! ## Operations that give each element a function of two sources -/

/-- Each lane of the instruction is f of its two operands, wrapped, and raises nothing. -/
structure VInstr.LaneWise (i : VInstr) (f : Nat → Nat → Nat) : Prop where
  width : i.w = 8 ∨ i.w = 16 ∨ i.w = 32
  int : i.int = true
  kind : i.op.kind = .lane
  pair : i.op.pair = false
  merge : i.op ≠ .merge
  source : i.wa = i.w
  dest : i.wd = i.w
  gives : ∀ v a b c, a < 2 ^ i.w → b < 2 ^ i.w → ∃ r, i.lane v a b c = .plain r ∧ r % 2 ^ i.w = f a b % 2 ^ i.w

theorem intOf_width {n : Nat} (int : (intOf n).isSome = true) : widthOf n = 8 ∨ widthOf n = 16 ∨ widthOf n = 32 := by
  unfold intOf at int
  split at int
  · exact .inl rfl
  · exact .inr (.inl rfl)
  · exact .inr (.inr rfl)
  · exact .inl rfl
  · exact absurd int Bool.false_ne_true

theorem intOfBits_emod (w : Nat) (signed : Bool) (a : Nat) : intOfBits w signed a % (2 ^ w : Nat) = a % (2 ^ w : Nat) := by
  unfold intOfBits
  split
  · exact Int.sub_emod_right ..
  · rfl

/-- A sum of signed or unsigned elements, wrapped, is the sum of their bits, wrapped. -/
theorem wrapped_add (w : Nat) (signed : Bool) (a b : Nat) :
    wrapped w (intOfBits w signed a + intOfBits w signed b) = .plain ((a + b) % 2 ^ w) := by
  rw [wrapped, Int.add_emod, intOfBits_emod, intOfBits_emod, ← Int.add_emod]
  rfl

/-- The operations of predicate logic have no lanes. -/
theorem logic_of_lane {o : VOp} (kind : o.kind = .lane) : o.logic = false := by
  revert kind
  cases o <;> decide

section
variable {i : VInstr} {f : Nat → Nat → Nat}

theorem laneWise_of_op (int : i.int = true) (op : (i.op, f) ∈ ([(.add, fun a b => a + b), (.and, fun a b => a &&& b),
    (.or, fun a b => a ||| b), (.xor, fun a b => a ^^^ b)] : List (VOp × (Nat → Nat → Nat)))) : i.LaneWise f := by
  have width := intOf_width int
  simp only [List.mem_cons, Prod.mk.injEq, List.not_mem_nil, or_false] at op
  obtain ⟨op, rfl⟩ | ⟨op, rfl⟩ | ⟨op, rfl⟩ | ⟨op, rfl⟩ := op
  case inl =>
    have source : i.wa = i.w := by simp [VInstr.wa, op, VOp.clip]
    refine ⟨width, int, by rw [op]; rfl, by rw [op]; rfl, by rw [op]; decide, source, by simp [VInstr.wd, op], fun v a b c _ _ =>
      ⟨(a + b) % 2 ^ i.w, ?_, Nat.mod_mod ..⟩⟩
    simp only [VInstr.lane, op, source, wrapped_add]
  all_goals exact ⟨width, int, by rw [op]; rfl, by rw [op]; rfl, by rw [op]; decide, by simp [VInstr.wa, op, VOp.clip],
    by simp [VInstr.wd, op], fun v a b c _ _ => ⟨_, by simp only [VInstr.lane, op], rfl⟩⟩

namespace VInstr.LaneWise

theorem wide (op : i.LaneWise f) : i.wide = i.w := by rw [VInstr.wide, op.source, op.dest, Nat.max_self]

theorem vl_le (op : i.LaneWise f) (check : i.check = none) : i.vl.toNat ≤ 8192 / i.w := by
  by_contra more
  have third : (!i.op.logic && decide (8192 / i.wide < i.vl.toNat)) = true := by
    rw [logic_of_lane op.kind, op.wide]
    exact decide_eq_true (Nat.lt_of_not_le more)
  rw [VInstr.check, if_pos third] at check
  split at check
  · cases check
  · split at check <;> cases check

theorem per_eq (op : i.LaneWise f) : i.per = 1024 / i.w := by
  obtain w | w | w := op.width <;> rw [VInstr.per, op.wide, w] <;> rfl

/-- The groups hold `per` elements each and cover those below vl (R130). -/
theorem groups_cover (op : i.LaneWise f) : i.vl.toNat ≤ i.groups * i.per := by
  rw [VInstr.groups, op.per_eq, op.wide]
  obtain w | w | w := op.width <;> simp only [w, Nat.reduceDiv] <;> omega

theorem groups_le (op : i.LaneWise f) (check : i.check = none) : i.groups ≤ 8 := by
  have short := op.vl_le check
  rw [VInstr.groups, op.wide]
  obtain w | w | w := op.width <;> rw [w] at short ⊢ <;> omega

theorem steps (op : i.LaneWise f) : i.steps = i.groups := by
  rw [VInstr.steps, op.kind]
  rfl

end VInstr.LaneWise

end

end Sys2Proof.Machine
end

section
/-!
PROOFS. The element groups of an operation of kind `lane`, one after another (R130, R134, R136, R137).
-/

namespace Sys2Proof.Machine

variable {i : VInstr} {f : Nat → Nat → Nat} {k k' : Core} {j n : Nat} {r : VRun}

/-! ## One group -/

theorem mem_elems {e : Nat} : e ∈ i.elems j ↔ j * i.per ≤ e ∧ e < (j + 1) * i.per ∧ e < i.vl.toNat := by
  rw [VInstr.elems, indices, List.mem_map, Nat.succ_mul]
  constructor
  · rintro ⟨a, ha, rfl⟩
    rw [List.mem_range] at ha
    omega
  · rintro ⟨low, high, short⟩
    exact ⟨e - j * i.per, List.mem_range.2 (by omega), by omega⟩

theorem VAcc.note_plain (a : VAcc) (x : Nat) : a.note (.plain x) = a := by
  simp [VAcc.note, VOut.plain]

section
variable {v : FEnv} {d : Draws} {p : Row} {sb q : Nat} {src b c : VReg}

/-- The lane of an element that the predicate admits writes f of the sources, wrapped. -/
theorem laneGroup_active (op : i.LaneWise f) (scalar : sb < 2 ^ i.w) (on : p.getLsbD q = true) (a : VAcc) :
    ∃ y, laneGroup i v d p sb src b c [q] a = { a with d0 := putE i.w q y a.d0 } ∧
      y % 2 ^ i.w = f (getE i.w q src) (if i.s then sb else getE i.w q b) % 2 ^ i.w := by
  obtain ⟨y, lane, value⟩ := op.gives (if i.draws then v.drawn d q else v.noDraw) (getE i.w q src) (if i.s then sb else getE i.w q b)
    (getE i.w q c) getE_lt (by split; exacts [scalar, getE_lt])
  refine ⟨y, ?_, value⟩
  simp only [laneGroup, List.foldl_cons, List.foldl_nil, if_neg op.merge, if_pos on, op.source, op.dest, lane, VAcc.note_plain, op.pair]
  rfl

theorem laneGroup_inactive (op : i.LaneWise f) (off : ¬ p.getLsbD q = true) (a : VAcc) : laneGroup i v d p sb src b c [q] a = a := by
  simp only [laneGroup, List.foldl_cons, List.foldl_nil, if_neg op.merge, if_neg off]

/-- The lanes of a group write f of the sources, wrapped, to the elements that the predicate admits. -/
theorem laneGroup_writes (op : i.LaneWise f) (scalar : sb < 2 ^ i.w) (es : List Nat)
    (inside : ∀ e ∈ es, i.w * (e + 1) ≤ 8192) (a : VAcc) :
    ∃ x, laneGroup i v d p sb src b c es a = { a with d0 := x } ∧ ∀ e, getE i.w e x =
      if e ∈ es ∧ p.getLsbD e = true then f (getE i.w e src) (if i.s then sb else getE i.w e b) % 2 ^ i.w else getE i.w e a.d0 := by
  induction es generalizing a with
  | nil => exact ⟨a.d0, rfl, fun e => by simp⟩
  | cons q qs ih =>
    have rest := ih fun e he => inside e (List.mem_cons_of_mem _ he)
    have cons : laneGroup i v d p sb src b c (q :: qs) a = laneGroup i v d p sb src b c qs (laneGroup i v d p sb src b c [q] a) := rfl
    by_cases on : p.getLsbD q = true
    · obtain ⟨y, first, value⟩ := laneGroup_active op scalar on a
      obtain ⟨x, eq, elems⟩ := rest { a with d0 := putE i.w q y a.d0 }
      refine ⟨x, cons.trans (first ▸ eq), fun e => ?_⟩
      rw [elems, getE_putE (inside q List.mem_cons_self), value]
      by_cases same : e = q
      · rw [same, if_pos (And.intro List.mem_cons_self on), if_pos rfl, ite_self]
      · simp only [List.mem_cons, same, false_or, if_false]
    · obtain ⟨x, eq, elems⟩ := rest a
      refine ⟨x, cons.trans ((laneGroup_inactive op on a).symm ▸ eq), fun e => ?_⟩
      rw [elems]
      by_cases same : e = q
      · rw [same, if_neg fun h => on h.2, if_neg fun h => on h.2]
      · simp only [List.mem_cons, same, false_or]

end

/-- A run of `i` that has processed n groups and met nothing. -/
structure VRun.Plain (r : VRun) (i : VInstr) (n : Nat) : Prop where
  instr : r.i = i
  group : r.group = n
  buf : r.buf = none
  flags : r.flags = 0
  fl : r.fl = false
  sat : r.sat = false
  poison : r.poison = none

theorem fresh_plain (i : VInstr) (xl : List Leaf) : { VRun.fresh i with probed := true, xl := xl }.Plain i 0 :=
  ⟨rfl, rfl, rfl, rfl, rfl, rfl, rfl⟩

theorem VRun.Plain.prime (op : i.LaneWise f) (plain : r.Plain i n) (k : Core) : (r.prime k).Plain i n := by
  obtain ⟨instr, group, buf, flags, fl, sat, poison⟩ := plain
  rw [VRun.prime]
  split
  · exact ⟨instr, group, buf, flags, fl, sat, poison⟩
  · refine ⟨instr, group, ?_, flags, fl, sat, poison⟩
    simp only [instr, op.kind, op.dest, lt_irrefl, decide_false, Bool.or_false]
    rfl

theorem VRun.Plain.sOperand (op : i.LaneWise f) (plain : r.Plain i n) : r.sOperand = i.gb.toNat % 2 ^ i.w := by
  rw [VRun.sOperand, plain.instr, op.int]
  rfl

/-- Element e of the destination as the instruction leaves it in a core: f of its sources, wrapped. -/
def VInstr.result (i : VInstr) (f : Nat → Nat → Nat) (k : Core) (e : Nat) : Nat :=
  f (getE i.w e (k.rv i.va)) (if i.s then i.gb.toNat % 2 ^ i.w else getE i.w e (k.rv i.vb)) % 2 ^ i.w

/-- Core `k'` is core `k` once `i` has written its elements below n. -/
structure VInstr.Written (i : VInstr) (f : Nat → Nat → Nat) (k k' : Core) (n : Nat) : Prop where
  frame : k' = { k with vec := { k.vec with v := k'.vec.v } }
  dest : ∀ e, getE i.w e (k'.rv i.vd) =
    if e < n ∧ e < i.vl.toNat ∧ (k.rp i.pm).getLsbD e = true then i.result f k e else getE i.w e (k.rv i.vd)
  rest : ∀ r, r ≠ i.vd → k'.rv r = k.rv r

theorem VInstr.Written.zero : i.Written f k k 0 := ⟨rfl, fun e => by simp, fun _ _ => rfl⟩

/-- Elements from n on are still those of before, in the sources too where they are the destination. -/
theorem VInstr.Written.source (h : i.Written f k k' n) {e : Nat} (from_n : n ≤ e) (r : BitVec 5) :
    getE i.w e (k'.rv r) = getE i.w e (k.rv r) := by
  by_cases same : r = i.vd
  · rw [same, h.dest, if_neg (fun below => Nat.not_lt.2 from_n below.1)]
  · rw [h.rest r same]

theorem VInstr.Written.rp (h : i.Written f k k' n) (p : BitVec 3) : k'.rp p = k.rp p := by rw [h.frame]; rfl

theorem VInstr.LaneWise.inside (op : i.LaneWise f) (check : i.check = none) {e : Nat} (he : e < i.vl.toNat) : i.w * (e + 1) ≤ 8192 := by
  have short := op.vl_le check
  obtain w | w | w := op.width <;> rw [w] at short ⊢ <;> omega

/-- A group of a lane-wise operation writes its elements. -/
theorem vGroup_writes (op : i.LaneWise f) (check : i.check = none) {d : Draws} {service : Bool} (plain : r.Plain i j)
    (before : i.Written f k k' (j * i.per)) : ∃ r' k'', vGroup d service r k' = (r', k'') ∧ r'.Plain i (j + 1) ∧
      i.Written f k k'' ((j + 1) * i.per) := by
  have primed := plain.prime op k'
  have operand := primed.sOperand op
  obtain ⟨instr, group, buf, flags, fl, sat, poison⟩ := primed
  obtain ⟨x, lanes, elems⟩ := laneGroup_writes op (v := i.env service) (d := d) (p := k'.rp i.pm) (sb := i.gb.toNat % 2 ^ i.w)
    (src := k'.rv i.va) (b := k'.rv i.vb) (c := k'.rv i.vc) (Nat.mod_lt _ (Nat.two_pow_pos _)) (i.elems j)
    (fun e he => op.inside check (mem_elems.1 he).2.2) ⟨k'.rv i.vd, k'.rv (i.vd + 1), 0, false, false, (r.prime k').carry.toNat⟩
  have ran : vGroup d service r k' = ({ r.prime k' with
      group := (r.prime k').group + 1, flags := (r.prime k').flags ||| 0, fl := (r.prime k').fl || false
      sat := (r.prime k').sat || false, carry := BitVec.ofNat 64 (r.prime k').carry.toNat }, k'.wv i.vd x) := by
    simp only [vGroup, instr, op.kind, group, buf, Option.getD_none, operand, lanes, op.pair, Bool.false_eq_true, if_false]
  refine ⟨_, _, ran, ⟨instr, by rw [group], buf, by rw [flags]; rfl, by rw [fl]; rfl, by rw [sat]; rfl, poison⟩, ?_, fun e => ?_,
    fun q other => ?_⟩
  · rw [before.frame]
    rfl
  · rw [Core.rv_wv, if_pos rfl, elems, before.rp]
    by_cases member : e ∈ i.elems j
    · obtain ⟨low, high, short⟩ := mem_elems.1 member
      simp only [member, high, short, true_and, before.source low, VInstr.result]
    · rw [if_neg (fun both => member both.1), before.dest]
      rw [mem_elems] at member
      rw [Nat.succ_mul] at member ⊢
      refine if_congr ⟨fun h => ⟨by omega, h.2⟩, fun h => ⟨?_, h.2⟩⟩ rfl rfl
      have short := h.2.1
      omega
  · rw [Core.rv_wv, if_neg other, before.rest q other]

/-! ## All groups -/

/-- State `t` is `s` once core c has written the elements of `i` below n. -/
structure VInstr.WrittenIn (i : VInstr) (f : Nat → Nat → Nat) (s t : State) (c : CoreId) (n : Nat) : Prop where
  frame : t = { s with cores := t.cores, perf := t.perf }
  others : ∀ d, d ≠ c → t.core d = s.core d
  core : i.Written f (s.core c) (t.core c) n

variable {s t : State} {c : CoreId}

theorem VInstr.WrittenIn.zero : i.WrittenIn f s s c 0 := ⟨rfl, fun _ _ => rfl, .zero⟩

theorem runGroup_writes (op : i.LaneWise f) (check : i.check = none) (plain : r.Plain i j) (before : i.WrittenIn f s t c (j * i.per)) :
    ∃ r' t', runGroup c r t = (.done, r', t') ∧ r'.Plain i (j + 1) ∧ i.WrittenIn f s t' c ((j + 1) * i.per) := by
  obtain ⟨r', k', ran, after, written⟩ := vGroup_writes op check (d := drawsOf t c i.rpos) (service := flushAll t) plain before.core
  refine ⟨r', perfCount 0x04 (c.toNat / 32) (some (coreBinding (t.setCore c k') c)) 1 (t.setCore c k'), ?_, after, ?_, ?_, ?_⟩
  · simp only [runGroup, plain.instr, op.kind, ran]
  · rw [perfCount_frame, State.setCore, before.frame]
  · intro d other
    rw [perfCount_frame]
    exact (core_setCore_other _ k' other).trans (before.others d other)
  · rw [perfCount_frame]
    have same : (t.setCore c k').core c = k' := core_setCore_same ..
    show i.Written f (s.core c) ((t.setCore c k').core c) _
    rw [same]
    exact written

theorem runGroups_writes (op : i.LaneWise f) (check : i.check = none) {fuel : Nat} (plain : r.Plain i j)
    (before : i.WrittenIn f s t c (j * i.per)) (enough : i.groups ≤ j + fuel) :
    ∃ m r' t', runGroups c i.groups fuel r t = (.done, r', t') ∧ i.groups ≤ m ∧ r'.Plain i m ∧
      i.WrittenIn f s t' c (m * i.per) := by
  induction fuel generalizing j r t with
  | zero => exact ⟨j, r, t, rfl, enough, plain, before⟩
  | succ fuel ih =>
    rw [runGroups, plain.group]
    split
    next done => exact ⟨j, r, t, rfl, done, plain, before⟩
    next =>
      obtain ⟨r', t', ran, plain', after⟩ := runGroup_writes op check plain before
      simp only [ran]
      exact ih plain' after (by omega)

end Sys2Proof.Machine
end

section
/-!
PROOFS. The completion of a started vector sum or logic operation and of a TZERO (R124, R134, R136, R137, R164, R178, R216).
-/

namespace Sys2Proof.Machine

/-! ## What completes a queued instruction -/

section
variable {s : State} {c : CoreId} {who : Who}

/-- A maker that has no read outstanding and waits for no fill has none to forget. -/
theorem forgetReads_idle (at_core : who.core = some c) (reqs : ∀ q ∈ s.hub.reqs, q.who ≠ who)
    (fills : ∀ f ∈ (s.tile (tileOf c)).fills, ∀ u ∈ f.users, u.1 ≠ who) : forgetReads who s = s := by
  have kept : (s.hub.reqs.filter fun q => !(decide (q.who = who ∧ q.write = false) && q.data.isSome)) = s.hub.reqs :=
    List.filter_eq_self.2 fun q hq => by simp [reqs q hq]
  have named : (s.hub.reqs.map fun q => if q.who = who ∧ q.write = false then { q with who := .nobody } else q) = s.hub.reqs :=
    (List.map_congr_left fun q hq => if_neg fun h => reqs q hq h.1).trans (List.map_id _)
  have waits : ((s.tile (tileOf c)).fills.any fun f => f.users.any fun u => decide (u.1 = who)) = false := by
    refine List.any_eq_false.2 fun f hf => List.any_eq_true.not.2 ?_
    exact fun ⟨u, hu, named⟩ => fills f hf u hu (of_decide_eq_true named)
  rw [forgetReads, at_core, kept, named]
  exact if_neg (ne_true_of_eq_false waits)

/-- A core that is not to stop and on which nothing is blocked has nothing to go on with. -/
theorem kickCore_idle (free : ∀ h, (s.thread c h).blocked = none) (stays : (s.core c).ctl.stopping = false) : kickCore c s = s := by
  have scalar : retryScalar c s = s := by rw [retryScalar, free]
  have fence (h : ThreadId) : retryFence c h s = s := by rw [retryFence, free]
  have fences (l : List Nat) : l.foldl (fun s h => retryFence c (BitVec.ofNat 2 h) s) s = s := by
    induction l with
    | nil => rfl
    | cons h l ih => rw [List.foldl_cons, fence, ih]
  rw [kickCore, scalar, fences, settleStop, stays]
  rfl

theorem trapMask_nothing (fcsr : Word) : trapMask fcsr 0 = 0 := by simp [trapMask]

theorem accrue_nothing_thread (k : Core) (h : ThreadId) : (k.accrue 0 false).thread h = k.thread h := by
  rw [Core.accrue, Core.modThread, Core.thread_setThread]
  split
  next zero =>
    subst zero
    simp [Machine.accrue, bit]
  next => rfl

end

section
variable {w : State} {c d : CoreId} {f g : Core → Core}

theorem core_modCore_modCore_same : ((w.modCore c f).modCore c g).core c = g (f (w.core c)) := by
  rw [core_modCore_same, core_modCore_same]

theorem core_modCore_modCore_other (other : d ≠ c) : ((w.modCore c f).modCore c g).core d = w.core d := by
  rw [core_modCore_other _ _ other, core_modCore_other _ _ other]

end

/-! ## Vector operations -/

section
variable {i : VInstr} {f : Nat → Nat → Nat} {s t : State} {c : CoreId} {r : VRun} {n : Nat}

/-- A lane-wise instruction that has met nothing finishes without a flag or a cause. -/
theorem finishV_plain (op : i.LaneWise f) (plain : r.Plain i n) : finishV c r s = s.modCore c fun k => k.accrue 0 false := by
  obtain ⟨instr, -, -, flags, fl, sat, poison⟩ := plain.prime op (s.core c)
  have half : drawHalf i s = (0, s) := by
    rw [drawHalf, if_neg]
    rintro ⟨-, h | h | h⟩ <;> exact absurd op.kind (by rw [h]; decide)
  rw [finishV, plain.instr, half]
  simp only [instr, op.kind]
  by_cases empty : i.vl = 0 <;> simp only [empty, flags, fl, sat, poison, trapMask_nothing, Bool.false_eq_true, if_false, if_true]

/-- The state once the only started vector instruction of core c has left the queue and raised nothing. -/
def State.finishedV (w : State) (c : CoreId) : State :=
  (w.modCore c fun k => k.setV k.vec.queue []).modCore c fun k => k.accrue 0 false

/-- A started lane-wise instruction goes through all its groups and completes. -/
theorem completeVector_writes (op : i.LaneWise f) (check : i.check = none) (thawed : (s.core c).frozen = false)
    (no_cause : (s.core c).causes = []) (reqs : ∀ q ∈ s.hub.reqs, q.who ≠ .vector c)
    (fills : ∀ x ∈ (s.tile (tileOf c)).fills, ∀ u ∈ x.users, u.1 ≠ .vector c)
    (fresh : r.Plain i 0) (probed : r.probed = true) (started : (s.core c).vec.started = [r]) :
    ∃ t m, completeVector c 0 s = t.finishedV c ∧ i.WrittenIn f s t c (m * i.per) ∧ i.vl.toNat ≤ m * i.per := by
  have start : i.WrittenIn f s s c (0 * i.per) := by rw [Nat.zero_mul]; exact .zero
  obtain ⟨m, r', t, ran, all, plain, written⟩ := runGroups_writes op check (fuel := 8) fresh start
    (by rw [Nat.zero_add]; exact op.groups_le check)
  have idle : forgetReads (.vector c) (t.modCore c fun k => k.setV k.vec.queue (k.vec.started.eraseIdx 0)) =
      t.modCore c fun k => k.setV k.vec.queue (k.vec.started.eraseIdx 0) := by
    refine forgetReads_idle rfl ?_ ?_ <;> rw [written.frame]
    exacts [reqs, fills]
  have left : (t.core c).vec.started = [r] := by rw [written.core.frame]; exact started
  refine ⟨t, m, ?_, written, op.groups_cover.trans (Nat.mul_le_mul_right _ all)⟩
  simp only [completeVector, started, List.getElem?_cons_zero, thawed, Core.faultPending, no_cause, List.any_nil, List.take_zero,
    Bool.false_eq_true, or_self, if_false, if_true, probed, Bool.not_true, false_and, fresh.instr, op.steps, ran, idle,
    finishV_plain op plain]
  rw [State.finishedV, State.modCore, State.modCore, left]
  rfl

theorem finishedV_core : (t.finishedV c).core c = ((t.core c).setV (t.core c).vec.queue []).accrue 0 false := core_modCore_modCore_same

theorem finishedV_rv (q : BitVec 5) : ((t.finishedV c).core c).rv q = (t.core c).rv q := by
  rw [finishedV_core]
  rfl

variable (written : i.WrittenIn f s t c n)
include written

/-- What a finished operation leaves of its core: registers and started list, and no thread. -/
theorem finishedV_frame : (t.finishedV c).core c = { s.core c with
    threads := ((t.finishedV c).core c).threads
    vec := { (s.core c).vec with v := ((t.finishedV c).core c).vec.v, started := [] } } := by
  rw [finishedV_core, written.core.frame]
  rfl

theorem finishedV_thread (h : ThreadId) : (t.finishedV c).thread c h = s.thread c h := by
  rw [State.thread, finishedV_core, accrue_nothing_thread, written.core.frame]
  rfl

/-- Besides the core, only event 0x04 is counted. -/
theorem finishedV_only : OnlyCore s { t.finishedV c with perf := s.perf } c := by
  have others (d : CoreId) (other : d ≠ c) : (t.finishedV c).core d = s.core d :=
    (core_modCore_modCore_other other).trans (written.others d other)
  have outside : t.finishedV c = { s with cores := (t.finishedV c).cores, perf := (t.finishedV c).perf } := by
    show { t with cores := (t.finishedV c).cores } = _
    rw [written.frame]
    rfl
  refine ⟨?_, fun d other => others d other⟩
  rw [outside]

end

/-! ## Rows of a tile register (R162, R178) -/

section
variable {k k' : Core} {t q : BitVec 3} {x : TileReg} {r r' : Nat}

theorem Core.treg_setTreg (k : Core) (t : BitVec 3) (x : TileReg) (q : BitVec 3) :
    (k.setTreg t x).treg q = if q = t then x else k.treg q := by
  simp only [Core.setTreg, Core.treg, Table.get_set]
  exact if_congr (by rw [BitVec.toNat_inj]) rfl rfl

theorem Core.treg_writeRow_other (v : Row) (psn : Option DWord) (other : q ≠ t) : (k.writeRow t r v psn).treg q = k.treg q :=
  (Core.treg_setTreg ..).trans (if_neg other)

theorem Core.row_writeRow (v : Row) (psn : Option DWord) :
    ((k.writeRow t r v psn).treg t).row r' = if r' = r then v else (k.treg t).row r' := by
  have same : (k.writeRow t r v psn).treg t = _ := (Core.treg_setTreg ..).trans (if_pos rfl)
  rw [same]
  exact Table.get_set ..

theorem Core.rowPsn_writeRow_clean (v : Row) (small : r < 64) :
    ((k.writeRow t r v none).treg t).rowPsn r' = if r' = r then false else (k.treg t).rowPsn r' := by
  have same : (k.writeRow t r v none).treg t = _ := (Core.treg_setTreg ..).trans (if_pos rfl)
  rw [same]
  show ((k.treg t).psn &&& ~~~BitVec.ofNat 64 (2 ^ r)).getLsbD r' = _
  rw [BitVec.getLsbD_and, BitVec.getLsbD_not, BitVec.getLsbD_ofNat, Nat.testBit_two_pow]
  by_cases same : r' = r
  · simp [same, small]
  · by_cases high : r' < 64
    · simp [same, high, Ne.symm same, TileReg.rowPsn]
    · simp [same, high, TileReg.rowPsn, BitVec.getLsbD_of_ge, Nat.not_lt.1 high]

theorem Core.writeRow_frame (k : Core) (t : BitVec 3) (r : Nat) (v : Row) (psn : Option DWord) : k.writeRow t r v psn =
    { k with mat := { k.mat with t := (k.writeRow t r v psn).mat.t, arrays := (k.writeRow t r v psn).mat.arrays } } := rfl

/-- A row that is zero and clean. -/
def TileReg.Clear (x : TileReg) (r : Nat) : Prop := x.row r = 0 ∧ x.rowPsn r = false

/-- Core `k'` is core `k` with other rows in tile register t: those of `l` are clear, and what was clear is clear. -/
structure Core.Clears (k k' : Core) (t : BitVec 3) (l : List Nat) : Prop where
  frame : k' = { k with mat := { k.mat with t := k'.mat.t, arrays := k'.mat.arrays } }
  others : ∀ q, q ≠ t → k'.treg q = k.treg q
  rows : ∀ r, r ∈ l ∨ (k.treg t).Clear r → (k'.treg t).Clear r

theorem foldl_writeRow_clears {l : List Nat} (small : ∀ r ∈ l, r < 64) (k : Core) :
    k.Clears (l.foldl (fun (k : Core) r => k.writeRow t r 0 none) k) t l := by
  induction l generalizing k with
  | nil => exact ⟨rfl, fun _ _ => rfl, fun r h => h.resolve_left List.not_mem_nil⟩
  | cons n l ih =>
    obtain ⟨frame, others, rows⟩ := ih (fun r hr => small r (List.mem_cons_of_mem _ hr)) (k.writeRow t n 0 none)
    rw [List.foldl_cons]
    refine ⟨?_, fun q other => (others q other).trans (Core.treg_writeRow_other _ _ other), fun r h => rows r ?_⟩
    · rw [frame, Core.writeRow_frame]
    · have row := Core.row_writeRow (k := k) (t := t) (r := n) (r' := r) 0 none
      have psn := Core.rowPsn_writeRow_clean (k := k) (t := t) (r' := r) 0 (small n List.mem_cons_self)
      by_cases same : r = n
      · rw [if_pos same] at row psn
        exact .inr ⟨row, psn⟩
      · rw [if_neg same] at row psn
        rw [TileReg.Clear, row, psn]
        exact h.imp_left fun member => (List.mem_cons.1 member).resolve_left same

end

/-! ## TZERO (R164, R178) -/

section
variable {i : MInstr} {s : State} {c : CoreId} {free : Bool}

theorem field_toNat {n m : Nat} (a : BitVec n) (room : n + m ≤ 32) : (a.setWidth 32 <<< m).toNat = a.toNat <<< m := by
  have word : a.toNat < 2 ^ 32 := a.isLt.trans_le (Nat.pow_le_pow_right (by decide) (by omega))
  have shifted : a.toNat <<< m < 2 ^ 32 := (Nat.shiftLeft_lt a.isLt).trans_le (Nat.pow_le_pow_right (by decide) room)
  rw [BitVec.toNat_shiftLeft, BitVec.toNat_setWidth, Nat.mod_eq_of_lt word, Nat.mod_eq_of_lt shifted]

/-- The fields of a tag do not overlap (Table 06-1). -/
theorem tag_eq_or (a : BitVec 6) (b : BitVec 2) (f : BitVec 4) :
    BitVec.ofNat 32 (2 ^ 31 + 2 ^ 29 + a.toNat * 2 ^ 22 + b.toNat * 2 ^ 20 + f.toNat * 2 ^ 16) =
      0xA0000000 ||| a.setWidth 32 <<< 22 ||| b.setWidth 32 <<< 20 ||| f.setWidth 32 <<< 16 := by
  have ha := a.isLt
  have hb := b.isLt
  have hf := f.isLt
  have rows : 5 <<< 29 ||| a.toNat <<< 22 = (0x280 + a.toNat) <<< 22 := by
    rw [← Nat.shiftLeft_add_eq_or_of_lt (by rw [Nat.shiftLeft_eq]; omega)]
    simp only [Nat.shiftLeft_eq]
    omega
  have bytes : (0x280 + a.toNat) <<< 22 ||| b.toNat <<< 20 = (0xA00 + 4 * a.toNat + b.toNat) <<< 20 := by
    rw [← Nat.shiftLeft_add_eq_or_of_lt (by rw [Nat.shiftLeft_eq]; omega)]
    simp only [Nat.shiftLeft_eq]
    omega
  have valid : ((0xA0000000 : Nat) : Word).toNat = 5 <<< 29 := rfl
  apply BitVec.eq_of_toNat_eq
  rw [BitVec.toNat_or, BitVec.toNat_or, BitVec.toNat_or, field_toNat a (by decide), field_toNat b (by decide), field_toNat f (by decide),
    valid, rows, bytes, ← Nat.shiftLeft_add_eq_or_of_lt (by rw [Nat.shiftLeft_eq]; omega), BitVec.toNat_ofNat]
  simp only [Nat.shiftLeft_eq]
  omega

theorem mkTag_eq (shape : Word) : mkTag false true shape =
    0xA0000000 ||| (shape.extractLsb' 26 6).setWidth 32 <<< 22 ||| (shape.extractLsb' 24 2).setWidth 32 <<< 20 |||
      (shape.extractLsb' 20 4).setWidth 32 <<< 16 := by
  rw [← tag_eq_or, mkTag, shA]
  simp only [bit, bitsOf, BitVec.extractLsb'_toNat, Nat.shiftRight_eq_div_pow, if_true, Bool.false_eq_true, if_false]
  congr 1

/-- Core `k'` is core `k` once the TZERO `i` has zeroed its register and set its tag. -/
structure Core.Zeroes (k k' : Core) (i : MInstr) : Prop where
  frame : k' = { k with mat := { k.mat with t := k'.mat.t, arrays := k'.mat.arrays } }
  others : ∀ q, q ≠ i.t → k'.treg q = k.treg q
  rows : ∀ r < 64, (k'.treg i.t).Clear r
  scale : (k'.treg i.t).scale = .empty
  tag : (k'.treg i.t).tag = mkTag false true i.shape

theorem finishEffects_tzero (op : i.op = .tzero) (k : Core) : ∃ k', k.Clears k' i.t (indices 64) ∧
    finishEffects i k = k'.setTreg i.t { k'.treg i.t with scale := .empty, tag := mkTag false true i.shape } := by
  refine ⟨_, foldl_writeRow_clears (l := indices 64) (fun r hr => List.mem_range.1 hr) k, ?_⟩
  simp only [finishEffects, op]

theorem finishEffects_zeroes (op : i.op = .tzero) (k : Core) : k.Zeroes (finishEffects i k) i := by
  obtain ⟨k', ⟨frame, others, rows⟩, effects⟩ := finishEffects_tzero op k
  have same (x : TileReg) (k : Core) : (k.setTreg i.t x).treg i.t = x := (Core.treg_setTreg ..).trans (if_pos rfl)
  rw [effects]
  refine ⟨?_, fun q other => ((Core.treg_setTreg ..).trans (if_neg other)).trans (others q other), fun r small => ?_, ?_, ?_⟩
  · rw [frame]
    rfl
  · rw [same]
    exact rows r (.inl (List.mem_range.2 small))
  all_goals rw [same]

theorem finishM_begun (xl : List Leaf) :
    finishM c (MRun.begun i xl) s = s.modCore c fun k => (finishEffects i k).accrue 0 false := by
  simp only [finishM, MRun.begun, MRun.fresh, trapMask_nothing, if_true]

/-- The state once TZERO `i`, the only started instruction of core c's matrix queue, has left the queue and acted. -/
def State.zeroed (s : State) (c : CoreId) (i : MInstr) : State :=
  (s.modCore c fun k => k.setM k.mat.queue []).modCore c fun k => (finishEffects i k).accrue 0 false

/-- A TZERO has no unit to go through, and completes at once. -/
theorem completeMatrix_zeroes {xl : List Leaf} (op : i.op = .tzero) (thawed : (s.core c).frozen = false) (no_cause : (s.core c).causes = [])
    (reqs : ∀ q ∈ s.hub.reqs, q.who ≠ .matrix c) (fills : ∀ x ∈ (s.tile (tileOf c)).fills, ∀ u ∈ x.users, u.1 ≠ .matrix c)
    (started : (s.core c).mat.started = [MRun.begun i xl]) : completeMatrix c 0 free s = s.zeroed c i := by
  have units : i.units = 0 := by simp [MInstr.units, MInstr.oneStep, MOp.moves, op]
  have idle : forgetReads (.matrix c) (s.modCore c fun k => k.setM k.mat.queue (k.mat.started.eraseIdx 0)) =
      s.modCore c fun k => k.setM k.mat.queue (k.mat.started.eraseIdx 0) := forgetReads_idle rfl reqs fills
  have probed : (MRun.begun i xl).probed = true := rfl
  have ran : runUnits c free 0 (0 + 1) (MRun.begun i xl) s = (.done, MRun.begun i xl, s) := rfl
  have instr : (MRun.begun i xl).i = i := rfl
  have whole : { MRun.begun i xl with i := i, probed := true, xl := (MRun.begun i xl).xl } = MRun.begun i xl := rfl
  simp only [completeMatrix, started, List.getElem?_cons_zero, thawed, Core.faultPending, no_cause, List.any_nil, List.take_zero,
    Bool.false_eq_true, or_self, and_false, if_false, if_true, probed, instr, whole, units, ran, idle, finishM_begun]
  rw [State.zeroed, State.modCore, State.modCore, started]
  rfl

theorem zeroed_core : (s.zeroed c i).core c = (finishEffects i ((s.core c).setM (s.core c).mat.queue [])).accrue 0 false :=
  core_modCore_modCore_same

theorem zeroed_treg (q : BitVec 3) :
    ((s.zeroed c i).core c).treg q = (finishEffects i ((s.core c).setM (s.core c).mat.queue [])).treg q := by
  rw [zeroed_core]
  rfl

theorem zeroed_frame (op : i.op = .tzero) : (s.zeroed c i).core c = { s.core c with
    threads := ((s.zeroed c i).core c).threads
    mat := { (s.core c).mat with
      t := ((s.zeroed c i).core c).mat.t, arrays := ((s.zeroed c i).core c).mat.arrays, started := [] } } := by
  rw [zeroed_core, (finishEffects_zeroes op _).frame]
  rfl

theorem zeroed_thread (op : i.op = .tzero) (h : ThreadId) : (s.zeroed c i).thread c h = s.thread c h := by
  rw [State.thread, zeroed_core, accrue_nothing_thread, (finishEffects_zeroes op _).frame]
  rfl

theorem zeroed_only : OnlyCore s (s.zeroed c i) c := ⟨rfl, fun _ other => core_modCore_modCore_other other⟩

end

/-! ## QUEUED_COMPLETE -/

/-- Where the completion leaves threads and control of the core as they stood, nothing blocked, nothing else goes on. -/
theorem execQueuedComplete_leaves {s u : State} {o : QueuedForm} (threads : ∀ h, u.thread o.core h = s.thread o.core h)
    (ctl : (u.core o.core).ctl = (s.core o.core).ctl) (free : ∀ h, (s.thread o.core h).blocked = none)
    (stays : (s.core o.core).ctl.stopping = false)
    (done : (if o.matrix then completeMatrix o.core o.idx.toNat (entryPends s o.core) s else completeVector o.core o.idx.toNat s) = u) :
    execQueuedComplete o s = .next u := by
  rw [execQueuedComplete, done, kickCore_idle (fun h => by rw [threads, free]) (by rw [ctl, stays])]

/-- Settles O23: a vector operation by `completeVector_writes`, a TZERO by `completeMatrix_zeroes` and `finishEffects_zeroes`. -/
theorem queuedInstructionsComplete : Obligations.QueuedInstructionsComplete := by
  unfold Obligations.QueuedInstructionsComplete
  intro s c k thawed no_cause stays free idle
  obtain ⟨vectorReqs, vectorFills⟩ := idle (.vector c) (by simp)
  obtain ⟨matrixReqs, matrixFills⟩ := idle (.matrix c) (by simp)
  refine ⟨fun i xl f started check int listed => ?vector, fun i xl started op => ?tzero⟩
  case vector =>
    have op := laneWise_of_op int listed
    obtain ⟨t, m, done, written, all⟩ :=
      completeVector_writes op check thawed no_cause vectorReqs vectorFills (fresh_plain i xl) rfl started
    have threads := finishedV_thread written
    have rest := finishedV_frame written
    refine .of_runs (execQueuedComplete ⟨c, false, 0⟩ s) rfl ⟨t.finishedV c,
      execQueuedComplete_leaves threads (by rw [rest]) free stays done, fun e _ => ?_, fun r other => ?_, rest, threads,
      finishedV_only written⟩
    · rw [finishedV_rv, written.core.dest]
      exact if_congr ⟨fun h => h.2, fun h => ⟨h.1.trans_le all, h⟩⟩ rfl rfl
    · rw [finishedV_rv, written.core.rest r other]
  case tzero =>
    have done := completeMatrix_zeroes (free := entryPends s c) op thawed no_cause matrixReqs matrixFills started
    obtain ⟨-, others, rows, scale, tag⟩ := finishEffects_zeroes op (k.setM k.mat.queue [])
    have threads := zeroed_thread (s := s) (c := c) op
    have rest := zeroed_frame (s := s) (c := c) op
    refine .of_runs (execQueuedComplete ⟨c, true, 0⟩ s) rfl ⟨s.zeroed c i,
      execQueuedComplete_leaves threads (by rw [rest]) free stays done, fun r small => ?_, ?_, ?_, fun r other => ?_,
      by rw [rest], by rw [rest], by rw [rest], by rw [rest], threads, zeroed_only⟩
    · rw [zeroed_treg]
      exact rows r small
    · rw [zeroed_treg, scale]
    · rw [zeroed_treg, tag, mkTag_eq]
    · rw [zeroed_treg]
      exact others r other

end Sys2Proof.Machine
end
